-- ==== Sys2Proof/Word.lean ====
section
/-! DEFINITION. The word types of the KX-32: 64-bit registers and instruction words (R11, R115), bytes, and the
fixed-size bodies of ring entries and frames, which the spec numbers bit by bit. -/

namespace Sys2Proof

/-- A byte of memory, of a frame or of a descriptor. -/
abbrev Byte := BitVec 8

/-- A 64-bit register, instruction word or memory word (R11, R115). -/
abbrev Word := BitVec 64

/-- A descriptor body of 128 bytes, little-endian (R10, R474); a 64-byte body has zeros above bit 511. -/
abbrev Desc := BitVec 1024

/-- Field `hi:lo` of the little-endian structure `v`, its bits counted from byte offset `off` (R10). -/
def Desc.fld (v : Desc) (off hi lo : Nat) : Nat :=
  (v.toNat >>> (8 * off + lo)) % 2 ^ (hi + 1 - lo)

/-- Field `hi:lo` of a 64-bit word (R10). -/
def Word.fld (v : Word) (hi lo : Nat) : Nat :=
  (v.toNat >>> lo) % 2 ^ (hi + 1 - lo)

end Sys2Proof
end

