-- ==== Sys2Proof/Syntax.lean ====
section
/-! DEFINITION. The commands the block takes, one constructor per row of the table of operations and events, and the
data they carry: frames, link blocks, accesses, and what the outside world reports. -/

namespace Sys2Proof

/-- A fabric frame: the 32-byte header of R246, the payload, and the two checks of the trailer (R248). -/
structure Frame where
  hdr : BitVec 256
  payload : List Byte
  e2e : BitVec 32
  hcrc : BitVec 32
  deriving DecidableEq, Repr

/-- What maps an access: the register range behind BAR0, or the function page of a function, 0 for the PF and
v + 1 for VF v (R471). -/
inductive Bar where
  | regs
  | page (fn : Nat)
  deriving DecidableEq, Repr

/-- A register access by software: its map, the offset there, its width in bytes, and the value of a write
(R11, R472). -/
structure Access where
  bar : Bar
  off : Nat
  bytes : Nat
  isRead : Bool
  value : Word
  deriving DecidableEq, Repr

/-- Whoever waits on a flag or on a stream (R93, R107 to R109, R190, R377, R414). -/
inductive Waiter where
  | core (die core : Nat)
  | stream (die core : Nat)
  | dispatch (die : Nat)
  | window (part : Nat)
  | thread (die unit thread : Nat)
  deriving DecidableEq, Repr

/-- A link block as the receiver's decoder delivers it (R241 to R245): the 5-byte header, the body, and how many of
its two codewords were corrected or uncorrectable. `hdr` holds bytes 0 to 4 little-endian; `margins` is the receiver's own
MARGIN of lanes 0 to 3 over the last control-block period, one byte each (R547). -/
structure LinkBlock where
  hdr : BitVec 40
  body : List Byte
  corrected : Nat
  badA : Bool
  badB : Bool
  margins : BitVec 32 := 0
  deriving DecidableEq, Repr

/-- How the host link served a transfer: good, or failed after `good` bytes by a poisoned TLP or by an unsupported
request, an abort, a timeout or a translation failure (R468). -/
inductive HostTransfer where
  | good
  | poisoned (good : Nat)
  | failed (good : Nat)
  deriving DecidableEq, Repr

/-- What a reset finds: the outcome of the die-link training, of memory BIST per die, of the fuse checks, of the
PCI Express training, and the coldest sensor (R19, R500, R550, R552, R562). -/
structure BootEnv where
  dieLinksOk : Bool
  bistFailed : BitVec 32
  fusesOk : Bool
  rate : Nat
  width : Nat
  coldest : Int
  deriving DecidableEq, Repr

/-- The outcome of memory training: HBM4 stacks that trained, and for each DDR5 channel its modules' kind, ranks,
data-rate step and capacity as found, zero capacity where training failed (R358 to R361). -/
structure MemTrain where
  hbmOk : BitVec 8
  channels : List (Nat × Nat × Nat × Nat)
  deriving DecidableEq, Repr

/-- The result of a loop-back: uncorrectable and corrected codewords, and miscompared data blocks (R531, R544). -/
structure LoopResult where
  uncorrectable : Nat
  corrected : Nat
  miscompared : Nat
  deriving DecidableEq, Repr

/-- Sensor readings: the hottest sensor of each die with its die, the coldest sensor, and the stack temperatures
(R562). -/
structure Sensors where
  hottest : Int
  hotDie : Nat
  coldest : Int
  stackTemps : List Nat
  deriving DecidableEq, Repr

/-- Power as measured: the 10 ms average and the TAU average in W, and VCORE current in A (R560). -/
structure PowerRead where
  fast : Nat
  slow : Nat
  current : Nat
  deriving DecidableEq, Repr

/-- An AVSBus poll: how many attempts failed, 0 to 3, and the read current, voltage and package power (R557,
R558). -/
structure AvsRead where
  failed : Nat
  current : Nat
  millivolts : Nat
  power : Nat
  deriving DecidableEq, Repr

/-- A frame of a fabric flow that ages out where it waits: at an egress queue, or at an arriving F-die (R264). -/
inductive AgePlace where
  | egress (port cls : Nat)
  | arriving (die : Nat)
  deriving DecidableEq, Repr

/-- A TAP operation (R514, R542, R550). -/
inductive JtagOp where
  | idcode
  | bypass
  | sample
  | fullAccess (addr : Nat) (write : Option Word)
  | loopback (target : Nat)
  | mpDebug (addr : Nat) (write : Option Word)
  | scan
  deriving DecidableEq, Repr


/-- The commands: one per row of the table of operations and events. -/
inductive Instr where
  /-- REGISTER_WRITE (R12): A software write to a register field that has no row of its own acts by the field's type (RW, RS staging, W1C, WO ignored, RO none). -/
  | registerWrite (access : Access)
  /-- CFG_COMMIT (R493): A write of 1 to CFG_COMMIT applies the block's staged RS fields at the point each field's timeline gives. -/
  | cfgCommit (die unit : Nat)
  /-- FN_COMMIT (R493): A write of 1 to FN_COMMIT applies a function page's staged ring fields at once. -/
  | fnCommit (fn : Nat)
  /-- FABRIC_BOUNDARY (R427): A boundary of the fabric timeline falls and is the epoch of every block on the fabric timeline. -/
  | fabricBoundary
  /-- BEAT_BOUNDARY (R426): A boundary of a partition's timeline falls and is the epoch of that partition's registers and C-dies. -/
  | beatBoundary (part : Nat)
  /-- DIE_LINK_DOWN (R24): A die link that fails to retrain after its retry limit is marked down, raises a fatal event, aborts all work and the package leaves the fabric. -/
  | dieLinkDown (die module : Nat)
  /-- LAUNCH (R476): A LAUNCH starts a tile program at its start index with eight arguments, queued in order while the core runs. -/
  | launch (die core : Nat)
  /-- NOP (R117): The sequencer instruction NOP does nothing for one vector cycle. -/
  | nop (die core : Nat)
  /-- HALT (R117): HALT ends the program after all queues empty, with IMM as exit code. -/
  | halt (die core : Nat)
  /-- LDI (R117): LDI loads the immediate into a scalar register. -/
  | ldi (die core : Nat)
  /-- LDIH (R117): LDIH loads the immediate into bits 63:32 of a scalar register. -/
  | ldih (die core : Nat)
  /-- ADD (R117): The sequencer ADD writes sa + sb + IMM, wrapping modulo 2^64. -/
  | add (die core : Nat)
  /-- SUB (R117): The sequencer SUB writes sa − sb. -/
  | sub (die core : Nat)
  /-- AND (R117): The sequencer AND writes sa and sb. -/
  | and (die core : Nat)
  /-- OR (R117): The sequencer OR writes sa or sb. -/
  | or (die core : Nat)
  /-- SHL (R117): SHL shifts sa left by (sb + IMM) mod 64. -/
  | shl (die core : Nat)
  /-- SHR (R117): SHR shifts sa right logically by (sb + IMM) mod 64. -/
  | shr (die core : Nat)
  /-- LD (R117): LD loads a 64-bit scratchpad word into a register, stopping the program if misaligned or out of window. -/
  | ld (die core : Nat)
  /-- ST (R117): ST writes a register to a 64-bit scratchpad word. -/
  | st (die core : Nat)
  /-- BEQ (R117): BEQ branches relative to its index when sa equals sb. -/
  | beq (die core : Nat)
  /-- BNE (R117): BNE branches when sa differs from sb. -/
  | bne (die core : Nat)
  /-- BLTU (R117): BLTU branches when sa is below sb unsigned. -/
  | bltu (die core : Nat)
  /-- JMP (R117): JMP continues at this index plus IMM. -/
  | jmp (die core : Nat)
  /-- MMA (R117): MMA queues the matrix product whose descriptor it names, taking M from a register if SB is non-zero. -/
  | mma (die core : Nat)
  /-- VOP (R117): VOP queues a vector operation, taking ROWS from a register if SB is non-zero. -/
  | vop (die core : Nat)
  /-- POST (R118): POST queues a descriptor for the die's dispatch engine or a copy engine, handed on when its target has room. -/
  | post (die core : Nat)
  /-- WAITF (R107): WAITF stalls until a flag is set for the expected tag and copies COUNT to a register. -/
  | waitf (die core : Nat)
  /-- GATE (R109): GATE stalls until the flag reaches threshold T, the deadline passes or the beat ends, then writes COUNT to a register. -/
  | gate (die core : Nat)
  /-- SETF (R117): SETF writes a flag word after all queues of the core have emptied. -/
  | setf (die core : Nat)
  /-- FENCE (R117): FENCE waits until the named queues of the core are empty. -/
  | fence (die core : Nat)
  /-- BEAT (R436): BEAT waits for the next beat boundary of the core's beat in hand, or continues at once recording its late time. -/
  | beat (die core : Nat)
  /-- REPLAY (R120): REPLAY drains the queues, sends the local replay flag to the partition's replay point and waits for the decision. -/
  | replay (die core : Nat)
  /-- RESERVED_OPC (R119): An instruction with a reserved OPC, non-zero reserved field or index outside the store stops the program with BAD_DESCRIPTOR. -/
  | reservedOpc (die core : Nat)
  /-- FLAG_RECHECK (R107): Every 8 vector cycles a waiting WAITF, GATE, stream wait or KWAITF reads its flag again and continues when it is set. -/
  | flagRecheck (waiter : Waiter)
  /-- GATE_DEADLINE (R109): The system time reaches a GATE's deadline and the gate releases with the flag's COUNT or zero. -/
  | gateDeadline (die core : Nat)
  /-- CORE_FLAG_TIMEOUT (R107): A WAITF, stream or dispatch hand-over wait exceeds CORE_CTRL.FLAG_TIMEOUT and the program stops with TIMEOUT. -/
  | coreFlagTimeout (die core : Nat)
  /-- MMA_PRODUCT (R97): A product at the head of the array queue runs its row blocks, n-tiles and passes and writes C through the output path. -/
  | mmaProduct (die core : Nat)
  /-- SPARSE_SCAN (R105): The weight loader scans a SPARSE product's bitmaps and completes it with SPARSE_FORMAT if a group is over-full or counts differ. -/
  | sparseScan (die core : Nat)
  /-- ARRAY_SWAP (R93): The active and shadow weight sets of both arrays exchange once the next tile is loaded and the pass has fed every row. -/
  | arraySwap (die core : Nat)
  /-- VOP_ADD (R113): Vector ADD writes x + y row by row. -/
  | vopAdd (die core : Nat)
  /-- VOP_SUB (R113): Vector SUB writes x − y. -/
  | vopSub (die core : Nat)
  /-- VOP_MUL (R113): Vector MUL writes x × y. -/
  | vopMul (die core : Nat)
  /-- VOP_MAX (R113): Vector MAX writes max(x, y) by R61. -/
  | vopMax (die core : Nat)
  /-- VOP_MIN (R113): Vector MIN writes min(x, y) by R61. -/
  | vopMin (die core : Nat)
  /-- SCALE (R113): SCALE writes (x × g) + b. -/
  | scale (die core : Nat)
  /-- CONVERT (R113): CONVERT writes x in OUT_FMT, rounding once. -/
  | convert (die core : Nat)
  /-- ROWSUM (R60): ROWSUM writes one sum per row in the lane-then-tree order. -/
  | rowsum (die core : Nat)
  /-- ROWMAX (R113): ROWMAX writes one maximum per row. -/
  | rowmax (die core : Nat)
  /-- ROWMIN (R113): ROWMIN writes one minimum per row. -/
  | rowmin (die core : Nat)
  /-- ARGMAX (R113): ARGMAX writes the lowest index of the maximum, or of the first NaN, as INT32. -/
  | argmax (die core : Nat)
  /-- EXP2 (R68): EXP2 computes exp2 elementwise by the reference polynomial. -/
  | exp2 (die core : Nat)
  /-- LOG2 (R69): LOG2 computes log2 elementwise by the reference series. -/
  | log2 (die core : Nat)
  /-- RECIP (R67): RECIP writes the correctly rounded reciprocal. -/
  | recip (die core : Nat)
  /-- RSQRT (R67): RSQRT writes the correctly rounded reciprocal square root. -/
  | rsqrt (die core : Nat)
  /-- TANH (R70): TANH computes tanh elementwise by the reference algorithm. -/
  | tanh (die core : Nat)
  /-- SOFTMAX (R65): SOFTMAX computes a row softmax by the reference algorithm in FP32. -/
  | softmax (die core : Nat)
  /-- SIGMOID (R65): SIGMOID computes the reference sigmoid elementwise. -/
  | sigmoid (die core : Nat)
  /-- RMSNORM (R65): RMSNORM computes RMS normalisation of each row with gains and eps. -/
  | rmsnorm (die core : Nat)
  /-- LAYERNORM (R65): LAYERNORM computes layer normalisation of each row. -/
  | layernorm (die core : Nat)
  /-- XENT (R113): XENT writes one FP64 sum of per-row cross-entropy losses. -/
  | xent (die core : Nat)
  /-- FADD64 (R113): FADD64 writes x + y in FP64. -/
  | fadd64 (die core : Nat)
  /-- ROWSUM64 (R62): ROWSUM64 writes one FP64 row sum in the reference order. -/
  | rowsum64 (die core : Nat)
  /-- CORE_CTRL_ABORT (R119): A write of CORE_CTRL.ABORT stops the running program, discards unstarted queued work and completes with ABORTED. -/
  | coreCtrlAbort (die core : Nat)
  /-- COPY (R140): A copy engine runs a COPY with move semantics in the direction the addresses give. -/
  | copy (die unit : Nat)
  /-- TRANSPOSE (R136): A copy engine transposes dimensions 0 and 1 through its staging buffer. -/
  | transpose (die unit : Nat)
  /-- PERMUTE (R136): A copy engine permutes the four dimensions as PERM gives. -/
  | permute (die unit : Nat)
  /-- GATHER (R145): A copy engine gathers table rows by index, filling out-of-bounds rows and coalescing duplicates. -/
  | gather (die unit : Nat)
  /-- SCATTER_STORE (R147): A copy engine stores source rows at indexed table rows, the last duplicate winning. -/
  | scatterStore (die unit : Nat)
  /-- SCATTER_ADD (R147): A copy engine adds source rows into indexed table rows in ascending index order. -/
  | scatterAdd (die unit : Nat)
  /-- CE_CTRL_ABORT (R141): A write of CE_CTRL.ABORT stops the running copy and completes every queued descriptor with ABORTED. -/
  | ceCtrlAbort (die unit : Nat)
  /-- CLEAR_END (R133): A scratchpad clear ends, releasing held port requests and completing a release or wake. -/
  | clearEnd (die : Nat)
  /-- ROUTE (R176): The dispatch engine scores, selects, sorts pairs into dispatch lists and writes route records and counts. -/
  | route (die : Nat)
  /-- COMBINE (R191): The dispatch engine waits for RET_FLAG and combines returned rows in ascending k-rank into one row per token. -/
  | combine (die : Nat)
  /-- DE_FLAG_TIMEOUT (R172): A ROUTE waiting for a fed product or a COMBINE waiting for RET_FLAG exceeds DE_CTRL.FLAG_TIMEOUT and completes with TIMEOUT. -/
  | deFlagTimeout (die : Nat)
  /-- DE_CTRL_ABORT (R193): A write of DE_CTRL.ABORT stops the running operation and completes every queued descriptor with ABORTED. -/
  | deCtrlAbort (die : Nat)
  /-- VERIFY (R204): A write of PLC_CMD_p.VERIFY starts a verify of the named placement bank. -/
  | verify (part bank : Nat)
  /-- VERIFY_DONE (R205): A verify ends by loading the shadow sets and setting SHADOW_OK, or fails at the first fault with VERIFY_FAILED. -/
  | verifyDone (part : Nat)
  /-- PLC_POP_END (R215): A write of PLC_POP_STATUS.END asks the popularity interval to end at the next epoch. -/
  | plcPopEnd (part : Nat)
  /-- RESERVE (R227): Keeper RESERVE lays out a partition's region into class slabs or is refused. -/
  | reserve (die : Nat)
  /-- UNRESERVE (R227): Keeper UNRESERVE returns the region and every buffer, making handles stale and aborting held ALLOCs. -/
  | unreserve (die : Nat)
  /-- ALLOC (R228): Keeper ALLOC takes a chain of buffers for a group within the declaration and writes RESULT, or is refused or held. -/
  | alloc (die : Nat)
  /-- KEEPER_RELEASE (R233): Keeper RELEASE clears an owner's share of a buffer. -/
  | keeperRelease (die : Nat)
  /-- FREE (R233): Keeper FREE clears the last owner's share and marks the buffer for freeing. -/
  | free (die : Nat)
  /-- ALLOC_SEQ_TIMEOUT (R229): A held ALLOC exceeds KPR_CTRL.SEQ_TIMEOUT and completes with TIMEOUT. -/
  | allocSeqTimeout (die : Nat)
  /-- KPR_CTRL_ABORT (R236): A write of KPR_CTRL.ABORT completes every held ALLOC with ABORTED. -/
  | kprCtrlAbort (die : Nat)
  /-- LANE_SIGNAL (R530): Lane signal appears on a DOWN port after its back-off and the port enters TRAINING. -/
  | laneSignal (port : Nat)
  /-- BACKOFF_EXPIRY (R530): A failed port's back-off period ends and it may train again. -/
  | backoffExpiry (port : Nat)
  /-- DATA_BLOCK (R243): A data link block arrives, is FEC-decoded, returns credits and carries 1,280 bytes of the frame stream. -/
  | dataBlock (port : Nat) (block : LinkBlock)
  /-- CONTROL_BLOCK (R243): A control link block arrives carrying identity, state, epoch, time synchronisation and burnish records. -/
  | controlBlock (port : Nat) (block : LinkBlock)
  /-- CONTROL_BLOCK_TIMEOUT (R245): No control block arrives for 4 control-block periods and the port goes DOWN. -/
  | controlBlockTimeout (port : Nat)
  /-- FRAME_TRANSMIT (R252): A source owner sends a frame once its flow window, a transmit record and path allow, choosing its path by spray. -/
  | frameTransmit (die : Nat)
  /-- SWITCH_FORWARD (R278): A switch core takes a whole frame that passed HCRC, chooses its egress, checks its age and charges its buffer. -/
  | switchForward (die point : Nat)
  /-- EGRESS_ARBITRATION (R280): When an egress port can start a frame, the arbiter picks control first, then deficit round robin over the other classes. -/
  | egressArbitration (port : Nat)
  /-- ACK (R262): An ACK frame at the source owner acknowledges frames, advances WBASE and triggers selective resends. -/
  | ack (frame : Frame)
  /-- ACK_RECORD_SEND (R261): ACK_DELAY after a first unacknowledged acceptance, or at 32 waiting frames, the destination owner sends an ACK record. -/
  | ackRecordSend (die : Nat)
  /-- RESEND_TIMEOUT (R262): A frame unacknowledged for RESEND_TIMEOUT is resent with RESENT 1 and a new AGE. -/
  | resendTimeout (die : Nat)
  /-- LEVEL_SAMPLE (R256): Each 1 µs interval the package judges whether the local and global levels are saturated. The event carries nothing: its operand has one value. -/
  | levelSample (event : Unit)
  /-- XCH_SEND (R266): XCH_SEND sends a dispatch output's headers and token rows to each destination node. -/
  | xchSend (die : Nat)
  /-- XCH_OPEN (R269): XCH_OPEN opens a landing table for an exchange tag, allocating landings from Keeper where asked. -/
  | xchOpen (die : Nat)
  /-- XCH_RETURN (R272): XCH_RETURN waits for an entry's DONE and sends result rows back to each position's RET address. -/
  | xchReturn (die : Nat)
  /-- XCH_CLOSE (R274): XCH_CLOSE ends landing, aborts waiting returns and moves the tag to the closed list. -/
  | xchClose (die : Nat)
  /-- EXCH_HDR (R267): An EXCH_HDR frame delivers a source's list headers, fixing landing bases and checking SLOT. -/
  | exchHdr (frame : Frame)
  /-- EXCH_ROW (R268): An EXCH_ROW frame lands row segments at their positions and writes tag records. -/
  | exchRow (frame : Frame)
  /-- EXCH_RET (R272): An EXCH_RET frame writes result bytes at its offset and the source owner writes RET_FLAG when all have landed. -/
  | exchRet (frame : Frame)
  /-- MULTICAST_FRAME (R287): A COLL frame to a switch core is looked up in the multicast table and copies are prepared or it is counted as missed. -/
  | multicastFrame (frame : Frame)
  /-- MULTICAST_COPY (R291): A multicast copy is sent once its flow has window room and its egress class has credits. -/
  | multicastCopy (die : Nat)
  /-- STU_CMD_CLAIM (R303): A write of CLAIM to STU_CMD queues a claim for the next epoch. -/
  | stuCmdClaim (die unit ctx : Nat)
  /-- STU_CMD_RELEASE (R305): A write of RELEASE to STU_CMD queues a release for the next epoch. -/
  | stuCmdRelease (die unit ctx : Nat)
  /-- CLAIM_CLEAR_END (R303): The slot clear of a claim ends and the context becomes VALID with NEXT 0. -/
  | claimClearEnd (die unit ctx : Nat)
  /-- STITCH_INPUT (R299): A COLL frame to a stitch unit is written into its context's chunk set, held back or discarded. -/
  | stitchInput (frame : Frame)
  /-- CHUNK_RUN (R322): A ready chunk checks its preamble and runs its context's program. -/
  | chunkRun (die unit : Nat)
  /-- STU_NOP (R308): Stitch NOP does nothing. -/
  | stuNop (die unit : Nat)
  /-- STU_END (R308): Stitch END ends the chunk's program and advances NEXT. -/
  | stuEnd (die unit : Nat)
  /-- GLOOP (R309): GLOOP runs its body once per group with overlapped iterations and then drains. -/
  | gloop (die unit : Nat)
  /-- LDG (R308): LDG loads group j of an input converted exactly to the lane format. -/
  | ldg (die unit : Nat)
  /-- STG (R314): STG writes a group to the output area, converting with RNE or raw. -/
  | stg (die unit : Nat)
  /-- LDC (R308): LDC loads a constant into every lane. -/
  | ldc (die unit : Nat)
  /-- MOV (R308): MOV copies a register. -/
  | mov (die unit : Nat)
  /-- RSUM (R312): RSUM folds a group over all inputs by addition in ascending input order. -/
  | rsum (die unit : Nat)
  /-- RMAX (R312): RMAX folds a group over all inputs by maximum. -/
  | rmax (die unit : Nat)
  /-- RMIN (R312): RMIN folds a group over all inputs by minimum. -/
  | rmin (die unit : Nat)
  /-- RCNT (R308): RCNT counts per lane the inputs whose element meets a predicate. -/
  | rcnt (die unit : Nat)
  /-- STU_ADD (R313): Stitch ADD adds two registers lane by lane. -/
  | stuAdd (die unit : Nat)
  /-- STU_MUL (R313): Stitch MUL multiplies two registers lane by lane. -/
  | stuMul (die unit : Nat)
  /-- STU_MAX (R308): Stitch MAX takes the lane maximum of two registers. -/
  | stuMax (die unit : Nat)
  /-- STU_MIN (R308): Stitch MIN takes the lane minimum of two registers. -/
  | stuMin (die unit : Nat)
  /-- GCAT (R318): GCAT concatenates the inputs' data granules into the output area. -/
  | gcat (die unit : Nat)
  /-- MSORT (R318): MSORT merges records of all inputs by key into the output area. -/
  | msort (die unit : Nat)
  /-- FILT (R318): FILT keeps the records whose key meets a predicate. -/
  | filt (die unit : Nat)
  /-- TOPK (R318): TOPK writes the K highest-ranked records. -/
  | topk (die unit : Nat)
  /-- EMIT (R320): EMIT sends the output area as COLL frames to OUT_DST. -/
  | emit (die unit : Nat)
  /-- ALLREDUCE (R349): ALLREDUCE sends the member's contribution up both trees and writes the reduced result. -/
  | allreduce (die : Nat)
  /-- REDUCE (R351): REDUCE reduces contributions and writes the result only at ROOT. -/
  | reduce (die : Nat)
  /-- ALLGATHER (R353): ALLGATHER gathers every member's rows, in bands if asked, writing piece flags as bytes land. -/
  | allgather (die : Nat)
  /-- BROADCAST (R354): BROADCAST sends ROOT's bytes to every member. -/
  | broadcast (die : Nat)
  /-- BUNDLE (R355): BUNDLE runs up to 64 small reductions packed into one vector in one pass. -/
  | bundle (die : Nat)
  /-- SETUP (R341): A collective SETUP checks the span, chooses contexts and multicast entries and exchanges set-up records. -/
  | setup
  /-- SETUP_UP (R342): A SETUP_UP record from a child host arrives at the management processor. -/
  | setupUp (frame : Frame)
  /-- SETUP_DOWN (R342): A SETUP_DOWN record from the parent host arrives and the node's context and entry are written. -/
  | setupDown (frame : Frame)
  /-- GROUP_RELEASE (R345): A collective RELEASE descriptor is accepted for its epoch. -/
  | groupRelease
  /-- CONTRIB (R350): A CONTRIB chunk reaches an agent in endpoint form and is staged and folded. -/
  | contrib (frame : Frame)
  /-- RESULT (R351): A RESULT chunk reaches an agent, which writes it and forwards it to its multicast entry. -/
  | result (frame : Frame)
  /-- SIGNATURE (R352): A SIGNATURE chunk of a MOVE collective is held and passed down the tree. -/
  | signature (frame : Frame)
  /-- DATA (R353): A DATA chunk is placed at its destination bytes once every signature is held. -/
  | data (frame : Frame)
  /-- DE_COLL_TIMEOUT (R357): An agent's wait exceeds DE_COLL.TIMEOUT and it sends status chunks and completes with TIMEOUT. -/
  | deCollTimeout (die : Nat)
  /-- PIN_HBM (R370): PIN_HBM pins pages to HBM, swapping them in at its epoch. -/
  | pinHbm
  /-- PIN_DDR (R370): PIN_DDR pins pages to DDR, swapping them in at its epoch. -/
  | pinDdr
  /-- UNPIN (R370): UNPIN clears the pin of pages. -/
  | unpin
  /-- MOVE_HBM (R370): MOVE_HBM swaps pages into HBM at its epoch. -/
  | moveHbm
  /-- MOVE_DDR (R370): MOVE_DDR swaps pages into DDR at its epoch. -/
  | moveDdr
  /-- PAGE_SWAP (R366): A migration engine swaps an HBM page and a DDR page and updates the page map, holding writes meanwhile. -/
  | pageSwap (die : Nat)
  /-- COUNTER_POLICY (R371): At the end of each INTERVAL the engine chooses promotion pairs, halves counts and swaps them. -/
  | counterPolicy (die : Nat)
  /-- WIN_RUN (R373): WIN_RUN starts a partition's window program, or waits behind the running one. -/
  | winRun
  /-- FETCH (R378): FETCH writes a slot from source rows, copying, expanding or building a 2:4 image. -/
  | fetch (part : Nat)
  /-- EXPERTS (R380): EXPERTS fetches the non-idle local replicas of a layer into a run of slots and writes fetch records. -/
  | experts (part : Nat)
  /-- WAIT (R381): WAIT holds the program until a flag is set for its tag. -/
  | wait (part : Nat)
  /-- LOOP (R381): LOOP repeats earlier steps a given number of times. -/
  | loop (part : Nat)
  /-- WIN_BEAT (R381): The window step BEAT waits for the next beat boundary. -/
  | winBeat (part : Nat)
  /-- WIN_END (R381): The window step END ends the run with OK. -/
  | winEnd (part : Nat)
  /-- MIG_FLAG_TIMEOUT (R377): A window program's flag wait exceeds MIG_WIN.FLAG_TIMEOUT and the run stops with TIMEOUT. -/
  | migFlagTimeout (part : Nat)
  /-- MIG_CTRL_ABORT (R383): A write of MIG_CTRL.ABORT on M0 stops the running and waiting window programs with ABORTED. -/
  | migCtrlAbort
  /-- PATROL_SCRUB (R387): Every 4 µs a scrub slot reads the next line and writes back corrected words. -/
  | patrolScrub (die unit : Nat)
  /-- REFRESH (R386): A memory controller refreshes its devices at the standard rate. -/
  | refresh (die unit : Nat)
  /-- WRITE (R391): A remote WRITE frame is checked, written at the target and answered with a READ_RESP. -/
  | write (frame : Frame)
  /-- READ_REQ (R391): A READ_REQ frame is served at the target and answered with the read bytes. -/
  | readReq (frame : Frame)
  /-- READ_RESP (R391): A READ_RESP completes the issuer's request with its status and data. -/
  | readResp (frame : Frame)
  /-- ATOMIC_ADD (R399): An integer ATOMIC ADD adds to one or more elements and returns OLD for one. -/
  | atomicAdd (frame : Frame)
  /-- ATOMIC_AND (R399): ATOMIC AND ands into one element and returns OLD. -/
  | atomicAnd (frame : Frame)
  /-- ATOMIC_OR (R399): ATOMIC OR ors into one element and returns OLD. -/
  | atomicOr (frame : Frame)
  /-- ATOMIC_XOR (R399): ATOMIC XOR xors into one element and returns OLD. -/
  | atomicXor (frame : Frame)
  /-- ATOMIC_MIN (R399): ATOMIC MIN writes the signed minimum and returns OLD. -/
  | atomicMin (frame : Frame)
  /-- ATOMIC_MAX (R399): ATOMIC MAX writes the signed maximum and returns OLD. -/
  | atomicMax (frame : Frame)
  /-- ATOMIC_MINU (R399): ATOMIC MINU writes the unsigned minimum and returns OLD. -/
  | atomicMinu (frame : Frame)
  /-- ATOMIC_MAXU (R399): ATOMIC MAXU writes the unsigned maximum and returns OLD. -/
  | atomicMaxu (frame : Frame)
  /-- ATOMIC_SWAP (R399): ATOMIC SWAP writes the operand and returns OLD. -/
  | atomicSwap (frame : Frame)
  /-- ATOMIC_CAS (R399): ATOMIC CAS writes the operand if the old value equals OPB and returns OLD. -/
  | atomicCas (frame : Frame)
  /-- ATOMIC_FADD (R403): A floating-point FADD is applied on arrival, or held in the deferral buffer in deterministic mode. -/
  | atomicFadd (frame : Frame)
  /-- REGION_TABLE_LOADED (R397): The region table read ends and the new table takes force at the next epoch. -/
  | regionTableLoaded (die : Nat)
  /-- CP_LOAD (R409): A control processor load reads through a request and switches threads while it waits. -/
  | cpLoad (die unit thread : Nat)
  /-- CP_STORE (R409): A control processor store is posted into an outstanding-request slot. -/
  | cpStore (die unit thread : Nat)
  /-- CP_AMO (R410): A control processor AMO is carried out as an ATOMIC. -/
  | cpAmo (die unit thread : Nat)
  /-- LR (R410): LR reserves an 8-byte word of the own scratchpad. -/
  | lr (die unit thread : Nat)
  /-- SC (R410): SC stores if the reservation holds. -/
  | sc (die unit thread : Nat)
  /-- CP_FENCE (R409): A control processor FENCE waits for every outstanding request of the thread. -/
  | cpFence (die unit thread : Nat)
  /-- FENCE_I (R407): FENCE.I invalidates the instruction cache. -/
  | fenceI (die unit thread : Nat)
  /-- ECALL (R411): ECALL ends the thread with CAUSE 1 and a0 in CP_TVAL. -/
  | ecall (die unit thread : Nat)
  /-- CP_INSTRUCTION (R406): Any other RV64GC instruction executes in machine mode as the RISC-V specifications define. -/
  | cpInstruction (die unit thread : Nat)
  /-- KAMOFADD_W (R413): KAMOFADD.W posts an FP32 FADD with thread, TSEQ and ISSUE. -/
  | kamofaddW (die unit thread : Nat)
  /-- KAMOFADD_D (R413): KAMOFADD.D posts an FP64 FADD. -/
  | kamofaddD (die unit thread : Nat)
  /-- KYIELD (R413): KYIELD ends the thread's turn while it stays ready. -/
  | kyield (die unit thread : Nat)
  /-- KWAITF (R414): KWAITF reads a flag and continues with COUNT or blocks until it is set. -/
  | kwaitf (die unit thread : Nat)
  /-- KPOST (R415): KPOST posts a descriptor to a unit of the node and later receives a completion record. -/
  | kpost (die unit thread : Nat)
  /-- CP_FLAG_TIMEOUT (R414): A KWAITF wait exceeds CP_CTRL.FLAG_TIMEOUT and the thread stops with CAUSE 6. -/
  | cpFlagTimeout (die unit thread : Nat)
  /-- CP_TSTAT_START (R412): A write of CP_TSTAT_t.START starts a thread at PC with cleared registers. -/
  | cpTstatStart (die unit thread : Nat)
  /-- CP_TSTAT_STOP (R411): A write of CP_TSTAT_t.STOP stops one thread as ABORT does. -/
  | cpTstatStop (die unit thread : Nat)
  /-- CP_CTRL_ABORT (R411): A write of CP_CTRL.ABORT stops every thread with CAUSE 7. -/
  | cpCtrlAbort (die unit : Nat)
  /-- TIME_SET (R419): A write of TIME_SET on the grandmaster before it first syncs sets the counter; otherwise it is discarded. -/
  | timeSet (value : Word)
  /-- SYNC_LOST_TIMEOUT (R424): A package without a synchronised parent for 10 ms clears SYNCED and raises SYNC_LOST. -/
  | syncLostTimeout
  /-- CINCH (R431): CINCH arms a partition's timeline and holds its launches, then sends READY to the leader. -/
  | cinch
  /-- READY (R432): A READY record reaches the leader, which checks it and sends GO when all have arrived. -/
  | ready (frame : Frame)
  /-- GO (R432): A GO record sets the partition's origin and period at the member. -/
  | go (frame : Frame)
  /-- FAIL (R432): A FAIL record ends the member's cinch with its status and aborts held launches. -/
  | fail (frame : Frame)
  /-- CINCH_TIMEOUT (R432): The leader's READY wait passes TIMEOUT and it sends FAIL with TIMEOUT. -/
  | cinchTimeout (part : Nat)
  /-- CINCH_MEMBER_TIMEOUT (R432): A member without GO or FAIL after 3 × TIMEOUT fails its cinch with TIMEOUT. -/
  | cinchMemberTimeout (part : Nat)
  /-- NUM_WATCH_STEP (R81): A write of NUM_WATCH_STEP.STEP requests a step boundary at the next epoch. -/
  | numWatchStep
  /-- LOAD (R447): A partition LOAD is checked, holds its dies and issues its Keeper reservations. -/
  | load
  /-- PARTITION_RELEASE (R451): A partition RELEASE descriptor is accepted for its epoch. -/
  | partitionRelease
  /-- LAG (R459): A LAG record from a member reaches the leader's deadline monitor. -/
  | lag (frame : Frame)
  /-- PLAN (R461): A PLAN record reaches a member and is applied at its target boundary. -/
  | plan (frame : Frame)
  /-- DLM_CMD_FORCE (R460): A write of DLM_CMD.FORCE on the leader requests the named plan. -/
  | dlmCmdForce (part plan : Nat)
  /-- SQ_DB (R474): A submission doorbell write sets the ring's TAIL so the endpoint fetches entries. -/
  | sqDb (fn ring value : Nat)
  /-- SQ_ENTRY_POST (R478): A fetched entry is checked and posted to its target when fence, target room and CQ room allow. -/
  | sqEntryPost (fn ring : Nat)
  /-- CQ_DB (R479): A completion doorbell write moves the ring's HEAD. -/
  | cqDb (fn ring value : Nat)
  /-- EQ_DB (R490): An event doorbell write moves HEAD and may let an OVERFLOW record be written. -/
  | eqDb (fn ring value : Nat)
  /-- MSIX_MODERATION_DELAY (R492): DELAY after the first unsignalled entry an MSI-X message is sent. -/
  | msixModerationDelay (fn : Nat) (isEq : Bool) (ring : Nat)
  /-- TO_DEVICE (R482): HDMA TO_DEVICE moves bytes from host memory to the package. -/
  | toDevice (link : HostTransfer)
  /-- TO_HOST (R482): HDMA TO_HOST moves bytes from the package to host memory. -/
  | toHost (link : HostTransfer)
  /-- ATS_INVALIDATION (R470): An ATS invalidation completes after the last TLP that used the old translation. -/
  | atsInvalidation (page : Nat)
  /-- DL_DOWN (R495): Loss of the host link turns every ring OFF, aborts HDMA and drops host-bound records. -/
  | dlDown
  /-- FLR (R496): A function level reset stops the function's rings and HDMA operations. -/
  | flr (fn : Nat)
  /-- D3HOT (R496): Entry to D3hot stops the function's rings and HDMA operations. -/
  | d3hot (fn : Nat)
  /-- POWER_ON_RESET (R497): PWRGD rising starts a power-on reset of every die. -/
  | powerOnReset (boot : BootEnv)
  /-- PERST (R497): PERST# starts a package reset. -/
  | perst (boot : BootEnv)
  /-- RST_CTRL_PKG (R497): A keyed write of RST_CTRL.PKG starts a package reset. -/
  | rstCtrlPkg (key : Nat) (boot : BootEnv)
  /-- RST_CTRL_MP (R497): A keyed write of RST_CTRL.MP resets the management processor and security engine. -/
  | rstCtrlMp (key : Nat) (flashOk : Bool) (boot : BootEnv)
  /-- BOOT_VERIFY (R504): Stage VERIFY reads and checks the flash image and jumps to it or enters RECOVERY. -/
  | bootVerify (flashOk : Bool)
  /-- BOOT_MEM_TRAIN (R361): Stage MEM_TRAIN trains HBM4 and DDR5 and sets PKG_MEM_TOP. -/
  | bootMemTrain (train : MemTrain)
  /-- BOOT_CLEAR (R500): Stage CLEAR clears every enabled C-die's scratchpad as on wake from off. -/
  | bootClear
  /-- BOOT_LINKS (R500): Stage LINKS brings every enabled fabric port through loop-back, burnish and probing. -/
  | bootLinks
  /-- RCV_CTRL_GO (R507): In RECOVERY a write of RCV_CTRL.GO fetches and checks a host image and runs it. -/
  | rcvCtrlGo (readOk flashOk : Bool)
  /-- FW_UPD_START (R508): A write of FW_UPD.START checks a new image and writes it to flash. -/
  | fwUpdStart (readOk flashOk : Bool)
  /-- JOIN_CMD_GO (R510): A write of JOIN_CMD.GO in JOIN_WAIT joins the fabric and enters READY. -/
  | joinCmdGo
  /-- WDT_KICK (R513): A write of WDT.KICK restarts the watchdog period. -/
  | wdtKick
  /-- WATCHDOG_EXPIRY (R513): The watchdog period passes without a kick and the management processor is reset. -/
  | watchdogExpiry (flashOk : Bool) (boot : BootEnv)
  /-- DBG_NONCE_READ (R514): A read of DBG_NONCE_0 makes a new nonce and voids the old one. -/
  | dbgNonceRead
  /-- DBG_CTRL_SUBMIT (R514): A write of DBG_CTRL.SUBMIT checks a debug token and opens its scope or refuses it. -/
  | dbgCtrlSubmit
  /-- CDIE_PWR_WRITE (R515): A write of CDIE_PWR.OFF powers free C-dies off or wakes them with a clear. -/
  | cdiePwrWrite (off : BitVec 24)
  /-- GET_VERSION (R512): SPDM GET_VERSION over DOE returns the supported version. -/
  | getVersion (request : List Byte)
  /-- GET_CAPABILITIES (R512): SPDM GET_CAPABILITIES returns the capabilities. -/
  | getCapabilities (request : List Byte)
  /-- NEGOTIATE_ALGORITHMS (R512): SPDM NEGOTIATE_ALGORITHMS selects ML-DSA-87, SHA3-512 and ML-KEM-1024. -/
  | negotiateAlgorithms (request : List Byte)
  /-- GET_DIGESTS (R512): SPDM GET_DIGESTS returns certificate digests. -/
  | getDigests (request : List Byte)
  /-- GET_CERTIFICATE (R512): SPDM GET_CERTIFICATE returns the slot 0 chain. -/
  | getCertificate (request : List Byte)
  /-- CHALLENGE (R512): SPDM CHALLENGE returns a signed response. -/
  | challenge (request : List Byte)
  /-- GET_MEASUREMENTS (R512): SPDM GET_MEASUREMENTS returns signed measurements 1–5. -/
  | getMeasurements (request : List Byte)
  /-- KEY_EXCHANGE (R512): SPDM KEY_EXCHANGE starts a secured session. -/
  | keyExchange (request : List Byte)
  /-- FINISH (R512): SPDM FINISH completes the session handshake. -/
  | finish (request : List Byte)
  /-- END_SESSION (R512): SPDM END_SESSION ends a secured session. -/
  | endSession (request : List Byte)
  /-- LOOPBACK_END (R531): A loop-back of LB_BLOCKS blocks ends and passes or fails the port. -/
  | loopbackEnd (port : Nat) (result : LoopResult)
  /-- PROBE (R532): A PROBE frame is consumed at the receiving switch core and answered with REPLY. -/
  | probe (port : Nat) (frame : Frame)
  /-- PROBE_TIMEOUT (R531): A probe does not return within PROBE_TIMEOUT and the port goes DOWN with PROBE_FAILED. -/
  | probeTimeout (port : Nat)
  /-- BURN_TIMEOUT (R548): Burnish does not converge within BURN_TIMEOUT and the port goes DOWN with BURNISH_FAILED. -/
  | burnTimeout (port : Nat)
  /-- XPT_LB_START (R543): A write of XPT_LB_j.START runs a fabric loop-back of the chosen depth. -/
  | xptLbStart (port depth : Nat)
  /-- MEM_LB_START (R542): A write of MEM_LB.START runs a memory loop-back when allowed. -/
  | memLbStart (die unit depth : Nat)
  /-- PWRGD_FALL (R556): PWRGD falling puts outputs to high impedance and stops every fabric port. -/
  | pwrgdFall
  /-- RAIL_FAULT (R556): A rail below tolerance for more than 10 µs is treated as a fall of PWRGD. -/
  | railFault (rail micros : Nat)
  /-- THROT (R560): Assertion or release of THROT# sets the forced throttle demand. -/
  | throt (asserted : Bool)
  /-- SENSOR_READ (R562): Every 10 µs the die sensors are read. -/
  | sensorRead (sensors : Sensors)
  /-- THROTTLE_RISE (R560): Every 100 µs a thermal or power demand over its limit rises by one. -/
  | throttleRise (power : PowerRead)
  /-- THROTTLE_FALL (R560): Every 1 ms a demand below its limits falls by one. -/
  | throttleFall (power : PowerRead)
  /-- AVS_POLL (R557): Every 10 µs the package reads VCORE current, voltage and temperature and adjusts its request. -/
  | avsPoll (avs : AvsRead)
  /-- I3C_READ (R565): An I3C read returns an 8-byte package-block word or zero. -/
  | i3cRead (off : Nat)
  /-- AGE_OUT (R264): A frame waiting in a queue for a DOWN port, for credits, or at an arriving F-die for a delayed answer passes AGE_LIMIT and is discarded. -/
  | ageOut (place : AgePlace)
  /-- DL_UP (R495): The host link returns to L0 after a loss, HIF_STATUS takes the new rate and width, and software finds every ring OFF. -/
  | dlUp (rate width : Nat)
  /-- CONFIGURATION_REQUEST (R501): A PCI Express configuration request is answered with Request Retry Status during stage ROM and served afterwards, including SR-IOV and capability registers. -/
  | configurationRequest (fn off : Nat) (write : Option (BitVec 32))
  /-- IDE_KM (R466): An IDE_KM message over the DOE mailbox delivers or activates Link or selective IDE stream keys. -/
  | ideKm (request : List Byte)
  /-- DOE_DISCOVERY (R466): A DOE discovery request at the PF mailbox returns the supported data object protocols. -/
  | doeDiscovery (request : List Byte)
  /-- JTAG (R514): An IEEE 1149.1 TAP operation is served as IDCODE, BYPASS or SAMPLE/PRELOAD while locked, and with full access, loop-backs or scan within an unlocked scope. -/
  | jtag (op : JtagOp)
  /-- VECTOR_UNMASKED (R492): Unmasking an MSI-X vector whose pending bit is set sends its held message. -/
  | vectorUnmasked (fn vector : Nat)
  deriving DecidableEq, Repr

end Sys2Proof
end

