-- ==== Sys2Proof/Config.lean ====
section
/-! DEFINITION. What one part, one implementation or the outside world fixes, and the free values: constants with
no body, so that no proof can use a value of them. -/

namespace Sys2Proof

/-- Firmware-image and token signatures: the outcome of ML-DSA-87 verification of FIPS 204 over a message, with a
public key and a signature (R504, R514). The algorithm is outside the spec's text; free. -/
opaque Config.mlDsaVerify (key sig msg : List Byte) : Bool

/-- An ML-DSA-87 signature made with the identity key over a message (R511, R512); free. -/
opaque Config.mlDsaSign (msg : List Byte) : List Byte

/-- SHA3-512 of FIPS 202 (R504, R512, R514); free. -/
opaque Config.sha3 (msg : List Byte) : List Byte

/-- ML-KEM-1024 encapsulation of FIPS 203 in a KEY_EXCHANGE (R512): the response bytes for a request; free. -/
opaque Config.mlKem (request : List Byte) (n : Nat) : List Byte

/-- The identity public key derived from the fused device secret (R511); free. -/
opaque Config.identityKey : List Byte

/-- The identity certificate chain as flash holds it is in State; the fused key hashes are here (R504, R514). -/
opaque Config.fwKeyHash : List Byte
opaque Config.dbgKey : List Byte
opaque Config.dbgKeyHash : List Byte

/-- ROM version reported by attestation index 1 (R512); free. -/
opaque Config.romVersion : Word

/-- The n-th word the security engine's generator gives (R514); free. -/
opaque Config.random : Nat → Word

/-- The n-th value that the spec leaves open and the machine goes on with; free. -/
opaque Config.freeWord : Nat → Word

/-- Machine CSRs that identify a hart and that the RISC-V specifications leave to the implementation (R406): misa,
mvendorid, marchid, mimpid, mconfigptr, by CSR number; free. -/
opaque Config.cpCsr : Nat → Word

/-- The IEEE 1149.1 identification code (R514): the spec gives no value; free. -/
opaque Config.jtagIdcode : Word

/-- Configuration-space words the spec does not give (R466, R501); free, by function and offset. -/
opaque Config.cfgSpace : Nat → Nat → Word

/-- What a configuration-space word reads as after a write to it (R466); free, by function, offset and value. -/
opaque Config.cfgBack : Nat → Nat → Word → Word

/-- Bytes of SPDM, DOE and IDE_KM responses that the spec does not give (R466, R512); free, by response and request. -/
opaque Config.doeBytes : Nat → List Byte → List Byte

/-- Bytes of an expert's weights that a revision copies to a spare slot (R217), by expert: neither the bank nor the policy
block gives them; free. -/
opaque Config.expertBytes : Nat → Nat

/-- Tokens that an expert received in a step, by the steps completed and the entry of the watch table (R82): the spec does
not say how the watch comes to know them; free. -/
opaque Config.expertTokens : Nat → Nat → Nat

/-- SECDED syndrome of a failing word (R523): the code's matrix is not given; free. -/
opaque Config.syndrome : Nat → Nat

end Sys2Proof
end

