-- ==== Sys2Proof/Machine/SMap.lean ====
section
/-! DEFINITION. Sparse maps keyed by natural numbers, held as lists of pairs with strictly rising keys. Two
updates are given: `put` keeps every pair, `putD` drops a pair equal to the default, which is the canonical form
of memory. -/

namespace Sys2Proof.Machine

/-- A sparse map: pairs with strictly rising keys. -/
abbrev SMap (α : Type) := List (Nat × α)

/-- The value listed at `k`, if any. -/
def SMap.find? {α : Type} : SMap α → Nat → Option α
  | [], _ => none
  | (j, v) :: m, k => if j = k then some v else SMap.find? m k

/-- The value at `k`, or `d` where nothing is listed. -/
def SMap.get {α : Type} (m : SMap α) (d : α) (k : Nat) : α :=
  (SMap.find? m k).getD d

/-- Set the value at `k`. -/
def SMap.put {α : Type} : SMap α → Nat → α → SMap α
  | [], k, v => [(k, v)]
  | (j, w) :: m, k, v =>
    if k < j then (k, v) :: (j, w) :: m
    else if k = j then (k, v) :: m
    else (j, w) :: SMap.put m k v

/-- Remove the pair at `k`. -/
def SMap.del {α : Type} : SMap α → Nat → SMap α
  | [], _ => []
  | (j, w) :: m, k => if j = k then m else (j, w) :: SMap.del m k

/-- Set the value at `k`, listing nothing where the value is the default `d`. -/
def SMap.putD {α : Type} [DecidableEq α] (d : α) : SMap α → Nat → α → SMap α
  | [], k, v => if v = d then [] else [(k, v)]
  | (j, w) :: m, k, v =>
    if k < j then (if v = d then (j, w) :: m else (k, v) :: (j, w) :: m)
    else if k = j then (if v = d then m else (k, v) :: m)
    else (j, w) :: SMap.putD d m k v

/-- Change the value at `k`, taking `d` where nothing is listed. -/
def SMap.upd {α : Type} (m : SMap α) (d : α) (k : Nat) (f : α → α) : SMap α :=
  SMap.put m k (f (SMap.get m d k))

/-- The canonical form: keys strictly rise and no pair holds the default. -/
def SMap.wfD {α : Type} [DecidableEq α] (d : α) : SMap α → Bool
  | [] => true
  | [(_, v)] => v ≠ d
  | (j, v) :: (k, w) :: m => v ≠ d && j < k && SMap.wfD d ((k, w) :: m)

/-- Keys strictly rise. -/
def SMap.sorted {α : Type} : SMap α → Bool
  | [] => true
  | [_] => true
  | (j, _) :: (k, w) :: m => j < k && SMap.sorted ((k, w) :: m)

/-- Insertion of a number into a strictly rising list. -/
def natInsert : List Nat → Nat → List Nat
  | [], k => [k]
  | j :: l, k => if k < j then k :: j :: l else if k = j then j :: l else j :: natInsert l k

/-- Insertion sort by a comparison, stable: an element goes after the elements it does not precede. -/
def insertBy {α : Type} (lt : α → α → Bool) (x : α) : List α → List α
  | [] => [x]
  | y :: l => if lt x y then x :: y :: l else y :: insertBy lt x l

/-- Stable insertion sort. -/
def sortBy {α : Type} (lt : α → α → Bool) (l : List α) : List α :=
  l.foldl (fun acc x => insertBy lt x acc) []

/-- Strictly ascending under a key. -/
def strictAsc : List Nat → Bool
  | [] => true
  | [_] => true
  | a :: b :: l => a < b && strictAsc (b :: l)

/-- No two elements are equal. -/
def noDup : List Nat → Bool
  | [] => true
  | a :: l => !(l.contains a) && noDup l

/-- Element `i` of a list replaced, if it is there. -/
def listSet {α : Type} : List α → Nat → α → List α
  | [], _, _ => []
  | _ :: l, 0, v => v :: l
  | x :: l, i + 1, v => x :: listSet l i v

end Sys2Proof.Machine
end

