-- ==== Sys2Proof/Machine/Bits.lean ====
section
/-! DEFINITION. Bit fields, byte order, sign extension and checks: little-endian layouts (R10), two's complement
readings, and the CRCs the spec names. -/

namespace Sys2Proof.Machine

/-- Field `hi:lo` of a number taken as bits. -/
def bits (v hi lo : Nat) : Nat := (v >>> lo) % 2 ^ (hi + 1 - lo)

/-- Bit `i` of a number. -/
def bit (v i : Nat) : Bool := (v >>> i) % 2 = 1

/-- 1 for true, 0 for false. -/
def b2n (b : Bool) : Nat := if b then 1 else 0

/-- `v` with field `hi:lo` replaced by the low bits of `x`. -/
def setBits (v hi lo x : Nat) : Nat :=
  let w := 2 ^ (hi + 1 - lo)
  v - (bits v hi lo) <<< lo + (x % w) <<< lo

/-- Field `hi:lo` at byte offset `off` of a little-endian structure held as a number (R10). -/
def fld (v off hi lo : Nat) : Nat := bits v (8 * off + hi) (8 * off + lo)

/-- A value placed at byte offset `off`, bit `lo`, of a little-endian structure, `w` bits wide. -/
def place (off lo w x : Nat) : Nat := (x % 2 ^ w) <<< (8 * off + lo)

/-- The little-endian number of a list of bytes. -/
def ofBytes : List Byte → Nat
  | [] => 0
  | b :: l => b.toNat + 256 * ofBytes l

/-- The `n` little-endian bytes of a number. -/
def toBytes : Nat → Nat → List Byte
  | 0, _ => []
  | n + 1, v => BitVec.ofNat 8 v :: toBytes n (v / 256)

/-- A number of `w` bits read as two's complement. -/
def toSigned (w v : Nat) : Int :=
  let v := v % 2 ^ w
  if v < 2 ^ (w - 1) then (v : Int) else (v : Int) - (2 ^ w : Nat)

/-- The `w` bits of an integer, two's complement. -/
def ofSigned (w : Nat) (i : Int) : Nat := (i % ((2 ^ w : Nat) : Int)).toNat

/-- Sign extension of the low `w` bits to 64 bits. -/
def sext64 (w v : Nat) : Nat := ofSigned 64 (toSigned w v)

/-- `v` rounded up to a multiple of `a`. -/
def alignUp (v a : Nat) : Nat := (v + a - 1) / a * a

/-- Division rounded up. -/
def ceilDiv (v a : Nat) : Nat := (v + a - 1) / a

/-- A counter that stops at its greatest value of `w` bits. -/
def satAdd (w v n : Nat) : Nat := Nat.min (v + n) (2 ^ w - 1)

/-- One is a power of two: exactly one bit is set. -/
def isPow2 (v : Nat) : Bool := v ≠ 0 && v &&& (v - 1) = 0

/-- The bits of a byte fed to a reflected CRC register of polynomial `poly`. -/
def crcBits (poly : Nat) : Nat → Nat → Nat
  | 0, c => c
  | n + 1, c => crcBits poly n (if c % 2 = 1 then (c >>> 1) ^^^ poly else c >>> 1)

/-- A reflected CRC over bytes, from register value `init`, before the final complement. -/
def crcReflected (poly : Nat) (init : Nat) (l : List Byte) : Nat :=
  l.foldl (fun c b => crcBits poly 8 (c ^^^ b.toNat)) init

/-- CRC-32C (Castagnoli), reflected, all-ones start and final complement: the standard parameters. -/
def crc32c (l : List Byte) : Nat := crcReflected 0x82F63B78 0xFFFFFFFF l ^^^ 0xFFFFFFFF

/-- CRC-32 (IEEE 802.3), reflected, all-ones start and final complement. -/
def crc32 (l : List Byte) : Nat := crcReflected 0xEDB88320 0xFFFFFFFF l ^^^ 0xFFFFFFFF

/-- The bits of a value, most significant first, fed to a non-reflected CRC register of width `w`. -/
def crcMsbBits (poly w : Nat) : Nat → Nat → Nat
  | 0, c => c
  | n + 1, c => crcMsbBits poly w n (if bit c (w - 1) then ((c <<< 1) ^^^ poly) % 2 ^ w else (c <<< 1) % 2 ^ w)

/-- The numbers from 0 below `n`. -/
def upto (n : Nat) : List Nat := List.range n

/-- Lists of `n` equal elements. -/
def rep {α : Type} (n : Nat) (v : α) : List α := List.replicate n v

end Sys2Proof.Machine
end

