-- ==== Sys2Proof/Machine/Num.lean ====
section
/-! DEFINITION. Number formats and the arithmetic contract (02_numerics.md): exact values, rounding to nearest even
and stochastic rounding, conversions with the events they count, the block format KB4, and the special functions. -/

namespace Sys2Proof.Machine

/-- An exact value: a NaN, an infinity, or sign, magnitude and power of two (R43, R44). -/
inductive FVal where
  | nan
  | inf (neg : Bool)
  | fin (neg : Bool) (mag : Nat) (exp : Int)
  deriving DecidableEq, Repr

/-- The formats of R42. -/
inductive Fmt where
  | fp32 | bf16 | e4m3 | e5m2 | kb4 | int8 | int32 | uint32 | fp64
  deriving DecidableEq, Repr

/-- The format a 4-bit code names; a reserved code names none (R42). -/
def Fmt.ofCode : Nat → Option Fmt
  | 0 => some .fp32 | 1 => some .bf16 | 2 => some .e4m3 | 3 => some .e5m2 | 4 => some .kb4
  | 5 => some .int8 | 6 => some .int32 | 7 => some .uint32 | 8 => some .fp64 | _ => none

/-- The code of a format (R42). -/
def Fmt.code : Fmt → Nat
  | .fp32 => 0 | .bf16 => 1 | .e4m3 => 2 | .e5m2 => 3 | .kb4 => 4 | .int8 => 5 | .int32 => 6 | .uint32 => 7 | .fp64 => 8

/-- Bytes of one element; KB4 elements are not whole bytes and answer 0 (R42, R47). -/
def Fmt.bytes : Fmt → Nat
  | .fp32 => 4 | .bf16 => 2 | .e4m3 => 1 | .e5m2 => 1 | .kb4 => 0 | .int8 => 1 | .int32 => 4 | .uint32 => 4 | .fp64 => 8

/-- Bytes of a row of `n` elements (R47). -/
def Fmt.rowBytes (f : Fmt) (n : Nat) : Nat :=
  match f with
  | .kb4 => ceilDiv n 16 * 9
  | _ => n * f.bytes

/-- A floating-point format at its field widths (R43). -/
def Fmt.isFloat : Fmt → Bool
  | .int8 | .int32 | .uint32 => false
  | _ => true

/-- An IEEE-style encoding: stored mantissa bits, exponent bits, bias, and whether the all-ones exponent is
reserved for infinity and NaN (R43). -/
structure Enc where
  man : Nat
  ex : Nat
  bias : Nat
  inf : Bool
  /-- Largest finite mantissa with the hidden bit, and its exponent. -/
  topM : Nat
  topE : Int
  deriving DecidableEq, Repr

/-- The encodings of R43. KB4 elements are E2M1. -/
def Fmt.enc : Fmt → Enc
  | .fp64 => ⟨52, 11, 1023, true, 2 ^ 53 - 1, 971⟩
  | .bf16 => ⟨7, 8, 127, true, 255, 120⟩
  | .e4m3 => ⟨3, 4, 7, false, 14, 5⟩
  | .e5m2 => ⟨2, 5, 15, true, 7, 13⟩
  | .kb4 => ⟨1, 2, 1, false, 3, 1⟩
  | _ => ⟨23, 8, 127, true, 2 ^ 24 - 1, 104⟩

/-- Exponent of the smallest subnormal (R43). -/
def Enc.eMin (c : Enc) : Int := 1 - (c.bias : Int) - c.man

/-- The value of `a` and `b` brought to one exponent: both magnitudes and that exponent. -/
def align (m1 : Nat) (e1 : Int) (m2 : Nat) (e2 : Int) : Nat × Nat × Int :=
  if e1 ≤ e2 then (m1, m2 <<< (e2 - e1).toNat, e1) else (m1 <<< (e1 - e2).toNat, m2, e2)

/-- Magnitudes compared: is m1 x 2^e1 < m2 x 2^e2. -/
def magLt (m1 : Nat) (e1 : Int) (m2 : Nat) (e2 : Int) : Bool :=
  let (a, b, _) := align m1 e1 m2 e2
  a < b

/-- The rounding of a conversion: to nearest even, or stochastic with the draw `r` (R50, R54, R56). -/
inductive Rnd where
  | rne
  | stoch (r : Nat)
  deriving DecidableEq, Repr

/-- A magnitude divided by 2^sh and rounded: nearest even (R50), or by the comparison of R56. -/
def roundShift (rn : Rnd) (m sh : Nat) : Nat :=
  let lo := m >>> sh
  let rem := m - lo <<< sh
  match rn with
  | .rne => if 2 * rem > 2 ^ sh || (2 * rem = 2 ^ sh && lo % 2 = 1) then lo + 1 else lo
  | .stoch r => if rem ≠ 0 && r * 2 ^ sh < rem * 2 ^ 32 then lo + 1 else lo

/-- A magnitude rounded to the precision of an encoding, with no upper limit on the exponent (R50, R51). -/
def roundMag (c : Enc) (rn : Rnd) (m : Nat) (e : Int) : Nat × Int :=
  if m = 0 then (0, 0) else
  let q0 : Int := (Nat.log2 m : Int) + e - c.man
  let q := if q0 < c.eMin then c.eMin else q0
  if q ≤ e then (m <<< (e - q).toNat, q) else (roundShift rn m (q - e).toNat, q)

/-- An exact value rounded to FP32, FP64 or another IEEE format: beyond the largest finite gives an infinity
(R50). -/
def roundTo (f : Fmt) : FVal → FVal
  | .nan => .nan
  | .inf n => .inf n
  | .fin n m e =>
    let c := f.enc
    let (k, q) := roundMag c .rne m e
    if magLt c.topM c.topE k q then .inf n else .fin n k q

/-- The exact negation. -/
def FVal.neg : FVal → FVal
  | .nan => .nan
  | .inf n => .inf (!n)
  | .fin n m e => .fin (!n) m e

/-- The exact sum; an exact zero of opposite signs is +0 (R44). -/
def FVal.add : FVal → FVal → FVal
  | .nan, _ => .nan
  | _, .nan => .nan
  | .inf a, .inf b => if a = b then .inf a else .nan
  | .inf a, _ => .inf a
  | _, .inf b => .inf b
  | .fin a m e, .fin b k g =>
    let (x, y, h) := align m e k g
    if a = b then .fin a (x + y) h
    else if x = y then .fin false 0 0
    else if y < x then .fin a (x - y) h
    else .fin b (y - x) h

/-- The exact product. -/
def FVal.mul : FVal → FVal → FVal
  | .nan, _ => .nan
  | _, .nan => .nan
  | .inf a, .inf b => .inf (a != b)
  | .inf a, .fin b m _ => if m = 0 then .nan else .inf (a != b)
  | .fin a m _, .inf b => if m = 0 then .nan else .inf (a != b)
  | .fin a m e, .fin b k g => .fin (a != b) (m * k) (e + g)

/-- Positive zero. -/
def FVal.zero : FVal := .fin false 0 0

/-- One. -/
def FVal.one : FVal := .fin false 1 0

/-- Is the value a zero of either sign. -/
def FVal.isZero : FVal → Bool
  | .fin _ 0 _ => true
  | _ => false

/-- Is the value finite. -/
def FVal.isFin : FVal → Bool
  | .fin _ _ _ => true
  | _ => false

/-- `a < b` on values that are not NaN, zeros of both signs equal. -/
def FVal.lt : FVal → FVal → Bool
  | .nan, _ => false
  | _, .nan => false
  | .inf a, .inf b => a && !b
  | .inf a, _ => a
  | _, .inf b => !b
  | .fin a m e, .fin b k g =>
    if m = 0 && k = 0 then false
    else if m = 0 then !b
    else if k = 0 then a
    else match a, b with
      | true, false => true
      | false, true => false
      | false, false => magLt m e k g
      | true, true => magLt k g m e

/-- The sign bit of a value, NaN counted positive. -/
def FVal.sign : FVal → Bool
  | .nan => false
  | .inf n => n
  | .fin n _ _ => n

/-- An integer as an exact value. -/
def FVal.ofInt (i : Int) : FVal := .fin (i < 0) i.natAbs 0

/-- Decode of the bits of one floating-point element (R43, R45). KB4 answers its E2M1 element. -/
def decodeFloat (f : Fmt) (v : Nat) : FVal :=
  let c := f.enc
  let m := bits v (c.man - 1) 0
  let x := bits v (c.man + c.ex - 1) c.man
  let n := bit v (c.man + c.ex)
  if c.inf && x = 2 ^ c.ex - 1 then (if m = 0 then .inf n else .nan)
  else if f = .e4m3 && x = 15 && m = 7 then .nan
  else if x = 0 then .fin n m c.eMin
  else .fin n (2 ^ c.man + m) ((x : Int) - 1 + c.eMin)

/-- Decode of one element of any format but KB4. -/
def decodeElem (f : Fmt) (v : Nat) : FVal :=
  match f with
  | .int8 => .ofInt (toSigned 8 v)
  | .int32 => .ofInt (toSigned 32 v)
  | .uint32 => .ofInt ((v % 2 ^ 32 : Nat) : Int)
  | _ => decodeFloat f v

/-- The canonical NaN of a format (R43, R45). -/
def Fmt.nanBits : Fmt → Nat
  | .fp64 => 0x7FF8000000000000
  | .fp32 => 0x7FC00000
  | .bf16 => 0x7FC0
  | .e4m3 => 0x7F
  | .e5m2 => 0x7E
  | _ => 0

/-- Encoding of a value already rounded to the format, within its finite range or infinite (R43). -/
def encodeRounded (f : Fmt) (v : FVal) : Nat :=
  let c := f.enc
  let s (n : Bool) : Nat := b2n n <<< (c.man + c.ex)
  match v with
  | .nan => f.nanBits
  | .inf n => s n + (2 ^ c.ex - 1) <<< c.man
  | .fin n k q =>
    if k < 2 ^ c.man then s n + k
    else
      let (k, q) := if k = 2 ^ (c.man + 1) then (2 ^ c.man, q + 1) else (k, q)
      s n + (q - c.eMin + 1).toNat <<< c.man + (k - 2 ^ c.man)

/-- The counts a conversion makes (R53), with the elements and the zeros of R80. -/
structure Counts where
  elements : Nat := 0
  zeros : Nat := 0
  underflows : Nat := 0
  saturations : Nat := 0
  nonfinite : Nat := 0
  deriving DecidableEq, Repr

/-- Sum of two counts. -/
def Counts.add (a b : Counts) : Counts :=
  ⟨a.elements + b.elements, a.zeros + b.zeros, a.underflows + b.underflows,
   a.saturations + b.saturations, a.nonfinite + b.nonfinite⟩

/-- The count of one element. -/
def Counts.one (zero under sat nonfin : Bool) : Counts :=
  ⟨1, b2n zero, b2n under, b2n sat, b2n nonfin⟩

/-- Conversion to a floating-point format other than KB4, with its count (R51, R53). Whether a value rounds beyond the
largest finite one is judged on its rounding under the mode in force, stochastic rounding included; R51 speaks of the
correctly rounded result and R56 of no other (DESIGN CHOICE, log entry 108). -/
def convFloat (f : Fmt) (rn : Rnd) (v : FVal) : Nat × Counts :=
  let c := f.enc
  match v with
  | .nan => (f.nanBits, .one false false false true)
  | .inf n =>
    if c.inf then (encodeRounded f (.inf n), .one false false false true)
    else (encodeRounded f (.fin n c.topM c.topE), .one false false false true)
  | .fin n m e =>
    let (k, q) := roundMag c rn m e
    if magLt c.topM c.topE k q then
      match f with
      | .e4m3 | .e5m2 => (encodeRounded f (.fin n c.topM c.topE), .one false false true false)
      | _ => (encodeRounded f (.inf n), .one false false false true)
    else (encodeRounded f (.fin n k q), .one (k = 0) (k = 0 && m ≠ 0) false false)

/-- Conversion to an integer format: nearest even, saturating (R49). A finite value below 0 that becomes 0 is clamped and
underflows to zero (R53). -/
def convInt (lo hi : Int) (w : Nat) (v : FVal) : Nat × Counts :=
  match v with
  | .nan => (0, .one true false false true)
  | .inf n => let r := if n then lo else hi
              (ofSigned w r, .one (r = 0) false false true)
  | .fin n m e =>
    let k := if 0 ≤ e then m <<< e.toNat else roundShift .rne m (-e).toNat
    let i : Int := if n then -(k : Int) else (k : Int)
    if i < lo then (ofSigned w lo, .one (lo = 0) (lo = 0) true false)
    else if hi < i then (ofSigned w hi, .one false false true false)
    else (ofSigned w i, .one (i = 0) (i = 0 && m ≠ 0) false false)

/-- Conversion of one value to any format but KB4. -/
def convElem (f : Fmt) (rn : Rnd) (v : FVal) : Nat × Counts :=
  match f with
  | .int8 => convInt (-128) 127 8 v
  | .int32 => convInt (-2147483648) 2147483647 32 v
  | .uint32 => convInt 0 4294967295 32 v
  | _ => convFloat f rn v

/-- Magnitudes of two values, the larger one (finite values only). -/
def magMax (a b : FVal) : FVal :=
  match a, b with
  | .fin _ m e, .fin _ k g => if magLt m e k g then .fin false k g else .fin false m e
  | a, _ => a

/-- The block exponent of R52 for a finite greatest magnitude. -/
def kb4Exp : FVal → Int
  | .fin _ m x =>
    if m = 0 then -127 else
    let l : Int := (Nat.log2 m : Int) + x
    let e := if magLt 3 (l - 1) m x then l - 1 else l - 2
    if e < -127 then -127 else if 127 < e then 127 else e
  | _ => -127

/-- Bytes of a KB4 block from 16 element codes and a scale byte (R46). -/
def kb4Bytes (codes : List Nat) (scale : Nat) : List Byte :=
  (upto 8).map (fun i => BitVec.ofNat 8 (codes.getD (2 * i) 0 + 16 * codes.getD (2 * i + 1) 0))
    ++ [BitVec.ofNat 8 scale]

/-- Conversion of up to 16 values to one KB4 block (R51 to R53); `draw i` is the draw of element i under
stochastic rounding. Elements beyond the list are +0 and are not counted (R47). The elements of a block written with
SCALE 0xFF are code 0: the spec gives that block its SCALE alone (DESIGN CHOICE, log entry 109). -/
def convKb4 (rn : Nat → Rnd) (vs : List FVal) : List Byte × Counts :=
  if vs.all FVal.isFin then
    let e := kb4Exp (vs.foldl magMax FVal.zero)
    let c := Fmt.kb4.enc
    let one (i : Nat) (v : FVal) : Nat × Counts :=
      match v with
      | .fin n m x =>
        let (k, q) := roundMag c (rn i) m (x - e)
        if magLt c.topM c.topE k q then (encodeRounded .kb4 (.fin n c.topM c.topE), .one false false true false)
        else (encodeRounded .kb4 (.fin n k q), .one (k = 0) (k = 0 && m ≠ 0) false false)
      | _ => (0, .one true false false false)
    let rs := vs.zipIdx.map (fun p => one p.2 p.1)
    (kb4Bytes (rs.map Prod.fst) (e + 127).toNat, rs.foldl (fun a r => a.add r.2) {})
  else
    (kb4Bytes [] 0xFF, { elements := vs.length, nonfinite := 1 })

/-- Decode of element `i` of a KB4 block of 9 bytes held as a number (R46, R48). -/
def kb4Elem (block i : Nat) : FVal :=
  let s := bits block 71 64
  if s = 0xFF then .nan
  else match decodeFloat .kb4 (bits block (4 * i + 3) (4 * i)) with
    | .fin n m e => .fin n m (e + (s : Int) - 127)
    | v => v

/-- Philox4x32, one round (R55). -/
def philoxRound (k0 k1 : Nat) (c : Nat × Nat × Nat × Nat) : Nat × Nat × Nat × Nat :=
  let (c0, c1, c2, c3) := c
  let p0 := 0xD2511F53 * c0
  let p1 := 0xCD9E8D57 * c2
  ((p1 >>> 32) ^^^ c1 ^^^ k0, p1 % 2 ^ 32, (p0 >>> 32) ^^^ c3 ^^^ k1, p0 % 2 ^ 32)

/-- Philox4x32 over `n` rounds, the keys bumped by the Weyl constants after each. -/
def philoxRounds : Nat → Nat → Nat → Nat × Nat × Nat × Nat → Nat × Nat × Nat × Nat
  | 0, _, _, c => c
  | n + 1, k0, k1, c =>
    philoxRounds n ((k0 + 0x9E3779B9) % 2 ^ 32) ((k1 + 0xBB67AE85) % 2 ^ 32) (philoxRound k0 k1 c)

/-- The draw of R55 for an element: seed, tensor identity and linear index. -/
def philoxDraw (seed tensor index : Nat) : Nat :=
  (philoxRounds 10 (bits seed 31 0) (bits seed 63 32)
    (bits index 31 0, bits index 63 32, tensor % 2 ^ 32, 0)).1

/-- The formats that stochastic rounding writes (R54). -/
def Fmt.narrow : Fmt → Bool
  | .bf16 | .e4m3 | .e5m2 | .kb4 => true
  | _ => false

/-- The rounding a descriptor's field selects (R54). -/
def rndOf (field seed tensor : Nat) (index : Nat) : Rnd :=
  if field = 1 then .stoch (philoxDraw seed tensor index) else .rne

/-- Conversion of a row of values to a format, its elements at linear indices from `base` (R47, R51 to R56). -/
def convRow (f : Fmt) (rn : Nat → Rnd) (vs : List FVal) : List Byte × Counts :=
  match f with
  | .kb4 =>
    (upto (ceilDiv vs.length 16)).foldl (fun acc j =>
      let (b, c) := convKb4 (fun i => rn (16 * j + i)) ((vs.drop (16 * j)).take 16)
      (acc.1 ++ b, acc.2.add c)) ([], {})
  | _ =>
    let rs := vs.zipIdx.map (fun p => convElem f (rn p.2) p.1)
    (rs.flatMap (fun r => toBytes f.bytes r.1), rs.foldl (fun a r => a.add r.2) {})

/-- The values of the first `n` elements of a row of bytes (R43, R46, R47). -/
def decodeRow (f : Fmt) (n : Nat) (bs : List Byte) : List FVal :=
  match f with
  | .kb4 => (upto n).map (fun i => kb4Elem (ofBytes ((bs.drop (9 * (i / 16))).take 9)) (i % 16))
  | _ => (upto n).map (fun i => decodeElem f (ofBytes ((bs.drop (f.bytes * i)).take f.bytes)))

/-- An exact value read as FP32, KB4 values beyond its range becoming infinite (R48). -/
def asFp32 (v : FVal) : FVal := roundTo .fp32 v

/-- FP32 addition and multiplication, each rounded once (R50). -/
def add32 (a b : FVal) : FVal := roundTo .fp32 (a.add b)
def mul32 (a b : FVal) : FVal := roundTo .fp32 (a.mul b)
def sub32 (a b : FVal) : FVal := add32 a b.neg

/-- FP64 addition, rounded once (R62). -/
def add64 (a b : FVal) : FVal := roundTo .fp64 (a.add b)

/-- The bits of an FP32 value. -/
def bits32 (v : FVal) : Nat := encodeRounded .fp32 (roundTo .fp32 v)

/-- The value of FP32 bits. -/
def val32 (b : Nat) : FVal := decodeFloat .fp32 b

/-- Level by level pairwise sum (R60). -/
def treeLevel (add : FVal → FVal → FVal) : List FVal → List FVal
  | a :: b :: l => add a b :: treeLevel add l
  | l => l

/-- The pairwise tree over a power-of-two list of lane sums (R60). -/
def treeSum (add : FVal → FVal → FVal) : Nat → List FVal → FVal
  | 0, l => l.headD FVal.zero
  | n + 1, l => treeSum add n (treeLevel add l)

/-- Every 256th element from `j` (R60). -/
def lanePick (xs : List FVal) (j : Nat) : List FVal :=
  (upto (ceilDiv (xs.length - j) 256)).filterMap (fun i => xs[j + 256 * i]?)

/-- The vector-unit sum of R60. -/
def vecSum (add : FVal → FVal → FVal) (xs : List FVal) : FVal :=
  treeSum add 8 ((upto 256).map (fun j => (lanePick xs j).foldl add FVal.zero))

/-- Maximum of two values (R61). -/
def fmax (a b : FVal) : FVal :=
  match a, b with
  | .nan, _ => .nan
  | _, .nan => .nan
  | a, b => if a.lt b then b else if b.lt a then a else if a.sign then b else a

/-- Minimum of two values (R61). -/
def fmin (a b : FVal) : FVal :=
  match a, b with
  | .nan, _ => .nan
  | _, .nan => .nan
  | a, b => if a.lt b then a else if b.lt a then b else if a.sign then a else b

/-- Index of the greatest value, the lowest index among equals; a NaN ranks above every number (R61). -/
def argmaxFrom : List FVal → Nat → FVal → Nat → Nat
  | [], _, _, best => best
  | v :: l, i, m, best =>
    if m = .nan then best
    else if v = .nan || m.lt v then argmaxFrom l (i + 1) v i else argmaxFrom l (i + 1) m best

/-- Integer square root, rounded down, bit by bit. -/
def isqrtLoop : Nat → Nat → Nat → Nat
  | 0, _, r => r
  | n + 1, v, r =>
    let t := r + 2 ^ n
    isqrtLoop n v (if t * t ≤ v then t else r)

/-- Integer square root, rounded down. -/
def isqrt (v : Nat) : Nat := isqrtLoop (Nat.log2 v / 2 + 1) v 0

/-- reciprocal(x): the FP32 value nearest 1/x (R67). -/
def recip32 (x : FVal) : FVal :=
  match x with
  | .nan => .nan
  | .inf n => .fin n 0 0
  | .fin n m e =>
    if m = 0 then .inf n else
    let k := Nat.log2 m + 64
    let q := 2 ^ k / m
    let st := b2n (q * m ≠ 2 ^ k)
    roundTo .fp32 (.fin n (2 * q + st) (-(k : Int) - 1 - e))

/-- rsqrt(x): the FP32 value nearest 1/sqrt(x) (R67). -/
def rsqrt32 (x : FVal) : FVal :=
  match x with
  | .nan => .nan
  | .inf n => if n then .nan else .zero
  | .fin n m e =>
    if m = 0 then .inf n else
    if n then .nan else
    let (m, e) := if e % 2 = 0 then (m, e) else (2 * m, e - 1)
    let k := Nat.log2 m + 64
    let y := 2 ^ (2 * k) / m
    let s := isqrt y
    let st := b2n (s * s * m ≠ 2 ^ (2 * k))
    roundTo .fp32 (.fin false (2 * s + st) (-(k : Int) - 1 - e / 2))

/-- The FP32 value nearest log2(e), 0x3FB8_AA3B, and the one nearest ln 2, 0x3F31_7218 (R65). -/
def constL : FVal := val32 0x3FB8AA3B
def constN : FVal := val32 0x3F317218

/-- c_1 to c_6 of R68: the FP32 values nearest (ln 2)^k / k!. -/
def exp2C : List FVal :=
  [0x3F317218, 0x3E75FDF0, 0x3D635847, 0x3C1D955B, 0x3AAEC3FF, 0x39218489].map val32

/-- d_0 to d_4 of R69: the FP32 values nearest 2 / ((2j + 1) ln 2). -/
def log2D : List FVal :=
  [0x4038AA3B, 0x3F76384F, 0x3F13BB63, 0x3ED30BB1, 0x3EA4258A].map val32

/-- A finite value rounded to the nearest integer, ties to even. -/
def roundInt (neg : Bool) (m : Nat) (e : Int) : Int :=
  let k := if 0 ≤ e then m <<< e.toNat else roundShift .rne m (-e).toNat
  if neg then -(k : Int) else (k : Int)

/-- exp2(x) in FP32 (R67, R68). -/
def exp2f (x : FVal) : FVal :=
  match x with
  | .nan => .nan
  | .inf n => if n then .zero else .inf false
  | .fin n m e =>
    if !(x.lt (.fin false 128 0)) then .inf false
    else if x.lt (.fin true 151 0) then .zero
    else
      let k := roundInt n m e
      let f := x.add (FVal.ofInt (-k))
      let c := exp2C.reverse
      let p := (c.drop 1).foldl (fun p ck => add32 (mul32 p f) ck) (c.headD FVal.zero)
      let p := add32 (mul32 p f) FVal.one
      match p with
      | .fin pn pm pe => roundTo .fp32 (.fin pn pm (pe + k))
      | v => v

/-- log2(x) in FP32 (R67, R69). -/
def log2f (x : FVal) : FVal :=
  match x with
  | .nan => .nan
  | .inf n => if n then .nan else .inf false
  | .fin n m e =>
    if m = 0 then .inf true
    else if n then .nan
    else
      let l := Nat.log2 m
      let ex : Int := (l : Int) + e
      let mv : FVal := .fin false m (-(l : Int))
      if ex = 0 && m = 2 ^ l then .zero
      else
        let up := (val32 0x3FB504F3).lt mv
        let mv := if up then FVal.fin false m (-(l : Int) - 1) else mv
        let ex := if up then ex + 1 else ex
        let s := mul32 (sub32 mv FVal.one) (recip32 (add32 mv FVal.one))
        let z := mul32 s s
        let d := log2D.reverse
        let q := (d.drop 1).foldl (fun q dj => add32 (mul32 q z) dj) (d.headD FVal.zero)
        add32 (FVal.ofInt ex) (mul32 s q)

/-- tanh(x) in FP32 (R67, R70). -/
def tanhf (x : FVal) : FVal :=
  match x with
  | .nan => .nan
  | .inf n => .fin n 1 0
  | .fin n m e =>
    if magLt m e 1 (-12) then x
    else if !(magLt m e 9 0) then .fin n 1 0
    else
      let a : FVal := .fin false m e
      let t := exp2f (mul32 (mul32 (.fin false 2 0) a) constL)
      let y := sub32 FVal.one (mul32 (.fin false 2 0) (recip32 (add32 t FVal.one)))
      if n then y.neg else y

/-- sigmoid(x) (R65). -/
def sigmoidf (x : FVal) : FVal := recip32 (add32 FVal.one (exp2f (mul32 x.neg constL)))

/-- Maximum of a row, -infinity for an empty one. -/
def rowMax (xs : List FVal) : FVal := xs.foldl fmax (.inf true)

/-- Softmax over a row (R65). -/
def softmaxRow (xs : List FVal) : List FVal :=
  let m := rowMax xs
  if m = .inf true then xs.map (fun _ => FVal.zero)
  else
    let e := xs.map (fun x => exp2f (mul32 (sub32 x m) constL))
    let r := recip32 (vecSum add32 e)
    e.map (fun v => mul32 v r)

/-- The element count of a row in FP32, nearest even (R65). -/
def countF (n : Nat) : FVal := roundTo .fp32 (.fin false n 0)

/-- RMS normalisation (R65). -/
def rmsRow (xs gs : List FVal) (eps : FVal) : List FVal :=
  let q := vecSum add32 (xs.map (fun x => mul32 x x))
  let w := mul32 q (recip32 (countF xs.length))
  let r := rsqrt32 (add32 w eps)
  (xs.zip gs).map (fun p => mul32 (mul32 p.1 r) p.2)

/-- Layer normalisation (R65). -/
def layerRow (xs gs bs : List FVal) (eps : FVal) : List FVal :=
  let rn := recip32 (countF xs.length)
  let mu := mul32 (vecSum add32 xs) rn
  let d := xs.map (fun x => sub32 x mu)
  let v := mul32 (vecSum add32 (d.map (fun x => mul32 x x))) rn
  let r := rsqrt32 (add32 v eps)
  ((d.zip gs).zip bs).map (fun p => add32 (mul32 (mul32 p.1.1 r) p.1.2) p.2)

/-- Cross-entropy of one row in FP32 (R65). -/
def xentRow (xs : List FVal) (label : Nat) : FVal :=
  let m := rowMax xs
  let s := vecSum add32 (xs.map (fun x => exp2f (mul32 (sub32 x m) constL)))
  sub32 (add32 (mul32 (log2f s) constN) m) (xs.getD label FVal.zero)

/-- The next format of the replay chain (R73). -/
def Fmt.chainNext : Fmt → Fmt
  | .kb4 => .e4m3
  | .e4m3 => .bf16
  | .e5m2 => .bf16
  | .bf16 => .fp32
  | f => f

/-- The format after `n` steps of the replay chain (R73). -/
def Fmt.chain : Nat → Fmt → Fmt
  | 0, f => f
  | n + 1, f => Fmt.chain n f.chainNext

end Sys2Proof.Machine
end

