-- ==== Sys2Proof/Machine/RegTable.lean ====
section
/-! DEFINITION. The register tables of the spec: one row per register table, with its unit, offset, stride, fields,
field types and reset values (R12, R14), and one handle per named field. A fuse-loaded field has reset 0 here and is
loaded by `State.reset` from the fuses. -/

namespace Sys2Proof.Machine

/-- The units of R28 that hold registers, and the function pages of R473. -/
inductive UnitKind where
  | core | de | ce | cp | sp | stu | xpt | sw | rdm | kpr | mig | hbm | ddr | pkg | sec | tm | hif | flash | fn
  deriving DecidableEq, Repr

/-- The field types of R12. -/
inductive RegTy where
  | rw | ro | rs | w1c | wo
  deriving DecidableEq, Repr

/-- One field of a register table. -/
structure RegField where
  hi : Nat
  lo : Nat
  ty : RegTy
  reset : Nat
  deriving DecidableEq, Repr

/-- One register table: `count` registers from `off` at `stride`; `perPart` marks the registers of the package
block and of the time master that are indexed by a partition (R427, R493). -/
structure RegRow where
  unit : UnitKind
  off : Nat
  stride : Nat
  count : Nat
  perPart : Bool
  fields : List RegField
  deriving DecidableEq, Repr

/-- A named field of a register table. -/
structure FieldRef where
  row : RegRow
  hi : Nat
  lo : Nat
  deriving DecidableEq, Repr

/-- The value of a register after reset: every field at its reset value (R14), reserved bits zero (R15). -/
def RegRow.resetWord (r : RegRow) : Nat :=
  r.fields.foldl (fun a f => a + f.reset <<< f.lo) 0

/-- The bits of a register that hold fields of type `t`. -/
def RegRow.mask (r : RegRow) (t : RegTy) : Nat :=
  r.fields.foldl (fun a f => if f.ty = t then a + (2 ^ (f.hi + 1 - f.lo) - 1) <<< f.lo else a) 0

/-- PKG_NODE (R30). -/
def Reg.pkgNode : RegRow :=
  ⟨.pkg, 0x0, 0x0, 1, false,
    [⟨15, 15, .ro, 0⟩, ⟨14, 0, .ro, 0⟩]⟩
def Reg.pkgNodeValid : FieldRef := ⟨Reg.pkgNode, 15, 15⟩
def Reg.pkgNodeNode : FieldRef := ⟨Reg.pkgNode, 14, 0⟩

/-- SPAN_TBL_p (R31). -/
def Reg.spanTbl : RegRow :=
  ⟨.pkg, 0x100, 0x8, 8, true,
    [⟨47, 17, .rs, 0⟩, ⟨0, 0, .rs, 0⟩]⟩
def Reg.spanTblBase : FieldRef := ⟨Reg.spanTbl, 47, 17⟩
def Reg.spanTblEnable : FieldRef := ⟨Reg.spanTbl, 0, 0⟩

/-- PKG_MEM_TOP (R41). -/
def Reg.pkgMemTop : RegRow :=
  ⟨.pkg, 0x8, 0x0, 1, false,
    [⟨47, 21, .ro, 0⟩]⟩
def Reg.pkgMemTopTop : FieldRef := ⟨Reg.pkgMemTop, 47, 21⟩

/-- NUM_REPLAY_COUNT (R78). -/
def Reg.numReplayCount : RegRow :=
  ⟨.pkg, 0x218, 0x0, 1, false,
    [⟨63, 32, .ro, 0⟩, ⟨31, 16, .ro, 0⟩]⟩
def Reg.numReplayCountReplays : FieldRef := ⟨Reg.numReplayCount, 63, 32⟩
def Reg.numReplayCountEndOfChain : FieldRef := ⟨Reg.numReplayCount, 31, 16⟩

/-- NUM_WATCH_CTRL (R84). -/
def Reg.numWatchCtrl : RegRow :=
  ⟨.pkg, 0x200, 0x0, 1, false,
    [⟨31, 16, .rs, 64⟩, ⟨0, 0, .rs, 0⟩]⟩
def Reg.numWatchCtrlStarveSteps : FieldRef := ⟨Reg.numWatchCtrl, 31, 16⟩
def Reg.numWatchCtrlEnable : FieldRef := ⟨Reg.numWatchCtrl, 0, 0⟩

/-- NUM_WATCH_BASE (R84). -/
def Reg.numWatchBase : RegRow :=
  ⟨.pkg, 0x208, 0x0, 1, false,
    [⟨47, 18, .rs, 0⟩]⟩
def Reg.numWatchBaseBase : FieldRef := ⟨Reg.numWatchBase, 47, 18⟩

/-- NUM_WATCH_STEP (R84). -/
def Reg.numWatchStep : RegRow :=
  ⟨.pkg, 0x210, 0x0, 1, false,
    [⟨63, 32, .ro, 0⟩, ⟨0, 0, .wo, 0⟩]⟩
def Reg.numWatchStepStepCount : FieldRef := ⟨Reg.numWatchStep, 63, 32⟩
def Reg.numWatchStepStep : FieldRef := ⟨Reg.numWatchStep, 0, 0⟩

/-- CORE_CTRL (R121). -/
def Reg.coreCtrl : RegRow :=
  ⟨.core, 0x0, 0x0, 1, false,
    [⟨63, 32, .rs, 10000⟩, ⟨1, 1, .rs, 0⟩, ⟨0, 0, .wo, 0⟩]⟩
def Reg.coreCtrlFlagTimeout : FieldRef := ⟨Reg.coreCtrl, 63, 32⟩
def Reg.coreCtrlCycleExact : FieldRef := ⟨Reg.coreCtrl, 1, 1⟩
def Reg.coreCtrlAbort : FieldRef := ⟨Reg.coreCtrl, 0, 0⟩

/-- CORE_STATUS (R121). -/
def Reg.coreStatus : RegRow :=
  ⟨.core, 0x8, 0x0, 1, false,
    [⟨43, 32, .ro, 0⟩, ⟨23, 20, .ro, 0⟩, ⟨19, 16, .ro, 0⟩, ⟨15, 12, .ro, 0⟩, ⟨11, 10, .ro, 0⟩, ⟨3, 0, .ro, 0⟩]⟩
def Reg.coreStatusIndex : FieldRef := ⟨Reg.coreStatus, 43, 32⟩
def Reg.coreStatusArrayQ : FieldRef := ⟨Reg.coreStatus, 23, 20⟩
def Reg.coreStatusVectorQ : FieldRef := ⟨Reg.coreStatus, 19, 16⟩
def Reg.coreStatusPostQ : FieldRef := ⟨Reg.coreStatus, 15, 12⟩
def Reg.coreStatusReplayStep : FieldRef := ⟨Reg.coreStatus, 11, 10⟩
def Reg.coreStatusState : FieldRef := ⟨Reg.coreStatus, 3, 0⟩

/-- CORE_BUSY (R121). -/
def Reg.coreBusy : RegRow :=
  ⟨.core, 0x10, 0x0, 1, false,
    [⟨63, 32, .ro, 0⟩, ⟨31, 0, .ro, 0⟩]⟩
def Reg.coreBusyArrayFeed : FieldRef := ⟨Reg.coreBusy, 63, 32⟩
def Reg.coreBusyVectorBusy : FieldRef := ⟨Reg.coreBusy, 31, 0⟩

/-- SP_STATUS (R149). -/
def Reg.spStatus : RegRow :=
  ⟨.sp, 0x0, 0x0, 1, false,
    [⟨0, 0, .ro, 0⟩]⟩
def Reg.spStatusClearing : FieldRef := ⟨Reg.spStatus, 0, 0⟩

/-- SP_ECC (R149). -/
def Reg.spEcc : RegRow :=
  ⟨.sp, 0x8, 0x0, 1, false,
    [⟨63, 32, .ro, 0⟩, ⟨31, 16, .ro, 0⟩]⟩
def Reg.spEccCorrected : FieldRef := ⟨Reg.spEcc, 63, 32⟩
def Reg.spEccUncorrected : FieldRef := ⟨Reg.spEcc, 31, 16⟩

/-- SP_REPAIR (R149). -/
def Reg.spRepair : RegRow :=
  ⟨.sp, 0x10, 0x0, 1, false,
    [⟨15, 0, .ro, 0⟩]⟩
def Reg.spRepairSparesUsed : FieldRef := ⟨Reg.spRepair, 15, 0⟩

/-- CE_CTRL (R149). -/
def Reg.ceCtrl : RegRow :=
  ⟨.ce, 0x0, 0x0, 1, false,
    [⟨0, 0, .wo, 0⟩]⟩
def Reg.ceCtrlAbort : FieldRef := ⟨Reg.ceCtrl, 0, 0⟩

/-- CE_STATUS (R149). -/
def Reg.ceStatus : RegRow :=
  ⟨.ce, 0x8, 0x0, 1, false,
    [⟨7, 3, .ro, 0⟩, ⟨2, 0, .ro, 0⟩]⟩
def Reg.ceStatusQueued : FieldRef := ⟨Reg.ceStatus, 7, 3⟩
def Reg.ceStatusState : FieldRef := ⟨Reg.ceStatus, 2, 0⟩

/-- CE_COUNT (R149). -/
def Reg.ceCount : RegRow :=
  ⟨.ce, 0x10, 0x0, 1, false,
    [⟨63, 32, .ro, 0⟩, ⟨31, 0, .ro, 0⟩]⟩
def Reg.ceCountDrops : FieldRef := ⟨Reg.ceCount, 63, 32⟩
def Reg.ceCountCoalesced : FieldRef := ⟨Reg.ceCount, 31, 0⟩

/-- SKV_TILES (R166). -/
def Reg.skvTiles : RegRow :=
  ⟨.core, 0x100, 0x0, 1, false,
    [⟨63, 32, .ro, 0⟩, ⟨31, 0, .ro, 0⟩]⟩
def Reg.skvTilesTiles : FieldRef := ⟨Reg.skvTiles, 63, 32⟩
def Reg.skvTilesRaw : FieldRef := ⟨Reg.skvTiles, 31, 0⟩

/-- SKV_BYTES (R166). -/
def Reg.skvBytes : RegRow :=
  ⟨.core, 0x108, 0x0, 1, false,
    [⟨63, 0, .ro, 0⟩]⟩
def Reg.skvBytesSaved : FieldRef := ⟨Reg.skvBytes, 63, 0⟩

/-- SKV_PRUNED (R166). -/
def Reg.skvPruned : RegRow :=
  ⟨.core, 0x110, 0x0, 1, false,
    [⟨63, 32, .ro, 0⟩]⟩
def Reg.skvPrunedPruned : FieldRef := ⟨Reg.skvPruned, 63, 32⟩

/-- DE_CTRL (R197). -/
def Reg.deCtrl : RegRow :=
  ⟨.de, 0x40, 0x0, 1, false,
    [⟨63, 32, .rs, 10000⟩, ⟨0, 0, .wo, 0⟩]⟩
def Reg.deCtrlFlagTimeout : FieldRef := ⟨Reg.deCtrl, 63, 32⟩
def Reg.deCtrlAbort : FieldRef := ⟨Reg.deCtrl, 0, 0⟩

/-- DE_STATUS (R197). -/
def Reg.deStatus : RegRow :=
  ⟨.de, 0x48, 0x0, 1, false,
    [⟨8, 4, .ro, 0⟩, ⟨3, 0, .ro, 0⟩]⟩
def Reg.deStatusQueued : FieldRef := ⟨Reg.deStatus, 8, 4⟩
def Reg.deStatusState : FieldRef := ⟨Reg.deStatus, 3, 0⟩

/-- DE_TOKENS (R197). -/
def Reg.deTokens : RegRow :=
  ⟨.de, 0x50, 0x0, 1, false,
    [⟨63, 32, .ro, 0⟩, ⟨31, 0, .ro, 0⟩]⟩
def Reg.deTokensRouted : FieldRef := ⟨Reg.deTokens, 63, 32⟩
def Reg.deTokensCombined : FieldRef := ⟨Reg.deTokens, 31, 0⟩

/-- DE_PAIRS (R197). -/
def Reg.dePairs : RegRow :=
  ⟨.de, 0x58, 0x0, 1, false,
    [⟨63, 0, .ro, 0⟩]⟩
def Reg.dePairsPairs : FieldRef := ⟨Reg.dePairs, 63, 0⟩

/-- DE_EVENTS (R197). -/
def Reg.deEvents : RegRow :=
  ⟨.de, 0x60, 0x0, 1, false,
    [⟨63, 32, .ro, 0⟩, ⟨31, 16, .ro, 0⟩]⟩
def Reg.deEventsNonfinite : FieldRef := ⟨Reg.deEvents, 63, 32⟩
def Reg.deEventsFeedRefused : FieldRef := ⟨Reg.deEvents, 31, 16⟩

/-- PLC_BANK0_p (R209). -/
def Reg.plcBank0 : RegRow :=
  ⟨.pkg, 0x400, 0x40, 8, true,
    [⟨47, 12, .rw, 0⟩]⟩
def Reg.plcBank0Base : FieldRef := ⟨Reg.plcBank0, 47, 12⟩

/-- PLC_BANK1_p (R209). -/
def Reg.plcBank1 : RegRow :=
  ⟨.pkg, 0x408, 0x40, 8, true,
    [⟨47, 12, .rw, 0⟩]⟩
def Reg.plcBank1Base : FieldRef := ⟨Reg.plcBank1, 47, 12⟩

/-- PLC_CTRL_p (R209). -/
def Reg.plcCtrl : RegRow :=
  ⟨.pkg, 0x410, 0x40, 8, true,
    [⟨2, 2, .rs, 0⟩, ⟨1, 1, .rs, 0⟩, ⟨0, 0, .rs, 0⟩]⟩
def Reg.plcCtrlHash : FieldRef := ⟨Reg.plcCtrl, 2, 2⟩
def Reg.plcCtrlBank : FieldRef := ⟨Reg.plcCtrl, 1, 1⟩
def Reg.plcCtrlEnable : FieldRef := ⟨Reg.plcCtrl, 0, 0⟩

/-- PLC_CMD_p (R209). -/
def Reg.plcCmd : RegRow :=
  ⟨.pkg, 0x418, 0x40, 8, true,
    [⟨1, 1, .wo, 0⟩, ⟨0, 0, .wo, 0⟩]⟩
def Reg.plcCmdVbank : FieldRef := ⟨Reg.plcCmd, 1, 1⟩
def Reg.plcCmdVerify : FieldRef := ⟨Reg.plcCmd, 0, 0⟩

/-- PLC_STATUS_p (R209). -/
def Reg.plcStatus : RegRow :=
  ⟨.pkg, 0x420, 0x40, 8, true,
    [⟨63, 32, .ro, 0⟩, ⟨31, 28, .ro, 0⟩, ⟨27, 12, .ro, 0⟩, ⟨7, 7, .w1c, 0⟩, ⟨6, 6, .w1c, 0⟩, ⟨5, 5, .ro, 0⟩, ⟨4, 4, .ro, 0⟩, ⟨3, 3, .ro, 0⟩, ⟨2, 2, .ro, 0⟩, ⟨1, 1, .ro, 0⟩, ⟨0, 0, .ro, 0⟩]⟩
def Reg.plcStatusGen : FieldRef := ⟨Reg.plcStatus, 63, 32⟩
def Reg.plcStatusErr : FieldRef := ⟨Reg.plcStatus, 31, 28⟩
def Reg.plcStatusErrEntry : FieldRef := ⟨Reg.plcStatus, 27, 12⟩
def Reg.plcStatusLateSwitch : FieldRef := ⟨Reg.plcStatus, 7, 7⟩
def Reg.plcStatusMissed : FieldRef := ⟨Reg.plcStatus, 6, 6⟩
def Reg.plcStatusHeld : FieldRef := ⟨Reg.plcStatus, 5, 5⟩
def Reg.plcStatusVerifyBusy : FieldRef := ⟨Reg.plcStatus, 4, 4⟩
def Reg.plcStatusShadowOk : FieldRef := ⟨Reg.plcStatus, 3, 3⟩
def Reg.plcStatusShadowBank : FieldRef := ⟨Reg.plcStatus, 2, 2⟩
def Reg.plcStatusInForceBank : FieldRef := ⟨Reg.plcStatus, 1, 1⟩
def Reg.plcStatusInForce : FieldRef := ⟨Reg.plcStatus, 0, 0⟩

/-- PLC_AT_p (R209). -/
def Reg.plcAt : RegRow :=
  ⟨.pkg, 0x428, 0x40, 8, true,
    [⟨63, 0, .rs, 0⟩]⟩
def Reg.plcAtAt : FieldRef := ⟨Reg.plcAt, 63, 0⟩

/-- PLC_POP_p (R215). -/
def Reg.plcPop : RegRow :=
  ⟨.pkg, 0x430, 0x40, 8, true,
    [⟨47, 22, .rs, 0⟩, ⟨16, 16, .rs, 0⟩, ⟨15, 0, .rs, 0⟩]⟩
def Reg.plcPopBase : FieldRef := ⟨Reg.plcPop, 47, 22⟩
def Reg.plcPopEnable : FieldRef := ⟨Reg.plcPop, 16, 16⟩
def Reg.plcPopBeats : FieldRef := ⟨Reg.plcPop, 15, 0⟩

/-- PLC_POP_STATUS_p (R215). -/
def Reg.plcPopStatus : RegRow :=
  ⟨.pkg, 0x438, 0x40, 8, true,
    [⟨63, 32, .ro, 0⟩, ⟨1, 1, .ro, 0⟩, ⟨0, 0, .wo, 0⟩]⟩
def Reg.plcPopStatusIntervals : FieldRef := ⟨Reg.plcPopStatus, 63, 32⟩
def Reg.plcPopStatusReadHalf : FieldRef := ⟨Reg.plcPopStatus, 1, 1⟩
def Reg.plcPopStatusEnd : FieldRef := ⟨Reg.plcPopStatus, 0, 0⟩

/-- PLC_POLICY_p (R218). -/
def Reg.plcPolicy : RegRow :=
  ⟨.pkg, 0x700, 0x8, 8, true,
    [⟨47, 12, .rs, 0⟩, ⟨1, 1, .rs, 0⟩, ⟨0, 0, .rs, 0⟩]⟩
def Reg.plcPolicyList : FieldRef := ⟨Reg.plcPolicy, 47, 12⟩
def Reg.plcPolicyLeader : FieldRef := ⟨Reg.plcPolicy, 1, 1⟩
def Reg.plcPolicyEnable : FieldRef := ⟨Reg.plcPolicy, 0, 0⟩

/-- KPR_CTRL (R237). -/
def Reg.kprCtrl : RegRow :=
  ⟨.kpr, 0x0, 0x0, 1, false,
    [⟨63, 32, .rs, 1000⟩, ⟨0, 0, .wo, 0⟩]⟩
def Reg.kprCtrlSeqTimeout : FieldRef := ⟨Reg.kprCtrl, 63, 32⟩
def Reg.kprCtrlAbort : FieldRef := ⟨Reg.kprCtrl, 0, 0⟩

/-- KPR_PART_p (R237). -/
def Reg.kprPart : RegRow :=
  ⟨.kpr, 0x100, 0x20, 8, false,
    [⟨63, 32, .ro, 0⟩, ⟨31, 24, .ro, 0⟩, ⟨0, 0, .ro, 0⟩]⟩
def Reg.kprPartLiveGroups : FieldRef := ⟨Reg.kprPart, 63, 32⟩
def Reg.kprPartFailed : FieldRef := ⟨Reg.kprPart, 31, 24⟩
def Reg.kprPartReserved : FieldRef := ⟨Reg.kprPart, 0, 0⟩

/-- KPR_LIVE_p (R237). -/
def Reg.kprLive : RegRow :=
  ⟨.kpr, 0x108, 0x20, 8, false,
    [⟨63, 0, .ro, 0⟩]⟩
def Reg.kprLiveLiveBytes : FieldRef := ⟨Reg.kprLive, 63, 0⟩

/-- KPR_COUNT_p (R237). -/
def Reg.kprCount : RegRow :=
  ⟨.kpr, 0x110, 0x20, 8, false,
    [⟨63, 32, .ro, 0⟩, ⟨31, 16, .ro, 0⟩, ⟨15, 0, .ro, 0⟩]⟩
def Reg.kprCountAllocs : FieldRef := ⟨Reg.kprCount, 63, 32⟩
def Reg.kprCountOver : FieldRef := ⟨Reg.kprCount, 31, 16⟩
def Reg.kprCountDenied : FieldRef := ⟨Reg.kprCount, 15, 0⟩

/-- XPT_CTRL (R275). -/
def Reg.xptCtrl : RegRow :=
  ⟨.xpt, 0x0, 0x0, 1, false,
    [⟨63, 48, .rs, 625⟩, ⟨47, 32, .rs, 40⟩, ⟨31, 24, .rs, 8⟩, ⟨23, 16, .rs, 8⟩, ⟨15, 8, .rs, 16⟩]⟩
def Reg.xptCtrlAgeLimit : FieldRef := ⟨Reg.xptCtrl, 63, 48⟩
def Reg.xptCtrlResendTimeout : FieldRef := ⟨Reg.xptCtrl, 47, 32⟩
def Reg.xptCtrlRetryLimit : FieldRef := ⟨Reg.xptCtrl, 31, 24⟩
def Reg.xptCtrlAckDelay : FieldRef := ⟨Reg.xptCtrl, 23, 16⟩
def Reg.xptCtrlSackThresh : FieldRef := ⟨Reg.xptCtrl, 15, 8⟩

/-- XPT_NM_LOCAL (R275). -/
def Reg.xptNmLocal : RegRow :=
  ⟨.xpt, 0x8, 0x0, 1, false,
    [⟨39, 32, .rs, 8⟩, ⟨31, 24, .rs, 32⟩, ⟨23, 16, .rs, 192⟩, ⟨15, 8, .rs, 0⟩, ⟨7, 0, .rs, 4⟩]⟩
def Reg.xptNmLocalSatPorts : FieldRef := ⟨Reg.xptNmLocal, 39, 32⟩
def Reg.xptNmLocalDet : FieldRef := ⟨Reg.xptNmLocal, 31, 24⟩
def Reg.xptNmLocalMax : FieldRef := ⟨Reg.xptNmLocal, 23, 16⟩
def Reg.xptNmLocalMin : FieldRef := ⟨Reg.xptNmLocal, 15, 8⟩
def Reg.xptNmLocalSlope : FieldRef := ⟨Reg.xptNmLocal, 7, 0⟩

/-- XPT_NM_GLOBAL (R275). -/
def Reg.xptNmGlobal : RegRow :=
  ⟨.xpt, 0x10, 0x0, 1, false,
    [⟨39, 32, .rs, 4⟩, ⟨31, 24, .rs, 64⟩, ⟨23, 16, .rs, 224⟩, ⟨15, 8, .rs, 0⟩, ⟨7, 0, .rs, 4⟩]⟩
def Reg.xptNmGlobalSatPorts : FieldRef := ⟨Reg.xptNmGlobal, 39, 32⟩
def Reg.xptNmGlobalDet : FieldRef := ⟨Reg.xptNmGlobal, 31, 24⟩
def Reg.xptNmGlobalMax : FieldRef := ⟨Reg.xptNmGlobal, 23, 16⟩
def Reg.xptNmGlobalMin : FieldRef := ⟨Reg.xptNmGlobal, 15, 8⟩
def Reg.xptNmGlobalSlope : FieldRef := ⟨Reg.xptNmGlobal, 7, 0⟩

/-- XPT_INC (R275). -/
def Reg.xptInc : RegRow :=
  ⟨.xpt, 0x18, 0x0, 1, false,
    [⟨7, 0, .rw, 0⟩]⟩
def Reg.xptIncInc : FieldRef := ⟨Reg.xptInc, 7, 0⟩

/-- XPT_SPARE (R275). -/
def Reg.xptSpare : RegRow :=
  ⟨.xpt, 0x20, 0x0, 1, false,
    [⟨6, 0, .rs, 127⟩]⟩
def Reg.xptSpareFor : FieldRef := ⟨Reg.xptSpare, 6, 0⟩

/-- XPT_PTAG_p (R275). -/
def Reg.xptPtag : RegRow :=
  ⟨.xpt, 0x80, 0x8, 8, false,
    [⟨16, 16, .rs, 0⟩, ⟨15, 0, .rs, 0⟩]⟩
def Reg.xptPtagValid : FieldRef := ⟨Reg.xptPtag, 16, 16⟩
def Reg.xptPtagTag : FieldRef := ⟨Reg.xptPtag, 15, 0⟩

/-- XPT_PORT_j (R275). -/
def Reg.xptPort : RegRow :=
  ⟨.xpt, 0x100, 0x8, 12, false,
    [⟨47, 47, .ro, 0⟩, ⟨46, 32, .ro, 0⟩, ⟨31, 24, .ro, 0⟩, ⟨11, 8, .rs, 0⟩, ⟨3, 0, .ro, 0⟩]⟩
def Reg.xptPortNbValid : FieldRef := ⟨Reg.xptPort, 47, 47⟩
def Reg.xptPortNbNode : FieldRef := ⟨Reg.xptPort, 46, 32⟩
def Reg.xptPortNbPort : FieldRef := ⟨Reg.xptPort, 31, 24⟩
def Reg.xptPortWeight : FieldRef := ⟨Reg.xptPort, 11, 8⟩
def Reg.xptPortState : FieldRef := ⟨Reg.xptPort, 3, 0⟩

/-- XPT_LINK_j (R275). -/
def Reg.xptLink : RegRow :=
  ⟨.xpt, 0x180, 0x8, 12, false,
    [⟨63, 40, .ro, 0⟩, ⟨39, 16, .ro, 0⟩, ⟨15, 0, .ro, 0⟩]⟩
def Reg.xptLinkCwCorrected : FieldRef := ⟨Reg.xptLink, 63, 40⟩
def Reg.xptLinkCwUncorr : FieldRef := ⟨Reg.xptLink, 39, 16⟩
def Reg.xptLinkHcrc : FieldRef := ⟨Reg.xptLink, 15, 0⟩

/-- XPT_GRP_h (R275). -/
def Reg.xptGrp : RegRow :=
  ⟨.xpt, 0x1000, 0x8, 513, false,
    [⟨25, 16, .rs, 0⟩, ⟨8, 0, .rs, 0⟩]⟩
def Reg.xptGrpCount : FieldRef := ⟨Reg.xptGrp, 25, 16⟩
def Reg.xptGrpFirst : FieldRef := ⟨Reg.xptGrp, 8, 0⟩

/-- XPT_GW_i (R275). -/
def Reg.xptGw : RegRow :=
  ⟨.xpt, 0x4000, 0x8, 512, false,
    [⟨12, 9, .rs, 0⟩, ⟨8, 4, .rs, 0⟩, ⟨3, 0, .rs, 0⟩]⟩
def Reg.xptGwWeight : FieldRef := ⟨Reg.xptGw, 12, 9⟩
def Reg.xptGwMember : FieldRef := ⟨Reg.xptGw, 8, 4⟩
def Reg.xptGwSlot : FieldRef := ⟨Reg.xptGw, 3, 0⟩

/-- XPT_DROP (R275). -/
def Reg.xptDrop : RegRow :=
  ⟨.xpt, 0x210, 0x0, 1, false,
    [⟨63, 48, .ro, 0⟩, ⟨47, 32, .ro, 0⟩, ⟨31, 16, .ro, 0⟩, ⟨15, 0, .ro, 0⟩]⟩
def Reg.xptDropE2e : FieldRef := ⟨Reg.xptDrop, 63, 48⟩
def Reg.xptDropStaleTag : FieldRef := ⟨Reg.xptDrop, 47, 32⟩
def Reg.xptDropStaleInc : FieldRef := ⟨Reg.xptDrop, 31, 16⟩
def Reg.xptDropAged : FieldRef := ⟨Reg.xptDrop, 15, 0⟩

/-- XPT_ABANDON (R275). -/
def Reg.xptAbandon : RegRow :=
  ⟨.xpt, 0x218, 0x0, 1, false,
    [⟨63, 32, .ro, 0⟩, ⟨31, 16, .ro, 0⟩, ⟨15, 0, .ro, 0⟩]⟩
def Reg.xptAbandonAbandoned : FieldRef := ⟨Reg.xptAbandon, 63, 32⟩
def Reg.xptAbandonMalformed : FieldRef := ⟨Reg.xptAbandon, 31, 16⟩
def Reg.xptAbandonLoop : FieldRef := ⟨Reg.xptAbandon, 15, 0⟩

/-- XPT_XCH_DROP (R275). -/
def Reg.xptXchDrop : RegRow :=
  ⟨.xpt, 0x238, 0x0, 1, false,
    [⟨63, 32, .ro, 0⟩, ⟨31, 0, .ro, 0⟩]⟩
def Reg.xptXchDropClosed : FieldRef := ⟨Reg.xptXchDrop, 63, 32⟩
def Reg.xptXchDropExtra : FieldRef := ⟨Reg.xptXchDrop, 31, 0⟩

/-- SW_CTRL (R294). -/
def Reg.swCtrl : RegRow :=
  ⟨.sw, 0x0, 0x0, 1, false,
    [⟨0, 0, .rs, 0⟩]⟩
def Reg.swCtrlInputCopy : FieldRef := ⟨Reg.swCtrl, 0, 0⟩

/-- SW_BUF (R294). -/
def Reg.swBuf : RegRow :=
  ⟨.sw, 0x8, 0x0, 1, false,
    [⟨47, 32, .rs, 16384⟩, ⟨23, 0, .rs, 65536⟩]⟩
def Reg.swBufHopResv : FieldRef := ⟨Reg.swBuf, 47, 32⟩
def Reg.swBufCap : FieldRef := ⟨Reg.swBuf, 23, 0⟩

/-- SW_ARB (R294). -/
def Reg.swArb : RegRow :=
  ⟨.sw, 0x10, 0x0, 1, false,
    [⟨47, 32, .rs, 16⟩, ⟨31, 16, .rs, 64⟩, ⟨15, 0, .rs, 64⟩]⟩
def Reg.swArbQBulk : FieldRef := ⟨Reg.swArb, 47, 32⟩
def Reg.swArbQExch : FieldRef := ⟨Reg.swArb, 31, 16⟩
def Reg.swArbQColl : FieldRef := ⟨Reg.swArb, 15, 0⟩

/-- SW_MIRROR (R294). -/
def Reg.swMirror : RegRow :=
  ⟨.sw, 0x18, 0x0, 1, false,
    [⟨28, 16, .rs, 0⟩, ⟨9, 9, .rs, 0⟩, ⟨8, 8, .rs, 0⟩, ⟨4, 0, .rs, 4⟩]⟩
def Reg.swMirrorPorts : FieldRef := ⟨Reg.swMirror, 28, 16⟩
def Reg.swMirrorDest : FieldRef := ⟨Reg.swMirror, 9, 9⟩
def Reg.swMirrorEnable : FieldRef := ⟨Reg.swMirror, 8, 8⟩
def Reg.swMirrorLog2n : FieldRef := ⟨Reg.swMirror, 4, 0⟩

/-- SW_MIRROR_RING (R294). -/
def Reg.swMirrorRing : RegRow :=
  ⟨.sw, 0x20, 0x0, 1, false,
    [⟨15, 0, .rs, 0⟩]⟩
def Reg.swMirrorRingRing : FieldRef := ⟨Reg.swMirrorRing, 15, 0⟩

/-- SW_OCC (R294). -/
def Reg.swOcc : RegRow :=
  ⟨.sw, 0x28, 0x0, 1, false,
    [⟨39, 20, .ro, 0⟩, ⟨19, 0, .ro, 733184⟩]⟩
def Reg.swOccSharedUsed : FieldRef := ⟨Reg.swOcc, 39, 20⟩
def Reg.swOccSharedFree : FieldRef := ⟨Reg.swOcc, 19, 0⟩

/-- STU_CMD (R325). -/
def Reg.stuCmd : RegRow :=
  ⟨.stu, 0x0, 0x0, 1, false,
    [⟨13, 8, .wo, 0⟩, ⟨1, 0, .wo, 0⟩]⟩
def Reg.stuCmdCtx : FieldRef := ⟨Reg.stuCmd, 13, 8⟩
def Reg.stuCmdOp : FieldRef := ⟨Reg.stuCmd, 1, 0⟩

/-- STU_STATUS (R325). -/
def Reg.stuStatus : RegRow :=
  ⟨.stu, 0x10, 0x0, 1, false,
    [⟨23, 16, .ro, 0⟩, ⟨13, 8, .ro, 0⟩, ⟨3, 0, .ro, 0⟩]⟩
def Reg.stuStatusQueued : FieldRef := ⟨Reg.stuStatus, 23, 16⟩
def Reg.stuStatusRunCtx : FieldRef := ⟨Reg.stuStatus, 13, 8⟩
def Reg.stuStatusState : FieldRef := ⟨Reg.stuStatus, 3, 0⟩

/-- STU_CNT (R325). -/
def Reg.stuCnt : RegRow :=
  ⟨.stu, 0x100, 0x0, 1, false,
    [⟨63, 32, .ro, 0⟩, ⟨31, 0, .ro, 0⟩]⟩
def Reg.stuCntChunks : FieldRef := ⟨Reg.stuCnt, 63, 32⟩
def Reg.stuCntFailed : FieldRef := ⟨Reg.stuCnt, 31, 0⟩

/-- STU_DROP (R325). -/
def Reg.stuDrop : RegRow :=
  ⟨.stu, 0x108, 0x0, 1, false,
    [⟨63, 48, .ro, 0⟩, ⟨47, 32, .ro, 0⟩, ⟨31, 16, .ro, 0⟩, ⟨15, 0, .ro, 0⟩]⟩
def Reg.stuDropBadCtx : FieldRef := ⟨Reg.stuDrop, 63, 48⟩
def Reg.stuDropStaleChunk : FieldRef := ⟨Reg.stuDrop, 47, 32⟩
def Reg.stuDropDupInput : FieldRef := ⟨Reg.stuDrop, 31, 16⟩
def Reg.stuDropUnsorted : FieldRef := ⟨Reg.stuDrop, 15, 0⟩

/-- STU_CONV (R325). -/
def Reg.stuConv : RegRow :=
  ⟨.stu, 0x110, 0x0, 1, false,
    [⟨63, 32, .ro, 0⟩, ⟨31, 0, .ro, 0⟩]⟩
def Reg.stuConvSaturations : FieldRef := ⟨Reg.stuConv, 63, 32⟩
def Reg.stuConvNonfinite : FieldRef := ⟨Reg.stuConv, 31, 0⟩

/-- RDM_FREE (R325). -/
def Reg.rdmFree : RegRow :=
  ⟨.rdm, 0x0, 0x0, 1, false,
    [⟨26, 16, .ro, 1024⟩, ⟨10, 0, .ro, 1024⟩]⟩
def Reg.rdmFreeLargest : FieldRef := ⟨Reg.rdmFree, 26, 16⟩
def Reg.rdmFreeFree : FieldRef := ⟨Reg.rdmFree, 10, 0⟩

/-- RDM_ECC (R325). -/
def Reg.rdmEcc : RegRow :=
  ⟨.rdm, 0x8, 0x0, 1, false,
    [⟨63, 32, .ro, 0⟩, ⟨31, 16, .ro, 0⟩]⟩
def Reg.rdmEccCorrected : FieldRef := ⟨Reg.rdmEcc, 63, 32⟩
def Reg.rdmEccUncorr : FieldRef := ⟨Reg.rdmEcc, 31, 16⟩

/-- DE_COLL (R357). -/
def Reg.deColl : RegRow :=
  ⟨.de, 0x68, 0x0, 1, false,
    [⟨63, 32, .rs, 10000⟩, ⟨6, 0, .ro, 0⟩]⟩
def Reg.deCollTimeout : FieldRef := ⟨Reg.deColl, 63, 32⟩
def Reg.deCollGroups : FieldRef := ⟨Reg.deColl, 6, 0⟩

/-- DE_COLL_CNT (R357). -/
def Reg.deCollCnt : RegRow :=
  ⟨.de, 0x70, 0x0, 1, false,
    [⟨63, 32, .ro, 0⟩, ⟨31, 0, .ro, 0⟩]⟩
def Reg.deCollCntSent : FieldRef := ⟨Reg.deCollCnt, 63, 32⟩
def Reg.deCollCntWritten : FieldRef := ⟨Reg.deCollCnt, 31, 0⟩

/-- DE_COLL_FAIL (R357). -/
def Reg.deCollFail : RegRow :=
  ⟨.de, 0x78, 0x0, 1, false,
    [⟨63, 48, .ro, 0⟩, ⟨47, 32, .ro, 0⟩, ⟨31, 0, .ro, 0⟩]⟩
def Reg.deCollFailMismatch : FieldRef := ⟨Reg.deCollFail, 63, 48⟩
def Reg.deCollFailTimeouts : FieldRef := ⟨Reg.deCollFail, 47, 32⟩
def Reg.deCollFailFallback : FieldRef := ⟨Reg.deCollFail, 31, 0⟩

/-- MIG_CTRL (R387). -/
def Reg.migCtrl : RegRow :=
  ⟨.mig, 0x0, 0x0, 1, false,
    [⟨63, 48, .rs, 256⟩, ⟨47, 32, .rs, 1000⟩, ⟨31, 24, .rs, 16⟩, ⟨23, 8, .rs, 64⟩, ⟨2, 2, .rs, 1⟩, ⟨1, 1, .rs, 0⟩, ⟨0, 0, .wo, 0⟩]⟩
def Reg.migCtrlPromoteMin : FieldRef := ⟨Reg.migCtrl, 63, 48⟩
def Reg.migCtrlInterval : FieldRef := ⟨Reg.migCtrl, 47, 32⟩
def Reg.migCtrlMaxSwaps : FieldRef := ⟨Reg.migCtrl, 31, 24⟩
def Reg.migCtrlHyst : FieldRef := ⟨Reg.migCtrl, 23, 8⟩
def Reg.migCtrlScrub : FieldRef := ⟨Reg.migCtrl, 2, 2⟩
def Reg.migCtrlAuto : FieldRef := ⟨Reg.migCtrl, 1, 1⟩
def Reg.migCtrlAbort : FieldRef := ⟨Reg.migCtrl, 0, 0⟩

/-- MIG_STATUS (R387). -/
def Reg.migStatus : RegRow :=
  ⟨.mig, 0x8, 0x0, 1, false,
    [⟨63, 32, .ro, 0⟩, ⟨31, 16, .ro, 0⟩, ⟨7, 4, .ro, 0⟩, ⟨3, 0, .ro, 0⟩]⟩
def Reg.migStatusSwaps : FieldRef := ⟨Reg.migStatus, 63, 32⟩
def Reg.migStatusAbandoned : FieldRef := ⟨Reg.migStatus, 31, 16⟩
def Reg.migStatusRunning : FieldRef := ⟨Reg.migStatus, 7, 4⟩
def Reg.migStatusState : FieldRef := ⟨Reg.migStatus, 3, 0⟩

/-- MIG_QUERY (R387). -/
def Reg.migQuery : RegRow :=
  ⟨.mig, 0x10, 0x0, 1, false,
    [⟨63, 63, .ro, 0⟩, ⟨62, 61, .ro, 0⟩, ⟨60, 60, .ro, 0⟩, ⟨59, 59, .ro, 0⟩, ⟨55, 40, .ro, 0⟩, ⟨39, 20, .ro, 0⟩, ⟨19, 0, .rw, 0⟩]⟩
def Reg.migQueryValid : FieldRef := ⟨Reg.migQuery, 63, 63⟩
def Reg.migQueryPin : FieldRef := ⟨Reg.migQuery, 62, 61⟩
def Reg.migQueryTier : FieldRef := ⟨Reg.migQuery, 60, 60⟩
def Reg.migQueryBusy : FieldRef := ⟨Reg.migQuery, 59, 59⟩
def Reg.migQueryCount : FieldRef := ⟨Reg.migQuery, 55, 40⟩
def Reg.migQueryFrame : FieldRef := ⟨Reg.migQuery, 39, 20⟩
def Reg.migQueryPage : FieldRef := ⟨Reg.migQuery, 19, 0⟩

/-- MIG_WIN (R387). -/
def Reg.migWin : RegRow :=
  ⟨.mig, 0x18, 0x0, 1, false,
    [⟨63, 32, .rs, 10000⟩, ⟨4, 0, .ro, 0⟩]⟩
def Reg.migWinFlagTimeout : FieldRef := ⟨Reg.migWin, 63, 32⟩
def Reg.migWinQueued : FieldRef := ⟨Reg.migWin, 4, 0⟩

/-- HBM_STATUS (R387). -/
def Reg.hbmStatus : RegRow :=
  ⟨.hbm, 0x0, 0x0, 1, false,
    [⟨15, 8, .ro, 0⟩, ⟨3, 3, .ro, 0⟩, ⟨2, 0, .ro, 0⟩]⟩
def Reg.hbmStatusTemp : FieldRef := ⟨Reg.hbmStatus, 15, 8⟩
def Reg.hbmStatusRefresh2x : FieldRef := ⟨Reg.hbmStatus, 3, 3⟩
def Reg.hbmStatusState : FieldRef := ⟨Reg.hbmStatus, 2, 0⟩

/-- DDR_STATUS (R387). -/
def Reg.ddrStatus : RegRow :=
  ⟨.ddr, 0x0, 0x0, 1, false,
    [⟨47, 32, .ro, 0⟩, ⟨31, 24, .ro, 0⟩, ⟨23, 16, .ro, 0⟩, ⟨9, 8, .ro, 0⟩, ⟨7, 7, .ro, 0⟩, ⟨3, 3, .ro, 0⟩, ⟨2, 0, .ro, 0⟩]⟩
def Reg.ddrStatusCap : FieldRef := ⟨Reg.ddrStatus, 47, 32⟩
def Reg.ddrStatusRanks : FieldRef := ⟨Reg.ddrStatus, 31, 24⟩
def Reg.ddrStatusRate : FieldRef := ⟨Reg.ddrStatus, 23, 16⟩
def Reg.ddrStatusKind : FieldRef := ⟨Reg.ddrStatus, 9, 8⟩
def Reg.ddrStatusInUse : FieldRef := ⟨Reg.ddrStatus, 7, 7⟩
def Reg.ddrStatusRefresh2x : FieldRef := ⟨Reg.ddrStatus, 3, 3⟩
def Reg.ddrStatusState : FieldRef := ⟨Reg.ddrStatus, 2, 0⟩

/-- HBM_ECC (R387). -/
def Reg.hbmEcc : RegRow :=
  ⟨.hbm, 0x8, 0x0, 1, false,
    [⟨63, 32, .ro, 0⟩, ⟨31, 16, .ro, 0⟩, ⟨15, 0, .ro, 0⟩]⟩
def Reg.hbmEccCorrected : FieldRef := ⟨Reg.hbmEcc, 63, 32⟩
def Reg.hbmEccUncorr : FieldRef := ⟨Reg.hbmEcc, 31, 16⟩
def Reg.hbmEccAddrCheck : FieldRef := ⟨Reg.hbmEcc, 15, 0⟩

/-- DDR_ECC (R387). -/
def Reg.ddrEcc : RegRow :=
  ⟨.ddr, 0x8, 0x0, 1, false,
    [⟨63, 32, .ro, 0⟩, ⟨31, 16, .ro, 0⟩, ⟨15, 0, .ro, 0⟩]⟩
def Reg.ddrEccCorrected : FieldRef := ⟨Reg.ddrEcc, 63, 32⟩
def Reg.ddrEccUncorr : FieldRef := ⟨Reg.ddrEcc, 31, 16⟩
def Reg.ddrEccAddrCheck : FieldRef := ⟨Reg.ddrEcc, 15, 0⟩

/-- RGN_TBL (R398). -/
def Reg.rgnTbl : RegRow :=
  ⟨.pkg, 0x600, 0x0, 1, false,
    [⟨47, 16, .rs, 0⟩, ⟨0, 0, .rs, 0⟩]⟩
def Reg.rgnTblBase : FieldRef := ⟨Reg.rgnTbl, 47, 16⟩
def Reg.rgnTblEnable : FieldRef := ⟨Reg.rgnTbl, 0, 0⟩

/-- RGN_STATUS (R398). -/
def Reg.rgnStatus : RegRow :=
  ⟨.pkg, 0x608, 0x0, 1, false,
    [⟨63, 32, .ro, 0⟩, ⟨31, 16, .ro, 0⟩, ⟨15, 3, .ro, 0⟩, ⟨2, 2, .ro, 0⟩, ⟨1, 1, .w1c, 0⟩, ⟨0, 0, .ro, 0⟩]⟩
def Reg.rgnStatusDeniedTx : FieldRef := ⟨Reg.rgnStatus, 63, 32⟩
def Reg.rgnStatusDeniedRx : FieldRef := ⟨Reg.rgnStatus, 31, 16⟩
def Reg.rgnStatusBad : FieldRef := ⟨Reg.rgnStatus, 15, 3⟩
def Reg.rgnStatusLoading : FieldRef := ⟨Reg.rgnStatus, 2, 2⟩
def Reg.rgnStatusLate : FieldRef := ⟨Reg.rgnStatus, 1, 1⟩
def Reg.rgnStatusInForce : FieldRef := ⟨Reg.rgnStatus, 0, 0⟩

/-- FATOM_CTRL (R405). -/
def Reg.fatomCtrl : RegRow :=
  ⟨.pkg, 0x610, 0x0, 1, false,
    [⟨7, 0, .rs, 2⟩]⟩
def Reg.fatomCtrlDefer : FieldRef := ⟨Reg.fatomCtrl, 7, 0⟩

/-- FATOM_CNT (R405). -/
def Reg.fatomCnt : RegRow :=
  ⟨.pkg, 0x618, 0x0, 1, false,
    [⟨63, 32, .ro, 0⟩, ⟨31, 16, .ro, 0⟩, ⟨15, 0, .ro, 0⟩]⟩
def Reg.fatomCntApplied : FieldRef := ⟨Reg.fatomCnt, 63, 32⟩
def Reg.fatomCntLate : FieldRef := ⟨Reg.fatomCnt, 31, 16⟩
def Reg.fatomCntFull : FieldRef := ⟨Reg.fatomCnt, 15, 0⟩

/-- CP_CTRL (R416). -/
def Reg.cpCtrl : RegRow :=
  ⟨.cp, 0x0, 0x0, 1, false,
    [⟨63, 32, .rs, 10000⟩, ⟨0, 0, .wo, 0⟩]⟩
def Reg.cpCtrlFlagTimeout : FieldRef := ⟨Reg.cpCtrl, 63, 32⟩
def Reg.cpCtrlAbort : FieldRef := ⟨Reg.cpCtrl, 0, 0⟩

/-- CP_CQ (R416). -/
def Reg.cpCq : RegRow :=
  ⟨.cp, 0x8, 0x0, 1, false,
    [⟨63, 32, .rs, 0⟩, ⟨3, 0, .rs, 8⟩]⟩
def Reg.cpCqBase : FieldRef := ⟨Reg.cpCq, 63, 32⟩
def Reg.cpCqLog2n : FieldRef := ⟨Reg.cpCq, 3, 0⟩

/-- CP_CQ_IDX (R416). -/
def Reg.cpCqIdx : RegRow :=
  ⟨.cp, 0x10, 0x0, 1, false,
    [⟨63, 32, .ro, 0⟩, ⟨31, 0, .rw, 0⟩]⟩
def Reg.cpCqIdxProd : FieldRef := ⟨Reg.cpCqIdx, 63, 32⟩
def Reg.cpCqIdxCons : FieldRef := ⟨Reg.cpCqIdx, 31, 0⟩

/-- CP_COUNT (R416). -/
def Reg.cpCount : RegRow :=
  ⟨.cp, 0x20, 0x0, 1, false,
    [⟨63, 32, .ro, 0⟩, ⟨31, 0, .ro, 0⟩]⟩
def Reg.cpCountRemote : FieldRef := ⟨Reg.cpCount, 63, 32⟩
def Reg.cpCountSwitches : FieldRef := ⟨Reg.cpCount, 31, 0⟩

/-- CP_PC_t (R416). -/
def Reg.cpPc : RegRow :=
  ⟨.cp, 0x100, 0x10, 16, false,
    [⟨63, 0, .rw, 0⟩]⟩
def Reg.cpPcPc : FieldRef := ⟨Reg.cpPc, 63, 0⟩

/-- CP_TSTAT_t (R416). -/
def Reg.cpTstat : RegRow :=
  ⟨.cp, 0x108, 0x10, 16, false,
    [⟨63, 63, .wo, 0⟩, ⟨62, 62, .wo, 0⟩, ⟨47, 40, .ro, 0⟩, ⟨35, 32, .ro, 0⟩, ⟨1, 0, .ro, 0⟩]⟩
def Reg.cpTstatStart : FieldRef := ⟨Reg.cpTstat, 63, 63⟩
def Reg.cpTstatStop : FieldRef := ⟨Reg.cpTstat, 62, 62⟩
def Reg.cpTstatStatus : FieldRef := ⟨Reg.cpTstat, 47, 40⟩
def Reg.cpTstatCause : FieldRef := ⟨Reg.cpTstat, 35, 32⟩
def Reg.cpTstatState : FieldRef := ⟨Reg.cpTstat, 1, 0⟩

/-- CP_TVAL_t (R416). -/
def Reg.cpTval : RegRow :=
  ⟨.cp, 0x200, 0x8, 16, false,
    [⟨63, 0, .ro, 0⟩]⟩
def Reg.cpTvalValue : FieldRef := ⟨Reg.cpTval, 63, 0⟩

/-- TIME_NOW (R425). -/
def Reg.timeNow : RegRow :=
  ⟨.tm, 0x0, 0x0, 1, false,
    [⟨63, 0, .ro, 0⟩]⟩
def Reg.timeNowNow : FieldRef := ⟨Reg.timeNow, 63, 0⟩

/-- TIME_CTRL (R425). -/
def Reg.timeCtrl : RegRow :=
  ⟨.tm, 0x8, 0x0, 1, false,
    [⟨0, 0, .rs, 0⟩]⟩
def Reg.timeCtrlGrandmaster : FieldRef := ⟨Reg.timeCtrl, 0, 0⟩

/-- TIME_SET (R425). -/
def Reg.timeSet : RegRow :=
  ⟨.tm, 0x10, 0x0, 1, false,
    [⟨63, 0, .wo, 0⟩]⟩
def Reg.timeSetValue : FieldRef := ⟨Reg.timeSet, 63, 0⟩

/-- TIME_STATUS (R425). -/
def Reg.timeStatus : RegRow :=
  ⟨.tm, 0x18, 0x0, 1, false,
    [⟨47, 32, .ro, 0⟩, ⟨31, 24, .ro, 255⟩, ⟨23, 16, .ro, 255⟩, ⟨15, 8, .ro, 0⟩, ⟨1, 1, .ro, 0⟩, ⟨0, 0, .ro, 0⟩]⟩
def Reg.timeStatusOffset : FieldRef := ⟨Reg.timeStatus, 47, 32⟩
def Reg.timeStatusParentPort : FieldRef := ⟨Reg.timeStatus, 31, 24⟩
def Reg.timeStatusDepth : FieldRef := ⟨Reg.timeStatus, 23, 16⟩
def Reg.timeStatusBound : FieldRef := ⟨Reg.timeStatus, 15, 8⟩
def Reg.timeStatusGm : FieldRef := ⟨Reg.timeStatus, 1, 1⟩
def Reg.timeStatusSynced : FieldRef := ⟨Reg.timeStatus, 0, 0⟩

/-- TOD_OFFSET (R425). -/
def Reg.todOffset : RegRow :=
  ⟨.tm, 0x20, 0x0, 1, false,
    [⟨63, 0, .rw, 0⟩]⟩
def Reg.todOffsetOffset : FieldRef := ⟨Reg.todOffset, 63, 0⟩

/-- FABRIC_BEAT (R429). -/
def Reg.fabricBeat : RegRow :=
  ⟨.tm, 0x28, 0x0, 1, false,
    [⟨31, 0, .ro, 100000⟩]⟩
def Reg.fabricBeatPeriod : FieldRef := ⟨Reg.fabricBeat, 31, 0⟩

/-- FABRIC_ORIGIN (R429). -/
def Reg.fabricOrigin : RegRow :=
  ⟨.tm, 0x30, 0x0, 1, false,
    [⟨63, 0, .ro, 0⟩]⟩
def Reg.fabricOriginOrigin : FieldRef := ⟨Reg.fabricOrigin, 63, 0⟩

/-- FABRIC_EPOCH (R429). -/
def Reg.fabricEpoch : RegRow :=
  ⟨.tm, 0x38, 0x0, 1, false,
    [⟨63, 0, .ro, 0⟩]⟩
def Reg.fabricEpochCount : FieldRef := ⟨Reg.fabricEpoch, 63, 0⟩

/-- BEAT_p (R429). -/
def Reg.beat : RegRow :=
  ⟨.tm, 0x100, 0x20, 8, true,
    [⟨63, 32, .ro, 0⟩, ⟨1, 0, .ro, 0⟩]⟩
def Reg.beatPeriod : FieldRef := ⟨Reg.beat, 63, 32⟩
def Reg.beatState : FieldRef := ⟨Reg.beat, 1, 0⟩

/-- BEAT_ORIGIN_p (R429). -/
def Reg.beatOrigin : RegRow :=
  ⟨.tm, 0x108, 0x20, 8, true,
    [⟨63, 0, .ro, 0⟩]⟩
def Reg.beatOriginOrigin : FieldRef := ⟨Reg.beatOrigin, 63, 0⟩

/-- BEAT_COUNT_p (R429). -/
def Reg.beatCount : RegRow :=
  ⟨.tm, 0x110, 0x20, 8, true,
    [⟨63, 0, .ro, 0⟩]⟩
def Reg.beatCountCount : FieldRef := ⟨Reg.beatCount, 63, 0⟩

/-- BEAT_LAG_p (R438). -/
def Reg.beatLag : RegRow :=
  ⟨.tm, 0x118, 0x20, 8, true,
    [⟨63, 48, .ro, 0⟩, ⟨47, 32, .ro, 0⟩, ⟨31, 0, .ro, 0⟩]⟩
def Reg.beatLagLateBeats : FieldRef := ⟨Reg.beatLag, 63, 48⟩
def Reg.beatLagLag : FieldRef := ⟨Reg.beatLag, 47, 32⟩
def Reg.beatLagLateNs : FieldRef := ⟨Reg.beatLag, 31, 0⟩

/-- PKG_MODE (R444). -/
def Reg.pkgMode : RegRow :=
  ⟨.pkg, 0x10, 0x0, 1, false,
    [⟨1, 1, .ro, 0⟩, ⟨0, 0, .rs, 0⟩]⟩
def Reg.pkgModePending : FieldRef := ⟨Reg.pkgMode, 1, 1⟩
def Reg.pkgModeDeterministic : FieldRef := ⟨Reg.pkgMode, 0, 0⟩

/-- PART_p (R452). -/
def Reg.part : RegRow :=
  ⟨.pkg, 0x800, 0x40, 8, true,
    [⟨55, 32, .ro, 0⟩, ⟨1, 0, .ro, 0⟩]⟩
def Reg.partDies : FieldRef := ⟨Reg.part, 55, 32⟩
def Reg.partState : FieldRef := ⟨Reg.part, 1, 0⟩

/-- SHARE_p (R456). -/
def Reg.share : RegRow :=
  ⟨.pkg, 0x808, 0x40, 8, true,
    [⟨31, 24, .rs, 1⟩, ⟨23, 16, .rs, 1⟩, ⟨15, 8, .rs, 1⟩, ⟨7, 0, .rs, 1⟩]⟩
def Reg.sharePool : FieldRef := ⟨Reg.share, 31, 24⟩
def Reg.shareHost : FieldRef := ⟨Reg.share, 23, 16⟩
def Reg.shareMem : FieldRef := ⟨Reg.share, 15, 8⟩
def Reg.shareInject : FieldRef := ⟨Reg.share, 7, 0⟩

/-- ACCT_RING_p (R458). -/
def Reg.acctRing : RegRow :=
  ⟨.pkg, 0x810, 0x40, 8, true,
    [⟨47, 12, .rs, 0⟩, ⟨4, 4, .rs, 0⟩, ⟨3, 0, .rs, 0⟩]⟩
def Reg.acctRingBase : FieldRef := ⟨Reg.acctRing, 47, 12⟩
def Reg.acctRingEnable : FieldRef := ⟨Reg.acctRing, 4, 4⟩
def Reg.acctRingLog2n : FieldRef := ⟨Reg.acctRing, 3, 0⟩

/-- ACCT_IDX_p (R458). -/
def Reg.acctIdx : RegRow :=
  ⟨.pkg, 0x818, 0x40, 8, true,
    [⟨63, 0, .ro, 0⟩]⟩
def Reg.acctIdxProd : FieldRef := ⟨Reg.acctIdx, 63, 0⟩

/-- DLM_CTRL_p (R465). -/
def Reg.dlmCtrl : RegRow :=
  ⟨.tm, 0x200, 0x20, 8, true,
    [⟨63, 56, .rs, 1⟩, ⟨55, 40, .rs, 8⟩, ⟨39, 24, .rs, 16⟩, ⟨23, 16, .rs, 2⟩, ⟨2, 2, .rs, 0⟩, ⟨1, 1, .ro, 0⟩, ⟨0, 0, .rs, 0⟩]⟩
def Reg.dlmCtrlLagLimit : FieldRef := ⟨Reg.dlmCtrl, 63, 56⟩
def Reg.dlmCtrlLagBeats : FieldRef := ⟨Reg.dlmCtrl, 55, 40⟩
def Reg.dlmCtrlRecoverBeats : FieldRef := ⟨Reg.dlmCtrl, 39, 24⟩
def Reg.dlmCtrlLead : FieldRef := ⟨Reg.dlmCtrl, 23, 16⟩
def Reg.dlmCtrlDetAllow : FieldRef := ⟨Reg.dlmCtrl, 2, 2⟩
def Reg.dlmCtrlLeader : FieldRef := ⟨Reg.dlmCtrl, 1, 1⟩
def Reg.dlmCtrlEnable : FieldRef := ⟨Reg.dlmCtrl, 0, 0⟩

/-- DLM_PLAN_p (R465). -/
def Reg.dlmPlan : RegRow :=
  ⟨.tm, 0x208, 0x20, 8, true,
    [⟨63, 32, .rs, 0⟩]⟩
def Reg.dlmPlanAddr : FieldRef := ⟨Reg.dlmPlan, 63, 32⟩

/-- DLM_STATUS_p (R465). -/
def Reg.dlmStatus : RegRow :=
  ⟨.tm, 0x210, 0x20, 8, true,
    [⟨63, 32, .ro, 0⟩, ⟨31, 16, .ro, 0⟩, ⟨15, 8, .ro, 0⟩, ⟨2, 2, .w1c, 0⟩, ⟨1, 1, .ro, 0⟩, ⟨0, 0, .ro, 0⟩]⟩
def Reg.dlmStatusSwitches : FieldRef := ⟨Reg.dlmStatus, 63, 32⟩
def Reg.dlmStatusMaxlag : FieldRef := ⟨Reg.dlmStatus, 31, 16⟩
def Reg.dlmStatusCount : FieldRef := ⟨Reg.dlmStatus, 15, 8⟩
def Reg.dlmStatusLatePlan : FieldRef := ⟨Reg.dlmStatus, 2, 2⟩
def Reg.dlmStatusPending : FieldRef := ⟨Reg.dlmStatus, 1, 1⟩
def Reg.dlmStatusPlan : FieldRef := ⟨Reg.dlmStatus, 0, 0⟩

/-- DLM_CMD_p (R465). -/
def Reg.dlmCmd : RegRow :=
  ⟨.tm, 0x218, 0x20, 8, true,
    [⟨1, 1, .wo, 0⟩, ⟨0, 0, .wo, 0⟩]⟩
def Reg.dlmCmdPlan : FieldRef := ⟨Reg.dlmCmd, 1, 1⟩
def Reg.dlmCmdForce : FieldRef := ⟨Reg.dlmCmd, 0, 0⟩

/-- PKG_ID (R473). -/
def Reg.pkgId : RegRow :=
  ⟨.pkg, 0x20, 0x0, 1, false,
    [⟨63, 48, .ro, 0⟩, ⟨47, 32, .ro, 800⟩, ⟨31, 24, .ro, 0⟩, ⟨23, 16, .ro, 161⟩]⟩
def Reg.pkgIdVendor : FieldRef := ⟨Reg.pkgId, 63, 48⟩
def Reg.pkgIdDevice : FieldRef := ⟨Reg.pkgId, 47, 32⟩
def Reg.pkgIdOrder : FieldRef := ⟨Reg.pkgId, 31, 24⟩
def Reg.pkgIdStepping : FieldRef := ⟨Reg.pkgId, 23, 16⟩

/-- PKG_DIES (R473). -/
def Reg.pkgDies : RegRow :=
  ⟨.pkg, 0x28, 0x0, 1, false,
    [⟨31, 28, .ro, 0⟩, ⟨27, 24, .ro, 0⟩, ⟨23, 0, .ro, 0⟩]⟩
def Reg.pkgDiesMdies : FieldRef := ⟨Reg.pkgDies, 31, 28⟩
def Reg.pkgDiesFdies : FieldRef := ⟨Reg.pkgDies, 27, 24⟩
def Reg.pkgDiesCdies : FieldRef := ⟨Reg.pkgDies, 23, 0⟩

/-- PKG_PORTS (R473). -/
def Reg.pkgPorts : RegRow :=
  ⟨.pkg, 0x30, 0x0, 1, false,
    [⟨47, 0, .ro, 0⟩]⟩
def Reg.pkgPortsPorts : FieldRef := ⟨Reg.pkgPorts, 47, 0⟩

/-- PKG_SERIAL (R473). -/
def Reg.pkgSerial : RegRow :=
  ⟨.pkg, 0x38, 0x0, 1, false,
    [⟨63, 0, .ro, 0⟩]⟩
def Reg.pkgSerialSerial : FieldRef := ⟨Reg.pkgSerial, 63, 0⟩

/-- SQ_DB_i (R490). -/
def Reg.sqDb : RegRow :=
  ⟨.fn, 0x0, 0x8, 64, false,
    [⟨15, 0, .wo, 0⟩]⟩
def Reg.sqDbIndex : FieldRef := ⟨Reg.sqDb, 15, 0⟩

/-- CQ_DB_j (R490). -/
def Reg.cqDb : RegRow :=
  ⟨.fn, 0x200, 0x8, 64, false,
    [⟨15, 0, .wo, 0⟩]⟩
def Reg.cqDbIndex : FieldRef := ⟨Reg.cqDb, 15, 0⟩

/-- EQ_DB_k (R490). -/
def Reg.eqDb : RegRow :=
  ⟨.fn, 0x400, 0x8, 16, false,
    [⟨15, 0, .wo, 0⟩]⟩
def Reg.eqDbIndex : FieldRef := ⟨Reg.eqDb, 15, 0⟩

/-- SQ_BASE_i (R490). -/
def Reg.sqBase : RegRow :=
  ⟨.fn, 0x1000, 0x20, 64, false,
    [⟨63, 8, .rs, 0⟩]⟩
def Reg.sqBaseBase : FieldRef := ⟨Reg.sqBase, 63, 8⟩

/-- CQ_BASE_j (R490). -/
def Reg.cqBase : RegRow :=
  ⟨.fn, 0x1800, 0x20, 64, false,
    [⟨63, 8, .rs, 0⟩]⟩
def Reg.cqBaseBase : FieldRef := ⟨Reg.cqBase, 63, 8⟩

/-- EQ_BASE_k (R490). -/
def Reg.eqBase : RegRow :=
  ⟨.fn, 0x2000, 0x20, 16, false,
    [⟨63, 8, .rs, 0⟩]⟩
def Reg.eqBaseBase : FieldRef := ⟨Reg.eqBase, 63, 8⟩

/-- SQ_CFG_i (R490). -/
def Reg.sqCfg : RegRow :=
  ⟨.fn, 0x1008, 0x20, 64, false,
    [⟨31, 15, .rs, 0⟩, ⟨14, 8, .rs, 0⟩, ⟨0, 0, .rs, 0⟩]⟩
def Reg.sqCfgSize : FieldRef := ⟨Reg.sqCfg, 31, 15⟩
def Reg.sqCfgCq : FieldRef := ⟨Reg.sqCfg, 14, 8⟩
def Reg.sqCfgEnable : FieldRef := ⟨Reg.sqCfg, 0, 0⟩

/-- SQ_STATUS_i (R490). -/
def Reg.sqStatus : RegRow :=
  ⟨.fn, 0x1010, 0x20, 64, false,
    [⟨63, 48, .ro, 0⟩, ⟨47, 32, .ro, 0⟩, ⟨31, 16, .ro, 0⟩, ⟨3, 0, .ro, 0⟩]⟩
def Reg.sqStatusHead : FieldRef := ⟨Reg.sqStatus, 63, 48⟩
def Reg.sqStatusTail : FieldRef := ⟨Reg.sqStatus, 47, 32⟩
def Reg.sqStatusOutstanding : FieldRef := ⟨Reg.sqStatus, 31, 16⟩
def Reg.sqStatusState : FieldRef := ⟨Reg.sqStatus, 3, 0⟩

/-- CQ_CFG_j (R490). -/
def Reg.cqCfg : RegRow :=
  ⟨.fn, 0x1808, 0x20, 64, false,
    [⟨31, 15, .rs, 0⟩, ⟨14, 4, .rs, 0⟩, ⟨0, 0, .rs, 0⟩]⟩
def Reg.cqCfgSize : FieldRef := ⟨Reg.cqCfg, 31, 15⟩
def Reg.cqCfgVector : FieldRef := ⟨Reg.cqCfg, 14, 4⟩
def Reg.cqCfgEnable : FieldRef := ⟨Reg.cqCfg, 0, 0⟩

/-- EQ_CFG_k (R490). -/
def Reg.eqCfg : RegRow :=
  ⟨.fn, 0x2008, 0x20, 16, false,
    [⟨31, 15, .rs, 0⟩, ⟨14, 4, .rs, 0⟩, ⟨0, 0, .rs, 0⟩]⟩
def Reg.eqCfgSize : FieldRef := ⟨Reg.eqCfg, 31, 15⟩
def Reg.eqCfgVector : FieldRef := ⟨Reg.eqCfg, 14, 4⟩
def Reg.eqCfgEnable : FieldRef := ⟨Reg.eqCfg, 0, 0⟩

/-- CQ_MOD_j (R490). -/
def Reg.cqMod : RegRow :=
  ⟨.fn, 0x1810, 0x20, 64, false,
    [⟨39, 24, .rs, 0⟩, ⟨15, 8, .rs, 1⟩, ⟨0, 0, .rs, 0⟩]⟩
def Reg.cqModDelay : FieldRef := ⟨Reg.cqMod, 39, 24⟩
def Reg.cqModCount : FieldRef := ⟨Reg.cqMod, 15, 8⟩
def Reg.cqModInten : FieldRef := ⟨Reg.cqMod, 0, 0⟩

/-- EQ_MOD_k (R490). -/
def Reg.eqMod : RegRow :=
  ⟨.fn, 0x2010, 0x20, 16, false,
    [⟨39, 24, .rs, 0⟩, ⟨15, 8, .rs, 1⟩, ⟨0, 0, .rs, 0⟩]⟩
def Reg.eqModDelay : FieldRef := ⟨Reg.eqMod, 39, 24⟩
def Reg.eqModCount : FieldRef := ⟨Reg.eqMod, 15, 8⟩
def Reg.eqModInten : FieldRef := ⟨Reg.eqMod, 0, 0⟩

/-- CQ_STATUS_j (R490). -/
def Reg.cqStatus : RegRow :=
  ⟨.fn, 0x1818, 0x20, 64, false,
    [⟨63, 48, .ro, 0⟩, ⟨47, 32, .ro, 0⟩, ⟨31, 16, .ro, 0⟩, ⟨3, 0, .ro, 0⟩]⟩
def Reg.cqStatusTail : FieldRef := ⟨Reg.cqStatus, 63, 48⟩
def Reg.cqStatusHead : FieldRef := ⟨Reg.cqStatus, 47, 32⟩
def Reg.cqStatusDropped : FieldRef := ⟨Reg.cqStatus, 31, 16⟩
def Reg.cqStatusState : FieldRef := ⟨Reg.cqStatus, 3, 0⟩

/-- EQ_STATUS_k (R490). -/
def Reg.eqStatus : RegRow :=
  ⟨.fn, 0x2018, 0x20, 16, false,
    [⟨63, 48, .ro, 0⟩, ⟨47, 32, .ro, 0⟩, ⟨31, 16, .ro, 0⟩, ⟨3, 0, .ro, 0⟩]⟩
def Reg.eqStatusTail : FieldRef := ⟨Reg.eqStatus, 63, 48⟩
def Reg.eqStatusHead : FieldRef := ⟨Reg.eqStatus, 47, 32⟩
def Reg.eqStatusDropped : FieldRef := ⟨Reg.eqStatus, 31, 16⟩
def Reg.eqStatusState : FieldRef := ⟨Reg.eqStatus, 3, 0⟩

/-- EVT_ROUTE_c (R490). -/
def Reg.evtRoute : RegRow :=
  ⟨.fn, 0x3000, 0x8, 32, false,
    [⟨8, 8, .rs, 0⟩, ⟨3, 0, .rs, 0⟩]⟩
def Reg.evtRouteEnable : FieldRef := ⟨Reg.evtRoute, 8, 8⟩
def Reg.evtRouteEq : FieldRef := ⟨Reg.evtRoute, 3, 0⟩

/-- HIF_STATUS (R496). -/
def Reg.hifStatus : RegRow :=
  ⟨.hif, 0x0, 0x0, 1, false,
    [⟨63, 32, .ro, 0⟩, ⟨31, 24, .ro, 0⟩, ⟨11, 8, .ro, 0⟩, ⟨4, 0, .ro, 0⟩]⟩
def Reg.hifStatusHostLost : FieldRef := ⟨Reg.hifStatus, 63, 32⟩
def Reg.hifStatusLinkLosses : FieldRef := ⟨Reg.hifStatus, 31, 24⟩
def Reg.hifStatusRate : FieldRef := ⟨Reg.hifStatus, 11, 8⟩
def Reg.hifStatusWidth : FieldRef := ⟨Reg.hifStatus, 4, 0⟩

/-- RCV_HOST (R507). -/
def Reg.rcvHost : RegRow :=
  ⟨.fn, 0xC000, 0x0, 1, false,
    [⟨63, 0, .rw, 0⟩]⟩
def Reg.rcvHostAddr : FieldRef := ⟨Reg.rcvHost, 63, 0⟩

/-- RCV_CTRL (R507). -/
def Reg.rcvCtrl : RegRow :=
  ⟨.fn, 0xC008, 0x0, 1, false,
    [⟨63, 32, .rw, 0⟩, ⟨1, 1, .rw, 0⟩, ⟨0, 0, .wo, 0⟩]⟩
def Reg.rcvCtrlLen : FieldRef := ⟨Reg.rcvCtrl, 63, 32⟩
def Reg.rcvCtrlPersist : FieldRef := ⟨Reg.rcvCtrl, 1, 1⟩
def Reg.rcvCtrlGo : FieldRef := ⟨Reg.rcvCtrl, 0, 0⟩

/-- RCV_STATUS (R507). -/
def Reg.rcvStatus : RegRow :=
  ⟨.fn, 0xC010, 0x0, 1, false,
    [⟨15, 8, .ro, 0⟩, ⟨1, 0, .ro, 0⟩]⟩
def Reg.rcvStatusErr : FieldRef := ⟨Reg.rcvStatus, 15, 8⟩
def Reg.rcvStatusState : FieldRef := ⟨Reg.rcvStatus, 1, 0⟩

/-- BOOT_STATUS (R515). -/
def Reg.bootStatus : RegRow :=
  ⟨.pkg, 0xA00, 0x0, 1, false,
    [⟨39, 32, .ro, 0⟩, ⟨31, 24, .ro, 0⟩, ⟨23, 16, .ro, 0⟩, ⟨3, 0, .ro, 0⟩]⟩
def Reg.bootStatusErr : FieldRef := ⟨Reg.bootStatus, 39, 32⟩
def Reg.bootStatusLastReset : FieldRef := ⟨Reg.bootStatus, 31, 24⟩
def Reg.bootStatusMpResets : FieldRef := ⟨Reg.bootStatus, 23, 16⟩
def Reg.bootStatusStage : FieldRef := ⟨Reg.bootStatus, 3, 0⟩

/-- RST_CTRL (R515). -/
def Reg.rstCtrl : RegRow :=
  ⟨.pkg, 0xA08, 0x0, 1, false,
    [⟨63, 48, .wo, 0⟩, ⟨1, 1, .wo, 0⟩, ⟨0, 0, .wo, 0⟩]⟩
def Reg.rstCtrlKey : FieldRef := ⟨Reg.rstCtrl, 63, 48⟩
def Reg.rstCtrlMp : FieldRef := ⟨Reg.rstCtrl, 1, 1⟩
def Reg.rstCtrlPkg : FieldRef := ⟨Reg.rstCtrl, 0, 0⟩

/-- FW_INFO (R515). -/
def Reg.fwInfo : RegRow :=
  ⟨.pkg, 0xA10, 0x0, 1, false,
    [⟨15, 8, .ro, 0⟩, ⟨7, 0, .ro, 0⟩]⟩
def Reg.fwInfoFuseSvn : FieldRef := ⟨Reg.fwInfo, 15, 8⟩
def Reg.fwInfoImageSvn : FieldRef := ⟨Reg.fwInfo, 7, 0⟩

/-- FW_UPD_ADDR (R515). -/
def Reg.fwUpdAddr : RegRow :=
  ⟨.pkg, 0xA18, 0x0, 1, false,
    [⟨63, 0, .rw, 0⟩]⟩
def Reg.fwUpdAddrAddr : FieldRef := ⟨Reg.fwUpdAddr, 63, 0⟩

/-- FW_UPD (R515). -/
def Reg.fwUpd : RegRow :=
  ⟨.pkg, 0xA20, 0x0, 1, false,
    [⟨15, 8, .ro, 0⟩, ⟨1, 1, .ro, 0⟩, ⟨0, 0, .wo, 0⟩]⟩
def Reg.fwUpdErr : FieldRef := ⟨Reg.fwUpd, 15, 8⟩
def Reg.fwUpdBusy : FieldRef := ⟨Reg.fwUpd, 1, 1⟩
def Reg.fwUpdStart : FieldRef := ⟨Reg.fwUpd, 0, 0⟩

/-- JOIN_NODE (R515). -/
def Reg.joinNode : RegRow :=
  ⟨.pkg, 0xA28, 0x0, 1, false,
    [⟨23, 16, .rs, 0⟩, ⟨14, 0, .rs, 0⟩]⟩
def Reg.joinNodeInc : FieldRef := ⟨Reg.joinNode, 23, 16⟩
def Reg.joinNodeNode : FieldRef := ⟨Reg.joinNode, 14, 0⟩

/-- JOIN_BEAT (R515). -/
def Reg.joinBeat : RegRow :=
  ⟨.pkg, 0xA30, 0x0, 1, false,
    [⟨31, 0, .rs, 0⟩]⟩
def Reg.joinBeatPeriod : FieldRef := ⟨Reg.joinBeat, 31, 0⟩

/-- JOIN_ORIGIN (R515). -/
def Reg.joinOrigin : RegRow :=
  ⟨.pkg, 0xA38, 0x0, 1, false,
    [⟨63, 0, .rs, 0⟩]⟩
def Reg.joinOriginOrigin : FieldRef := ⟨Reg.joinOrigin, 63, 0⟩

/-- JOIN_CMD (R515). -/
def Reg.joinCmd : RegRow :=
  ⟨.pkg, 0xA40, 0x0, 1, false,
    [⟨0, 0, .wo, 0⟩]⟩
def Reg.joinCmdGo : FieldRef := ⟨Reg.joinCmd, 0, 0⟩

/-- WDT (R515). -/
def Reg.wdt : RegRow :=
  ⟨.pkg, 0xA48, 0x0, 1, false,
    [⟨63, 32, .rw, 1000⟩, ⟨0, 0, .wo, 0⟩]⟩
def Reg.wdtPeriod : FieldRef := ⟨Reg.wdt, 63, 32⟩
def Reg.wdtKick : FieldRef := ⟨Reg.wdt, 0, 0⟩

/-- DBG_NONCE_n (R515). -/
def Reg.dbgNonce : RegRow :=
  ⟨.pkg, 0xA50, 0x8, 4, false,
    [⟨63, 0, .ro, 0⟩]⟩
def Reg.dbgNonceNonce : FieldRef := ⟨Reg.dbgNonce, 63, 0⟩

/-- DBG_TOKEN (R515). -/
def Reg.dbgToken : RegRow :=
  ⟨.pkg, 0xA70, 0x0, 1, false,
    [⟨63, 0, .rw, 0⟩]⟩
def Reg.dbgTokenAddr : FieldRef := ⟨Reg.dbgToken, 63, 0⟩

/-- DBG_CTRL (R515). -/
def Reg.dbgCtrl : RegRow :=
  ⟨.pkg, 0xA78, 0x0, 1, false,
    [⟨15, 8, .ro, 0⟩, ⟨2, 1, .ro, 0⟩, ⟨0, 0, .wo, 0⟩]⟩
def Reg.dbgCtrlScope : FieldRef := ⟨Reg.dbgCtrl, 15, 8⟩
def Reg.dbgCtrlState : FieldRef := ⟨Reg.dbgCtrl, 2, 1⟩
def Reg.dbgCtrlSubmit : FieldRef := ⟨Reg.dbgCtrl, 0, 0⟩

/-- CDIE_PWR (R515). -/
def Reg.cdiePwr : RegRow :=
  ⟨.pkg, 0xA80, 0x0, 1, false,
    [⟨55, 32, .ro, 0⟩, ⟨23, 0, .rw, 0⟩]⟩
def Reg.cdiePwrAwake : FieldRef := ⟨Reg.cdiePwr, 55, 32⟩
def Reg.cdiePwrOff : FieldRef := ⟨Reg.cdiePwr, 23, 0⟩

/-- XPT_RA (R541). -/
def Reg.xptRa : RegRow :=
  ⟨.xpt, 0x30, 0x0, 1, false,
    [⟨63, 48, .rs, 8192⟩, ⟨47, 32, .rs, 16⟩, ⟨31, 24, .rs, 64⟩, ⟨23, 16, .rs, 10⟩, ⟨15, 8, .rs, 1⟩]⟩
def Reg.xptRaLbBlocks : FieldRef := ⟨Reg.xptRa, 63, 48⟩
def Reg.xptRaLbCorrMax : FieldRef := ⟨Reg.xptRa, 47, 32⟩
def Reg.xptRaProbes : FieldRef := ⟨Reg.xptRa, 31, 24⟩
def Reg.xptRaProbeTimeout : FieldRef := ⟨Reg.xptRa, 23, 16⟩
def Reg.xptRaBackoff : FieldRef := ⟨Reg.xptRa, 15, 8⟩

/-- XPT_EXCL_DROP (R541). -/
def Reg.xptExclDrop : RegRow :=
  ⟨.xpt, 0x230, 0x0, 1, false,
    [⟨31, 0, .ro, 0⟩]⟩
def Reg.xptExclDropDrops : FieldRef := ⟨Reg.xptExclDrop, 31, 0⟩

/-- XPT_EXCL_i (R541). -/
def Reg.xptExcl : RegRow :=
  ⟨.xpt, 0x3000, 0x8, 64, false,
    [⟨16, 16, .rs, 0⟩, ⟨15, 15, .rs, 0⟩, ⟨14, 0, .rs, 0⟩]⟩
def Reg.xptExclValid : FieldRef := ⟨Reg.xptExcl, 16, 16⟩
def Reg.xptExclGroup : FieldRef := ⟨Reg.xptExcl, 15, 15⟩
def Reg.xptExclNode : FieldRef := ⟨Reg.xptExcl, 14, 0⟩

/-- MIR_p (R541). -/
def Reg.mir : RegRow :=
  ⟨.pkg, 0xC00, 0x20, 8, true,
    [⟨63, 32, .rs, 0⟩, ⟨19, 18, .ro, 0⟩, ⟨16, 16, .rs, 0⟩, ⟨14, 0, .rs, 0⟩]⟩
def Reg.mirWord : FieldRef := ⟨Reg.mir, 63, 32⟩
def Reg.mirState : FieldRef := ⟨Reg.mir, 19, 18⟩
def Reg.mirEnable : FieldRef := ⟨Reg.mir, 16, 16⟩
def Reg.mirPartner : FieldRef := ⟨Reg.mir, 14, 0⟩

/-- MIR_TBL_p (R541). -/
def Reg.mirTbl : RegRow :=
  ⟨.pkg, 0xC08, 0x20, 8, true,
    [⟨47, 10, .rs, 0⟩]⟩
def Reg.mirTblBase : FieldRef := ⟨Reg.mirTbl, 47, 10⟩

/-- MIR_CNT_p (R541). -/
def Reg.mirCnt : RegRow :=
  ⟨.pkg, 0xC10, 0x20, 8, true,
    [⟨63, 32, .ro, 0⟩, ⟨31, 16, .ro, 0⟩, ⟨6, 0, .ro, 0⟩]⟩
def Reg.mirCntCopies : FieldRef := ⟨Reg.mirCnt, 63, 32⟩
def Reg.mirCntFailed : FieldRef := ⟨Reg.mirCnt, 31, 16⟩
def Reg.mirCntBad : FieldRef := ⟨Reg.mirCnt, 6, 0⟩

/-- XPT_BURN_CFG (R552). -/
def Reg.xptBurnCfg : RegRow :=
  ⟨.xpt, 0x38, 0x0, 1, false,
    [⟨63, 56, .rs, 96⟩, ⟨55, 48, .rs, 64⟩, ⟨47, 40, .rs, 40⟩, ⟨39, 32, .rs, 8⟩, ⟨31, 24, .rs, 96⟩, ⟨23, 8, .rs, 500⟩]⟩
def Reg.xptBurnCfgHi : FieldRef := ⟨Reg.xptBurnCfg, 63, 56⟩
def Reg.xptBurnCfgMid : FieldRef := ⟨Reg.xptBurnCfg, 55, 48⟩
def Reg.xptBurnCfgLo : FieldRef := ⟨Reg.xptBurnCfg, 47, 40⟩
def Reg.xptBurnCfgHyst : FieldRef := ⟨Reg.xptBurnCfg, 39, 32⟩
def Reg.xptBurnCfgConv : FieldRef := ⟨Reg.xptBurnCfg, 31, 24⟩
def Reg.xptBurnCfgBurnTimeout : FieldRef := ⟨Reg.xptBurnCfg, 23, 8⟩

/-- XPT_LB_j (R552). -/
def Reg.xptLb : RegRow :=
  ⟨.xpt, 0x400, 0x8, 12, false,
    [⟨63, 32, .ro, 0⟩, ⟨11, 8, .ro, 0⟩, ⟨3, 1, .rw, 0⟩, ⟨0, 0, .wo, 0⟩]⟩
def Reg.xptLbErrors : FieldRef := ⟨Reg.xptLb, 63, 32⟩
def Reg.xptLbResult : FieldRef := ⟨Reg.xptLb, 11, 8⟩
def Reg.xptLbDepth : FieldRef := ⟨Reg.xptLb, 3, 1⟩
def Reg.xptLbStart : FieldRef := ⟨Reg.xptLb, 0, 0⟩

/-- XPT_BURN_j (R552). -/
def Reg.xptBurn : RegRow :=
  ⟨.xpt, 0x480, 0x8, 12, false,
    [⟨63, 32, .ro, 0⟩, ⟨31, 28, .ro, 0⟩, ⟨27, 24, .ro, 0⟩, ⟨23, 16, .ro, 0⟩, ⟨0, 0, .ro, 0⟩]⟩
def Reg.xptBurnMargin : FieldRef := ⟨Reg.xptBurn, 63, 32⟩
def Reg.xptBurnCap : FieldRef := ⟨Reg.xptBurn, 31, 28⟩
def Reg.xptBurnPrecode : FieldRef := ⟨Reg.xptBurn, 27, 24⟩
def Reg.xptBurnWorst : FieldRef := ⟨Reg.xptBurn, 23, 16⟩
def Reg.xptBurnConverged : FieldRef := ⟨Reg.xptBurn, 0, 0⟩

/-- MEM_LB (R552). -/
def Reg.hbmLb : RegRow :=
  ⟨.hbm, 0x10, 0x0, 1, false,
    [⟨63, 32, .ro, 0⟩, ⟨11, 8, .ro, 0⟩, ⟨3, 1, .rw, 0⟩, ⟨0, 0, .wo, 0⟩]⟩
def Reg.hbmLbErrors : FieldRef := ⟨Reg.hbmLb, 63, 32⟩
def Reg.hbmLbResult : FieldRef := ⟨Reg.hbmLb, 11, 8⟩
def Reg.hbmLbDepth : FieldRef := ⟨Reg.hbmLb, 3, 1⟩
def Reg.hbmLbStart : FieldRef := ⟨Reg.hbmLb, 0, 0⟩

/-- MEM_LB (R552). -/
def Reg.ddrLb : RegRow :=
  ⟨.ddr, 0x10, 0x0, 1, false,
    [⟨63, 32, .ro, 0⟩, ⟨11, 8, .ro, 0⟩, ⟨3, 1, .rw, 0⟩, ⟨0, 0, .wo, 0⟩]⟩
def Reg.ddrLbErrors : FieldRef := ⟨Reg.ddrLb, 63, 32⟩
def Reg.ddrLbResult : FieldRef := ⟨Reg.ddrLb, 11, 8⟩
def Reg.ddrLbDepth : FieldRef := ⟨Reg.ddrLb, 3, 1⟩
def Reg.ddrLbStart : FieldRef := ⟨Reg.ddrLb, 0, 0⟩

/-- BIST_STATUS (R552). -/
def Reg.bistStatus : RegRow :=
  ⟨.pkg, 0xA88, 0x0, 1, false,
    [⟨63, 32, .ro, 0⟩, ⟨0, 0, .ro, 0⟩]⟩
def Reg.bistStatusFailed : FieldRef := ⟨Reg.bistStatus, 63, 32⟩
def Reg.bistStatusDone : FieldRef := ⟨Reg.bistStatus, 0, 0⟩

/-- PWR_LIMIT (R566). -/
def Reg.pwrLimit : RegRow :=
  ⟨.pkg, 0xE00, 0x0, 1, false,
    [⟨63, 48, .rs, 4800⟩, ⟨47, 32, .rs, 4400⟩, ⟨31, 16, .rs, 1000⟩]⟩
def Reg.pwrLimitPeak : FieldRef := ⟨Reg.pwrLimit, 63, 48⟩
def Reg.pwrLimitSustained : FieldRef := ⟨Reg.pwrLimit, 47, 32⟩
def Reg.pwrLimitTau : FieldRef := ⟨Reg.pwrLimit, 31, 16⟩

/-- THERM_CFG (R566). -/
def Reg.thermCfg : RegRow :=
  ⟨.pkg, 0xE08, 0x0, 1, false,
    [⟨15, 8, .rs, 98⟩, ⟨3, 0, .rs, 8⟩]⟩
def Reg.thermCfgThrotT : FieldRef := ⟨Reg.thermCfg, 15, 8⟩
def Reg.thermCfgForceLevel : FieldRef := ⟨Reg.thermCfg, 3, 0⟩

/-- THERM_STATUS (R566). -/
def Reg.thermStatus : RegRow :=
  ⟨.pkg, 0xE10, 0x0, 1, false,
    [⟨39, 32, .ro, 0⟩, ⟨31, 24, .ro, 0⟩, ⟨23, 16, .ro, 0⟩, ⟨10, 8, .ro, 0⟩, ⟨3, 0, .ro, 0⟩]⟩
def Reg.thermStatusHbmMax : FieldRef := ⟨Reg.thermStatus, 39, 32⟩
def Reg.thermStatusTjMax : FieldRef := ⟨Reg.thermStatus, 31, 24⟩
def Reg.thermStatusHotDie : FieldRef := ⟨Reg.thermStatus, 23, 16⟩
def Reg.thermStatusCause : FieldRef := ⟨Reg.thermStatus, 10, 8⟩
def Reg.thermStatusLevel : FieldRef := ⟨Reg.thermStatus, 3, 0⟩

/-- PWR_STATUS (R566). -/
def Reg.pwrStatus : RegRow :=
  ⟨.pkg, 0xE18, 0x0, 1, false,
    [⟨63, 48, .ro, 0⟩, ⟨47, 32, .ro, 0⟩, ⟨31, 16, .ro, 0⟩, ⟨15, 0, .ro, 0⟩]⟩
def Reg.pwrStatusPower : FieldRef := ⟨Reg.pwrStatus, 63, 48⟩
def Reg.pwrStatusIcore : FieldRef := ⟨Reg.pwrStatus, 47, 32⟩
def Reg.pwrStatusVcore : FieldRef := ⟨Reg.pwrStatus, 31, 16⟩
def Reg.pwrStatusVreq : FieldRef := ⟨Reg.pwrStatus, 15, 0⟩

/-- AVS_STATUS (R566). -/
def Reg.avsStatus : RegRow :=
  ⟨.pkg, 0xE20, 0x0, 1, false,
    [⟨63, 32, .ro, 0⟩, ⟨31, 16, .ro, 0⟩, ⟨8, 8, .ro, 0⟩, ⟨7, 0, .ro, 0⟩]⟩
def Reg.avsStatusThrottled : FieldRef := ⟨Reg.avsStatus, 63, 32⟩
def Reg.avsStatusRetries : FieldRef := ⟨Reg.avsStatus, 31, 16⟩
def Reg.avsStatusFault : FieldRef := ⟨Reg.avsStatus, 8, 8⟩
def Reg.avsStatusVmin : FieldRef := ⟨Reg.avsStatus, 7, 0⟩

/-- XPT_TX (R275). -/
def Reg.xptTx : RegRow :=
  ⟨.xpt, 0x200, 0x0, 1, false,
    [⟨63, 32, .ro, 0⟩, ⟨31, 0, .ro, 0⟩]⟩
def Reg.xptTxFrames : FieldRef := ⟨Reg.xptTx, 63, 32⟩
def Reg.xptTxResent : FieldRef := ⟨Reg.xptTx, 31, 0⟩

/-- XPT_RX (R275). -/
def Reg.xptRx : RegRow :=
  ⟨.xpt, 0x208, 0x0, 1, false,
    [⟨63, 32, .ro, 0⟩, ⟨31, 0, .ro, 0⟩]⟩
def Reg.xptRxDelivered : FieldRef := ⟨Reg.xptRx, 63, 32⟩
def Reg.xptRxDuplicate : FieldRef := ⟨Reg.xptRx, 31, 0⟩

/-- XPT_LEVEL (R275). -/
def Reg.xptLevel : RegRow :=
  ⟨.xpt, 0x220, 0x0, 1, false,
    [⟨63, 32, .ro, 0⟩, ⟨31, 0, .ro, 0⟩]⟩
def Reg.xptLevelSatLocal : FieldRef := ⟨Reg.xptLevel, 63, 32⟩
def Reg.xptLevelSatGlobal : FieldRef := ⟨Reg.xptLevel, 31, 0⟩

/-- XPT_NONMIN (R275). -/
def Reg.xptNonmin : RegRow :=
  ⟨.xpt, 0x228, 0x0, 1, false,
    [⟨63, 32, .ro, 0⟩, ⟨31, 0, .ro, 0⟩]⟩
def Reg.xptNonminNmLocal : FieldRef := ⟨Reg.xptNonmin, 63, 32⟩
def Reg.xptNonminNmGlobal : FieldRef := ⟨Reg.xptNonmin, 31, 0⟩

/-- SW_FWD (R294). -/
def Reg.swFwd : RegRow :=
  ⟨.sw, 0x100, 0x0, 1, false,
    [⟨63, 32, .ro, 0⟩, ⟨31, 0, .ro, 0⟩]⟩
def Reg.swFwdFrames : FieldRef := ⟨Reg.swFwd, 63, 32⟩
def Reg.swFwdShared : FieldRef := ⟨Reg.swFwd, 31, 0⟩

/-- SW_MC (R294). -/
def Reg.swMc : RegRow :=
  ⟨.sw, 0x108, 0x0, 1, false,
    [⟨63, 32, .ro, 0⟩, ⟨31, 0, .ro, 0⟩]⟩
def Reg.swMcCopies : FieldRef := ⟨Reg.swMc, 63, 32⟩
def Reg.swMcMissed : FieldRef := ⟨Reg.swMc, 31, 0⟩

/-- SW_ECC (R294). -/
def Reg.swEcc : RegRow :=
  ⟨.sw, 0x110, 0x0, 1, false,
    [⟨63, 32, .ro, 0⟩, ⟨31, 0, .ro, 0⟩]⟩
def Reg.swEccCorrected : FieldRef := ⟨Reg.swEcc, 63, 32⟩
def Reg.swEccUncorr : FieldRef := ⟨Reg.swEcc, 31, 0⟩

/-- SW_MIRROR_CNT (R294). -/
def Reg.swMirrorCnt : RegRow :=
  ⟨.sw, 0x118, 0x0, 1, false,
    [⟨63, 32, .ro, 0⟩, ⟨31, 0, .ro, 0⟩]⟩
def Reg.swMirrorCntSamples : FieldRef := ⟨Reg.swMirrorCnt, 63, 32⟩
def Reg.swMirrorCntSkipped : FieldRef := ⟨Reg.swMirrorCnt, 31, 0⟩

/-- Register tables, part 1. -/
def regPart1 : List RegRow :=
  [Reg.pkgNode, Reg.spanTbl, Reg.pkgMemTop, Reg.numReplayCount, Reg.numWatchCtrl, Reg.numWatchBase, Reg.numWatchStep, Reg.coreCtrl]
/-- Register tables, part 2. -/
def regPart2 : List RegRow :=
  [Reg.coreStatus, Reg.coreBusy, Reg.spStatus, Reg.spEcc, Reg.spRepair, Reg.ceCtrl, Reg.ceStatus, Reg.ceCount]
/-- Register tables, part 3. -/
def regPart3 : List RegRow :=
  [Reg.skvTiles, Reg.skvBytes, Reg.skvPruned, Reg.deCtrl, Reg.deStatus, Reg.deTokens, Reg.dePairs, Reg.deEvents]
/-- Register tables, part 4. -/
def regPart4 : List RegRow :=
  [Reg.plcBank0, Reg.plcBank1, Reg.plcCtrl, Reg.plcCmd, Reg.plcStatus, Reg.plcAt, Reg.plcPop, Reg.plcPopStatus]
/-- Register tables, part 5. -/
def regPart5 : List RegRow :=
  [Reg.plcPolicy, Reg.kprCtrl, Reg.kprPart, Reg.kprLive, Reg.kprCount, Reg.xptCtrl, Reg.xptNmLocal, Reg.xptNmGlobal]
/-- Register tables, part 6. -/
def regPart6 : List RegRow :=
  [Reg.xptInc, Reg.xptSpare, Reg.xptPtag, Reg.xptPort, Reg.xptLink, Reg.xptGrp, Reg.xptGw, Reg.xptDrop]
/-- Register tables, part 7. -/
def regPart7 : List RegRow :=
  [Reg.xptAbandon, Reg.xptXchDrop, Reg.swCtrl, Reg.swBuf, Reg.swArb, Reg.swMirror, Reg.swMirrorRing, Reg.swOcc]
/-- Register tables, part 8. -/
def regPart8 : List RegRow :=
  [Reg.stuCmd, Reg.stuStatus, Reg.stuCnt, Reg.stuDrop, Reg.stuConv, Reg.rdmFree, Reg.rdmEcc, Reg.deColl]
/-- Register tables, part 9. -/
def regPart9 : List RegRow :=
  [Reg.deCollCnt, Reg.deCollFail, Reg.migCtrl, Reg.migStatus, Reg.migQuery, Reg.migWin, Reg.hbmStatus, Reg.ddrStatus]
/-- Register tables, part 10. -/
def regPart10 : List RegRow :=
  [Reg.hbmEcc, Reg.ddrEcc, Reg.rgnTbl, Reg.rgnStatus, Reg.fatomCtrl, Reg.fatomCnt, Reg.cpCtrl, Reg.cpCq]
/-- Register tables, part 11. -/
def regPart11 : List RegRow :=
  [Reg.cpCqIdx, Reg.cpCount, Reg.cpPc, Reg.cpTstat, Reg.cpTval, Reg.timeNow, Reg.timeCtrl, Reg.timeSet]
/-- Register tables, part 12. -/
def regPart12 : List RegRow :=
  [Reg.timeStatus, Reg.todOffset, Reg.fabricBeat, Reg.fabricOrigin, Reg.fabricEpoch, Reg.beat, Reg.beatOrigin, Reg.beatCount]
/-- Register tables, part 13. -/
def regPart13 : List RegRow :=
  [Reg.beatLag, Reg.pkgMode, Reg.part, Reg.share, Reg.acctRing, Reg.acctIdx, Reg.dlmCtrl, Reg.dlmPlan]
/-- Register tables, part 14. -/
def regPart14 : List RegRow :=
  [Reg.dlmStatus, Reg.dlmCmd, Reg.pkgId, Reg.pkgDies, Reg.pkgPorts, Reg.pkgSerial, Reg.sqDb, Reg.cqDb]
/-- Register tables, part 15. -/
def regPart15 : List RegRow :=
  [Reg.eqDb, Reg.sqBase, Reg.cqBase, Reg.eqBase, Reg.sqCfg, Reg.sqStatus, Reg.cqCfg, Reg.eqCfg]
/-- Register tables, part 16. -/
def regPart16 : List RegRow :=
  [Reg.cqMod, Reg.eqMod, Reg.cqStatus, Reg.eqStatus, Reg.evtRoute, Reg.hifStatus, Reg.rcvHost, Reg.rcvCtrl]
/-- Register tables, part 17. -/
def regPart17 : List RegRow :=
  [Reg.rcvStatus, Reg.bootStatus, Reg.rstCtrl, Reg.fwInfo, Reg.fwUpdAddr, Reg.fwUpd, Reg.joinNode, Reg.joinBeat]
/-- Register tables, part 18. -/
def regPart18 : List RegRow :=
  [Reg.joinOrigin, Reg.joinCmd, Reg.wdt, Reg.dbgNonce, Reg.dbgToken, Reg.dbgCtrl, Reg.cdiePwr, Reg.xptRa]
/-- Register tables, part 19. -/
def regPart19 : List RegRow :=
  [Reg.xptExclDrop, Reg.xptExcl, Reg.mir, Reg.mirTbl, Reg.mirCnt, Reg.xptBurnCfg, Reg.xptLb, Reg.xptBurn]
/-- Register tables, part 20. -/
def regPart20 : List RegRow :=
  [Reg.hbmLb, Reg.ddrLb, Reg.bistStatus, Reg.pwrLimit, Reg.thermCfg, Reg.thermStatus, Reg.pwrStatus, Reg.avsStatus]
/-- Register tables, part 21. -/
def regPart21 : List RegRow :=
  [Reg.xptTx, Reg.xptRx, Reg.xptLevel, Reg.xptNonmin, Reg.swFwd, Reg.swMc, Reg.swEcc, Reg.swMirrorCnt]
/-- Every register table of the spec but CFG_COMMIT and FN_COMMIT, which every unit and function page has. -/
def regTable : List RegRow :=
  regPart1 ++ regPart2 ++ regPart3 ++ regPart4 ++ regPart5 ++ regPart6 ++ regPart7 ++ regPart8 ++ regPart9 ++ regPart10 ++ regPart11 ++ regPart12 ++ regPart13 ++ regPart14 ++ regPart15 ++ regPart16 ++ regPart17 ++ regPart18 ++ regPart19 ++ regPart20 ++ regPart21

end Sys2Proof.Machine
end

