-- ==== Sys2Proof/Machine/State.lean ====
section
/-! DEFINITION. The state of the package as plain data: the timelines, the fuses, everything else (`Hw`), and the
queue of waiting commands. The architectural registers of the register tables live in `Hw.regs`, keyed by their
place in the register range; what follows holds the stores, queues and tables behind them. -/

namespace Sys2Proof.Machine

/-- Byte memory: cells at strictly rising addresses, a zero byte never listed. -/
abbrev Mem := List Host.Cell

/-- Completion statuses (R484). -/
inductive Status where
  | ok | okFallback | okReplayed | okLate | refused | reserveRefused | badDescriptor | overlap | sparseFormat
  | mismatch | notOwner | writeDenied | eccUncorrected | destUnreachable | timeout | aborted | partitionDown
  deriving DecidableEq, Repr

/-- Why the machine stops with a fault. No command of this block does: each has an effect or leaves the state as it
is, so the one constructor is raised by no meaning (safe). -/
inductive Fault where
  | internal
  deriving DecidableEq, Repr

/-- Why a command is refused. -/
inductive Refusal where
  /-- Raised by a dispatch arm of a command that has no meaning in this model; safe. -/
  | notModelled (mnemonic : String)
  deriving DecidableEq, Repr

/-- What answers of remote targets bring: the status code, OLD, and the bytes read (R391). -/
structure Resp where
  code : Nat
  old : Nat := 0
  data : List Byte := []
  deriving DecidableEq, Repr

/-- Who hears of a frame's end, or of a request's answer. -/
inductive Owner where
  /-- Nobody: acknowledgements, answers, and records of the management processor. -/
  | free
  /-- An outstanding request, by its OPID. -/
  | req (id : Nat)
  /-- A descriptor at a unit, by its tag. -/
  | job (die unit tag : Nat)
  /-- A thread of a control processor; `rd` receives a load's or an atomic's result, as `kind` says (0 for a posted request);
  `addr` is the address it formed. -/
  | thread (die unit thread rd kind addr : Nat)
  /-- Copy `t` of multicast original `id` held by an F-die (R290). -/
  | copy (die id t : Nat)
  /-- A chunk of a context of a stitch unit that emitted the frame, with the number of the context's claim above bit 21
  (R305, R306). -/
  | stitch (die unit ctx chunk : Nat)
  /-- The copies that a mirrored write sent to the partner, by the number of their hold (R538). -/
  | mirror (id : Nat)
  deriving DecidableEq, Repr

/-- A request to another node, or a deferred atomic, and its answer once it has come (R388 to R391, R403). -/
structure Req where
  id : Nat
  owner : Owner
  /-- The frame type of the request; 257 for the copy of a mirrored write until a failing answer is counted (R538). -/
  typ : Nat
  node : Nat
  off : Nat
  bytes : Nat
  resp : Option Resp := none
  deriving DecidableEq, Repr

/-- A frame waiting at its source owner (R250, R252): what its issuer fixes of it. The partition tag is read from
XPT_PTAG_p when it is sent, or is given. -/
structure TxFrame where
  typ : Nat
  cls : Nat
  ordered : Bool := false
  part : Option Nat := none
  tag : Nat := 0
  src : Nat
  dst : Nat
  arg : Nat := 0
  payload : List Byte
  owner : Owner := .free
  /-- The first word of reduction memory that a stitch unit's frame is read from, and their number (R306). -/
  area : Nat × Nat := (0, 0)
  deriving DecidableEq, Repr

/-- A transmit record: a frame sent and not acknowledged (R252, R262). -/
structure TxRec where
  seq : Nat
  frame : TxFrame
  lastSent : Nat
  resends : Nat := 0
  deriving DecidableEq, Repr

/-- A flow at its source owner (R250 to R252, R263, R570). `next` is the next SEQ. -/
structure TxFlow where
  inc : Nat
  /-- Times INC has advanced since the join. -/
  advanced : Nat := 0
  next : Nat := 0
  wbase : Nat := 0
  recs : List TxRec := []
  lastSent : Nat := 0
  /-- No frame of the new incarnation leaves before this. -/
  quietUntil : Nat := 0
  /-- The next XIDX, and the XCH_SENDs in progress on the flow with theirs. -/
  xidx : Nat := 0
  xsends : List (Owner × Nat) := []
  deriving DecidableEq, Repr

/-- A flow at its destination owner (R259, R261, R570). -/
structure RxFlow where
  valid : Bool := false
  inc : Nat := 0
  edge : Nat := 0
  map : Nat := 0
  /-- Frames accepted or found duplicate and not yet acknowledged, and since when. -/
  waiting : Nat := 0
  since : Nat := 0
  /-- XTAG of the most recent XIDX values seen, newest first. -/
  xtags : List (Nat × Nat) := []
  deriving DecidableEq, Repr

/-- A frame in a switch core's packet buffer: the F-die, its ingress point there, whether its charge is to the shared
pool, the partition whose share of the pool it takes, whether a word of it fails its check and how many have a bit to
correct; the F-die it goes to from the package port, none for local delivery; and whether its destination owner has had
the notice of it (R250, R281 to R286, R455). -/
structure Buf where
  die : Nat
  point : Nat
  frame : Frame
  shared : Bool := false
  part : Option Nat := none
  bad : Bool := false
  corr : Nat := 0
  toDie : Option Nat := none
  noticed : Bool := false
  deriving DecidableEq, Repr

/-- Deficit round robin: whose turn it is, whether it has had its quantum, and the deficits (R280, R454). -/
structure Drr where
  turn : Nat := 0
  granted : Bool := false
  deficits : SMap Nat := []
  deriving DecidableEq, Repr

/-- A fabric port beside its registers: what it receives, what it may send, and its return to service (R243 to R245,
R253, R530 to R533, R543 to R549). -/
structure Port where
  /-- Bytes of the frame stream not yet taken, with whether each came in an uncorrectable codeword. -/
  rx : List (Byte × Bool) := []
  /-- PROBE frames received and not yet answered. -/
  probes : List Frame := []
  blk : Option Nat := none
  badRun : Nat := 0
  /-- Control blocks received in sequence. -/
  ctlRun : Nat := 0
  lastCtl : Nat := 0
  /-- Credits held and credits owed, by class. -/
  credits : List Nat := [0, 0, 0, 0]
  owed : List Nat := [0, 0, 0, 0]
  /-- CR fields of the last block header sent (R243, R282). -/
  returned : List Nat := [0, 0, 0, 0]
  /-- Since when a head frame has stood without enough credits, and for how long one did before in the interval (R256). -/
  stallSince : Option Nat := none
  stalled : Nat := 0
  arb : Drr := {}
  /-- Frames handed to the egress PCS. -/
  wire : List Frame := []
  /-- The back-off a next failure takes, ms, 0 for the first; and the counter value at which one in force ends. -/
  backoff : Nat := 0
  until_ : Option Nat := none
  /-- Counter value at which the port entered its state. -/
  since : Nat := 0
  /-- Numbers of probes sent and not yet returned, when they were sent, whether a round has been sent and has passed, how
  many failed, and probes of the far end answered (R531, R532, R544). -/
  probesOut : List Nat := []
  probedAt : Nat := 0
  probing : Bool := false
  probesOk : Bool := false
  probesFar : Nat := 0
  /-- Periods in a row in which every lane of both ends met CONV, and the thresholds of caps 2, 4 and 8 plus HYST. -/
  convRun : Nat := 0
  capRuns : List Nat := [0, 0, 0]
  /-- Transmit taps, in steps from where training began, by lane × 5 + tap (R546, R547). -/
  taps : SMap Int := []
  /-- The committed weight, or the ramp's value while it runs. -/
  target : Nat := 0
  ramp : Bool := false
  /-- The loop-back that runs, by its depth. -/
  loop : Option Nat := none
  /-- In LOOPBACK, the first end has its result and the second end's blocks are looped (R545). -/
  second : Bool := false
  deriving DecidableEq, Repr

/-- A multicast original held for its copies (R287 to R292): its place at the switch core, the tag its copies carry,
and the copies not yet acknowledged, with whether each has been handed to transmission. -/
structure McOrig where
  id : Nat
  die : Nat
  /-- The F-die and the ingress point at which the frame entered the package. -/
  inDie : Nat
  point : Nat
  frame : Frame
  tag : Nat
  copies : List (Nat × Nat × Bool)
  deriving DecidableEq, Repr

/-- A switch core beside its registers (R276 to R294). -/
structure Switch where
  /-- Whole frames that have passed HCRC and wait for forwarding, by ingress point. -/
  inq : SMap (List Frame) := []
  /-- Frames counted and mirror records numbered (R293, R294). -/
  counted : Nat := 0
  sample : Nat := 0
  deriving DecidableEq, Repr

/-- A mirrored region (R537). -/
structure MirRegion where
  base : Nat
  log2 : Nat
  pbase : Nat
  deriving DecidableEq, Repr

/-- A partition's mirror pair beside its registers (R536 to R540). -/
structure Mirror where
  regions : List MirRegion := []
  /-- A table read and waiting for its epoch, with the entries it ignored. -/
  next : Option (List MirRegion × Nat) := none
  interrupted : Option Nat := none
  takeovers : Nat := 0
  /-- The takeover word is due at the partition's next boundary. -/
  due : Bool := false
  deriving DecidableEq, Repr

/-- A chunk set of a stitch context: the chunk it holds, the frames of its inputs, whether its program has ended, and
whether a word of it fails its check (R300, R306, R325). -/
structure StuSet where
  chunk : Option Nat := none
  ins : SMap Frame := []
  ended : Bool := false
  bad : Bool := false
  deriving DecidableEq, Repr

/-- A claimed context of a stitch unit: its entry and its program as the claim found them, its slots, its chunk sets,
whether its slots are still being cleared, and the number of its claim at the unit (R302, R303). -/
structure StuCtx where
  entry : BitVec 2048
  prog : List Word
  first : Nat
  slots : Nat
  sets : List StuSet
  clearing : Bool := true
  gen : Nat := 0
  deriving DecidableEq, Repr

/-- The chunk a stitch unit runs: the index of the next instruction in its program, the GLOOP in hand with its body's
start and length and the group, the registers as lanes of bits and as they stood before the loop, and the output
area (R307 to R320). -/
structure StuRun where
  ctx : Nat
  /-- The number of the context's claim. -/
  gen : Nat := 0
  chunk : Nat
  pc : Nat := 0
  gloop : Option (Nat × Nat × Nat) := none
  regs : SMap (List Nat) := []
  base : SMap (List Nat) := []
  out : Mem := []
  /-- Output data granules of a record operation. -/
  olen : Option Nat := none
  counts : Counts := {}
  emitted : Bool := false
  deriving DecidableEq, Repr

/-- A stitch unit (R295): its claimed contexts, those released and claimed anew before their slots were back (R305), the
claims made so far, and the chunk that runs. -/
structure Stu where
  ctxs : SMap StuCtx := []
  old : List (Nat × StuCtx) := []
  claims : Nat := 0
  run : Option StuRun := none
  deriving DecidableEq, Repr

/-- A node of a collective group hosted on this package that has children (R330, R331, R343): the level of its span,
the hosts of its children in ascending key and whether each is fed by its agent, its stitch context as F-die, unit and
index, and whether its context has been written. -/
structure GNode where
  level : Nat
  kids : List (Nat × Bool)
  ctx : Option (Nat × Nat × Nat) := none
  written : Bool := false
  deriving DecidableEq, Repr

/-- An endpoint of this package in one tree of a group: its nodes with children, deepest first; the level and the
host of its parent, none at the top root; its multicast entry and targets; and what the set-up records have told: the
SOURCE of each child by host, and the parent's context (R331, R341 to R343). -/
structure GHost where
  host : Nat
  tree : Nat
  level : Nat
  nodes : List GNode
  parent : Option (Nat × Nat)
  entry : Option (Nat × Nat) := none
  targets : List Nat := []
  ups : SMap Nat := []
  down : Option (Nat × Nat) := none
  deriving DecidableEq, Repr

/-- A member agent of a group on this package: its die, its rank, the sequence of its next collective, the next chunk
number of each tree, and whether the group has failed there (R335, R336, R357). -/
structure GMember where
  die : Nat
  rank : Nat
  opseq : Nat := 0
  base : List Nat := [0, 0]
  failed : Bool := false
  /-- The result of OPSEQ 0, once it has it. -/
  vote : Option Nat := none
  deriving DecidableEq, Repr

/-- A collective group as this package holds it (R326 to R345). -/
structure Group where
  part : Nat
  move : Bool
  red : Nat
  inFmt : Nat
  outFmt : Nat
  depth : Nat
  degree : Nat
  stage : Nat
  stageSize : Nat
  at_ : Nat
  levels : Nat
  digest : Nat
  /-- Endpoints in rank order, and the hosts of the top roots of tree 0 and tree 1. -/
  ends : List Nat
  tops : List Nat
  hosts : List GHost
  agents : List GMember
  /-- The SETUP that waits. -/
  job : Option Nat
  /-- The claims have been applied, and whether one found no slots. -/
  claimed : Bool := false
  noSlots : Bool := false
  /-- The form, once decided: 0 switch form, 1 endpoint form. -/
  form : Option Nat := none
  deriving DecidableEq, Repr

/-- A stretch of the vector that a reduction packs: its elements, where they are read, and where results go. -/
structure CollEnt where
  elems : Nat
  src : Option Nat
  dst : Option Nat
  deriving DecidableEq, Repr

/-- A collective that an agent runs (R349 to R357): the group, the sequence, the descriptor by its tag (none for OPSEQ 0),
the signature, the packed vector or the moved stream, and how far it has come. -/
structure CollRun where
  die : Nat
  gkey : Nat
  opseq : Nat
  tag : Option Nat
  sig : Nat
  chunks : Nat
  ents : List CollEnt := []
  /-- MOVE: ROWS, ROW_BYTES and BAND, SRC and its stride, DST and its stride, the only sender's rank, and piece flags
  with their TAG. -/
  rows : Nat := 0
  rowBytes : Nat := 0
  band : Nat := 0
  src : Nat := 0
  srcStride : Nat := 0
  dst : Nat := 0
  dstStride : Nat := 0
  from_ : Option Nat := none
  pieces : Option (Nat × Nat) := none
  /-- The contribution to OPSEQ 0. -/
  value : Nat := 0
  /-- Own chunks sent or folded. -/
  sent : List Nat := []
  /-- Chunks staged in endpoint form, by chunk and child (R350). -/
  staged : List (Nat × Nat × Frame) := []
  /-- Result chunks received, those not yet written, and how many are written. -/
  got : List Nat := []
  held : List Frame := []
  written : Nat := 0
  /-- Signatures held, by rank; chunks landed, by rank; piece flags written. -/
  sigs : SMap Nat := []
  landed : SMap (List Nat) := []
  flags : List Nat := []
  /-- Record number of an uncorrectable word that this agent read. -/
  ecc : Option Nat := none
  since : Nat := 0
  deriving DecidableEq, Repr

/-- A list of an exchange as its destination knows it (R267, R270). -/
structure XList where
  count : Nat
  first : Nat
  /-- The landing entry of its replica, and its base once fixed. -/
  entry : Option Nat
  base : Option Nat := none
  deriving DecidableEq, Repr

/-- A source of an open exchange (R267, R275). -/
structure XSrc where
  coord : Nat
  nlists : Nat
  fmt : Nat
  tiled : Bool
  elems : Nat
  retStride : Nat
  retAddr : Nat
  retBytes : Nat
  lists : SMap XList := []
  deriving DecidableEq, Repr

/-- A landing entry of an open exchange (R269 to R271). -/
structure XEnt where
  expert : Nat
  replica : Nat
  total : Nat
  slot : Nat
  tag : Nat
  flag : Option Nat := none
  /-- Place of the tag records; none where it cannot be reached. -/
  tags : Option Nat := none
  /-- Where positions lie: extents of memory in order. -/
  chain : List (Nat × Nat) := []
  keeper : Option Nat := none
  /-- Its ALLOC has not completed. -/
  waiting : Bool := false
  done : Bool := false
  /-- Rows its lists cover, and positions landed, ascending. -/
  next : Nat := 0
  landed : List Nat := []
  /-- Segments that have landed of positions not yet whole. -/
  segs : SMap (List Nat) := []
  /-- COUNT of the flag as last written. -/
  flagged : Nat := 0
  deriving DecidableEq, Repr

/-- An open exchange (R269 to R275). -/
structure XOpen where
  part : Nat
  nsrc : Nat
  /-- The landing table's place. -/
  table : Nat
  ents : List XEnt
  srcs : List XSrc := []
  /-- An XCH_CLOSE waits for its ALLOCs. -/
  closing : Bool := false
  deriving DecidableEq, Repr

/-- Returned rows that a source owner counts (R272). -/
structure XRet where
  src : Nat
  lo : Nat
  stride : Nat
  bytes : Nat
  pairs : Nat
  got : Nat := 0
  flag : Nat
  tag : Nat
  /-- The XCH_SEND, whose header frames end the count of an exchange without bytes to return. -/
  job : Nat
  deriving DecidableEq, Repr

/-- A floating-point atomic held for its boundary (R403), its operands as bit patterns, and where its answer goes:
to a request of this package, or to a remote coordinate with its OPID, tag and class. -/
structure Deferred where
  due : Nat
  src : Nat
  thread : Nat
  tseq : Nat
  off : Nat
  afmt : Nat
  operands : List Nat
  local_ : Option Nat
  opid : Nat
  tag : Nat
  cls : Nat
  deriving DecidableEq, Repr

/-- An entry of a region table that is in use and well formed (R394). -/
structure Region where
  base : Nat
  log2 : Nat
  node : Nat
  owner : Nat
  any : Bool
  deriving DecidableEq, Repr

/-- A region table as one transport engine holds it (R396, R397). -/
structure RegionTable where
  enable : Bool := false
  entries : List Region := []
  bad : Nat := 0
  deriving DecidableEq, Repr

/-- A revision of the default policy under way (R217): the generation it makes, the spare slots it hands out (expert,
replica index, number of the spare), how far it has come (0: weights are copied, 1: banks are written, 2: requests are
written), the copies not yet handed to a copy engine and those that run, REQ_AT, and whether one failed. -/
structure Revision where
  gen : Nat
  got : List (Nat × Nat × Nat)
  phase : Nat := 0
  todo : List Desc := []
  running : Nat := 0
  reqAt : Nat := 0
  bad : Bool := false
  deriving DecidableEq, Repr

/-- The placement of a partition as its dispatch engines hold it (R203 to R207, R215, R217): the destinations of each
expert's replicas. -/
structure Plc where
  active : SMap (List Nat) := []
  shadow : SMap (List Nat) := []
  hash : Bool := false
  /-- A committed switch that waits: ENABLE, BANK, HASH, AT, and whether AT was past when it took force. -/
  pending : Option (Nat × Nat × Nat × Nat × Bool) := none
  /-- The bank under verify. -/
  verify : Option Nat := none
  switches : Nat := 0
  /-- Beats since the popularity interval began, an END that waits, and beats since the last switch. -/
  popBeats : Nat := 0
  popEnd : Bool := false
  /-- Halves that an interval left uncleared because nothing was counted: cleared before their first addition (R215). -/
  popStale : List Nat := []
  sinceSwitch : Nat := 0
  revision : Option Revision := none
  deriving DecidableEq, Repr

/-- What a ROUTE in progress keeps (R176, R181, R207, R214): its set, the rule of R211, the half its counts go to, the
switches its partition had made, and the bias table as the engine's bias store holds it (R168). -/
structure RouteCopy where
  part : Nat
  set : SMap (List Nat)
  half : Nat
  switches : Nat
  bias : List FVal
  deriving DecidableEq, Repr

/-- Where an operation came from, and so where its completion goes (R412, R415, R448, R474, R117). -/
inductive Origin where
  /-- The package itself; no completion is written. -/
  | internal
  /-- A copy of the default policy of a partition (R217). -/
  | revise (part : Nat)
  /-- Entry `opid` of submission ring `sq` of function `fn`. -/
  | ring (fn sq opid : Nat) (nocomp int : Bool)
  /-- A POST of a tile program, by its issue number. -/
  | post (die core issue : Nat)
  /-- A KPOST of a thread, with its ticket. -/
  | kpost (die unit thread ticket : Nat)
  /-- A RESERVE that a partition LOAD issued at M-die `k`. -/
  | load (part k : Nat)
  /-- An ALLOC for an entry of a landing table (R269). -/
  | land (xtag entry : Nat)
  deriving DecidableEq, Repr

/-- An allocated Keeper buffer: its generation, owners in order, which shares are held, whether it is marked for
freeing, its group, and whether it waits for a beat boundary to go back (R232 to R234). -/
structure KBuf where
  gen : Nat
  owners : List Nat
  shares : List Bool
  marked : Bool := false
  group : Nat
  returning : Bool := false
  deriving DecidableEq, Repr

/-- A reservation at a Keeper (R221 to R223): sizes and counts by class, allocated buffers by class × 2^32 + index,
live groups with LENGTH and the buffers still out. -/
structure Resv where
  base : Nat
  size : Nat
  budget : Nat
  groups : Nat
  sizes : List Nat
  counts : List Nat
  bufs : SMap KBuf := []
  live : SMap (Nat × Nat) := []
  nextGroup : Nat := 0
  deriving DecidableEq, Repr

/-- A descriptor waiting at a unit, or running there. -/
structure Job where
  body : Desc
  origin : Origin
  /-- Partition the work belongs to, if any. -/
  part : Option Nat
  /-- Beat in hand of the poster (R437). -/
  beat : Option Nat
  /-- The operation was accepted and waits for something (R172, R190, R229, R272). -/
  started : Bool := false
  /-- Counter value at which its wait began. -/
  since : Nat := 0
  /-- Number of the operation on this package, for the table of outstanding requests. -/
  tag : Nat := 0
  /-- What it completes with once every request it has sent is answered. -/
  result : Option (Status × Nat) := none
  /-- Its arrival flag has been sent to another node; of a page command, its epoch has come (R370). -/
  flagged : Bool := false
  /-- Frames of an XCH_SEND already sent when a clear held one of its reads (R133, R568). -/
  sent : Nat := 0
  deriving DecidableEq, Repr

/-- Outcome of an operation for its poster: status, and VALUE and INDEX of R485. -/
structure Done where
  st : Status
  value : Nat := 0
  index : Nat := 0
  deriving DecidableEq, Repr

/-- What waits for the partner's answers to mirrored writes (R538): the completion of a descriptor, or the answer to a
request of another node: its SRC, PTAG, class and OPID, the answering coordinate, and OLD. -/
inductive MirHold where
  | job (die unit : Nat) (j : Job) (d : Done) (flag : Option (Nat × Nat × Nat))
  | reply (dst tag cls opid src old : Nat)
  deriving DecidableEq, Repr

/-- A page of device memory where it differs from what training left (R363, R366 to R371): its frame at its home, HBM
frames first, its PIN, and its COUNT. -/
structure Page where
  frame : Nat
  pin : Nat := 0
  count : Nat := 0
  deriving DecidableEq, Repr

/-- A swap that waits at a home's migration engine: the two pages by home index, the one to go to HBM first, and the
command it belongs to, none for the counter policy (R366, R370, R371). -/
structure Swap where
  up : Nat
  down : Nat
  tag : Option Nat
  deriving DecidableEq, Repr

/-- A window program in progress (R373 to R383): its WIN_RUN, its header, the step it stands at and that step as it was
read, the uses of its slots, the counters of its LOOPs, the EXPERTS steps done, and what an EXPERTS step has still to
fetch: slot, use and source. -/
structure WinRun where
  tag : Nat
  runid : Nat
  prog : Nat
  nsteps : Nat
  window : Nat
  slotBytes : Nat
  nslots : Nat
  release : Nat
  arrive : Nat
  index : Nat := 0
  step : Option (BitVec 512) := none
  uses : SMap Nat := []
  loops : SMap Nat := []
  experts : Nat := 0
  todo : Option (List (Nat × Nat × Nat)) := none
  beat : Nat := 0
  /-- Counter value at which a wait began. -/
  since : Option Nat := none
  deriving DecidableEq, Repr

/-- Why a thread of a control processor waits (R408, R409, R414): for the answer to the load, LR, SC or AMO at `pc`; for a
flag since a time, with its address, tag, destination register and the instruction's place; or before an instruction
that it tries again: until a slot is free, until nothing is outstanding, or until no posted request to a line is. -/
inductive CpWait where
  | answer (pc : Nat)
  | flag (rd addr tag since pc : Nat)
  | slot
  | fence
  | line (node line : Nat)
  deriving DecidableEq, Repr

/-- A thread of a control processor beside CP_PC, CP_TSTAT and CP_TVAL (R406 to R412). -/
structure CpThread where
  /-- x1 to x31, f0 to f31, fcsr, and machine-mode CSRs by their numbers. -/
  x : SMap Word := []
  f : SMap Word := []
  fcsr : Nat := 0
  csrs : SMap Word := []
  instret : Nat := 0
  wait : Option CpWait := none
  /-- A failed posted request: status code and address (R411). -/
  failed : Option (Nat × Nat) := none
  deriving DecidableEq, Repr

/-- A control processor beside its registers: its threads, the thread that issued last and whether its turn is over, and
the instruction cache as halfwords by address (R407, R408). -/
structure Cp where
  threads : SMap CpThread := []
  last : Nat := 15
  over_ : Bool := true
  icache : SMap Nat := []
  deriving DecidableEq, Repr

/-- A Keeper (08_keeper_pools.md): reservations by partition, generations of every buffer ever allocated, NEXT by
partition, held ALLOCs, and served ALLOCs whose RESULT is on its way to another node. -/
structure Keeper where
  resv : SMap Resv := []
  gens : SMap Nat := []
  next : SMap Nat := []
  held : List Job := []
  writing : List (Job × Nat × Nat) := []
  deriving DecidableEq, Repr

/-- States of a sequencer (R121). -/
inductive CoreSt where
  | idle | running | flagWait | gateWait | replayWait | beatWait | stopping
  deriving DecidableEq, Repr

/-- A launch waiting at a core (R115, R476). -/
structure LaunchRec where
  start : Nat
  args : List Word
  origin : Origin
  part : Option Nat
  deriving DecidableEq, Repr

/-- A product that a core has begun: the row mask and the bias it read, the passes it has fed, and whether the weights
of the next pass are in the active sets (R93, R94, R97, R100). -/
structure MmaRun where
  mask : List Bool
  bias : List FVal
  passes : Nat := 0
  swapped : Bool := false
  deriving DecidableEq, Repr

/-- An operation in a core's array or vector queue: its issue number, the index of its instruction, its descriptor
with the rows a register gave, the replay step and the beat it carries, and how far it has come. -/
structure CoreOp where
  issue : Nat
  index : Nat
  desc : Desc
  rows : Nat
  step : Nat
  beat : Nat
  /-- The 2:4 scan has ended (R105). -/
  scanned : Bool := false
  /-- What the scan found: SPARSE_FORMAT, or an uncorrectable word at an address. -/
  scanFault : Option (Status × Nat) := none
  /-- A TO_DISPATCH product has handed M and N over: the LOGITS and LOGIT_STRIDE of its ROUTE (R172). -/
  handed : Option (Nat × Nat) := none
  /-- The flag list of a streaming product: flag, tag, first k and length of each entry (R108). -/
  flags : List (Nat × Nat × Nat × Nat) := []
  run : Option MmaRun := none
  since : Nat := 0
  deriving DecidableEq, Repr

/-- A descriptor in a core's post queue (R118). -/
structure PostRec where
  issue : Nat
  index : Nat
  unit : Nat
  desc : Desc
  beat : Nat
  handed : Bool := false
  deriving DecidableEq, Repr

/-- The earliest-issued failing operation of a program (R119), with the VALUE of R485. -/
structure FailRec where
  issue : Nat
  status : Status
  index : Nat
  value : Nat
  deriving DecidableEq, Repr

/-- A weight register set of a core's cells (R88, R92): whose tile it holds, by the product's issue number and the number
of the pass, and the weight of each cell by column and k; a slot that 2:4 form leaves empty holds none (R103). A tile
whose load met an uncorrectable word or a tile that breaks its form holds the fault instead (R99). -/
structure Tile where
  issue : Nat
  tile : Nat
  weights : List (List (Option FVal)) := []
  fault : Option (Status × Nat) := none
  deriving DecidableEq, Repr

/-- A core: its sequencer, its three queues, its weight register sets, and the counts of the attempt in hand. -/
structure Core where
  st : CoreSt := .idle
  index : Nat := 0
  /-- s1 to s31; s0 is not held (R115). -/
  regs : SMap Word := []
  unitStart : Nat := 0
  unitRegs : SMap Word := []
  replayStep : Nat := 0
  launches : List LaunchRec := []
  cur : Option LaunchRec := none
  arrayQ : List CoreOp := []
  vectorQ : List CoreOp := []
  posts : List PostRec := []
  active : Option Tile := none
  shadow : Option Tile := none
  /-- The FP32 accumulators of arrays A and B: the values of the rows of the n-tile in hand, by row (R88, R97). -/
  accA : SMap (List FVal) := []
  accB : SMap (List FVal) := []
  /-- R71 on this core since the unit's start: saturation, non-finite conversion, non-finite accumulator. -/
  satEv : Bool := false
  nonfinEv : Bool := false
  accEv : Bool := false
  replayed : Bool := false
  late : Bool := false
  exitCode : Nat := 0
  fail : Option FailRec := none
  nextIssue : Nat := 0
  /-- Beat in hand (R436). -/
  beat : Nat := 0
  since : Nat := 0
  /-- Counter value at which a GATE ends by its deadline or by a beat boundary (R109). -/
  deadline : Nat := 0
  /-- Watch counts of the attempt in hand, by tensor identity (R79). -/
  watch : SMap Counts := []
  /-- Code of the narrowest format among the stepped tensors the attempt wrote (R74, R78). -/
  stepFmt : Option Nat := none
  /-- Skiver counts of the attempt in hand: tiles, raw tiles, bytes saved modulo 2^64, pruned elements (R167). -/
  skvTiles : Nat := 0
  skvRaw : Nat := 0
  skvSaved : Nat := 0
  skvPruned : Nat := 0
  deriving DecidableEq, Repr

/-- A product handed over to a dispatch engine: its core, M, its row mask, whether it has ended, and the status it ended
with (R172). -/
structure Fed where
  core : Nat
  m : Nat
  mask : List Bool
  ended : Bool
  status : Status
  value : Nat
  deriving DecidableEq, Repr

/-- A store inside a unit that carries SECDED and lies at no address of the local map: the stores of a dispatch engine
(R168), a word of an F-die's reduction memory, 4,096 to a slot (R302, R323), the state of a Keeper class, by M-die,
partition and class (R236), the entry of a page in the page map (R365), an instruction of a program store (R115, R311),
the word of a register file that the next instruction of a core's sequencer, thread 0, or of a control processor's thread
reads, and a word of the management SRAM (R497, R516). -/
inductive Site where
  | engine (die : Nat)
  | reduction (die word : Nat)
  | keeper (die part cls : Nat)
  | pageMap (page : Nat)
  | program (die unit index : Nat)
  | file (die unit thread : Nat)
  | sram
  deriving DecidableEq, Repr

/-- What a scratchpad clear belongs to (R132, R133, R451, R515). -/
inductive ClearFor where
  | release (part : Nat)
  | wake
  | boot
  deriving DecidableEq, Repr

/-- Dynamic state of a completion or event ring beside its registers (R479, R486, R490, R492). -/
structure RingX where
  phase : Bool := true
  /-- Entries written since the last message, and when the first of them was written. -/
  unsignalled : Nat := 0
  first : Nat := 0
  lost : Nat := 0
  deriving DecidableEq, Repr

/-- An MSI-X message sent to the host: function, vector, and the address and data of its table entry. -/
structure Msix where
  fn : Nat
  vector : Nat
  addr : Nat
  data : Nat
  deriving DecidableEq, Repr

/-- The host interface beside its registers (17_host_interface.md). -/
structure HostIf where
  rings : SMap RingX := []
  evSeq : Nat := 0
  /-- The submission ring of a function that has the next turn (R478). -/
  sqTurn : SMap Nat := []
  msgs : List Msix := []
  /-- Pages the address translation cache holds (R466, R470). -/
  atc : List Nat := []
  linkUp : Bool := false
  /-- Configuration space, as dwords by function and offset, where software wrote them (R501). -/
  cfg : SMap (BitVec 32) := []
  /-- IDE streams with keys programmed, and those active: 0 the link stream, 1 to 8 selective (R466). -/
  ideKeys : List Nat := []
  ideGo : List Nat := []
  deriving DecidableEq, Repr

/-- The state of a partition's timeline (R429). -/
inductive BeatState where
  | idle | armed | running
  deriving DecidableEq, Repr

/-- One partition's timeline (R426). -/
structure PartTl where
  st : BeatState := .idle
  /-- The period of the cinch; BEAT_p shows it from GO on. -/
  period : Nat := 0
  origin : Nat := 0
  /-- GO has set the origin of an armed timeline (R432). -/
  go : Bool := false
  deriving DecidableEq, Repr

/-- The timelines of the package, and deterministic mode, which changes only while none is armed or running
(R426, R444). -/
structure Timelines where
  fabPeriod : Nat
  fabOrigin : Nat
  parts : List PartTl
  det : Bool
  deriving DecidableEq, Repr

/-- What a port last told of itself in its control blocks (R243, R422). -/
structure Peer where
  depth : Nat := 0xFF
  synced : Bool := false
  gm : Bool := false
  /-- Its fabric timeline differs from this package's (R423). -/
  bad : Bool := false
  lastTx : Nat := 0
  lastRx : Nat := 0
  deriving DecidableEq, Repr

/-- Synchronisation state beside TIME_STATUS (R418 to R425). -/
structure TimeSync where
  everSynced : Bool := false
  goodRun : Nat := 0
  badRun : Nat := 0
  /-- Counter value at which the package lost its synchronised parent, if it has none (R424). -/
  lostAt : Option Nat := none
  /-- Nanoseconds for which the counter is held still (R418). -/
  hold : Nat := 0
  peers : SMap Peer := []
  deriving DecidableEq, Repr

/-- A cinch accepted on this package (R430 to R435). -/
structure Cinch where
  job : Job
  ckey : Nat
  period : Nat
  lead : Nat
  timeout : Nat
  notBefore : Nat
  span : Nat
  sig : Nat
  leader : Nat
  members : List Nat
  ready : List Nat := []
  accepted : Nat
  /-- The leader has sent GO or FAIL. -/
  decided : Bool := false
  deriving DecidableEq, Repr

/-- The deadline monitor of a partition beside its registers (R459 to R463). -/
structure Dlm where
  overCount : Nat := 0
  cleanCount : Nat := 0
  /-- Plan requested by the leader, with its target boundary. -/
  request : Option (Nat × Nat) := none
  /-- Plan record received by this member: plan, target, SWITCHES. -/
  pending : Option (Nat × Nat × Nat) := none
  lags : SMap Nat := []
  lastSent : Nat := 0
  ckey : Nat := 0
  span : Nat := 0
  members : List Nat := []
  leader : Nat := 0
  deriving DecidableEq, Repr

/-- Quantities of a partition since its last beat boundary (R457). -/
structure Acct where
  array : Nat := 0
  vector : Nat := 0
  tx : Nat := 0
  rx : Nat := 0
  memory : Nat := 0
  host : Nat := 0
  /-- Largest late time recorded in the beat (R438). -/
  lateNs : Nat := 0
  deriving DecidableEq, Repr

/-- A partition descriptor accepted for an epoch (R448, R451). -/
structure PartJob where
  job : Job
  part : Nat
  isLoad : Bool
  dies : Nat
  at_ : Nat
  /-- M-dies whose RESERVE has been issued and not answered, and those that succeeded. -/
  waiting : List Nat := []
  reserved : List Nat := []
  failed : Option Status := none
  deriving DecidableEq, Repr

/-- What survives a package reset: the flash, the persistent event log, the fused security version (R497, R502,
R506). The part of State.reset has a fused version of 0, which the spec does not give (DESIGN CHOICE, log entry 5). -/
structure NonVolatile where
  flash : Mem := []
  eventLog : List (List Byte) := []
  fuseSvn : Nat := 0
  deriving DecidableEq, Repr

/-- The management processor, the security engine and the SPDM responder (18_boot_and_security.md). -/
structure Mgmt where
  sram : Mem := []
  /-- Counter values of the watchdog's last kick and last expiry (R513). -/
  kick : Nat := 0
  expiry : Option Nat := none
  /-- What a reset found, while stage ROM holds for a die below 0 °C (R562). -/
  held : Option BootEnv := none
  nonceValid : Bool := false
  draws : Nat := 0
  /-- D of the running image (R504). -/
  imageD : List Byte := []
  imageVersion : Nat := 0
  commitSvn : Bool := false
  /-- SPDM negotiation: version, capabilities, algorithms done, and the session in handshake or established. -/
  spdmVersion : Bool := false
  spdmCaps : Bool := false
  spdmAlgs : Bool := false
  spdmSession : Nat := 0
  /-- The last response of the DOE mailbox. -/
  doe : List Byte := []
  /-- The last answer of the TAP and of the I3C target. -/
  tdo : Word := 0
  i3c : Word := 0
  /-- The last value a configuration read returned; `none` for Request Retry Status. -/
  cfgRead : Option (BitVec 32) := none
  /-- The last value a register read returned. -/
  regRead : Word := 0
  deriving DecidableEq, Repr

/-- Power and temperature control (21_package_power_thermal.md). -/
structure Power where
  good : Bool := true
  outputsOff : Bool := false
  /-- THERMTRIP# is asserted; a trip has stopped the clocks, for good until a power-on reset (R563). -/
  thermtrip : Bool := false
  stopped : Bool := false
  thermalDemand : Nat := 0
  powerDemand : Nat := 0
  throt : Bool := false
  avsFault : Bool := false
  /-- Coldest die sensor as last read. -/
  coldest : Int := 25
  /-- Counter value at which throttling last began or was counted (R560). -/
  since : Nat := 0
  deriving DecidableEq, Repr

/-- Everything the package holds beside its timelines, its fuses and the queue of commands. -/
structure Hw where
  /-- The system time counter, ns (R417). -/
  now : Nat
  /-- Boundaries of the fabric timeline, and of each partition's, that have fallen. -/
  fabN : Nat
  partN : SMap Nat
  /-- The register file: values in force; staging copies written since they last took force; and, by block, the timelines
  that a commit waits for (R12, R13, R493, R494). -/
  regs : SMap Word
  staged : SMap Word
  commits : SMap (List Nat)
  /-- Device memory and scratchpad by their place in the local map (R39), and host memory. -/
  mem : Mem
  host : Mem
  /-- Words that fail their check, and words with a single bit to correct (R516, R520), in the local map. -/
  badWords : List Nat
  corrWords : List Nat
  /-- Writes of the package itself that a clear holds: a local address and bytes each, in their order (R133). -/
  heldPokes : List (Nat × List Byte)
  /-- DDR lines that fail their address check (R384, R385). -/
  badLines : List Nat
  /-- Stores at no address whose word fails its check, and those that hold a single-bit error (R115, R168, R236, R311, R323, R365, R497). No
  command makes one: like the lists before, they are what the store holds. -/
  badSites : List Site
  corrSites : List Site
  /-- The page whose map entry was found failing by the command in hand, and whether the work that its fatal event ends
  is still to end (R24, R365). -/
  mapFault : Option Nat
  mapDown : Bool
  /-- The moment each home's migration interval began (R371). -/
  migSince : SMap Nat
  /-- Pages that differ from their first placement, swaps that wait by M-die, the next line of each scrub (R366 to R371,
  R387), and window programs by partition (R373). -/
  pages : SMap Page
  swaps : SMap (List Swap)
  scrubs : SMap Nat
  wins : SMap WinRun
  /-- Device-memory bytes of the operation in hand, for its partition's account (R457). -/
  moved : Nat
  /-- Mirrored writes of the operation in hand, with their partition, home die, partner's offset and bytes; what waits for the partner's
  answers (R538). -/
  mirq : List (Nat × Nat × Nat × List Byte)
  mirHold : SMap MirHold
  nextMir : Nat
  /-- Frames waiting at each source owner, and the flows at their source and destination owners (R250 to R262). -/
  txq : SMap (List TxFrame)
  txFlows : SMap TxFlow
  rxFlows : SMap RxFlow
  /-- Frames that have come to their destination package and wait at the F-die they came in by; ordered frames accepted
  and not yet in sequence; ordered frames in sequence whose destination has not yet taken them (R250, R260). -/
  arrived : List Buf
  reorder : SMap (List Frame)
  ready : SMap (List Frame)
  /-- Failures of frames that descriptors and stitch contexts sent (R263, R527). -/
  failures : List (Owner × Status)
  /-- The order in which partitions inject, by transport engine (R454). -/
  inject : SMap Drr
  /-- Ports and switch cores; frames queued at each egress port by class; multicast originals; which levels are
  saturated (R256, R279, R290). -/
  ports : SMap Port
  switches : SMap Switch
  egress : SMap (List Buf)
  originals : List McOrig
  nextOrig : Nat
  satLocal : Bool
  satGlobal : Bool
  /-- Frames at the routing stage of an F-die that wait to enter its package port, and granules they hold there, by
  F-die × 4 + class (R22, R276, R282); the die links that are marked down (R24); and the counter value at which the
  interval of R256 in hand began. -/
  stages : SMap (List Frame)
  stageUsed : SMap Nat
  linksDown : List (Nat × Nat)
  sampleAt : Nat
  /-- Target 30 of multicast entries, by F-die × 1,024 + entry (R288). -/
  mcExtra : SMap Nat
  /-- Stitch units, by F-die × 16 + unit, and their commands in the order written: F-die, unit, OP, context (R303). -/
  stus : SMap Stu
  stuCmds : List (Nat × Nat × Nat × Nat)
  /-- Collective groups by GKEY, and the collectives that run. -/
  groups : SMap Group
  colls : List CollRun
  /-- Mirror records at the management processor (R294), and mirror pairs by partition. -/
  mirrorRecs : List (List Byte)
  mirrors : SMap Mirror
  /-- Open exchanges by XTAG, the closed list, newest first, and the returns that source owners count. -/
  opens : SMap XOpen
  closedX : List Nat
  xrets : List XRet
  /-- Requests without answer, atomics held for a boundary, and the TSEQ counts of the fabric beat (R390, R403,
  R404). -/
  reqs : List Req
  nextOpid : Nat
  tseq : SMap Nat
  defer : List Deferred
  /-- The region tables of the four transport engines: in force, and read and waiting for its epoch (R397). -/
  rgn : SMap RegionTable
  rgnNext : SMap RegionTable
  /-- A fabric boundary has fallen while a table was being read (R397). -/
  rgnLate : Bool
  /-- LR reservations: the word reserved, by thread (R410). -/
  reservations : SMap Nat
  /-- Descriptors at each unit, oldest first. -/
  jobs : SMap (List Job)
  nextTag : Nat
  /-- Descriptors posted by each control processor and not completed (R415). -/
  kposts : SMap Nat
  io : HostIf
  cps : SMap Cp
  cores : SMap Core
  fed : SMap Fed
  /-- Placements by partition, and the copies of ROUTEs in progress by die (07_expert_placement.md). -/
  plc : SMap Plc
  routes : SMap RouteCopy
  /-- The four Keepers, by M-die, and ALLOCs for landing entries that have completed (R269). -/
  keepers : SMap Keeper
  landed : List (Nat × Nat × Status × Nat)
  /-- R71 events of work that no tile program posted, by partition: bit 0 saturation, bit 1 non-finite conversion,
  bit 2 non-finite accumulator (R72, R170). -/
  replayEv : SMap Nat
  clears : SMap ClearFor
  sync : TimeSync
  cinches : SMap Cinch
  dlm : SMap Dlm
  acct : SMap Acct
  partJobs : List PartJob
  /-- Watch counts of the step in hand (R81), and a step boundary asked for. -/
  watch : SMap Counts
  watchStep : Bool
  nv : NonVolatile
  mgmt : Mgmt
  power : Power
  /-- The number of free values drawn: the model's own field, so that each is fresh. -/
  freeCount : Nat
  deriving DecidableEq, Repr

/-- The fuses a part carries (R1, R2, R14, R552). -/
structure Fuses where
  vendor : Nat
  order : Nat
  cdies : Nat
  fdies : Nat
  mdies : Nat
  ports : Nat
  serial : Nat
  vmin : Nat
  /-- Sub-arrays repaired in each C-die's scratchpad (R131). -/
  spares : List Nat
  deriving DecidableEq, Repr

/-- The machine. -/
structure State where
  tl : Timelines
  fuses : Fuses
  hw : Hw
  pending : List Instr
  deriving DecidableEq, Repr

/-! Reset. -/

/-- The fuses of the part this model shows: ordering code KX32-A, everything enabled, no repairs (R1, R473); the values
are the model's choice (log entry 5). -/
def fusesDefault : Fuses :=
  { vendor := 0, order := 1, cdies := 0xFFFFFF, fdies := 0xF, mdies := 0xF, ports := 0xFFFFFFFFFFFF, serial := 0
    vmin := 0, spares := List.replicate 24 0 }

/-- Registers whose reset is loaded from fuses (R14, R149, R473, R515, R566). -/
def fuseRegs (f : Fuses) (svn : Nat) : SMap Word :=
  let put (m : SMap Word) (die unit off v : Nat) : SMap Word :=
    SMap.putD 0 m (die * 0x1000000 + unit * 0x100000 + off) (BitVec.ofNat 64 v)
  let m := put [] 28 8 0x20 (f.vendor % 2 ^ 16 * 2 ^ 48 + 0x0320 * 2 ^ 32 + f.order % 2 ^ 8 * 2 ^ 24 + 0xA1 * 2 ^ 16)
  let m := put m 28 8 0x28 (f.mdies % 16 * 2 ^ 28 + f.fdies % 16 * 2 ^ 24 + f.cdies % 2 ^ 24)
  let m := put m 28 8 0x30 (f.ports % 2 ^ 48)
  let m := put m 28 8 0x38 f.serial
  let m := put m 28 8 0xA10 (svn % 256 * 256)
  let m := put m 28 8 0xE20 (f.vmin % 256)
  (List.range 24).foldl (fun m d => put m d 11 0x10 (f.spares.getD d 0 % 2 ^ 16)) m

/-- The hardware as a package reset leaves it: every register at its reset value, nothing queued, memory empty; what
survives a reset (R497, R502) is given. -/
def Hw.fresh (f : Fuses) (nv : NonVolatile) : Hw :=
  { now := 0, fabN := 0, partN := [], regs := fuseRegs f nv.fuseSvn, staged := [], commits := [], mem := [], host := []
    badWords := [], corrWords := [], heldPokes := [], badLines := [], badSites := [], corrSites := [], mapFault := none, mapDown := false, migSince := [], pages := [], swaps := [], scrubs := [], wins := [], moved := 0
    mirq := [], mirHold := [], nextMir := 0, txq := [], txFlows := [], rxFlows := [], arrived := [], reorder := [], ready := []
    failures := [], inject := [], ports := [], switches := [], egress := [], originals := [], nextOrig := 0
    satLocal := false, satGlobal := false, stages := [], stageUsed := [], linksDown := [], sampleAt := 0, mcExtra := [], stus := [], stuCmds := [], groups := [], colls := []
    mirrorRecs := [], mirrors := [], opens := [], closedX := [], xrets := []
    reqs := [], nextOpid := 0, tseq := [], defer := [], rgn := [], rgnNext := [], rgnLate := false, reservations := [], jobs := [], nextTag := 0, kposts := [], io := {}, cps := [], cores := []
    fed := [], plc := [], routes := [], keepers := [], landed := [], replayEv := [], clears := [], sync := {}, cinches := [], dlm := [], acct := [], partJobs := []
    watch := [], watchStep := false, nv := nv, mgmt := {}, power := {}, freeCount := 0 }

/-- The timelines of a package outside the fabric: the fabric's at its reset values, every partition's IDLE, the mode
not deterministic (R427, R429, R444). -/
def Timelines.fresh : Timelines := ⟨100000, 0, List.replicate 8 {}, false⟩

/-- The machine right after reset: power is good, the boot sequence stands at stage ROM (R497, R500). -/
def State.reset : State := ⟨Timelines.fresh, fusesDefault, Hw.fresh fusesDefault {}, []⟩

end Sys2Proof.Machine
end

