-- ==== Sys2Proof/Machine/Ops.lean ====
section
/-! DEFINITION. The named operations over registers, memory and addresses; completions, events and messages; and the
shapes every meaning has. -/

namespace Sys2Proof.Machine

/-- What a meaning reads and never changes: the fuses and the timelines. -/
structure Env where
  fuses : Fuses
  tl : Timelines

/-- The environment of a state. -/
def State.env (s : State) : Env := ⟨s.fuses, s.tl⟩

/-! Status codes. -/

/-- The 8-bit code of a status (R484). -/
def Status.code : Status → Nat
  | .ok => 0x00 | .okFallback => 0x01 | .okReplayed => 0x02 | .okLate => 0x03
  | .refused => 0x10 | .reserveRefused => 0x11
  | .badDescriptor => 0x20 | .overlap => 0x21 | .sparseFormat => 0x22
  | .mismatch => 0x30 | .notOwner => 0x31 | .writeDenied => 0x32
  | .eccUncorrected => 0x40 | .destUnreachable => 0x41 | .timeout => 0x42 | .aborted => 0x43
  | .partitionDown => 0x44

/-- The status a code names (R484); reserved codes name none. -/
def Status.ofCode : Nat → Option Status
  | 0x00 => some .ok | 0x01 => some .okFallback | 0x02 => some .okReplayed | 0x03 => some .okLate
  | 0x10 => some .refused | 0x11 => some .reserveRefused
  | 0x20 => some .badDescriptor | 0x21 => some .overlap | 0x22 => some .sparseFormat
  | 0x30 => some .mismatch | 0x31 => some .notOwner | 0x32 => some .writeDenied
  | 0x40 => some .eccUncorrected | 0x41 => some .destUnreachable | 0x42 => some .timeout
  | 0x43 => some .aborted | 0x44 => some .partitionDown
  | _ => none

/-- A code below 0x10 is success (R484). -/
def Status.good (s : Status) : Bool := s.code < 0x10

/-! Registers. -/

/-- Place of a register in the register range (R39). -/
def rkey (die unit off : Nat) : Nat := die * 0x1000000 + unit * 0x100000 + off

/-- Place of a register of a function page; function 0 is the PF, v + 1 is VF v (R473). -/
def fkey (fn off : Nat) : Nat := 2 ^ 40 + fn * 0x10000 + off

/-- The package block, the time master and the PCI Express endpoint of M0 (R28, R473). -/
def pkgB : Nat := rkey 28 8 0
def tmB : Nat := rkey 28 10 0
def hifB : Nat := rkey 28 11 0

/-- The word of register `i` of a table, at the unit's base. -/
def Hw.reg (h : Hw) (r : RegRow) (base i : Nat) : Nat :=
  match SMap.find? h.regs (base + r.off + r.stride * i) with
  | some w => w.toNat
  | none => r.resetWord

/-- A field of register `i` of a table. -/
def Hw.rf (h : Hw) (f : FieldRef) (base : Nat) (i : Nat := 0) : Nat :=
  bits (h.reg f.row base i) f.hi f.lo

/-- Set the word of a register. -/
def Hw.setReg (h : Hw) (r : RegRow) (base i v : Nat) : Hw :=
  { h with regs := SMap.put h.regs (base + r.off + r.stride * i) (BitVec.ofNat 64 v) }

/-- Set a field of a register. -/
def Hw.wf (h : Hw) (f : FieldRef) (base i v : Nat) : Hw :=
  h.setReg f.row base i (setBits (h.reg f.row base i) f.hi f.lo v)

/-- Advance a counter field that wraps. -/
def Hw.inc (h : Hw) (f : FieldRef) (base i n : Nat) : Hw :=
  h.wf f base i (h.rf f base i + n)

/-- Advance a counter field that stops at its greatest value. -/
def Hw.incSat (h : Hw) (f : FieldRef) (base i n : Nat) : Hw :=
  h.wf f base i (satAdd (f.hi + 1 - f.lo) (h.rf f base i) n)

/-- A field whose zero is taken as another value. -/
def orElse (v d : Nat) : Nat := if v = 0 then d else v

/-! The package. -/

/-- Stage of the boot sequence (R500). -/
def Hw.stage (h : Hw) : Nat := h.rf Reg.bootStatusStage pkgB
def stFaulted : Nat := 8
def stReady : Nat := 7

/-- The package's node number, once it has joined (R30). -/
def Hw.node? (h : Hw) : Option Nat :=
  if h.rf Reg.pkgNodeValid pkgB = 1 then some (h.rf Reg.pkgNodeNode pkgB) else none

/-- The node number, 0 before the join. -/
def Hw.node (h : Hw) : Nat := h.node?.getD 0

/-- The stored form of a coordinate of this package (R27). -/
def coordOf (node die unit : Nat) : Nat := node * 512 + die * 16 + unit
def Hw.coord (h : Hw) (die unit : Nat) : Nat := coordOf h.node die unit

/-- Fields of a stored coordinate (R27). -/
def cNode (c : Nat) : Nat := bits c 23 9
def cDie (c : Nat) : Nat := bits c 8 4
def cUnit (c : Nat) : Nat := bits c 3 0

/-- Key of a unit within the package. -/
def ukey (die unit : Nat) : Nat := die * 16 + unit

/-- C-die enabled by fuse (R2). -/
def Env.cdie (e : Env) (d : Nat) : Bool := d < 24 && bit e.fuses.cdies d

/-- C-die enabled, powered and cleared (R515), its clocks running (R563). -/
def Hw.dieOn (h : Hw) (e : Env) (d : Nat) : Bool := e.cdie d && bit (h.rf Reg.cdiePwrAwake pkgB) d && !h.power.stopped

/-- Units of R28 that are not reserved. -/
def unitExists (die unit : Nat) : Bool :=
  if die < 24 then unit ≤ 11
  else if die < 28 then unit ≤ 10
  else if die = 28 then unit ≤ 12
  else die ≤ 31 && unit ≤ 7

/-- The kind of a unit (R28). -/
def unitKind (die unit : Nat) : Option UnitKind :=
  if die < 24 then
    if unit < 4 then some .core else if unit = 4 then some .de else if unit < 7 then some .ce
    else if unit < 11 then some .cp else if unit = 11 then some .sp else none
  else if die < 28 then
    if unit < 8 then some .stu else if unit = 8 then some .xpt else if unit = 9 then some .sw
    else if unit = 10 then some .rdm else none
  else if die < 32 then
    if unit = 0 then some .kpr else if unit = 1 then some .mig else if unit < 4 then some .hbm
    else if unit < 8 then some .ddr
    else if die ≠ 28 then none
    else if unit = 8 then some .pkg else if unit = 9 then some .sec else if unit = 10 then some .tm
    else if unit = 11 then some .hif else if unit = 12 then some .flash else none
  else none

/-- An endpoint coordinate that a frame or descriptor may name (R29); its reserved bits are checked apart (R15). On
another node only the numbers are judged, since fuses of another package are not seen here. -/
def Env.coordOk (e : Env) (own : Nat) (c : Nat) : Bool :=
  cNode c < 16416 && unitExists (cDie c) (cUnit c)
    && (cNode c ≠ own || 24 ≤ cDie c || e.cdie (cDie c))

/-- The partition a C-die belongs to (R446). -/
def Hw.partOf (h : Hw) (d : Nat) : Option Nat :=
  (upto 8).find? (fun p => d < 24 && bit (h.rf Reg.partDies pkgB p) d)

/-- A partition is LOADED (R448). -/
def Hw.loaded (h : Hw) (p : Nat) : Bool := h.rf Reg.partState pkgB p = 2

/-- C-dies of a partition, ascending. -/
def Hw.diesOf (h : Hw) (p : Nat) : List Nat :=
  (upto 24).filter (fun d => bit (h.rf Reg.partDies pkgB p) d)

/-- A partition's timeline. -/
def Timelines.part (t : Timelines) (p : Nat) : PartTl := t.parts.getD p {}

/-- The beat number of a partition, the fabric's while its timeline is IDLE or not yet RUNNING (R426). -/
def Hw.beatOf (h : Hw) (e : Env) (p : Nat) : Nat :=
  if (e.tl.part p).st = .running then SMap.get h.partN 0 p else h.fabN

/-- The beat period of a partition, ns (R426). -/
def Env.periodOf (e : Env) (p : Nat) : Nat :=
  if (e.tl.part p).st = .running then (e.tl.part p).period else e.tl.fabPeriod

/-- The counter value of boundary `n` of a partition's timeline (R426). -/
def Env.boundaryOf (e : Env) (p n : Nat) : Nat :=
  if (e.tl.part p).st = .running then (e.tl.part p).origin + n * (e.tl.part p).period
  else e.tl.fabOrigin + n * e.tl.fabPeriod

/-- The counter moved forward to a time, never backwards (R418). -/
def Hw.reach (h : Hw) (t : Nat) : Hw := { h with now := Nat.max h.now t }

/-- One nanosecond of the system time counter, which a held counter lets pass (R417, R418), and which does not count once
a trip has stopped the clocks (R563). -/
def tick (h : Hw) : Hw :=
  if h.power.stopped then h
  else if h.sync.hold = 0 then { h with now := h.now + 1 } else { h with sync := { h.sync with hold := h.sync.hold - 1 } }

/-- A fresh free value. -/
def Hw.drawFree (h : Hw) : Word × Hw := (Config.freeWord h.freeCount, { h with freeCount := h.freeCount + 1 })

/-! Memory. -/

/-- Start of the scratchpad windows, and of C-die `d`'s window (R39). -/
def spBase : Nat := 0x800000000000
def spWin (d : Nat) : Nat := spBase + d * 0x10000000

/-- The C-die whose window holds a local address. -/
def spDie (a : Nat) : Option Nat :=
  if spBase ≤ a && a < spBase + 24 * 0x10000000 then some ((a - spBase) / 0x10000000) else none

/-- One byte of memory; an unlisted byte is zero. -/
def Mem.get (m : Mem) (a : Nat) : Byte := SMap.get m 0 a

/-- One byte written, in canonical form. -/
def Mem.set (m : Mem) (a : Nat) (b : Byte) : Mem := SMap.putD 0 m a b

/-- `n` bytes from `a`. -/
def Mem.read (m : Mem) (a n : Nat) : List Byte := (upto n).map (fun i => Mem.get m (a + i))

/-- Bytes written from `a` upward. -/
def Mem.write : Mem → Nat → List Byte → Mem
  | m, _, [] => m
  | m, a, b :: l => Mem.write (Mem.set m a b) (a + 1) l

/-- Every byte of `[a, a + n)` becomes zero. -/
def Mem.clear (m : Mem) (a n : Nat) : Mem := m.filter (fun c => c.1 < a || a + n ≤ c.1)

/-- The canonical form of memory: addresses strictly rise, and no cell holds a zero byte. -/
def Mem.wf (m : Mem) : Bool := SMap.wfD 0 m

/-- `n` bytes as a little-endian number (R10). -/
def Mem.num (m : Mem) (a n : Nat) : Nat := ofBytes (Mem.read m a n)

/-- A payload padded with zeros to whole granules. -/
def granules (p : List Byte) : List Byte := p ++ rep (alignUp p.length 64 - p.length) 0

/-! Requests to other nodes. -/

/-- The F-die that owns the flows of a die (R250). -/
def ownerFdie (die : Nat) : Nat := 24 + die % 4

/-- Hand a frame to its source owner (R250). -/
def Hw.send (h : Hw) (f : TxFrame) : Hw :=
  { h with txq := SMap.upd h.txq [] (ownerFdie (cDie f.src)) (fun q => q ++ [f]) }

/-- Base of the registers of a transport engine (R28). -/
def xptB (f : Nat) : Nat := rkey f 8 0

/-- The entry that governs a page. -/
def RegionTable.governs (t : RegionTable) (node page : Nat) : Option Region :=
  t.entries.find? (fun r => r.node = node && r.base ≤ page && page < r.base + 2 ^ r.log2)

/-- A write by node `own` to node `node` is permitted (R395, R396). -/
def RegionTable.permits (t : RegionTable) (own node off n : Nat) : Bool :=
  !t.enable || (upto ((off + n - 1) / 2 ^ 21 - off / 2 ^ 21 + 1)).all (fun i =>
    match t.governs node ((off / 2 ^ 21 + i) * 2 ^ 21) with
    | some r => r.any || r.owner = own
    | none => false)

/-- The region table in force at a transport engine. -/
def Hw.region (h : Hw) (f : Nat) : RegionTable := SMap.get h.rgn {} f

/-- The class of an issuer's frames: copy engines bulk, the others control (R389). -/
def issuerClass (src : Nat) : Nat := if cDie src < 24 && (cUnit src = 5 || cUnit src = 6) then 3 else 0

/-- The request preamble (R390). -/
def reqPreamble (opid bytes aop afmt thread tseq issue opa opb : Nat) : List Byte :=
  toBytes 4 opid ++ toBytes 2 bytes ++ toBytes 1 aop ++ toBytes 1 (afmt % 4 + thread % 16 * 16) ++ toBytes 4 tseq
    ++ toBytes 4 0 ++ toBytes 8 issue ++ toBytes 8 opa ++ toBytes 8 opb ++ rep 24 0

/-- The M-die that is the home of a device-memory offset (R362). -/
def homeDie (off : Nat) : Nat := 28 + off / 2 ^ 21 % 4

/-- The unit that a request's destination coordinate names: the migration unit of a device-memory byte's home, or a
window's scratchpad (R28, R39, R362). -/
def targetUnit (node off : Nat) : Nat :=
  match spDie off with
  | some d => coordOf node d 11
  | none => coordOf node (homeDie off) 1

/-- Issue one request frame and remember it. -/
def Hw.issue (h : Hw) (owner : Owner) (src : Nat) (part : Option Nat) (typ node off n : Nat) (ordered : Bool)
    (payload : Nat → List Byte) : Hw :=
  let id := h.nextOpid
  let r : Req := { id := id, owner := owner, typ := typ, node := node, off := off, bytes := n }
  let h := { h with nextOpid := (id + 1) % 2 ^ 32, reqs := h.reqs ++ [r] }
  h.send { typ := typ, cls := issuerClass src, ordered := ordered, part := part, src := src, dst := targetUnit node off,
           arg := off, payload := granules (payload id), owner := .req id }

/-- Pieces of at most 4,032 bytes of an extent: offset and length (R390). -/
def reqPieces (off n : Nat) : List (Nat × Nat) :=
  (upto (ceilDiv n 4032)).map (fun i => (off + 4032 * i, Nat.min 4032 (n - 4032 * i)))

/-! Device memory: homes, pages, and mirrored writes (R362 to R365, R371, R538). -/

/-- An offset of device memory. -/
def isDev (a : Nat) : Bool := a < 0x46000000000

/-- Page number of an offset (R362). -/
def pageOf (a : Nat) : Nat := a / 2 ^ 21

/-- Frames of HBM at a home. -/
def hbmFrames : Nat := 49152

/-- A page: untouched ones lie where training left them (R363). -/
def Hw.page (h : Hw) (p : Nat) : Page := SMap.get h.pages ⟨p / 4, 0, 0⟩ p
def Hw.setPage (h : Hw) (p : Nat) (x : Page) : Hw := { h with pages := SMap.put h.pages p x }

/-- DDR channels in use at a home (R360). -/
def Hw.ddrUsed (h : Hw) (die : Nat) : Nat :=
  ((upto 4).filter (fun i => h.rf Reg.ddrStatusInUse (rkey die (4 + i) 0) = 1)).length

/-- The stack or channel that holds a byte: its M-die and unit (R364). -/
def Hw.memUnit (h : Hw) (a : Nat) : Nat × Nat :=
  let die := homeDie a
  if (h.page (pageOf a)).frame < hbmFrames then (die, 2 + a / 4096 % 2)
  else (die, 4 + (if h.ddrUsed die = 4 then a / 4096 % 4 else a / 4096 % 2))

/-- Lines of an extent that fall in a page. -/
def linesIn (a n p : Nat) : Nat :=
  let lo := Nat.max (a / 64) (p * 32768)
  let hi := Nat.min ((a + n - 1) / 64) (p * 32768 + 32767)
  hi + 1 - lo

/-- The page map entries of an extent are sound (R365). -/
def Hw.mapOk (h : Hw) (a n : Nat) : Bool :=
  h.badSites.all (fun s => match s with
    | .pageMap p => !(isDev a && 0 < n && pageOf a ≤ p && p ≤ pageOf (a + n - 1))
    | _ => true)

/-- The entries of an extent are looked up: a failing one is noted, once the work that an earlier one ends has ended. -/
def Hw.lookUp (h : Hw) (a n : Nat) : Hw :=
  if h.mapOk a n || h.mapDown then h else { h with mapFault := some (h.mapFault.getD (pageOf a)) }

/-- An access passes its home front end: it looks its pages up in the page map (R365), its lines count toward COUNT of
their pages (R371), its bytes toward the account of the operation in hand (R457). -/
def Hw.touch (h : Hw) (a n : Nat) : Hw :=
  if n = 0 || !isDev a then h
  else
    let h := h.lookUp a n
    let h := (upto (pageOf (a + n - 1) - pageOf a + 1)).foldl (fun h i =>
      let p := pageOf a + i
      let x := h.page p
      h.setPage p { x with count := Nat.min 0xFFFF (x.count + linesIn a n p) }) h
    { h with moved := h.moved + n }

/-- The partition and the partner's offset of a byte in a mirrored region (R537, R538). -/
def Hw.mirrorOf (h : Hw) (a : Nat) : Option (Nat × Nat) :=
  h.mirrors.findSome? (fun (m : Nat × Mirror) => (m.2.regions.find? (fun r => r.base ≤ a && a < r.base + 2 ^ r.log2)).map (fun r =>
    (m.1, r.pbase + (a - r.base))))

/-- A write is noted for the partner; an extent within one region goes as one. -/
def Hw.noteMirror (h : Hw) (a : Nat) (bs : List Byte) : Hw :=
  if h.mirrors.isEmpty || !isDev a then h
  else match h.mirrorOf a, h.mirrorOf (a + bs.length - 1) with
    | some (p, q), some (p', q') =>
      if p = p' && q' = q + bs.length - 1 then { h with mirq := h.mirq ++ [(p, homeDie a, q, bs)] }
      else { h with mirq := h.mirq ++ (bs.zipIdx.filterMap (fun (x : Byte × Nat) =>
        (h.mirrorOf (a + x.2)).map (fun m => (m.1, homeDie a, m.2, [x.1])))) }
    | _, _ => { h with mirq := h.mirq ++ (bs.zipIdx.filterMap (fun (x : Byte × Nat) =>
        (h.mirrorOf (a + x.2)).map (fun m => (m.1, homeDie a, m.2, [x.1])))) }

/-- The requests of an owner. -/
def Hw.reqsOf (h : Hw) (o : Owner) : List Req := h.reqs.filter (fun r => r.owner = o)

/-- The requests of an owner are all answered. -/
def Hw.answered (h : Hw) (o : Owner) : Bool := (h.reqsOf o).all (fun r => r.resp.isSome)

/-- The first failing answer among posted requests. -/
def firstFail (rs : List Req) : Option Status :=
  (rs.filter (fun r => r.typ ≠ 6)).findSome? (fun r => match r.resp with
    | some x => if x.code = 0 then none else some ((Status.ofCode x.code).getD .timeout)
    | none => none)

/-- Send the mirrored writes of the operation in hand to their partners, answered to an owner (R538); one that this
package's region table denies is answered at once (R396, R536). -/
def Hw.mirrorOut (h : Hw) (owner : Owner) : Hw :=
  let l := h.mirq
  l.foldl (fun h (x : Nat × Nat × Nat × List Byte) =>
    let node := h.rf Reg.mirPartner pkgB x.1
    let src := h.coord x.2.1 1
    let off := x.2.2.1
    let bs := x.2.2.2
    let h := h.inc Reg.mirCntCopies pkgB x.1 1
    if (h.region (ownerFdie (cDie src))).permits h.node node off bs.length then
      (reqPieces off bs.length).foldl (fun h (p : Nat × Nat) =>
        let id := h.nextOpid
        let r : Req := { id := id, owner := owner, typ := 257, node := node, off := p.1, bytes := p.2 }
        let h := { h with nextOpid := (id + 1) % 2 ^ 32, reqs := h.reqs ++ [r] }
        h.send { typ := 1, cls := 3, ordered := true, part := some x.1, src := src, dst := targetUnit node p.1, arg := p.1
                 payload := granules (reqPreamble id p.2 0 0 0 0 0 0 0 ++ (bs.drop (p.1 - off)).take p.2)
                 owner := .req id }) h
    else
      let id := h.nextOpid
      let h := h.incSat Reg.mirCntFailed pkgB x.1 1
      let r : Req := { id := id, owner := owner, typ := 1, node := node, off := off, bytes := bs.length
                       resp := some { code := Status.writeDenied.code } }
      { h with nextOpid := (id + 1) % 2 ^ 32, reqs := h.reqs ++ [r] }) { h with mirq := [] }

/-- Why an operation ends before it is done. -/
inductive Fail where
  /-- A status. -/
  | st (s : Status)
  /-- An uncorrectable word, by its local address (R520). -/
  | ecc (addr : Nat)
  /-- A mismatch, with the coordinate of the offender (R485). -/
  | mismatch (offender : Nat)
  /-- Held by a clear (R133): nothing happens now. -/
  | held
  /-- It needs bytes of another node: node, offset and length. Nothing happens but the request for them. -/
  | remote (node off n : Nat)
  deriving DecidableEq, Repr

/-- An operation over the hardware that may end early; what it has done until then stays done. -/
abbrev Op := EStateM Fail Hw

/-- End an operation with a status. -/
def failSt {α : Type} (s : Status) : Op α := throw (.st s)

/-- End an operation with a status unless a condition holds. -/
def need (c : Bool) (s : Status) : Op Unit := if c then pure () else throw (.st s)

/-- Run an operation: its outcome and the hardware after it. -/
def runOp {α : Type} (m : Op α) (h : Hw) : Except Fail α × Hw :=
  match m.run h with
  | .ok a h' => (.ok a, h')
  | .error .held _ => (.error .held, h)
  | .error (.remote a b c) _ => (.error (.remote a b c), h)
  | .error f h' => (.error f, h')

/-- An operation whose failure the caller looks at; one held by a clear, or one that needs bytes of another node, still
ends the whole. -/
def tryOp {α : Type} (m : Op α) : Op (Except Fail α) := fun h =>
  match m h with
  | .ok a h' => .ok (.ok a) h'
  | .error .held h' => .error .held h'
  | .error (.remote a b c) h' => .error (.remote a b c) h'
  | .error f h' => .ok (.error f) h'

/-- The failure a recorded fault stands for: an uncorrectable word by its address, or a status. -/
def faultFail (x : Status × Nat) : Fail := if x.1 = .eccUncorrected then .ecc x.2 else .st x.1

/-- The fault to record for a failure that is a status or an uncorrectable word. -/
def Fail.fault : Fail → Status × Nat
  | .ecc a => (.eccUncorrected, a)
  | .st s => (s, 0)
  | _ => (.badDescriptor, 0)

/-- The 8-byte words that `n` bytes from `a` touch, by their addresses. -/
def wordsOf (a n : Nat) : List Nat :=
  if n = 0 then [] else (upto ((a + n - 1) / 8 - a / 8 + 1)).map (fun i => (a / 8 + i) * 8)

/-- Count a corrected word at the store that holds it (R129, R384). -/
def Hw.countCorrected (h : Hw) (a : Nat) : Hw :=
  match spDie a with
  | some d => h.incSat Reg.spEccCorrected (rkey d 11 0) 0 1
  | none =>
    let u := h.memUnit a
    h.incSat (if u.2 < 4 then Reg.hbmEccCorrected else Reg.ddrEccCorrected) (rkey u.1 u.2 0) 0 1

/-- A line of device memory fails its address check (R384). -/
def Hw.lineBad (h : Hw) (w : Nat) : Bool := isDev w && h.badLines.contains (w / 64 * 64)

/-- Count an uncorrectable word, or a failing address check, at the store that holds it (R129, R385). -/
def Hw.countUncorrected (h : Hw) (a : Nat) : Hw :=
  match spDie a with
  | some d => h.incSat Reg.spEccUncorrected (rkey d 11 0) 0 1
  | none =>
    let u := h.memUnit a
    let b := rkey u.1 u.2 0
    if h.badWords.contains a then h.incSat (if u.2 < 4 then Reg.hbmEccUncorr else Reg.ddrEccUncorr) b 0 1
    else h.incSat Reg.ddrEccAddrCheck b 0 1

/-- A window whose clear runs holds every request (R133). -/
def Hw.clearing (h : Hw) (a n : Nat) : Bool :=
  h.clears.any (fun c => spWin c.1 < a + n && a < spWin c.1 + 0x10000000)

/-- Read `n` bytes at a local address: a failing page map entry (R365), word or line ends the operation (R130, R385,
R520), corrected words are counted (R129, R384). -/
def loadB (a n : Nat) : Op (List Byte) := fun h =>
  if h.clearing a n then .error .held h
  else
    let h := h.touch a n
    if !(h.mapOk a n) then .error (.st .aborted) h
    else
      let ws := wordsOf a n
      let h := (ws.filter (fun w => h.corrWords.contains w)).foldl Hw.countCorrected h
      match ws.find? (fun w => h.badWords.contains w || h.lineBad w) with
      | some w => .error (.ecc (if h.badWords.contains w then w else w / 64 * 64)) (h.countUncorrected w)
      | none => .ok (Mem.read h.mem a n) h

/-- Read a little-endian number. -/
def loadN (a n : Nat) : Op Nat := do return ofBytes (← loadB a n)

/-- A word is written in full by `n` bytes from `a`. -/
def covers (a n w : Nat) : Bool := a ≤ w && w + 8 ≤ a + n

/-- The unit of a partial write: a word of scratchpad, a line of device memory (R130, R385). -/
def grainOf (a : Nat) : Nat := if isDev a then 64 else 8

/-- The failing word or line of a grain. -/
def Hw.grainBad (h : Hw) (g n : Nat) : Option Nat :=
  match (upto (n / 8)).find? (fun i => h.badWords.contains (g + 8 * i)) with
  | some i => some (g + 8 * i)
  | none => if h.lineBad g then some g else none

/-- The grains that `n` bytes from `a` touch. -/
def grainsOf (a n : Nat) : List Nat :=
  if n = 0 then []
  else (upto ((a + n - 1) / grainOf a - a / grainOf a + 1)).map (fun i => (a / grainOf a + i) * grainOf a)

/-- A grain that a write of `n` bytes from `a` leaves as it is: one that fails and is written in part. -/
def Hw.stuck (h : Hw) (a n g : Nat) : Bool :=
  (h.grainBad g (grainOf a)).isSome && !(a ≤ g && g + grainOf a ≤ a + n)

/-- A byte or word address whose grain a write of `n` bytes from `a` does write. -/
def Hw.admits (h : Hw) (a n w : Nat) : Bool :=
  (grainsOf a n).contains (w / grainOf a * grainOf a) && !(h.stuck a n (w / grainOf a * grainOf a))

/-- The bytes that a write puts into memory, each with its address. -/
def Hw.opened (h : Hw) (a : Nat) (bs : List Byte) : List (Nat × Byte) :=
  (bs.zipIdx.map (fun (p : Byte × Nat) => (a + p.2, p.1))).filter (fun p => h.admits a bs.length p.1)

/-- The corrected words that a write reads because it writes them in part. -/
def Hw.mendedBy (h : Hw) (a n : Nat) : List Nat :=
  (wordsOf a n).filter (fun w => h.admits a n w && h.corrWords.contains w && !covers a n w)

/-- Memory and its checks after a write of the grains that are not stuck: reservations of the words end (R410), and the
words and lines pass their checks. -/
def Hw.written (h : Hw) (a : Nat) (bs : List Byte) : Hw :=
  { h with
    mem := (h.opened a bs).foldl (fun (m : Mem) (p : Nat × Byte) => Mem.set m p.1 p.2) h.mem
    reservations := h.reservations.filter (fun r => !((wordsOf a bs.length).contains r.2))
    badWords := h.badWords.filter (fun w => !(h.admits a bs.length w))
    badLines := h.badLines.filter (fun w => !(h.admits a bs.length w))
    corrWords := h.corrWords.filter (fun w => !(h.admits a bs.length w && (wordsOf a bs.length).contains w)) }

/-- Write bytes at a local address. A full write replaces a failing word or line; a partial write to one leaves its bytes
and ends the operation once the bytes of the others are written (R128, R130, R385). -/
def storeB (a : Nat) (bs : List Byte) : Op Unit := fun h =>
  let n := bs.length
  if h.clearing a n then .error .held h
  else
    let h := h.touch a n
    if !(h.mapOk a n) then .error (.st .aborted) h
    else
      let h' := ((h.mendedBy a n).foldl Hw.countCorrected h).written a bs
      match (grainsOf a n).find? (h.stuck a n) with
      | none => .ok () (h'.noteMirror a bs)
      | some g =>
        let l := h.opened a bs
        let h' := if l.isEmpty then h' else h'.noteMirror (l.headD (0, 0)).1 (l.map (fun p => p.2))
        let w := (h'.grainBad g (grainOf a)).getD g
        .error (.ecc w) (h'.countUncorrected w)

/-- Write a little-endian number of `n` bytes. -/
def storeN (a n v : Nat) : Op Unit := storeB a (toBytes n v)

/-- A write by the package itself that reports no status: what can be written is; one into a window that a clear holds
waits for the clear's end (R133). -/
def Hw.poke (h : Hw) (a : Nat) (bs : List Byte) : Hw :=
  if h.clearing a bs.length then { h with heldPokes := h.heldPokes ++ [(a, bs)] }
  else (runOp (storeB a bs) h).2

/-- The writes that a clear held take effect in their order once it has ended (R133). -/
def Hw.pokeHeld (h : Hw) : Hw :=
  h.heldPokes.foldl (fun h x => h.poke x.1 x.2) { h with heldPokes := [] }

/-- An arrival flag: TAG in bits 31:0, COUNT in bits 63:32 (R106). -/
def flagWord (tag count : Nat) : Nat := tag % 2 ^ 32 + (count % 2 ^ 32) * 2 ^ 32

/-- Write an arrival flag at a local address. -/
def Hw.flag (h : Hw) (a tag count : Nat) : Hw := h.poke a (toBytes 8 (flagWord tag count))

/-- The flag at a local address, read as memory is: its COUNT where it is set for a tag (R106, R129, R130). -/
def loadFlag (a tag : Nat) : Op (Option Nat) := do
  let w ← loadN a 8
  return if bits w 31 0 = tag % 2 ^ 32 then some (bits w 63 32) else none

/-- The flag at a local address is set for a tag: its COUNT (R106). -/
def Hw.flagAt (h : Hw) (a tag : Nat) : Option Nat :=
  let w := Mem.num h.mem a 8
  if bits w 31 0 = tag % 2 ^ 32 then some (bits w 63 32) else none

/-! Addresses (R37 to R41). -/

/-- Where an address leads. -/
inductive Loc where
  | here (off : Nat)
  | regs (off : Nat)
  | there (node off : Nat)
  deriving DecidableEq, Repr

/-- End of the row of the local map that holds an offset (R39, R40). -/
def rowEnd (off : Nat) : Nat :=
  if off < 0x46000000000 then 0x46000000000
  else if off < spBase then spBase
  else if off < spBase + 24 * 0x10000000 then (off / 0x10000000 + 1) * 0x10000000
  else if off < 0xF00000000000 then 0xF00000000000
  else if off < 0xF00020000000 then (off / 0x100000 + 1) * 0x100000
  else 2 ^ 48

/-- An offset lies in a reserved range of the local map (R39). -/
def rowReserved (off : Nat) : Bool :=
  !(off < 0x46000000000 || (spDie off).isSome || (0xF00000000000 ≤ off && off < 0xF00020000000))

/-- An extent of the local map: the status of an access that cannot be made (R39, R40). A register extent answers as
such. `crossing` is the status of an extent over a row boundary. -/
def Hw.localLoc (h : Hw) (e : Env) (crossing : Status) (off n : Nat) : Except Status Loc :=
  if rowEnd off < off + n then .error crossing
  else if rowReserved off then .error .destUnreachable
  else if off < 0x46000000000 then
    if off + n ≤ h.rf Reg.pkgMemTopTop pkgB * 2 ^ 21 && off < h.rf Reg.pkgMemTopTop pkgB * 2 ^ 21
    then .ok (.here off) else .error .destUnreachable
  else if off < 0xF00000000000 then
    if (spDie off).any (fun d => e.cdie d && (h.dieOn e d || (SMap.find? h.clears d).isSome)) then .ok (.here off)
    else .error .destUnreachable
  else
    let r := off - 0xF00000000000
    if unitExists (r / 0x1000000) (r / 0x100000 % 16) && (24 ≤ r / 0x1000000 || e.cdie (r / 0x1000000))
    then .ok (.regs r) else .error .destUnreachable

/-- Resolution of a 64-bit address in a descriptor or elsewhere (R37 to R41): `desc` chooses the status of a
malformed or crossing access. The register range is left to the caller. -/
def Hw.resolve (h : Hw) (e : Env) (desc : Bool) (a n : Nat) : Except Status Loc :=
  let bad : Status := if desc then .badDescriptor else .destUnreachable
  let off := bits a 47 0
  let node := bits a 62 48
  if rowEnd off < off + n then .error bad
  else if bit a 63 then
    match h.node? with
    | none => .error .destUnreachable
    | some own =>
      if node = own then h.localLoc e bad off n
      else if 16416 ≤ node || rowReserved off || 0xF00000000000 ≤ off then .error .destUnreachable
      else .ok (.there node off)
  else if node ≠ 0 then .error bad
  else h.localLoc e bad off n

/-- An address a descriptor names that must be memory of this package. -/
def Hw.resolveMem (h : Hw) (e : Env) (desc : Bool) (a n : Nat) : Except Status Loc :=
  match h.resolve e desc a n with
  | .ok (.regs _) => .error .destUnreachable
  | r => r

/-- A flag address as R106 asks for it: well formed, 8-byte aligned, in a scratchpad window. -/
def flagForm (a : Nat) : Bool :=
  a % 8 = 0 && (spDie (bits a 47 0)).isSome && (bit a 63 || bits a 62 48 = 0)

/-- The place of an arrival flag in a scratchpad window of some node (R106); a window that cannot be reached answers
DEST_UNREACHABLE (R4, R39). -/
def Hw.flagPlace (h : Hw) (e : Env) (a : Nat) : Except Status Loc :=
  if flagForm a then h.resolveMem e true a 8 else .error .badDescriptor

/-- The place of a flag that must lie in a window of this node (R106). -/
def Hw.flagLoc (h : Hw) (e : Env) (a : Nat) : Except Status Nat :=
  if bit a 63 && h.node?.any (fun own => bits a 62 48 ≠ own) then .error .badDescriptor
  else match h.flagPlace e a with
    | .ok (.here off) => .ok off
    | .ok _ => .error .badDescriptor
    | .error s => .error s

/-- A flag address does not break R106, whether or not its window can be reached. -/
def Hw.flagOk (h : Hw) (e : Env) (a : Nat) : Bool :=
  match h.flagLoc e a with | .error .badDescriptor => false | _ => true

/-! Host memory, messages and events. -/

/-- Bytes of host memory. -/
def Hw.hostRead (h : Hw) (a n : Nat) : List Byte := Mem.read h.host a n
def Hw.hostNum (h : Hw) (a n : Nat) : Nat := ofBytes (h.hostRead a n)
def Hw.hostWrite (h : Hw) (a : Nat) (bs : List Byte) : Hw := { h with host := Mem.write h.host a bs }

/-- Key of a completion ring or an event ring of a function. -/
def cqKey (fn j : Nat) : Nat := fn * 1024 + j
def eqKey (fn k : Nat) : Nat := fn * 1024 + 512 + k

/-- Rings of a function: submission and completion, event, and MSI-X vectors (R466, R473). -/
def nSq (fn : Nat) : Nat := if fn = 0 then 64 else 8
def nEq (fn : Nat) : Nat := if fn = 0 then 16 else 2
def nVec (fn : Nat) : Nat := if fn = 0 then 1024 else 128

/-- The MSI-X table word at a page offset; vector control resets masked, as the standard has it. -/
def Hw.msixWord (h : Hw) (fn off : Nat) : Nat :=
  match SMap.find? h.regs (fkey fn off) with
  | some w => w.toNat
  | none => if off % 16 = 8 then 2 ^ 32 else 0

/-- A vector is masked. -/
def Hw.masked (h : Hw) (fn v : Nat) : Bool := bit (h.msixWord fn (0x4000 + 16 * v + 8)) 32

/-- The pending bit of a vector (R473). -/
def Hw.pba (h : Hw) (fn v : Nat) : Bool :=
  bit ((SMap.get h.regs 0 (fkey fn (0x8000 + v / 64 * 8))).toNat) (v % 64)
def Hw.setPba (h : Hw) (fn v : Nat) (b : Bool) : Hw :=
  let k := fkey fn (0x8000 + v / 64 * 8)
  { h with regs := SMap.put h.regs k (BitVec.ofNat 64 (setBits (SMap.get h.regs 0 k).toNat (v % 64) (v % 64) (b2n b))) }

/-- An MSI-X message on a vector, held pending while it is masked, dropped while the link is down (R492, R495). -/
def Hw.sendMsi (h : Hw) (fn v : Nat) : Hw :=
  if !h.io.linkUp then h
  else if h.masked fn v then h.setPba fn v true
  else
    let m : Msix := ⟨fn, v, h.msixWord fn (0x4000 + 16 * v), bits (h.msixWord fn (0x4000 + 16 * v + 8)) 31 0⟩
    { h with io := { h.io with msgs := h.io.msgs ++ [m] } }

/-- Replace the dynamic state of a ring. -/
def Hw.setRing (h : Hw) (key : Nat) (x : RingX) : Hw :=
  { h with io := { h.io with rings := SMap.put h.io.rings key x } }

/-- Moderation after an entry was written (R492): `now` signals at once. -/
def Hw.moderate (h : Hw) (key fn vec count : Nat) (inten atOnce : Bool) : Hw :=
  let x := SMap.get h.io.rings {} key
  if !inten then h else
  let n := x.unsignalled + 1
  let first := if x.unsignalled = 0 then h.now else x.first
  if atOnce || orElse count 1 ≤ n then
    let h := h.setRing key { x with unsignalled := 0 }
    h.sendMsi fn vec
  else h.setRing key { x with unsignalled := n, first := first }

/-- Free entries of a ring of `size` entries that holds at most size − 1. -/
def ringFree (size head tail : Nat) : Nat :=
  if size = 0 then 0 else size - 1 - (tail + size - head) % size

/-- The phase of a ring after its tail moves by one entry (R479). -/
def nextPhase (size tail : Nat) (ph : Bool) : Bool := if tail + 1 = size then !ph else ph

/-- Write one 64-byte event entry and move the tail. -/
def Hw.pushEvent (h : Hw) (fn k : Nat) (entry : Bool → List Byte) : Hw :=
  let b := fkey fn 0
  let size := h.rf Reg.eqCfgSize b k
  let tail := h.rf Reg.eqStatusTail b k
  let x := SMap.get h.io.rings {} (eqKey fn k)
  let h := h.hostWrite (h.rf Reg.eqBaseBase b k * 256 + 64 * tail) (entry x.phase)
  let h := h.setRing (eqKey fn k) { x with phase := nextPhase size tail x.phase }
  let h := h.wf Reg.eqStatusTail b k ((tail + 1) % orElse size 1)
  h.moderate (eqKey fn k) fn (h.rf Reg.eqCfgVector b k) (h.rf Reg.eqModCount b k)
    (h.rf Reg.eqModInten b k = 1) false

/-- One entry of a record: header (R486) and 48 bytes of body. -/
def eventEntry (cls seg last part src seq : Nat) (partv : Bool) (body : List Byte) (ph : Bool) : List Byte :=
  toBytes 1 cls ++ toBytes 1 (seg + 16 * last) ++ toBytes 1 (b2n ph) ++ toBytes 1 (part % 8 + 8 * b2n partv)
    ++ toBytes 4 src ++ toBytes 8 seq ++ ((body ++ rep 48 0).take 48)

/-- The pieces of 48 bytes of a record's body. -/
def pieces (n : Nat) (body : List Byte) : List (List Byte) :=
  (upto n).map (fun i => (body.drop (48 * i)).take 48)

/-- The OVERFLOW record that carries the count of records lost, when any were (R490). -/
def Hw.pushOverflow (h : Hw) (fn k : Nat) : Hw :=
  let x := SMap.get h.io.rings {} (eqKey fn k)
  if x.lost = 0 then h
  else
    let h := h.setRing (eqKey fn k) { x with lost := 0 }
    let h := { h with io := { h.io with evSeq := h.io.evSeq + 1 } }
    h.pushEvent fn k (eventEntry 0x08 0 0 0 (h.coord 28 11) (h.io.evSeq - 1) false (toBytes 4 x.lost))

/-- Deliver a record of `n` entries to an event ring: dropped and counted where it does not fit whole (R490), and
after a loss an OVERFLOW record goes first. -/
def Hw.deliver (h : Hw) (fn k cls n part src seq : Nat) (partv : Bool) (body : List Byte) : Hw :=
  let b := fkey fn 0
  if !h.io.linkUp then h.incSat Reg.hifStatusHostLost hifB 0 1
  else if h.rf Reg.eqStatusState b k ≠ 1 then h.incSat Reg.eqStatusDropped b k 1
  else
    let x := SMap.get h.io.rings {} (eqKey fn k)
    let free := ringFree (h.rf Reg.eqCfgSize b k) (h.rf Reg.eqStatusHead b k) (h.rf Reg.eqStatusTail b k)
    let lostRec := b2n (x.lost ≠ 0)
    if free < n + lostRec then
      let h := h.setRing (eqKey fn k) { x with lost := x.lost + 1 }
      h.incSat Reg.eqStatusDropped b k 1
    else
      let h := h.pushOverflow fn k
      (pieces n body).zipIdx.foldl (fun h p =>
        h.pushEvent fn k (eventEntry cls p.2 (n - 1) part src seq partv p.1)) h

/-- Raise a record of class `cls` with `n` entries (R486 to R490): it takes the next SEQ and goes to every function
that routes its class, the VFs only for their own partition. -/
def Hw.raise (h : Hw) (cls : Nat) (part : Option Nat) (src : Nat) (body : List Byte) (n : Nat := 1) : Hw :=
  let seq := h.io.evSeq
  let h := { h with io := { h.io with evSeq := seq + 1 } }
  (upto 9).foldl (fun h fn =>
    if (fn = 0 || part = some (fn - 1)) && h.rf Reg.evtRouteEnable (fkey fn 0) cls = 1 then
      h.deliver fn (h.rf Reg.evtRouteEq (fkey fn 0) cls) cls n (part.getD 0) src seq part.isSome body
    else h) h

/-- The body of an ERROR record (R523). -/
def errorBody (kind reader status opid addr syn time : Nat) : List Byte :=
  toBytes 1 kind ++ toBytes 1 reader ++ toBytes 1 status ++ [0] ++ toBytes 4 opid ++ toBytes 8 addr
    ++ toBytes 1 syn ++ rep 7 0 ++ toBytes 8 time

/-- The global address of a local offset (R37). -/
def Hw.globalAddr (h : Hw) (off : Nat) : Nat := 2 ^ 63 + h.node * 2 ^ 48 + off

/-- Raise an ERROR record (R522, R523). -/
def Hw.error (h : Hw) (kind reader status opid addr : Nat) (part : Option Nat) (src : Nat) : Hw :=
  h.raise 0x10 part src
    (errorBody kind reader status opid addr (if kind = 1 then (Config.syndrome addr) % 256 else 0) h.now)

/-- A register access fault or a write discarded by a rule of the manual (KIND 3 and 4 of R523), at a place in the
register range. Which unit raised it (R486) the spec leaves open: SRC is that of the unit the access named (DEDUCED, log
entry 15). -/
def Hw.regFault (h : Hw) (kind key : Nat) : Hw :=
  h.error kind 0 0 0 (h.globalAddr (0xF00000000000 + key)) none (h.coord (key / 0x1000000) (key / 0x100000 % 16))

/-- Raise a LINK record (R524). -/
def Hw.link (h : Hw) (kind port cause weight : Nat) (nb : Option Nat) (nbPort beat : Nat) : Hw :=
  h.raise 0x11 none (h.coord (24 + port / 12 % 4) 8)
    (toBytes 1 kind ++ toBytes 1 port ++ toBytes 1 cause ++ toBytes 1 weight
      ++ toBytes 2 (match nb with | some n => 0x8000 + n | none => 0) ++ toBytes 1 nbPort ++ [0]
      ++ toBytes 8 beat ++ toBytes 8 h.now)

/-- Every fabric port is DOWN with weight 0 (R498, R499, R556). -/
def Hw.portsOff (h : Hw) : Hw :=
  { h with
    ports := []
    regs := (upto 48).foldl (fun (m : SMap Word) p =>
      let k := rkey (24 + p / 12) 8 (Reg.xptPort.off + 8 * (p % 12))
      match SMap.find? m k with
      | some w => SMap.put m k (BitVec.ofNat 64 (setBits (setBits w.toNat 3 0 0) 11 8 0))
      | none => m) h.regs }

/-- A fatal package event (R499, R525): the record goes to the persistent log and to the event ring, the stage
becomes FAULTED, and the package leaves the fabric. -/
def Hw.fatal (h : Hw) (kind die index : Nat) : Hw :=
  let body := toBytes 1 kind ++ toBytes 1 die ++ toBytes 1 index ++ rep 5 0 ++ toBytes 8 h.now
  let h := { h with nv := { h.nv with eventLog := h.nv.eventLog ++ [body] } }
  let h := h.raise 0x12 none (h.coord 28 8) body
  (h.wf Reg.bootStatusStage pkgB 0 stFaulted).portsOff

/-- A failing page map entry that the command in hand met is a fatal package event (R365, R525); the work in flight ends
when the block next idles (DESIGN CHOICE, log entry 119). -/
def Hw.mapFatal (h : Hw) : Hw :=
  match h.mapFault with
  | some p => ({ h with mapFault := none, mapDown := true } : Hw).fatal 2 (homeDie (p * 2 ^ 21)) 0
  | none => h

/-- A command is over: mirrored writes that nothing waits for are sent, and a failing page map entry is fatal. -/
def Hw.seal (h : Hw) : Hw := (if h.mirq.isEmpty then h else h.mirrorOut .free).mapFatal

/-- A meaning that changes only the hardware behind the timelines. -/
def onHw (f : Env → Hw → Hw) (s : State) : Host.Outcome State Fault Refusal :=
  .next { s with hw := (f s.env s.hw).seal }

/-- A meaning that may also change the timelines. -/
def onTl (f : Fuses → Timelines → Hw → Timelines × Hw) (s : State) : Host.Outcome State Fault Refusal :=
  let r := f s.fuses s.tl s.hw
  .next { s with tl := r.1, hw := r.2.seal }

/-! Completions. -/

/-- DETAIL (R485). -/
def Done.detail (d : Done) : Nat := bits d.value 31 0 + bits d.index 15 0 * 2 ^ 32

/-- Write a completion entry (R478 to R480), or drop it where the ring is OFF or the link is down. -/
def Hw.completeRing (h : Hw) (fn sq opid : Nat) (nocomp int : Bool) (d : Done) : Hw :=
  let b := fkey fn 0
  let h := h.wf Reg.sqStatusOutstanding b sq (h.rf Reg.sqStatusOutstanding b sq - 1)
  if nocomp && d.st = .ok then h
  else if !h.io.linkUp then h.incSat Reg.hifStatusHostLost hifB 0 1
  else
    let j := h.rf Reg.sqCfgCq b sq
    if h.rf Reg.cqStatusState b j ≠ 1 then h.incSat Reg.cqStatusDropped b j 1
    else
      let size := h.rf Reg.cqCfgSize b j
      let tail := h.rf Reg.cqStatusTail b j
      let x := SMap.get h.io.rings {} (cqKey fn j)
      let entry := toBytes 4 opid ++ toBytes 1 d.st.code ++ toBytes 1 (b2n x.phase) ++ toBytes 2 sq
        ++ toBytes 2 (h.rf Reg.sqStatusHead b sq) ++ rep 6 0 ++ toBytes 8 d.detail ++ toBytes 8 h.now
      let h := h.hostWrite (h.rf Reg.cqBaseBase b j * 256 + 32 * tail) entry
      let h := h.setRing (cqKey fn j) { x with phase := nextPhase size tail x.phase }
      let h := h.wf Reg.cqStatusTail b j ((tail + 1) % orElse size 1)
      h.moderate (cqKey fn j) fn (h.rf Reg.cqCfgVector b j) (h.rf Reg.cqModCount b j)
        (h.rf Reg.cqModInten b j = 1) int

/-- Entries of a control processor's completion ring (R416). -/
def Hw.cpRingSize (h : Hw) (die unit : Nat) : Nat :=
  2 ^ Nat.max 4 (Nat.min 12 (h.rf Reg.cpCqLog2n (rkey die unit 0)))

/-- Write a completion record to a control processor's ring (R415). -/
def Hw.completeKpost (h : Hw) (die unit thread ticket : Nat) (d : Done) : Hw :=
  let b := rkey die unit 0
  let n := h.rf Reg.cpCqIdxProd b
  let base := bits (h.rf Reg.cpCqBase b) 31 4 * 16 % 0x10000000
  let h := { h with kposts := SMap.put h.kposts (ukey die unit) (SMap.get h.kposts 0 (ukey die unit) - 1) }
  let h := h.poke (spWin die + base + 16 * (n % h.cpRingSize die unit))
    (toBytes 4 ticket ++ toBytes 1 d.st.code ++ toBytes 1 thread ++ toBytes 2 0 ++ toBytes 8 d.detail)
  h.wf Reg.cpCqIdxProd b 0 (n + 1)

/-- The outcome of a RESERVE that a partition LOAD issued (R448). -/
def Hw.completeLoad (h : Hw) (p k : Nat) (d : Done) : Hw :=
  { h with partJobs := h.partJobs.map (fun j =>
    if j.isLoad && j.part = p then
      { j with waiting := j.waiting.filter (· ≠ k),
               reserved := if d.st = .ok then j.reserved ++ [k] else j.reserved,
               failed := if d.st = .ok then j.failed else some (j.failed.getD d.st) }
    else j) }

/-- Completion of an operation that no tile program posted. -/
def Hw.completeBase (h : Hw) (o : Origin) (d : Done) : Hw :=
  match o with
  | .internal => h
  | .revise p => { h with plc := SMap.upd h.plc {} p (fun x => { x with revision := x.revision.map (fun r =>
      { r with running := r.running - 1, bad := r.bad || !d.st.good }) }) }
  | .ring fn sq opid nocomp int => h.completeRing fn sq opid nocomp int d
  | .post _ _ _ => h
  | .kpost die unit thread ticket => h.completeKpost die unit thread ticket d
  | .load p k => h.completeLoad p k d
  | .land xtag entry => { h with landed := h.landed ++ [(xtag, entry, d.st, d.value)] }

/-! Cores: what completions do to them. -/

/-- Key of a core. -/
def coreKey (die core : Nat) : Nat := die * 4 + core

/-- A core. -/
def Hw.core (h : Hw) (die core : Nat) : Core := SMap.get h.cores {} (coreKey die core)
def Hw.setCore (h : Hw) (die core : Nat) (c : Core) : Hw := { h with cores := SMap.put h.cores (coreKey die core) c }

/-- State codes of CORE_STATUS (R121). -/
def CoreSt.code : CoreSt → Nat
  | .idle => 0 | .running => 1 | .flagWait => 2 | .gateWait => 3 | .replayWait => 4 | .beatWait => 5 | .stopping => 6

/-- A failing operation of a program: the earliest issued one is kept, and the program stops (R119). -/
def Core.stop (c : Core) (r : FailRec) : Core :=
  let keep := match c.fail with
    | some f => if f.issue ≤ r.issue then f else r
    | none => r
  if c.st = .idle then c else { c with fail := some keep, st := .stopping }

/-- Every queue of a core is empty. -/
def Core.drained (c : Core) : Bool := c.arrayQ.isEmpty && c.vectorQ.isEmpty && c.posts.isEmpty

/-- Counts of the final attempt of a replay unit go to the step's counts (R79). -/
def addWatch (w : SMap Counts) (l : SMap Counts) : SMap Counts :=
  l.foldl (fun w p => SMap.put w p.1 ((SMap.get w {} p.1).add p.2)) w

/-- The watch counts and judges: ENABLE is 1 and its table lies below PKG_MEM_TOP (R84, R85). -/
def Hw.watchOn (h : Hw) : Bool :=
  h.rf Reg.numWatchCtrlEnable pkgB = 1 &&
    h.rf Reg.numWatchBaseBase pkgB * 2 ^ 18 < h.rf Reg.pkgMemTopTop pkgB * 2 ^ 21

/-- Add the skiver's counts of an attempt to its registers (R167). -/
def Hw.flushSkiver (h : Hw) (die core : Nat) : Hw :=
  let c := h.core die core
  let b := rkey die core 0
  let h := h.inc Reg.skvTilesTiles b 0 c.skvTiles
  let h := h.inc Reg.skvTilesRaw b 0 c.skvRaw
  let h := h.inc Reg.skvBytesSaved b 0 c.skvSaved
  let h := h.inc Reg.skvPrunedPruned b 0 c.skvPruned
  h.setCore die core { c with skvTiles := 0, skvRaw := 0, skvSaved := 0, skvPruned := 0 }

/-- Some program of the partition runs its unit again (R77). -/
def Hw.unitReplayed (h : Hw) (part : Option Nat) : Bool :=
  match part with
  | some p => (h.diesOf p).any (fun d => (upto 4).any (fun k =>
      (h.core d k).st ≠ .idle && (h.core d k).replayStep ≠ 0))
  | none => false

/-- The program of a core ends: its launch completes, and the core is free for the next one (R119, R437, R485). The
skiver's counts since the last replay point are added, whatever the status (R167). -/
def Hw.endProgram (h : Hw) (die core : Nat) (d : Done) : Hw :=
  let h := h.flushSkiver die core
  let c := h.core die core
  let h := { h with watch := addWatch h.watch c.watch }
  let h := h.setCore die core { c with
    st := .idle, cur := none, fail := none, watch := [], satEv := false, nonfinEv := false, accEv := false,
    replayed := false, late := false, exitCode := 0 }
  match c.cur with
  | some l => h.completeBase l.origin d
  | none => h

/-- A stopping program ends once every operation already queued has run (R119). -/
def Hw.settle (h : Hw) (die core : Nat) : Hw :=
  let c := h.core die core
  match c.st, c.fail with
  | .stopping, some f => if c.drained then h.endProgram die core ⟨f.status, f.value, f.index⟩ else h
  | _, _ => h

/-- A posted descriptor of a tile program has completed (R118, R119, R437). -/
def Hw.completePost (h : Hw) (die core issue : Nat) (d : Done) : Hw :=
  let c := h.core die core
  match c.posts.find? (fun p => p.issue = issue) with
  | none => h
  | some p =>
    let c := { c with posts := c.posts.filter (fun q => q.issue ≠ issue) }
    let c := if d.st = .okLate then { c with late := true } else c
    let c := if d.st.good then c else c.stop ⟨issue, d.st, p.index, d.value⟩
    (h.setCore die core c).settle die core

/-- Completion of an operation (R478, R415, R118). -/
def Hw.complete (h : Hw) (o : Origin) (d : Done) : Hw :=
  match o with
  | .post die core issue => h.completePost die core issue d
  | o => h.completeBase o d

/-- An operation that carries a beat and succeeds after boundary B + 1 is late (R437). -/
def Hw.lateStatus (h : Hw) (e : Env) (part : Option Nat) (beat : Option Nat) (s : Status) : Status :=
  match part, beat with
  | some p, some b => if s.good && b + 1 ≤ h.beatOf e p then .okLate else s
  | _, _ => s

/-- The status of an operation at a dispatch engine or copy engine of a C-die: late by R437, or OK_REPLAYED where its
partition's unit has replayed; OK_LATE and OK_FALLBACK take precedence (R77). -/
def Hw.unitStatus (h : Hw) (e : Env) (die : Nat) (part beat : Option Nat) (s : Status) : Status :=
  let t := h.lateStatus e part beat s
  if t = .ok && die < 24 && h.unitReplayed part then .okReplayed else t

/-- OPID of the ring entry that issued an operation, 0 otherwise (R523). -/
def Origin.opid : Origin → Nat
  | .ring _ _ opid _ _ => opid
  | _ => 0

/-- The outcome of a failed operation: an uncorrectable word is recorded first, and VALUE names its record (R485,
R522). -/
def Hw.failDone (h : Hw) (opid : Nat) (part : Option Nat) (src : Nat) (f : Fail) : Done × Hw :=
  match f with
  | .st s => (⟨s, 0, 0⟩, h)
  | .mismatch o => (⟨.mismatch, o, 0⟩, h)
  | .held => (⟨.ok, 0, 0⟩, h)
  | .remote _ _ _ => (⟨.destUnreachable, 0, 0⟩, h)
  | .ecc a =>
    let seq := h.io.evSeq
    let kind := if h.badWords.contains a || !(h.lineBad a) then 1 else 2
    (⟨.eccUncorrected, seq, 0⟩, h.error kind 0 0x40 opid (h.globalAddr a) part src)

/-- A table that a unit reads passes the home front end as every read does: its corrected words are counted, and the first
that cannot be read is counted and recorded (R371, R384, R385, R522). -/
def Hw.readTable (h : Hw) (a n src : Nat) : Hw :=
  let h := h.touch a n
  let mine (w : Nat) : Bool := a ≤ w && w < a + n
  let h := (h.corrWords.filter mine).foldl Hw.countCorrected h
  match h.badWords.find? mine, h.badLines.find? (fun w => isDev w && mine w) with
  | some w, _ => ((h.countUncorrected w).failDone 0 none src (.ecc w)).2
  | none, some w => ((h.countUncorrected w).failDone 0 none src (.ecc w)).2
  | none, none => h

/-! Queues of descriptors. -/

/-- The descriptors at a unit, oldest first. -/
def Hw.queue (h : Hw) (die unit : Nat) : List Job := SMap.get h.jobs [] (ukey die unit)
def Hw.setQueue (h : Hw) (die unit : Nat) (q : List Job) : Hw := { h with jobs := SMap.put h.jobs (ukey die unit) q }

/-- Descriptors a unit's queue holds: 16 at dispatch and copy engines and launches at a core (R134, R168, R476);
elsewhere as the unit's own chapter has it. -/
def queueCap (die : Nat) : Nat :=
  if die < 24 then 16 else 64

/-- Append a descriptor to a unit's queue. -/
def Hw.enqueue (h : Hw) (die unit : Nat) (j : Job) : Hw :=
  { (h.setQueue die unit (h.queue die unit ++ [{ j with tag := h.nextTag }])) with nextTag := h.nextTag + 1 }

/-- Hand the first unhanded descriptors of a core's post queue to their targets while these have room (R118). -/
def Hw.handCore (h : Hw) (die core : Nat) (part : Option Nat) : Hw :=
  (h.core die core).posts.foldl (fun (st : Bool × Hw) p =>
    if p.handed then st
    else if !st.1 then st
    else if (st.2.queue die p.unit).length < queueCap die then
      let h := st.2
      let c := h.core die core
      let h := h.setCore die core { c with
        posts := c.posts.map (fun q => if q.issue = p.issue then { q with handed := true } else q) }
      (true, h.enqueue die p.unit
        { body := p.desc, origin := .post die core p.issue, part := part, beat := some p.beat })
    else (false, st.2)) (true, h) |>.2

/-- Hand posts of every core of a die. -/
def Hw.handAll (h : Hw) (die : Nat) : Hw :=
  if die < 24 then (upto 4).foldl (fun h c => h.handCore die c (h.partOf die)) h else h

/-- The poster of a job hears of its outcome; the arrival flag of one that succeeds, if it has one, is written first. -/
def Hw.tellPoster (h : Hw) (die : Nat) (j : Job) (d : Done) (flag : Option (Nat × Nat × Nat)) : Hw :=
  let h := match flag with
    | some (a, tag, count) => if d.st.good then h.flag a tag count else h
    | none => h
  (h.complete j.origin d).handAll die

/-- The outcome of an operation that succeeded here is a partner's failing status, where there is one (R538). -/
def Done.mirrored (d : Done) (bad : Option Status) : Done :=
  match bad with
  | some s => if d.st.good then { d with st := s } else d
  | none => d

/-- A job at a unit completes: it leaves the queue, its poster hears of it, and waiting posts move up. When it wrote a
mirrored region, its flag is written and its poster hears of it once the partner has answered (R538). -/
def Hw.finishJob (h : Hw) (die unit : Nat) (j : Job) (d : Done) (flag : Option (Nat × Nat × Nat) := none) : Hw :=
  let h := h.setQueue die unit ((h.queue die unit).filter (fun k => k.tag ≠ j.tag))
  if h.mirq.isEmpty then h.tellPoster die j d flag
  else
    let id := h.nextMir
    let h := h.mirrorOut (.mirror id)
    if h.answered (.mirror id) then
      let bad := firstFail (h.reqsOf (.mirror id))
      ({ h with reqs := h.reqs.filter (fun r => r.owner ≠ Owner.mirror id) }).tellPoster die j (d.mirrored bad) flag
    else { h with nextMir := id + 1, mirHold := SMap.put h.mirHold id (.job die unit j d flag) }

/-- The bytes an operation moved at home front ends are charged to its partition (R453, R457). -/
def Hw.chargeMem (h : Hw) (part : Option Nat) : Hw :=
  match part with
  | some p => { h with acct := SMap.upd h.acct {} p (fun a => { a with memory := a.memory + h.moved }), moved := 0 }
  | none => { h with moved := 0 }

/-- The outcome of an operation's run at a unit, turned into its completion: success carries VALUE, a failure its
status and record; an operation held by a clear stays where it is. -/
def Hw.endJob (h : Hw) (e : Env) (die unit : Nat) (j : Job) (r : Except Fail (Status × Nat)) : Hw :=
  match r with
  | .ok (s, v) => h.finishJob die unit j ⟨h.unitStatus e die j.part j.beat s, v, 0⟩
  | .error .held => h
  | .error f =>
    let (d, h) := h.failDone j.origin.opid j.part (h.coord die unit) f
    h.finishJob die unit j d

/-- Run the descriptor at the head of a unit's queue when its OP is one of `ops`: the run answers a status and the
VALUE of R485. -/
def Hw.runHead (h : Hw) (e : Env) (die unit : Nat) (ops : List Nat) (m : Job → Op (Status × Nat)) : Hw :=
  match h.queue die unit with
  | [] => h
  | j :: _ =>
    if ops.contains (j.body.fld 0 7 0) then
      let r := runOp (m j) { h with moved := 0 }
      (r.2.chargeMem j.part).endJob e die unit j r.1
    else h

end Sys2Proof.Machine
end

