-- ==== Sys2Proof/Machine/Remote.lean ====
section
/-! DEFINITION. Frames as their issuers see them, the table of outstanding requests, region ownership, and loads and
stores at any address of the installation (R246 to R252, R388 to R398). -/

namespace Sys2Proof.Machine

/-! The frame header (R246). -/

def Frame.fld (f : Frame) (off hi lo : Nat) : Nat := Sys2Proof.Machine.fld f.hdr.toNat off hi lo
def Frame.typ (f : Frame) : Nat := Frame.fld f 0 7 0
def Frame.cls (f : Frame) : Nat := Frame.fld f 1 1 0
def Frame.nonmin (f : Frame) : Bool := Frame.fld f 1 2 2 = 1
def Frame.resent (f : Frame) : Bool := Frame.fld f 1 3 3 = 1
def Frame.hops (f : Frame) : Nat := Frame.fld f 1 6 4
def Frame.ordered (f : Frame) : Bool := Frame.fld f 1 7 7 = 1
def Frame.len (f : Frame) : Nat := Frame.fld f 2 6 0
def Frame.ptag (f : Frame) : Nat := Frame.fld f 4 15 0
def Frame.age (f : Frame) : Nat := Frame.fld f 6 15 0
def Frame.src (f : Frame) : Nat := Frame.fld f 8 31 0
def Frame.dst (f : Frame) : Nat := Frame.fld f 0x0C 31 0
def Frame.seq (f : Frame) : Nat := Frame.fld f 0x10 31 0
def Frame.gwMember (f : Frame) : Nat := Frame.fld f 0x14 8 4
def Frame.gwSlot (f : Frame) : Nat := Frame.fld f 0x14 3 0
def Frame.via (f : Frame) : Nat := Frame.fld f 0x14 18 9
def Frame.arg (f : Frame) : Nat := Frame.fld f 0x18 47 0
def Frame.inc (f : Frame) : Nat := Frame.fld f 0x1E 7 0
def Frame.xidx (f : Frame) : Nat := Frame.fld f 0x1F 7 0

/-- A little-endian field of a payload (R10). -/
def pay (p : List Byte) (off n : Nat) : Nat := ofBytes ((p.drop off).take n)

/-- A header with HOPS as given (R246). -/
def Frame.withHops (f : Frame) (n : Nat) : Frame :=
  { f with hdr := BitVec.ofNat 256 (setBits f.hdr.toNat 14 12 n) }

/-- E2E of a frame (R248). -/
def Frame.e2eOf (f : Frame) : Nat := crc32 (toBytes 32 (Frame.withHops f 0).hdr.toNat ++ f.payload)

/-- HCRC of a frame (R248). -/
def Frame.hcrcOf (f : Frame) : Nat := crc32c (toBytes 32 f.hdr.toNat ++ f.payload ++ toBytes 4 f.e2e.toNat)

/-- The frame with HCRC computed anew (R248). -/
def Frame.seal (f : Frame) : Frame := { f with hcrc := BitVec.ofNat 32 (Frame.hcrcOf f) }

/-- A frame a first ingress must not find malformed (R15, R246, R249): a type of R247, a length that fits the payload,
reserved fields zero. -/
def Frame.wellFormed (f : Frame) : Bool :=
  1 ≤ Frame.typ f && Frame.typ f ≤ 10 && 1 ≤ Frame.len f && Frame.len f ≤ 64
    && f.payload.length = 64 * Frame.len f && Frame.fld f 2 15 7 = 0 && Frame.fld f 0x14 31 19 = 0
    && bits (Frame.src f) 31 24 = 0 && bits (Frame.dst f) 31 24 = 0
    && (Frame.xidx f = 0 || Frame.typ f = 2 || Frame.typ f = 3)

/-- Ask another node for bytes, once (R390). -/
def Hw.askRead (h : Hw) (owner : Owner) (src : Nat) (part : Option Nat) (node off n : Nat) : Hw :=
  (reqPieces off n).foldl (fun h p =>
    if h.reqs.any (fun r => r.owner = owner && r.typ = 6 && r.node = node && r.off = p.1 && r.bytes = p.2) then h
    else h.issue owner src part 6 node p.1 p.2 false (fun id => reqPreamble id p.2 0 0 0 0 0 0 0)) h

/-- Send bytes to another node, if the source permits it (R390, R396). -/
def Hw.askWrite (h : Hw) (owner : Owner) (src : Nat) (part : Option Nat) (node off : Nat) (bs : List Byte) :
    Except Status Hw :=
  if (h.region (ownerFdie (cDie src))).permits h.node node off bs.length then
    .ok ((reqPieces off bs.length).foldl (fun h p =>
      h.issue owner src part 1 node p.1 p.2 false (fun id =>
        reqPreamble id p.2 0 0 0 0 0 0 0 ++ (bs.drop (p.1 - off)).take p.2)) h)
  else .error .writeDenied

/-- A byte that an answered read request of an owner brought: `none` while nothing has asked for it or no answer has
come. -/
def remoteByte (rs : List Req) (node a : Nat) : Option (Except Status Byte) :=
  match rs.find? (fun r => r.typ = 6 && r.node = node && r.off ≤ a && a < r.off + r.bytes) with
  | some r => match r.resp with
    | some x => if x.code = 0 then some (.ok (x.data.getD (a - r.off) 0))
                else some (.error ((Status.ofCode x.code).getD .timeout))
    | none => none
  | none => none

/-- Bytes of another node that read requests of `owner` have brought; otherwise the wider extent `[wo, wo + wn)` is
asked for. -/
def loadRemote (owner : Owner) (node a n wo wn : Nat) : Op (List Byte) := do
  let h ← get
  let rs := h.reqs.filter (fun r => r.owner = owner)
  let l := (upto n).map (fun i => remoteByte rs node (a + i))
  match l.find? (fun x => match x with | some (.error _) => true | _ => false) with
  | some (some (.error s)) => throw (.st s)
  | _ =>
    if l.any Option.isNone then throw (.remote node wo wn)
    else return l.filterMap (fun x => match x with | some (.ok b) => some b | _ => none)

/-- Read `n` bytes at a place; a remote place asks for the extent that holds them. -/
def loadAt (owner : Owner) (l : Loc) (i n wo wn : Nat) : Op (List Byte) :=
  match l with
  | .here off => loadB (off + i) n
  | .there node off => loadRemote owner node (off + i) n (off + wo) wn
  | .regs _ => failSt .destUnreachable

/-- Write bytes at a place; a remote write is posted (R391, R396). -/
def storeAt (owner : Owner) (src : Nat) (part : Option Nat) (l : Loc) (i : Nat) (bs : List Byte) : Op Unit :=
  match l with
  | .here off => storeB (off + i) bs
  | .there node off => do
    let h ← get
    match h.askWrite owner src part node (off + i) bs with
    | .ok h => set h
    | .error s => do
      set (h.inc Reg.rgnStatusDeniedTx pkgB 0 1)
      throw (.st s)
  | .regs _ => failSt .destUnreachable

/-! Descriptors that use requests. -/

/-- The arrival flag of a descriptor that has FLAG set: its place, TAG and COUNT. -/
abbrev FlagAt := Loc × Nat × Nat

/-- Replace a descriptor in its unit's queue. -/
def Hw.putJob (h : Hw) (die unit : Nat) (j : Job) : Hw :=
  h.setQueue die unit ((h.queue die unit).map (fun k => if k.tag = j.tag then j else k))

/-- A status whose VALUE is its own, or is of a descriptor that could not be read: no COUNT stands in it (R485). -/
def Status.ownValue (s : Status) : Bool :=
  s = .eccUncorrected || s = .mismatch || s = .badDescriptor || s = .overlap

/-- A failed descriptor completes; VALUE is the COUNT its flag would have carried, unless its status has a VALUE of
its own (R485). -/
def Hw.failJob (h : Hw) (die unit : Nat) (j : Job) (flag : Option FlagAt) (s : Status) (v : Nat) : Hw :=
  h.finishJob die unit j ⟨s, if s.ownValue then v else ((flag.map (fun f => f.2.2)).getD v), 0⟩

/-- A descriptor whose run is over completes once its requests are answered (R391): the first failing answer is its
status, else its flag is written and it succeeds (R149, R273). A flag on another node is a request as well; one in a window
that a clear holds waits for its end (R133). -/
def Hw.settleJob (h : Hw) (e : Env) (die unit : Nat) (j : Job) (flag : Option FlagAt) : Hw :=
  let o : Owner := .job die unit j.tag
  match j.result with
  | none => h
  | some (s, v) =>
    if !(h.answered o) then h
    else
      let bad := firstFail (h.reqsOf o)
      let hc := { h with reqs := h.reqs.filter (fun r => r.owner ≠ o) }
      let done (h : Hw) : Hw := h.finishJob die unit j ⟨h.unitStatus e die j.part j.beat s, v, 0⟩
      if s.good then
        match bad, flag with
        | some b, _ => hc.failJob die unit j flag b 0
        | none, some (.here off, tag, count) => if hc.clearing off 8 then h else done (hc.flag off tag count)
        | none, some (.there node off, tag, count) =>
          if j.flagged then done hc
          else match hc.askWrite o (h.coord die unit) j.part node off (toBytes 8 (flagWord tag count)) with
            | .ok h => h.putJob die unit { j with flagged := true }
            | .error b => hc.failJob die unit j flag b 0
        | none, _ => done hc
      else hc.failJob die unit j flag s v

/-- The outcome of a run that may read and write other nodes. Its writes to a mirrored region go to the partner at once,
and its flag and its completion wait for the partner's answers (R538). -/
def Hw.endRemote (h : Hw) (e : Env) (die unit : Nat) (j : Job) (flag : Hw → Job → Option FlagAt)
    (r : Except Fail (Status × Nat)) : Hw :=
  let o : Owner := .job die unit j.tag
  let partner (h : Hw) : Hw := if h.mirq.isEmpty then h else h.mirrorOut o
  match r with
  | .error (.remote node off n) =>
    (h.putJob die unit { j with started := true }).askRead o (h.coord die unit) j.part node off n
  | .error .held => h
  | .ok x =>
    let j := { j with started := true, result := some x }
    ((partner h).putJob die unit j).settleJob e die unit j (flag h j)
  | .error f =>
    let (d, h) := h.failDone j.origin.opid j.part (h.coord die unit) f
    let j := { j with started := true, result := some (d.st, d.value) }
    ((partner h).putJob die unit j).settleJob e die unit j (flag h j)

/-- Run the descriptor at the head of a unit's queue when its OP is one of `ops`; one whose run is over waits for its
answers. -/
def Hw.runRemote (h : Hw) (e : Env) (die unit : Nat) (ops : List Nat) (flag : Hw → Job → Option FlagAt)
    (m : Job → Op (Status × Nat)) : Hw :=
  match h.queue die unit with
  | [] => h
  | j :: _ =>
    if !(ops.contains (j.body.fld 0 7 0)) then h
    else match j.result with
      | some _ => h.settleJob e die unit j (flag h j)
      | none =>
        let r := runOp (m j) { h with moved := 0 }
        (r.2.chargeMem j.part).endRemote e die unit j flag r.1

/-- An answer reaches its request (R391). -/
def Hw.answer (h : Hw) (id : Nat) (r : Resp) : Hw :=
  { h with reqs := h.reqs.map (fun q => if q.id = id && q.resp.isNone then { q with resp := some r } else q) }

/-- The place of a resolved address shifted by a byte count. -/
def Loc.plus (l : Loc) (n : Nat) : Loc :=
  match l with
  | .here o => .here (o + n)
  | .regs o => .regs (o + n)
  | .there k o => .there k (o + n)

end Sys2Proof.Machine
end

