-- ==== Sys2Proof/Machine/Sparse.lean ====
section
/-! DEFINITION. Sparse forms (05_sparse_forms.md): tiles, the 2:4 constraint, weight images, and the skiver. -/

namespace Sys2Proof.Machine

/-- A segment of a row in element codes, with the block scales of a KB4 segment (R150). -/
structure Segment where
  codes : List Nat
  scales : List Nat
  deriving DecidableEq, Repr

/-- Byte lists of a bitmap (R151). -/
def bitmapBytes (bm : List Bool) : List Byte :=
  (upto (ceilDiv bm.length 8)).map (fun j => BitVec.ofNat 8
    ((upto 8).foldl (fun a i => a + b2n (bm.getD (8 * j + i) false) * 2 ^ i) 0))

/-- Packed stored values (R153). -/
def packValues (f : Fmt) (vs : List Nat) : List Byte :=
  match f with
  | .kb4 => (upto (ceilDiv vs.length 2)).map (fun j => BitVec.ofNat 8 (vs.getD (2 * j) 0 + 16 * vs.getD (2 * j + 1) 0))
  | _ => vs.flatMap (toBytes f.bytes)

/-- The dense form of a segment (R46, R47, R153). -/
def Segment.dense (f : Fmt) (s : Segment) : List Byte :=
  match f with
  | .kb4 => (upto (ceilDiv s.codes.length 16)).flatMap (fun j =>
      kb4Bytes ((s.codes.drop (16 * j)).take 16) (s.scales.getD j 0))
  | _ => s.codes.flatMap (toBytes f.bytes)

/-- A dense segment read back into codes. -/
def Segment.ofDense (f : Fmt) (n : Nat) (bs : List Byte) : Segment :=
  match f with
  | .kb4 => ⟨(upto n).map (fun i =>
      let b := (bs.getD (9 * (i / 16) + i % 16 / 2) 0).toNat
      if i % 2 = 0 then b % 16 else b / 16),
    (upto (ceilDiv n 16)).map (fun j => (bs.getD (9 * j + 8) 0).toNat)⟩
  | _ => ⟨(upto n).map (fun i => ofBytes ((bs.drop (f.bytes * i)).take f.bytes)), []⟩

/-- The value of a code for the ranking of R161: NaN, infinity, magnitude. -/
def codeVal (f : Fmt) (c : Nat) : FVal := decodeFloat f c

/-- Magnitude order of R161: NaN above infinity above finite magnitudes. -/
def magBelow (a b : FVal) : Bool :=
  match a, b with
  | .nan, _ => false
  | _, .nan => true
  | .inf _, _ => false
  | _, .inf _ => true
  | .fin _ m e, .fin _ k g => if m = 0 then k ≠ 0 else if k = 0 then false else magLt m e k g

/-- The positions of a group that pruning keeps: the two of greatest magnitude among the non-zero codes, equal
magnitudes by lower position (R161). -/
def keepTwo (f : Fmt) (g : List Nat) : List Nat :=
  let cand := (upto g.length).filter (fun i => g.getD i 0 ≠ 0)
  (sortBy (fun i j => magBelow (codeVal f (g.getD j 0)) (codeVal f (g.getD i 0))) cand).take 2

/-- A segment pruned to 2:4, with the number of elements turned to +0 (R161). -/
def Segment.prune (f : Fmt) (s : Segment) : Segment × Nat :=
  let gs := (upto (ceilDiv s.codes.length 4)).map (fun j => (s.codes.drop (4 * j)).take 4)
  let rs := gs.map (fun g =>
    let k := keepTwo f g
    (g.zipIdx.map (fun p => if k.contains p.2 then p.1 else 0),
     ((upto g.length).filter (fun i => g.getD i 0 ≠ 0 && !k.contains i)).length))
  (⟨rs.flatMap Prod.fst, s.scales⟩, (rs.map Prod.snd).sum)

/-- Lengths of a tile in its two bodies (R153, R154). -/
def tileRaw0 (f : Fmt) (n nnz : Nat) : Nat :=
  16 + ceilDiv n 8 + (match f with | .kb4 => ceilDiv n 16 + ceilDiv nnz 2 | _ => nnz * f.bytes)
def tileRaw1 (f : Fmt) (n : Nat) : Nat := 16 + f.rowBytes n

/-- CHECK of R155. -/
def tileCheck (hdr : List Byte) (bitmap : List Byte) : Nat := crc32c (hdr ++ bitmap)

/-- The first eight bytes of a tile's header (R152). -/
def tileHdr (form : Nat) (f : Fmt) (raw : Bool) (n nnz bytes : Nat) : List Byte :=
  toBytes 2 (form + f.code * 256 + b2n raw * 4096) ++ toBytes 2 n ++ toBytes 2 nnz ++ toBytes 2 bytes

/-- A tile of a segment (R152 to R155), and whether it is RAW. -/
def buildTile (form : Nat) (f : Fmt) (s : Segment) : List Byte × Bool :=
  let n := s.codes.length
  let bm := s.codes.map (fun c => c != 0)
  let vals := s.codes.filter (· ≠ 0)
  let nnz := vals.length
  if tileRaw0 f n nnz < tileRaw1 f n then
    let h := tileHdr form f false n nnz (tileRaw0 f n nnz)
    let b := bitmapBytes bm
    (h ++ toBytes 4 (tileCheck h b) ++ rep 4 0 ++ b
      ++ (match f with | .kb4 => s.scales.flatMap (toBytes 1) | _ => []) ++ packValues f vals, false)
  else
    let h := tileHdr form f true n nnz (tileRaw1 f n)
    (h ++ toBytes 4 (tileCheck h []) ++ rep 4 0 ++ s.dense f, true)

/-- A tile read: the segment, the bitmap, the stored count and the length. -/
structure TileRead where
  seg : Segment
  bitmap : List Bool
  nnz : Nat
  bytes : Nat
  deriving DecidableEq, Repr

/-- Formats a tile may hold (R150). -/
def Fmt.tileOk : Fmt → Bool
  | .fp32 | .bf16 | .e4m3 | .e5m2 | .kb4 => true
  | _ => false

/-- Bits of a bitmap. -/
def bitsOf (bs : List Byte) (n : Nat) : List Bool := (upto n).map (fun i => bit (bs.getD (i / 8) 0).toNat (i % 8))

/-- At most two stored elements in every group of four (R157). -/
def twoOfFour (bm : List Bool) : Bool :=
  (upto (ceilDiv bm.length 4)).all (fun j => (((bm.drop (4 * j)).take 4).filter id).length ≤ 2)

/-- Placement of packed values under a bitmap (R164). -/
def unpack : List Bool → List Nat → List Nat
  | [], _ => []
  | true :: l, v :: vs => v :: unpack l vs
  | true :: l, [] => 0 :: unpack l []
  | false :: l, vs => 0 :: unpack l vs

/-- A tile's header checked in itself: FORM, FMT, ELEMS, the reserved fields, and BYTES, which it answers (R152, R153,
R165). -/
def tileHead (form : Nat) (f : Fmt) (elems : Nat) (bs : List Byte) : Option Nat :=
  let hdr := ofBytes (bs.take 16)
  let len := bits hdr 63 48
  if !(f.tileOk) || bits hdr 7 0 ≠ form || bits hdr 11 8 ≠ f.code || bits hdr 15 13 ≠ 0 || bits hdr 31 16 ≠ elems
    || bits hdr 127 96 ≠ 0 || bs.length < 16
    || len ≠ (if bit hdr 12 then tileRaw1 f elems else tileRaw0 f elems (bits hdr 47 32)) then none
  else some len

/-- A tile checked and read from the bytes at its start (R165); `none` where it fails. -/
def readTile (form : Nat) (f : Fmt) (elems : Nat) (bs : List Byte) : Option TileRead :=
  let hdr := ofBytes (bs.take 16)
  let n := elems
  let nnz := bits hdr 47 32
  match tileHead form f elems bs with
  | none => none
  | some len =>
    if bs.length < len then none else
    let body := (bs.take len).drop 16
    let check := bits hdr 95 64
    if bit hdr 12 then
      let s := Segment.ofDense f n body
      let beyond : Bool := match f with
        | .kb4 => (Segment.ofDense .kb4 (ceilDiv n 16 * 16) body).codes.drop n |>.all (· = 0)
        | _ => true
      let bm := s.codes.map (fun c => c != 0)
      if !beyond || nnz ≠ (bm.filter id).length || check ≠ tileCheck (bs.take 8) []
        || (form = 2 && !twoOfFour bm) then none
      else some ⟨s, bm, nnz, len⟩
    else
      let nb := ceilDiv n 8
      let bmB := body.take nb
      let bm := bitsOf bmB n
      let tail := (bitsOf bmB (8 * nb)).drop n
      let scales := match f with | .kb4 => ((body.drop nb).take (ceilDiv n 16)).map (·.toNat) | _ => []
      let vb := body.drop (nb + scales.length)
      let vals := match f with
        | .kb4 => (upto nnz).map (fun i => let b := (vb.getD (i / 2) 0).toNat; if i % 2 = 0 then b % 16 else b / 16)
        | _ => (upto nnz).map (fun i => ofBytes ((vb.drop (f.bytes * i)).take f.bytes))
      let odd : Bool := match f with
        | .kb4 => nnz % 2 = 1 && (vb.getD (nnz / 2) 0).toNat / 16 ≠ 0
        | _ => false
      if tail.any id || odd || nnz ≠ (bm.filter id).length || check ≠ tileCheck (bs.take 8) bmB
        || (form = 2 && !twoOfFour bm) then none
      else some ⟨⟨unpack bm vals, scales⟩, bm, nnz, len⟩

/-- The length a tile's header gives. -/
def tileLen (bs : List Byte) : Nat := ofBytes ((bs.drop 6).take 2)

/-- Segments of a row of `n` elements: their lengths (R150). -/
def segLens (n : Nat) : List Nat := (upto (ceilDiv n 256)).map (fun s => Nat.min 256 (n - 256 * s))

/-- The row bound of R156. -/
def rowBound (f : Fmt) (n : Nat) : Nat := 16 * ceilDiv n 256 + f.rowBytes n

/-- A value of an expanded segment: element `i`, `none` where it is not stored. -/
def TileRead.elem (f : Fmt) (t : TileRead) (i : Nat) : Option FVal :=
  if t.bitmap.getD i false then
    match f with
    | .kb4 =>
      let s := t.seg.scales.getD (i / 16) 0
      some (if s = 0xFF then .nan else match decodeFloat .kb4 (t.seg.codes.getD i 0) with
        | .fin n m e => .fin n m (e + (s : Int) - 127)
        | v => v)
    | _ => some (decodeFloat f (t.seg.codes.getD i 0))
  else none

/-- Extents overlap. -/
def extOverlap (a n b k : Nat) : Bool := n ≠ 0 && k ≠ 0 && a < b + k && b < a + n

/-- No two extents of a list overlap. -/
def disjointExt : List (Nat × Nat) → Bool
  | [] => true
  | x :: l => l.all (fun y => !extOverlap x.1 x.2 y.1 y.2) && disjointExt l

/-- The header of a 2:4 weight image agrees with the product, and its index lies within SIZE (R158, R159). -/
def imageHead (f : Fmt) (rows cols size : Nat) (hdr : List Byte) : Bool :=
  let h := ofBytes (hdr.take 32)
  bits h 7 0 = 3 && bits h 11 8 = f.code && bits h 31 12 = 0 && bits h 63 32 = rows && bits h 95 64 = cols
    && bits h 255 192 = 0 && 32 + 4 * rows * ceilDiv cols 256 ≤ size

/-- A 2:4 weight image checked whole (R158, R159): the rows of B, each element present or absent. `none` is
SPARSE_FORMAT. -/
def readImage (f : Fmt) (rows cols : Nat) (im : List Byte) : Option (List (List (Option FVal))) :=
  let h := ofBytes (im.take 32)
  let size := im.length
  let s := ceilDiv cols 256
  let idxEnd := 32 + 4 * rows * s
  if !(imageHead f rows cols size im) then none
  else
    let offs := (upto (rows * s)).map (fun i => ofBytes ((im.drop (32 + 4 * i)).take 4))
    let tiles := offs.zipIdx.map (fun p =>
      if size < p.1 + 16 then none
      else readTile 2 f (Nat.min 256 (cols - 256 * (p.2 % s))) (im.drop p.1))
    if tiles.any Option.isNone then none
    else
      let ts := tiles.filterMap id
      let exts := (offs.zip ts).map (fun p => (p.1, p.2.bytes))
      if exts.any (fun x => x.1 < idxEnd || size < x.1 + x.2) || !disjointExt exts
        || bits h 191 128 ≠ (ts.map (·.nnz)).sum then none
      else some ((upto rows).map (fun r => (upto s).flatMap (fun g =>
        match ts[r * s + g]? with
        | some t => (upto (Nat.min 256 (cols - 256 * g))).map (t.elem f)
        | none => [])))

end Sys2Proof.Machine
end

