-- ==== Sys2Proof/Machine/Copy.lean ====
section
/-! DEFINITION. The copy engines (R134 to R149): the descriptor and its checks, plain and permuting copies, gather and
scatter. -/

namespace Sys2Proof.Machine

/-- The copy descriptor (R134). -/
structure CopyD where
  op : Nat
  fmt : Nat
  perm : Nat
  flag : Bool
  srcBound : Bool
  dstBound : Bool
  fill : Nat
  d0 : Nat
  d1 : Nat
  d2 : Nat
  d3 : Nat
  src : Nat
  dst : Nat
  ss1 : Nat
  ss2 : Nat
  ss3 : Nat
  ds1 : Nat
  ds2 : Nat
  ds3 : Nat
  srcLimit : Nat
  dstLimit : Nat
  idx : Nat
  rows : Nat
  tag : Nat
  flagAddr : Nat
  reserved : Bool
  deriving DecidableEq, Repr

/-- Fields of a copy descriptor (R134). -/
def CopyD.of (d : Desc) : CopyD :=
  { op := d.fld 0 7 0, fmt := d.fld 0 11 8, perm := d.fld 0 23 16, flag := d.fld 0 24 24 = 1
    srcBound := d.fld 0 25 25 = 1, dstBound := d.fld 0 26 26 = 1, fill := d.fld 4 31 0
    d0 := d.fld 8 31 0, d1 := d.fld 0x0C 31 0, d2 := d.fld 0x10 31 0, d3 := d.fld 0x14 31 0
    src := d.fld 0x18 63 0, dst := d.fld 0x20 63 0
    ss1 := d.fld 0x28 31 0, ss2 := d.fld 0x2C 31 0, ss3 := d.fld 0x30 31 0
    ds1 := d.fld 0x34 31 0, ds2 := d.fld 0x38 31 0, ds3 := d.fld 0x3C 31 0
    srcLimit := d.fld 0x40 63 0, dstLimit := d.fld 0x48 63 0, idx := d.fld 0x50 63 0, rows := d.fld 0x58 31 0
    tag := d.fld 0x5C 31 0, flagAddr := d.fld 0x60 63 0
    reserved := d.fld 0 15 12 = 0 && d.fld 0 31 27 = 0 && d.fld 0x68 191 0 = 0 }

/-- Bytes of one element; a KB4 element is one block (R135). -/
def copyBytes (f : Fmt) : Nat := if f = .kb4 then 9 else f.bytes

/-- Operations over an index tensor. -/
def CopyD.indexed (c : CopyD) : Bool := 4 ≤ c.op

/-- Source dimension of destination dimension `k` (R134, R136). -/
def CopyD.permAt (c : CopyD) (k : Nat) : Nat :=
  if c.op = 2 then (if k = 0 then 1 else if k = 1 then 0 else k)
  else if c.op = 3 then bits c.perm (2 * k + 1) (2 * k) else k

/-- Sizes of the source dimensions. -/
def CopyD.dim (c : CopyD) (k : Nat) : Nat := if k = 0 then c.d0 else if k = 1 then c.d1 else if k = 2 then c.d2 else c.d3

/-- Formats an operation accepts (R135). -/
def copyFmtOk (op : Nat) (f : Fmt) : Bool :=
  match op with
  | 1 | 4 | 5 => true
  | 2 | 3 => f ≠ .kb4
  | _ => [Fmt.fp32, .bf16, .e4m3, .e5m2, .int32, .uint32].contains f

/-- Element bytes at the destination: SCATTER_ADD writes FP32 or 32-bit integers (R147). -/
def CopyD.dstBytes (c : CopyD) (f : Fmt) : Nat := if c.op = 6 then 4 else copyBytes f

/-- The destination's dimensions: size and stride (R136, R145). A scatter's dimension 1 is taken to have TABLE_ROWS rows, in
its extent and in the test of R137 (log entry 105). -/
def CopyD.dstDims (c : CopyD) (f : Fmt) : List (Nat × Nat) :=
  let e := c.dstBytes f
  if c.op = 4 then [(c.d0, e), (c.d1, c.ds1)]
  else if c.indexed then [(c.d0, e), (c.rows, c.ds1)]
  else [(c.dim (c.permAt 0), e), (c.dim (c.permAt 1), c.ds1), (c.dim (c.permAt 2), c.ds2), (c.dim (c.permAt 3), c.ds3)]

/-- The source's dimensions (R136, R145). -/
def CopyD.srcDims (c : CopyD) (f : Fmt) : List (Nat × Nat) :=
  let e := copyBytes f
  if c.op = 4 then [(c.d0, e), (c.rows, c.ss1)]
  else if c.indexed then [(c.d0, e), (c.d1, c.ss1)]
  else [(c.d0, e), (c.d1, c.ss1), (c.d2, c.ss2), (c.d3, c.ss3)]

/-- No two elements of a destination share a byte, by the test of R137. -/
def apart : Nat → List (Nat × Nat) → Bool
  | _, [] => true
  | inner, (n, s) :: l => if n ≤ 1 then apart inner l else inner ≤ s && apart (n * s) l

/-- Bytes from the lowest to the highest addressed byte; 0 for no element. -/
def spanOf (e : Nat) (l : List (Nat × Nat)) : Nat :=
  if l.any (fun p => p.1 = 0) then 0 else (l.map (fun p => (p.1 - 1) * p.2)).sum + e

/-- The fields of a descriptor in themselves (R137). -/
def CopyD.fieldsOk (c : CopyD) : Bool :=
  c.reserved && 1 ≤ c.op && c.op ≤ 6
    && (match Fmt.ofCode c.fmt with | some f => copyFmtOk c.op f | none => false)
    && (if c.op = 3 then noDup [bits c.perm 1 0, bits c.perm 3 2, bits c.perm 5 4, bits c.perm 7 6] else c.perm = 0)
    && (c.srcBound || c.srcLimit = 0) && (c.dstBound || c.dstLimit = 0)
    && (c.indexed || (c.idx = 0 && c.rows = 0))
    && (c.flag || (c.tag = 0 && c.flagAddr = 0))
    && (c.srcBound || c.op = 4 || c.fill = 0)
    && (!c.indexed || (c.ss2 = 0 && c.ss3 = 0 && c.ds2 = 0 && c.ds3 = 0 && c.d2 = 1 && c.d3 = 1))

/-- Where an address points, by its fields alone (R37, R38). -/
def Hw.pointOf (h : Hw) (a : Nat) : Loc :=
  if bit a 63 && h.node? ≠ some (bits a 62 48) then .there (bits a 62 48) (bits a 47 0) else .here (bits a 47 0)

/-- A local address with non-zero bits 62:48 is malformed (R38). -/
def malformed (a : Nat) : Bool := !bit a 63 && bits a 62 48 ≠ 0

/-- The place of the bytes of an extent that lie within its bounds (R144); of none, the address is judged alone. -/
def Hw.extent (h : Hw) (e : Env) (a n : Nat) : Except Status Loc :=
  if malformed a then .error .badDescriptor
  else if n = 0 then .ok (h.pointOf a)
  else h.resolveMem e true a n

/-- Two resolved extents overlap; extents on different nodes never do (R137). -/
def locOverlap (a : Loc) (n : Nat) (b : Loc) (k : Nat) : Bool :=
  match a, b with
  | .here x, .here y => extOverlap x n y k
  | .there p x, .there q y => p = q && extOverlap x n y k
  | _, _ => false

/-- The places of a decoded descriptor. -/
structure CopyP where
  f : Fmt
  s : Loc
  d : Loc
  i : Loc
  down : Bool
  deriving DecidableEq, Repr

/-- The end of what an extent may touch under its bound (R144). -/
def clip (on : Bool) (limit n : Nat) : Nat := if on then Nat.min n limit else n

/-- Decode at the head of the queue (R137 to R140), the lower status code first where several apply (R483). `none`: a size
is zero (R139), which the fields, the addresses' form and the flag's address are judged before (log entry 104). Overlaps are of
the extents of R136; what must be reachable is what the bounds leave (R144). -/
def CopyD.decode (c : CopyD) (e : Env) : Op (Option CopyP) := do
  let h ← get
  let flag := if c.flag then h.flagPlace e c.flagAddr else .ok (.here 0)
  let bad (p : Except Status Loc) : Bool := match p with | .error .badDescriptor => true | _ => false
  need (c.fieldsOk && !bad flag && !malformed c.src && !malformed c.dst && !malformed c.idx) .badDescriptor
  match Fmt.ofCode c.fmt with
  | none => failSt .badDescriptor
  | some f =>
    if c.d0 = 0 || c.d1 = 0 || c.d2 = 0 || c.d3 = 0 then
      match flag with
      | .error x => failSt x
      | .ok _ => return none
    else
      need (apart (c.dstBytes f) (c.dstDims f)) .badDescriptor
      let sn := spanOf (copyBytes f) (c.srcDims f)
      let dn := spanOf (c.dstBytes f) (c.dstDims f)
      let xn := if c.indexed then 4 * c.d1 else 0
      let s := h.pointOf c.src
      let d := h.pointOf c.dst
      let i := h.pointOf c.idx
      let places := [h.extent e c.src (clip c.srcBound c.srcLimit sn), h.extent e c.dst (clip c.dstBound c.dstLimit dn),
        h.extent e c.idx xn, flag]
      let o := locOverlap s sn d dn
      need (!(places.any bad)) .badDescriptor
      need (!(c.op = 1 && o && !(c.ss1 = c.ds1 && c.ss2 = c.ds2 && c.ss3 = c.ds3))) .badDescriptor
      need (!(c.indexed && (o || locOverlap i xn d dn))) .badDescriptor
      need (!((c.op = 2 || c.op = 3) && o)) .overlap
      let down := match s, d with
        | .here x, .here y => o && x < y
        | .there _ x, .there _ y => o && x < y
        | _, _ => false
      match places.findSome? (fun p => match p with | .error x => some x | .ok _ => none) with
      | some x => failSt x
      | none => return some ⟨f, s, d, i, c.op = 1 && down⟩

/-- The element that FILL gives (R135). -/
def fillElem (f : Fmt) (v : Nat) : List Byte :=
  match f with
  | .kb4 => rep 8 0 ++ toBytes 1 v
  | .fp64 => toBytes 8 (encodeRounded .fp64 (roundTo .fp64 (val32 v)))
  | f => toBytes f.bytes v

/-- Who asks: the descriptor, its engine's coordinate, its partition. -/
structure Asker where
  owner : Owner
  src : Nat
  part : Option Nat
  die : Nat
  unit : Nat
  deriving DecidableEq, Repr

/-- Count dropped elements (R144, R145). -/
def dropElems (w : Asker) (n : Nat) : Op Unit :=
  modify (fun h => if n = 0 then h else h.inc Reg.ceCountDrops (rkey w.die w.unit 0) 0 n)

/-- Read the source element at byte `o`, or take the fill value (R144); `row` is where its row begins. -/
def CopyD.readElem (c : CopyD) (p : CopyP) (w : Asker) (o row : Nat) : Op (List Byte) :=
  let e := copyBytes p.f
  if c.srcBound && c.srcLimit < o + e then return fillElem p.f c.fill
  else loadAt w.owner p.s o e row (clip c.srcBound (c.srcLimit - row) (c.d0 * e))

/-- Write the destination element at byte `o`, or drop it (R144). -/
def CopyD.writeElem (c : CopyD) (p : CopyP) (w : Asker) (o : Nat) (bs : List Byte) : Op Unit :=
  if c.dstBound && c.dstLimit < o + bs.length then dropElems w 1
  else storeAt w.owner w.src w.part p.d o bs

/-- Indices of the elements, ascending in i0, then i1, i2, i3 (R140). -/
def CopyD.elems (c : CopyD) : List (Nat × Nat × Nat × Nat) :=
  (upto c.d3).flatMap (fun i3 => (upto c.d2).flatMap (fun i2 => (upto c.d1).flatMap (fun i1 =>
    (upto c.d0).map (fun i0 => (i0, i1, i2, i3)))))

/-! Rows that lie contiguous at both ends move slot by slot: one access reads or writes a stripe of up to 2 KiB, so that a
word it covers is written in full (R128, R130, R141, R142). -/

/-- An element takes a byte from a failing word or line. -/
def Hw.elemBad (h : Hw) (a n : Nat) : Bool := (wordsOf a n).any (fun w => h.badWords.contains w || h.lineBad w)

/-- The elements numbered in a list cut into the slots of their destination, in the list's order; what goes to another node
is cut by its requests. -/
def slotsOf (l : Loc) (o e : Nat) (is : List Nat) : List (List Nat) :=
  match l with
  | .here off => is.splitBy (fun i j => (off + o + e * i) / 2048 == (off + o + e * j) / 2048)
  | _ => [is]

/-- Consecutive elements of a local row read as one access, in the order given: those before the first that fails, and
the failure. -/
def readHere (a e : Nat) (is : List Nat) : Op (List (List Byte) × Option Fail) := do
  let h ← get
  let k := (is.findIdx? (fun i => h.elemBad (a + e * i) e)).getD is.length
  let good := is.take k
  let lo := good.foldl Nat.min (good.headD 0)
  let bs ← if k = 0 then pure [] else loadB (a + e * lo) (e * k)
  let els := good.map (fun i => (bs.drop (e * (i - lo))).take e)
  match is[k]? with
  | none => return (els, none)
  | some i => fun g => match loadB (a + e * i) e g with
    | .error .held g' => .error .held g'
    | .error f g' => .ok (els, some f) g'
    | .ok _ g' => .ok (els, none) g'

/-- The same of a row on another node: `wo` and `wn` give the extent asked for. -/
def readThere (owner : Owner) (node a e : Nat) (is : List Nat) (wo wn : Nat) : Op (List (List Byte) × Option Fail) := do
  let h ← get
  let rs := h.reqs.filter (fun r => r.owner = owner)
  let got := is.map (fun i => (upto e).map (fun j => remoteByte rs node (a + e * i + j)))
  let failed (x : Option (Except Status Byte)) : Option Status := match x with | some (.error s) => some s | _ => none
  let k := (got.findIdx? (fun l => l.any (fun x => (failed x).isSome))).getD got.length
  let good := got.take k
  if good.any (fun l => l.any Option.isNone) then throw (.remote node wo wn)
  else
    let els := good.map (fun l => l.filterMap (fun x => match x with | some (.ok b) => some b | _ => none))
    return (els, (got[k]?.bind (fun l => l.findSome? failed)).map Fail.st)

/-- Consecutive elements of a row read in the order given. -/
def readRun (owner : Owner) (l : Loc) (o e : Nat) (is : List Nat) (wo wn : Nat) : Op (List (List Byte) × Option Fail) :=
  if is.isEmpty then return ([], none)
  else match l with
    | .here off => readHere (off + o) e is
    | .there node off => readThere owner node (off + o) e is (off + wo) wn
    | .regs _ => failSt .destUnreachable

/-- Consecutive elements of a row written as one access. -/
def CopyD.putRun (_ : CopyD) (p : CopyP) (w : Asker) (o : Nat) (els : List (Nat × List Byte)) : Op Unit :=
  let l := sortBy (fun (x y : Nat × List Byte) => x.1 < y.1) els
  match l with
  | [] => return ()
  | x :: _ => storeAt w.owner w.src w.part p.d (o + copyBytes p.f * x.1) ((l.map (fun y => y.2)).flatten)

/-- Elements of a destination row within its bound, and how many are dropped (R144). -/
def CopyD.keptAt (c : CopyD) (p : CopyP) (o : Nat) : List Nat :=
  (upto c.d0).filter (fun i => !(c.dstBound && c.dstLimit < o + copyBytes p.f * i + copyBytes p.f))

/-- One slot: its elements are read, or take the fill value, and are written together. -/
def CopyD.slot (c : CopyD) (p : CopyP) (w : Asker) (so o : Nat) (is : List Nat) : Op (List (Nat × List Byte)) := do
  let e := copyBytes p.f
  let within (i : Nat) : Bool := !(c.srcBound && c.srcLimit < so + e * i + e)
  let (els, f) ← readRun w.owner p.s so e (is.filter within) so (clip c.srcBound (c.srcLimit - so) (c.d0 * e))
  let got := (is.filter within).zip els
  let fills := (is.filter (fun i => !(within i))).map (fun i => (i, fillElem p.f c.fill))
  let all := if f.isSome && !p.down then got else got ++ fills
  c.putRun p w o all
  match f with
  | some f => throw f
  | none => return all

/-- A row of D0 elements from source byte `so` to destination byte `o` (R140, R141, R144). Answers the elements
written. -/
def CopyD.row (c : CopyD) (p : CopyP) (w : Asker) (so o : Nat) : Op (List (Nat × List Byte)) := do
  let kept := c.keptAt p o
  let is := if p.down then kept.reverse else kept
  if p.down then dropElems w (c.d0 - kept.length)
  let done ← (slotsOf p.d o (copyBytes p.f) is).foldlM (fun (acc : List (Nat × List Byte)) ch => do
    return acc ++ (← c.slot p w so o ch)) []
  if !p.down then dropElems w (c.d0 - kept.length)
  return done

/-- A row whose elements are at hand. -/
def CopyD.give (c : CopyD) (p : CopyP) (w : Asker) (o : Nat) (els : List (Nat × List Byte)) : Op Unit := do
  let kept := c.keptAt p o
  for ch in slotsOf p.d o (copyBytes p.f) kept do
    c.putRun p w o (els.filter (fun x => ch.contains x.1))
  dropElems w (c.d0 - kept.length)

/-- Rows of a plain copy, in the order of R140. -/
def CopyD.rows_ (c : CopyD) : List (Nat × Nat × Nat) :=
  (upto c.d3).flatMap (fun i3 => (upto c.d2).flatMap (fun i2 => (upto c.d1).map (fun i1 => (i1, i2, i3))))

/-- COPY, TRANSPOSE and PERMUTE (R136, R140, R141): row by row where dimension 0 stays, else element by element. -/
def CopyD.move (c : CopyD) (p : CopyP) (w : Asker) : Op Unit := do
  let e := copyBytes p.f
  if c.permAt 0 = 0 then
    let l := if p.down then c.rows_.reverse else c.rows_
    for x in l do
      let at_ (k : Nat) : Nat := if k = 1 then x.1 else if k = 2 then x.2.1 else x.2.2
      let _ ← c.row p w (x.1 * c.ss1 + x.2.1 * c.ss2 + x.2.2 * c.ss3)
        (at_ (c.permAt 1) * c.ds1 + at_ (c.permAt 2) * c.ds2 + at_ (c.permAt 3) * c.ds3)
  else
    for x in c.elems do
      let row := x.2.1 * c.ss1 + x.2.2.1 * c.ss2 + x.2.2.2 * c.ss3
      let at_ (k : Nat) : Nat := if k = 0 then x.1 else if k = 1 then x.2.1 else if k = 2 then x.2.2.1 else x.2.2.2
      let o := at_ (c.permAt 0) * e + at_ (c.permAt 1) * c.ds1 + at_ (c.permAt 2) * c.ds2 + at_ (c.permAt 3) * c.ds3
      if c.dstBound && c.dstLimit < o + e then dropElems w 1
      else do
        let bs ← c.readElem p w (x.1 * e + row) row
        c.writeElem p w o bs

/-- Index `j` of the index tensor (R145). -/
def CopyD.index (c : CopyD) (p : CopyP) (w : Asker) (j : Nat) : Op Int := do
  return toSigned 32 (ofBytes (← loadAt w.owner p.i (4 * j) 4 0 (4 * c.d1)))

/-- An index names a row of the table (R145). -/
def CopyD.inTable (c : CopyD) (x : Int) : Bool := 0 ≤ x && x < (c.rows : Int)

/-- A row the coalescing window holds (R146): position, index, elements. -/
abbrev HeldRow := Nat × Nat × List (Nat × List Byte)

/-- GATHER (R145, R146). -/
def CopyD.gather (c : CopyD) (p : CopyP) (w : Asker) : Op Unit := do
  let _ ← (upto c.d1).foldlM (fun (held : List HeldRow) j => do
    let x ← c.index p w j
    if !(c.inTable x) then
      c.give p w (j * c.ds1) ((upto c.d0).map (fun i => (i, fillElem p.f c.fill)))
      return held
    else
      let r := x.toNat
      match held.find? (fun q => j ≤ q.1 + 64 && q.2.1 = r) with
      | some q => do
        modify (fun h => h.inc Reg.ceCountCoalesced (rkey w.die w.unit 0) 0 1)
        c.give p w (j * c.ds1) q.2.2
        return held
      | none => do
        let row ← c.row p w (r * c.ss1) (j * c.ds1)
        return if c.d0 * copyBytes p.f ≤ 2048 then (j, r, row) :: held.take 64 else held) []
  return ()

/-- An element of the source of a SCATTER_ADD added to the old value: FP32 with one rounding, or a wrapping integer
(R147). -/
def addElem (f : Fmt) (old : Nat) (bs : List Byte) : Nat :=
  if f.isFloat then encodeRounded .fp32 (add32 (val32 old) (asFp32 (decodeElem f (ofBytes bs))))
  else (old + ofBytes bs) % 2 ^ 32

/-- The operand of one element of a remote SCATTER_ADD (R405). -/
def addOperand (f : Fmt) (bs : List Byte) : Nat :=
  if f.isFloat then encodeRounded .fp32 (asFp32 (decodeElem f (ofBytes bs))) else ofBytes bs % 2 ^ 32

/-- The next TSEQ of an issuer in the fabric beat (R404). -/
def Hw.takeTseq (h : Hw) (die unit thread : Nat) : Nat × Hw :=
  let k := ukey die unit * 16 + thread
  (SMap.get h.tseq 0 k, { h with tseq := SMap.put h.tseq k (SMap.get h.tseq 0 k + 1) })

/-- Send one piece of a row as an ATOMIC (R405). -/
def atomicPiece (w : Asker) (f : Fmt) (node off : Nat) (ops : List Nat) : Op Unit := do
  let h ← get
  if !((h.region (ownerFdie w.die)).permits h.node node off (4 * ops.length)) then do
    set (h.inc Reg.rgnStatusDeniedTx pkgB 0 1)
    throw (.st .writeDenied)
  let (tseq, h) := if f.isFloat then h.takeTseq w.die w.unit 0 else (0, h)
  let one := ops.length = 1
  set (h.issue w.owner w.src w.part 8 node off (4 * ops.length) true (fun id =>
    reqPreamble id ops.length (if f.isFloat then 0x10 else 0x01) (if f.isFloat then 2 else 0) 0 tseq
        (if f.isFloat then h.fabN else 0) (if one then ops.headD 0 else 0) 0
      ++ (if one then [] else (ops.map (toBytes 4)).flatten)))

/-- Elements of a source row read one by one until a read fails, and that failure (R141). -/
def CopyD.readTo (c : CopyD) (p : CopyP) (w : Asker) (row : Nat) : List Nat → Op (List (List Byte) × Option Fail)
  | [] => pure ([], none)
  | i :: l => fun h => match c.readElem p w (row + i * copyBytes p.f) row h with
    | .ok bs h => (do let r ← CopyD.readTo c p w row l; return (bs :: r.1, r.2) : Op (List (List Byte) × Option Fail)) h
    | .error .held h => .error .held h
    | .error (.remote node a n) h => .error (.remote node a n) h
    | .error f h => .ok ([], some f) h

/-- The elements of source row `row` that are in bounds at the destination go to another node in pieces of 1,008 (R405), up
to the first that cannot be read (R141). -/
def CopyD.sendRow (c : CopyD) (p : CopyP) (w : Asker) (node off o row : Nat) : Op Unit := do
  let kept := (upto c.d0).filter (fun i => !(c.dstBound && c.dstLimit < o + 4 * i + 4))
  dropElems w (c.d0 - kept.length)
  let r ← c.readTo p w row kept
  let ops := r.1.map (addOperand p.f)
  for k in upto (ceilDiv ops.length 1008) do
    atomicPiece w p.f node (off + o + 4 * 1008 * k) ((ops.drop (1008 * k)).take 1008)
  match r.2 with
  | some f => throw f
  | none => return ()

/-- SCATTER_STORE and SCATTER_ADD (R145, R147): rows in ascending index position. Answers the rows not dropped. -/
def CopyD.scatter (c : CopyD) (p : CopyP) (w : Asker) : Op Nat := do
  let e := copyBytes p.f
  (upto c.d1).foldlM (fun (kept : Nat) j => do
    let x ← c.index p w j
    if !(c.inTable x) then
      dropElems w c.d0
      return kept
    else
      let o := x.toNat * c.ds1
      let get_ (i : Nat) : Op (List Byte) := c.readElem p w (j * c.ss1 + i * e) (j * c.ss1)
      if c.op = 5 then
        let _ ← c.row p w (j * c.ss1) o
      else match p.d with
        | .there node off => c.sendRow p w node off o (j * c.ss1)
        | l => for i in upto c.d0 do
            if c.dstBound && c.dstLimit < o + 4 * i + 4 then dropElems w 1
            else do
              let bs ← get_ i
              let old ← loadAt w.owner l (o + 4 * i) 4 (o + 4 * i) 4
              c.writeElem p w (o + 4 * i) (toBytes 4 (addElem p.f (ofBytes old) bs))
      return kept + 1) 0

/-- COUNT that the flag of a copy would carry (R149): what its run found, or, for a copy that failed, what its descriptor
and the indices say. -/
def CopyD.count (c : CopyD) (h : Hw) (e : Env) (o : Owner) : Nat :=
  if c.d0 = 0 || c.d1 = 0 || c.d2 = 0 || c.d3 = 0 then 0
  else if c.op = 4 then c.d1
  else if !c.indexed then c.d1 * c.d2 * c.d3
  else match h.extent e c.idx (4 * c.d1) with
    | .ok (.here off) =>
      ((upto c.d1).filter (fun j => c.inTable (toSigned 32 (Mem.num h.mem (off + 4 * j) 4)))).length
    | .ok (.there node off) =>
      let rs := h.reqsOf o
      ((upto c.d1).filter (fun j => c.inTable (toSigned 32 (ofBytes ((upto 4).map (fun i =>
        match remoteByte rs node (off + 4 * j + i) with | some (.ok b) => b | _ => 0))))) ).length
    | _ => 0

/-- The flag of a copy descriptor, with its COUNT (R149): the rows that a copy whose run is over did keep. One whose window
cannot be reached is never written, but its COUNT is VALUE all the same (R485). -/
def copyFlag (e : Env) (die unit : Nat) (h : Hw) (j : Job) : Option FlagAt :=
  let c := CopyD.of j.body
  let place : Loc := match h.flagPlace e c.flagAddr with | .ok l => l | .error _ => .regs 0
  match c.flag, j.result with
  | false, _ => none
  | _, some (.ok, v) => some (place, c.tag, v)
  | _, _ => some (place, c.tag, c.count h e (.job die unit j.tag))

/-- A copy engine's run of a descriptor (R139 to R149); VALUE is the COUNT of its flag (R485). -/
def copyRun (e : Env) (die unit : Nat) (j : Job) : Op (Status × Nat) := do
  let c := CopyD.of j.body
  let h ← get
  let w : Asker := ⟨.job die unit j.tag, h.coord die unit, h.partOf die, die, unit⟩
  match ← c.decode e with
  | none => return (.ok, 0)
  | some p =>
    let n ← if c.op = 4 then do c.gather p w; pure c.d1
      else if c.indexed then c.scatter p w
      else do c.move p w; pure (c.d1 * c.d2 * c.d3)
    return (.ok, if c.flag then n else 0)

/-- A copy engine runs the descriptor at the head of its queue, if it is one of the operations named. An operation
code of R15's reserved kind fails as the first of them. -/
def copyOp (ops : List Nat) (die unit : Nat) (e : Env) (h : Hw) : Hw :=
  if h.dieOn e die && (unit = 5 || unit = 6) then
    h.runRemote e die unit ops (copyFlag e die unit) (copyRun e die unit)
  else h

/-- Every operation code that is not one of TRANSPOSE to SCATTER_ADD. -/
def copyOrReserved : List Nat := (upto 256).filter (fun n => n < 2 || 6 < n)

/-- Stop everything at an engine's queue with ABORTED, the running descriptor and the queued ones (R141, R193). -/
def Hw.abortQueue (h : Hw) (die unit : Nat) (flag : Hw → Job → Option FlagAt) : Hw :=
  (h.queue die unit).foldl (fun h j =>
    let f := flag h j
    let h := { h with reqs := h.reqs.filter (fun r => r.owner ≠ Owner.job die unit j.tag) }
    h.failJob die unit j f .aborted 0) h

/-- CE_CTRL.ABORT (R141). -/
def ceAbort (die unit : Nat) (e : Env) (h : Hw) : Hw :=
  if h.dieOn e die && (unit = 5 || unit = 6) then h.abortQueue die unit (copyFlag e die unit) else h

/-- COPY (R140). A descriptor whose operation code is reserved is decoded here and fails. -/
def execCopy (die unit : Nat) (s : State) : Host.Outcome State Fault Refusal := onHw (copyOp copyOrReserved die unit) s

/-- TRANSPOSE (R136). -/
def execTranspose (die unit : Nat) (s : State) : Host.Outcome State Fault Refusal := onHw (copyOp [2] die unit) s

/-- PERMUTE (R136). -/
def execPermute (die unit : Nat) (s : State) : Host.Outcome State Fault Refusal := onHw (copyOp [3] die unit) s

/-- GATHER (R145). -/
def execGather (die unit : Nat) (s : State) : Host.Outcome State Fault Refusal := onHw (copyOp [4] die unit) s

/-- SCATTER_STORE (R147). -/
def execScatterStore (die unit : Nat) (s : State) : Host.Outcome State Fault Refusal := onHw (copyOp [5] die unit) s

/-- SCATTER_ADD (R147). -/
def execScatterAdd (die unit : Nat) (s : State) : Host.Outcome State Fault Refusal := onHw (copyOp [6] die unit) s

/-- CE_CTRL_ABORT (R141). -/
def execCeCtrlAbort (die unit : Nat) (s : State) : Host.Outcome State Fault Refusal := onHw (ceAbort die unit) s

end Sys2Proof.Machine
end

