-- ==== Sys2Proof/Machine/Landing.lean ====
section
/-! DEFINITION. The landing state of open exchanges that other units act on (R269 to R271, R274): where positions lie,
the end of an entry, and ALLOCs that Keepers have answered. -/

namespace Sys2Proof.Machine

/-- An extent of this node's memory, or the status of an access that cannot be made. -/
def Hw.localMem (h : Hw) (e : Env) (a n : Nat) : Except Status Nat :=
  match h.resolveMem e true a n with
  | .ok (.here off) => .ok off
  | .ok _ => .error .destUnreachable
  | .error s => .error s

/-- The pieces of memory that `n` bytes from byte `at_` of a chain take: address and length. -/
def chainPieces : List (Nat × Nat) → Nat → Nat → List (Nat × Nat)
  | [], _, _ => []
  | (a, len) :: l, at_, n =>
    if n = 0 then []
    else if len ≤ at_ then chainPieces l (at_ - len) n
    else
      let k := Nat.min n (len - at_)
      (a + at_, k) :: chainPieces l 0 (n - k)

/-- Write bytes across the pieces of a chain. -/
def storePieces : List (Nat × Nat) → List Byte → Op Unit
  | [], _ => pure ()
  | (a, k) :: l, bs => do
    storeB a (bs.take k)
    storePieces l (bs.drop k)

/-- Positions landed from 0 without a gap (R271). -/
def runLength : Nat → List Nat → Nat
  | n, [] => n
  | n, p :: l => if p = n then runLength (n + 1) l else n

/-- COUNT of an entry. -/
def XEnt.count (x : XEnt) : Nat := runLength 0 x.landed

/-- Replace an entry of an open exchange. -/
def Hw.setEnt (h : Hw) (xtag i : Nat) (x : XEnt) : Hw :=
  match SMap.find? h.opens xtag with
  | some o => { h with opens := SMap.put h.opens xtag { o with ents := listSet o.ents i x } }
  | none => h

/-- Write an entry's landing flag (R271). -/
def Hw.landFlag (h : Hw) (xtag i : Nat) : Hw :=
  match (SMap.find? h.opens xtag).bind (fun o => o.ents[i]?) with
  | some x =>
    let h := match x.flag with
      | some a => h.flag a x.tag x.count
      | none => h
    h.setEnt xtag i { x with flagged := x.count }
  | none => h

/-- An entry ends: COUNT, STATUS and DONE are written, then the flag a last time (R271, R274); with a flag that cannot be
reached it ends with DEST_UNREACHABLE at best (R4, R41). -/
def Hw.endEntry (h : Hw) (xtag i : Nat) (s : Status) : Hw :=
  match SMap.find? h.opens xtag with
  | none => h
  | some o => match o.ents[i]? with
    | none => h
    | some x =>
      if x.done then h
      else
        let s := if s.good && x.flag.isNone then .destUnreachable else s
        let at_ := o.table + 64 * i
        let h := h.setEnt xtag i { x with done := true, segs := [] }
        let h := h.poke (at_ + 0x2C) (toBytes 4 x.count)
        let h := h.poke (at_ + 3) (toBytes 1 s.code)
        let h := h.poke (at_ + 2) (toBytes 1 ((Mem.get h.mem (at_ + 2)).toNat % 128 + 128))
        h.landFlag xtag i

/-- Every source of an exchange has delivered every header (R270, R271). -/
def XOpen.allHeaders (o : XOpen) : Bool :=
  o.nsrc ≤ o.srcs.length && o.srcs.all (fun s => s.nlists ≤ s.lists.length)

/-- Rows that the lists of an entry cover. -/
def XOpen.covered (o : XOpen) (i : Nat) : Nat :=
  (o.srcs.flatMap (fun s => (s.lists.filter (fun l => l.2.entry = some i)).map (fun l => l.2.count))).sum

/-- The dense bytes of a row of a source, none where its format is reserved. -/
def XSrc.rowBytes (s : XSrc) : Option Nat := (Fmt.ofCode s.fmt).map (fun f => f.rowBytes s.elems)

/-- An entry cannot take the rows of a source: SLOT is too small, or tiles would land outside a scratchpad
window (R269). -/
def XEnt.unfit (x : XEnt) (s : XSrc) : Bool :=
  (match s.rowBytes with | some n => x.slot < n | none => true)
    || (s.tiled && x.chain.any (fun c => (spDie c.1).isNone))

/-- The landing of an entry ends when every header has come and every position they cover has landed (R271). -/
def Hw.endIfLanded (h : Hw) (xtag i : Nat) : Hw :=
  match SMap.find? h.opens xtag with
  | none => h
  | some o => match o.ents[i]? with
    | none => h
    | some x =>
      if !x.done && !x.waiting && o.allHeaders && o.covered i ≤ x.count then h.endEntry xtag i .ok else h

/-- The buffers of a Keeper group, in the group's byte order: address and length (R223, R228, R231). -/
def Hw.groupChain (h : Hw) (die part group : Nat) : List (Nat × Nat) :=
  let k := SMap.get h.keepers {} die
  match SMap.find? k.resv part with
  | none => []
  | some r =>
    let mine := r.bufs.filter (fun b => b.2.group = group)
    let slab (j : Nat) : Nat := (((r.sizes.zip r.counts).drop (j + 1)).map (fun (x : Nat × Nat) => x.1 * x.2)).sum
    ((upto r.sizes.length).reverse).flatMap (fun j =>
      (mine.filter (fun b => b.1 / 2 ^ 32 = j)).map (fun b =>
        (r.base + slab j + b.1 % 2 ^ 32 * r.sizes.getD j 0, r.sizes.getD j 0)))

/-- An XCH_CLOSE completes once every ALLOC of its XTAG has: the XTAG leaves the open set for the closed list, which
holds 256 (R274). -/
def Hw.tryClose (h : Hw) (xtag : Nat) : Hw :=
  match SMap.find? h.opens xtag with
  | none => h
  | some o =>
    if !o.closing || o.ents.any (fun x => x.waiting) then h
    else
      let h := { h with opens := SMap.del h.opens xtag
                        closedX := (xtag :: h.closedX.filter (fun x => x ≠ xtag)).take 256 }
      (upto 4).foldl (fun h f =>
        (h.queue (24 + f) 8).foldl (fun h j =>
          if j.started && j.body.fld 0 7 0 = 0x14 && j.body.fld 8 31 0 = xtag then h.finishJob (24 + f) 8 j ⟨.ok, 0, 0⟩
          else h) h) h

/-- Take up the ALLOCs for landing entries that have completed: the chain is where positions lie, and is judged for the
sources whose headers have come; a failure ends the entry, and so does a landing that waited for its ALLOC alone (R269,
R271). -/
def Hw.settleLandings (h : Hw) : Hw :=
  h.landed.foldl (fun h (p : Nat × Nat × Status × Nat) =>
    match SMap.find? h.opens p.1 with
    | none => h
    | some o => match o.ents[p.2.1]? with
      | none => h
      | some x =>
        let chain := match x.keeper with
          | some k => h.groupChain (28 + k) o.part p.2.2.2
          | none => []
        let x := { x with waiting := false, chain := chain }
        let h := h.setEnt p.1 p.2.1 x
        let named (s : XSrc) : Bool := s.lists.any (fun l => l.2.entry = some p.2.1)
        let h := if !p.2.2.1.good then h.endEntry p.1 p.2.1 p.2.2.1
          else if o.srcs.any (fun s => named s && x.unfit s) then h.endEntry p.1 p.2.1 .badDescriptor
          else h.endIfLanded p.1 p.2.1
        h.tryClose p.1) { h with landed := [] }

end Sys2Proof.Machine
end

