-- ==== Sys2Proof/Machine/Keeper.lean ====
section
/-! DEFINITION. Keeper buffer pools (08_keeper_pools.md). -/

namespace Sys2Proof.Machine

/-- A Keeper command (R225). -/
structure KprD where
  op : Nat
  part : Nat
  nown : Nat
  seq : Nat
  a : Nat
  b : Nat
  c : Nat
  d : Nat
  owners : List Nat
  classes : Nat
  sizes : List Nat
  bit11 : Nat
  hi16 : Nat
  w24 : Nat
  w28 : Nat
  w38 : Nat
  deriving DecidableEq, Repr

/-- Fields of a Keeper command (R225). -/
def KprD.of (d : Desc) : KprD :=
  { op := d.fld 0 7 0, part := d.fld 0 10 8, bit11 := d.fld 0 11 11, nown := d.fld 0 15 12, hi16 := d.fld 0 31 16
    seq := d.fld 4 31 0, a := d.fld 8 63 0, b := d.fld 0x10 63 0, c := d.fld 0x18 63 0, d := d.fld 0x20 31 0
    owners := (upto 8).map (fun i => d.fld (0x20 + 4 * i) 31 0), classes := d.fld 0x24 3 0
    sizes := (upto 8).map (fun j => 256 * d.fld (0x28 + 2 * j) 15 0)
    w24 := d.fld 0x24 31 0, w28 := d.fld 0x28 127 0, w38 := d.fld 0x38 63 0 }

/-- The class sizes of R220. -/
def classSize (s : Nat) : Bool :=
  [256, 1024, 4096, 16384, 65536, 262144, 1048576, 4194304].contains s

/-- Buffers of each class (R222). -/
def classCounts (budget groups : Nat) (sizes : List Nat) : List Nat :=
  sizes.zipIdx.map (fun x =>
    let below := if x.2 = 0 then 0 else sizes.getD (x.2 - 1) 0
    if x.2 + 1 < sizes.length then Nat.min groups (budget / (below + 1))
    else Nat.min (budget / (below + 1)) (budget / orElse x.1 1 + groups))

/-- Offset of a class's slab in its region: slabs lie in descending size (R223). -/
def slabOffset (sizes counts : List Nat) (j : Nat) : Nat :=
  (((sizes.zip counts).drop (j + 1)).map (fun x => x.1 * x.2)).sum

/-- Bytes of all slabs (R223). -/
def slabSum (sizes counts : List Nat) : Nat := ((sizes.zip counts).map (fun x => x.1 * x.2)).sum

/-- A Keeper, by its M-die. -/
def Hw.keeper (h : Hw) (die : Nat) : Keeper := SMap.get h.keepers {} die
def Hw.setKeeper (h : Hw) (die : Nat) (k : Keeper) : Hw := { h with keepers := SMap.put h.keepers die k }

/-- The smallest class that holds `n` bytes (R228). -/
def classFor (sizes : List Nat) (n : Nat) : Nat := (sizes.findIdx? (fun s => n ≤ s)).getD 0

/-- The classes of a chain for LENGTH bytes, in the group's byte order (R228). -/
def chainClasses (sizes : List Nat) (n : Nat) : List Nat :=
  let top := sizes.length - 1
  let st := orElse (sizes.getD top 1) 1
  if n = 0 then []
  else if n ≤ st then [classFor sizes n]
  else rep (n / st) top ++ (if n % st = 0 then [] else [classFor sizes (n % st)])

/-- Key of a buffer in its reservation. -/
def bufKey (cls index : Nat) : Nat := cls * 2 ^ 32 + index

/-- The free buffer of lowest index in a class, `taken` being indices in ascending order. -/
def lowestFree (taken : List Nat) : Nat := taken.foldl (fun i t => if t = i then i + 1 else i) 0

/-- Indices of a class's buffers that are out, ascending. -/
def Resv.taken (r : Resv) (cls : Nat) : List Nat :=
  (r.bufs.filter (fun b => b.1 / 2 ^ 32 = cls)).map (fun b => b.1 % 2 ^ 32)

/-- Live bytes of a reservation (R221). -/
def Resv.liveBytes (r : Resv) : Nat := (r.live.map (fun g => g.2.1)).sum

/-- Reflect the live totals in the registers (KPR_PART_p, KPR_LIVE_p). -/
def Hw.kprShow (h : Hw) (die part : Nat) : Hw :=
  let b := rkey die 0 0
  match SMap.find? (h.keeper die).resv part with
  | some r =>
    let h := h.wf Reg.kprPartReserved b part 1
    let h := h.wf Reg.kprPartLiveGroups b part r.live.length
    h.wf Reg.kprLiveLiveBytes b part r.liveBytes
  | none => (h.setReg Reg.kprPart b part 0).setReg Reg.kprLive b part 0

/-- Replace a reservation. -/
def Hw.setResv (h : Hw) (die part : Nat) (r : Resv) : Hw :=
  let k := h.keeper die
  (h.setKeeper die { k with resv := SMap.put k.resv part r }).kprShow die part

/-- The coordinate of a command's requester (R225). -/
def Hw.requester (h : Hw) (o : Origin) : Nat :=
  match o with
  | .ring _ _ _ _ _ => h.coord 28 11
  | .kpost die unit _ _ => h.coord die unit
  | .post die _ _ => h.coord die 4
  | .land _ _ => h.coord 24 8
  | _ => h.coord 28 8

/-- A command posted by a control processor names another partition than its own: it is REFUSED at its decode (R416), before
any cause of a higher code (R483). -/
def Hw.kpostForeign (h : Hw) (o : Origin) (part : Nat) : Bool :=
  match o with
  | .kpost die _ _ _ => h.partOf die ≠ some part
  | _ => false

/-- A command that names a partition which is not LOADED, unless a LOAD issues it (R448, R450). -/
def Hw.partDown (h : Hw) (o : Origin) (part : Nat) : Bool :=
  match o with
  | .load _ _ => false
  | _ => !(h.loaded part)

/-- A Keeper command completes. -/
def Hw.kprDone (h : Hw) (die : Nat) (j : Job) (s : Status) : Hw := h.finishJob die 0 j ⟨s, 0, 0⟩

/-- A served ALLOC completes; the exchange learns the group it was given. -/
def Hw.kprServed (h : Hw) (die : Nat) (j : Job) (group : Nat) : Hw :=
  h.finishJob die 0 j ⟨.ok, match j.origin with | .land _ _ => group | _ => 0, 0⟩

/-! RESERVE and UNRESERVE. -/

/-- The format checks of a RESERVE (R226). -/
def KprD.reserveOk (c : KprD) : Bool :=
  let used := c.sizes.take c.classes
  c.bit11 = 0 && c.nown = 0 && c.hi16 = 0 && c.seq = 0 && c.w24 / 16 = 0 && c.w38 = 0
    && 1 ≤ c.classes && c.classes ≤ 8 && used.all classSize && strictAsc used
    && (c.sizes.drop c.classes).all (fun s => s = 0) && c.d ≠ 0 && c.a % 2 ^ 21 = 0 && c.a < 2 ^ 48

/-- A region lies in one row: device memory below PKG_MEM_TOP, or the window of an enabled C-die of the partition
(R224). -/
def Hw.regionOk (h : Hw) (e : Env) (part base size : Nat) : Bool :=
  match spDie base with
  | some d => base + size ≤ spWin d + 0x10000000 && e.cdie d
      && (h.partOf d = some part || h.partJobs.any (fun j => j.isLoad && j.part = part && bit j.dies d))
  | none => base + size ≤ h.rf Reg.pkgMemTopTop pkgB * 2 ^ 21

/-- Regions reserved at any Keeper (R227, R368). -/
def Hw.regions (h : Hw) : List (Nat × Nat) :=
  h.keepers.flatMap (fun k => k.2.resv.map (fun r => (r.2.base, r.2.size)))

/-- RESERVE (R222, R223, R227). -/
def Hw.kprReserve (h : Hw) (e : Env) (die : Nat) (j : Job) (c : KprD) : Hw :=
  if h.kpostForeign j.origin c.part then h.kprDone die j .refused
  else if !c.reserveOk then h.kprDone die j .badDescriptor
  else if h.partDown j.origin c.part then h.kprDone die j .partitionDown
  else
    let k := h.keeper die
    let sizes := c.sizes.take c.classes
    let counts := classCounts c.c c.d sizes
    let total := counts.sum + ((k.resv.map (fun r => r.2.counts.sum)).sum)
    if (SMap.find? k.resv c.part).isSome || c.b < slabSum sizes counts || !(h.regionOk e c.part c.a c.b)
      || h.regions.any (fun r => extOverlap c.a c.b r.1 r.2) || 33554432 < total
    then h.kprDone die j .reserveRefused
    else
      let r : Resv := { base := c.a, size := c.b, budget := c.c, groups := c.d, sizes := sizes, counts := counts }
      (h.setResv die c.part r).kprDone die j .ok

/-- Held ALLOCs of a partition complete with ABORTED (R236, R451). -/
def Hw.dropHeld (h : Hw) (die part : Nat) : Hw :=
  let k := h.keeper die
  (k.held.filter (fun j => j.body.fld 0 10 8 = part)).foldl (fun h j => h.kprDone die j .aborted)
    (h.setKeeper die { k with held := k.held.filter (fun j => j.body.fld 0 10 8 ≠ part) })

/-- UNRESERVE (R227, R236): held ALLOCs of the partition complete with ABORTED. -/
def Hw.kprUnreserve (h : Hw) (die part : Nat) : Hw :=
  let k := h.keeper die
  ((h.setKeeper die { k with resv := SMap.del k.resv part }).kprShow die part).dropHeld die part

/-- UNRESERVE uses only OP and PART (R225). -/
def KprD.bare (c : KprD) : Bool :=
  c.bit11 = 0 && c.nown = 0 && c.hi16 = 0 && c.seq = 0 && c.a = 0 && c.b = 0 && c.c = 0 && c.d = 0 && c.w24 = 0
    && c.w28 = 0 && c.w38 = 0

/-! ALLOC. -/

/-- The format checks of an ALLOC that need no reservation (R226). -/
def KprD.allocOk (c : KprD) (h : Hw) (e : Env) : Bool :=
  let os := c.owners.take c.nown
  c.bit11 = 0 && c.hi16 = 0 && 1 ≤ c.nown && c.nown ≤ 8
    && os.all (fun o => bits o 31 24 = 0 && e.coordOk h.node o) && noDup os
    && (c.owners.drop c.nown).all (fun o => o = 0) && c.c < 2 ^ 32

/-- Take a chain: each class's lowest free buffers, with their new generations (R228, R232). -/
def takeChain (part group : Nat) (owners : List Nat) (classes : List Nat) (r : Resv) (gens : SMap Nat) :
    List (Nat × Nat) × Resv × SMap Nat :=
  classes.foldl (fun (a : List (Nat × Nat) × Resv × SMap Nat) cls =>
    let (l, r, gens) := a
    let i := lowestFree (r.taken cls)
    let gk := part * 2 ^ 35 + bufKey cls i
    let g := (SMap.get gens 0 gk + 1) % 2 ^ 16
    let b : KBuf := { gen := g, owners := owners, shares := owners.map (fun _ => true), group := group }
    (l ++ [(cls, i)], { r with bufs := SMap.put r.bufs (bufKey cls i) b }, SMap.put gens gk g)) ([], r, gens)

/-- A handle (R232). -/
def handleOf (gen part cls keeper index : Nat) : Nat :=
  gen * 2 ^ 48 + part * 2 ^ 37 + cls * 2 ^ 34 + keeper * 2 ^ 32 + index

/-- Address of a buffer: global once the node number is valid (R231). -/
def Hw.bufAddr (h : Hw) (r : Resv) (cls i : Nat) : Nat :=
  let off := r.base + slabOffset r.sizes r.counts cls + i * r.sizes.getD cls 0
  match h.node? with
  | some _ => h.globalAddr off
  | none => off

/-- Bytes of a RESULT (R231). -/
def resultBytes (length : Nat) (l : List (Nat × Nat)) : List Byte :=
  toBytes 4 l.length ++ toBytes 4 0 ++ toBytes 8 length ++ l.flatMap (fun x => toBytes 8 x.1 ++ toBytes 8 x.2)

/-- Return every buffer of a group (R231). -/
def Hw.dropGroup (h : Hw) (die part group : Nat) : Hw :=
  match SMap.find? (h.keeper die).resv part with
  | none => h
  | some r => h.setResv die part { r with
      bufs := r.bufs.filter (fun b => b.2.group ≠ group), live := SMap.del r.live group }

/-- The RESULT of an ALLOC lies in a window that a clear holds (R133). -/
def Hw.resultHeld (h : Hw) (e : Env) (b n : Nat) : Bool :=
  match h.resolveMem e true b n with
  | .ok (.here off) => h.clearing off n
  | _ => false

/-- Write the RESULT of a served ALLOC; a failing write returns the chain (R231). -/
def Hw.writeResult (h : Hw) (e : Env) (die : Nat) (j : Job) (c : KprD) (group : Nat) (bs : List Byte) : Hw :=
  match h.resolveMem e true c.b bs.length with
  | .ok (.here off) =>
    match runOp (storeB off bs) h with
    | (.ok _, h) => h.kprServed die j group
    | (.error f, h) =>
      let (d, h) := h.failDone j.origin.opid (some c.part) (h.coord die 0) f
      (h.dropGroup die c.part group).finishJob die 0 j d
  | .ok (.there node off) =>
    match h.askWrite (.job die 0 j.tag) (h.coord die 0) (some c.part) node off bs with
    | .ok h =>
      let k := h.keeper die
      let h := h.setQueue die 0 ((h.queue die 0).filter (fun q => q.tag ≠ j.tag))
      h.setKeeper die { k with writing := k.writing ++ [(j, c.part, group)] }
    | .error s => ((h.inc Reg.rgnStatusDeniedTx pkgB 0 1).dropGroup die c.part group).kprDone die j s
  | .ok (.regs _) => (h.dropGroup die c.part group).kprDone die j .destUnreachable
  | .error s => (h.dropGroup die c.part group).kprDone die j s

/-- A command touches the state of classes (R236): it goes on where they are sound. The first that fails its check is
marked failed and recorded (R521 to R523), and the command completes with ECC_UNCORRECTED; so does one that touches a
class already failed, which reads nothing and records nothing (DETAIL 0: DESIGN CHOICE, log entry 122). -/
def Hw.onClasses (h : Hw) (die : Nat) (j : Job) (part : Nat) (classes : List Nat) (go : Hw → Hw) : Hw :=
  let b := rkey die 0 0
  let failed := h.rf Reg.kprPartFailed b part
  if classes.any (fun x => bit failed x) then h.kprDone die j .eccUncorrected
  else match classes.find? (fun x => h.badSites.contains (.keeper die part x)) with
    | none => go h
    | some x =>
      let seq := h.io.evSeq
      let h := { h with badSites := h.badSites.filter (fun s => s ≠ Site.keeper die part x) }
      let h := h.wf Reg.kprPartFailed b part (setBits failed x x 1)
      let h := h.error 1 5 Status.eccUncorrected.code j.origin.opid (h.globalAddr (0xF00000000000 + b)) (some part)
        (h.coord die 0)
      h.finishJob die 0 j ⟨.eccUncorrected, seq, 0⟩

/-- Serve an ALLOC: within the declaration it is served at once (R228, R230, R231). -/
def Hw.serveAlloc (h : Hw) (e : Env) (die : Nat) (j : Job) (c : KprD) : Hw :=
  let k := h.keeper die
  let b := rkey die 0 0
  let refuse (h : Hw) : Hw := (h.incSat Reg.kprCountOver b c.part 1).kprDone die j .reserveRefused
  match SMap.find? k.resv c.part with
  | none => refuse h
  | some r =>
    let classes := chainClasses r.sizes c.a
    h.onClasses die j c.part classes fun h =>
    if r.budget < r.liveBytes + c.a || (c.a ≠ 0 && r.groups < r.live.length + 1) then refuse h
    else
      let g := r.nextGroup
      let (chain, r', gens) := takeChain c.part g (c.owners.take c.nown) classes r k.gens
      let r' := { r' with
        live := if c.a = 0 then r'.live else SMap.put r'.live g (c.a, chain.length), nextGroup := g + 1 }
      let recs := chain.map (fun x =>
        (h.bufAddr r x.1 x.2, handleOf (SMap.get gens 0 (c.part * 2 ^ 35 + bufKey x.1 x.2)) c.part x.1 (die - 28) x.2))
      let h := (h.setKeeper die { k with gens := gens }).setResv die c.part r'
      let h := h.inc Reg.kprCountAllocs b c.part 1
      h.writeResult e die j c g (resultBytes c.a recs)

/-- MAXBUF covers the chain, and the RESULT's address is well formed (R15, R38, R40, R226). -/
def Hw.allocRoom (h : Hw) (e : Env) (die : Nat) (c : KprD) : Bool :=
  let n := match SMap.find? (h.keeper die).resv c.part with
    | some r => (chainClasses r.sizes c.a).length
    | none => 0
  n ≤ c.c && (match h.resolveMem e true c.b (16 + 16 * n) with | .error .badDescriptor => false | _ => true)

/-- The RESULT of an ALLOC, as long as its chain makes it, lies in a window that a clear holds: the ALLOC waits (R133). -/
def Hw.allocHeld (h : Hw) (e : Env) (die : Nat) (c : KprD) : Bool :=
  match SMap.find? (h.keeper die).resv c.part with
  | some r => h.resultHeld e c.b (16 + 16 * (chainClasses r.sizes c.a).length)
  | none => false

/-- NEXT of a partition (R229). -/
def Keeper.nextOf (k : Keeper) (part : Nat) : Nat := SMap.get k.next 0 part

/-- Serve held ALLOCs in SEQ order for as long as one has its turn (R229). MAXBUF is judged again, since a RESERVE may have
come meanwhile (R226); an ALLOC with BAD_DESCRIPTOR does not advance NEXT (DEDUCED, log entry 123). -/
def Hw.serveHeld (h : Hw) (e : Env) (die part : Nat) : Nat → Hw
  | 0 => h
  | n + 1 =>
    let k := h.keeper die
    match k.held.find? (fun j => j.body.fld 0 10 8 = part && j.body.fld 4 31 0 = k.nextOf part) with
    | none => h
    | some j =>
      let c := KprD.of j.body
      let held := k.held.filter (fun q => q.tag ≠ j.tag)
      if h.allocHeld e die c then h
      else if !(h.allocRoom e die c) then (h.setKeeper die { k with held := held }).kprDone die j .badDescriptor
      else
        let h := h.setKeeper die { k with held := held, next := SMap.put k.next part (k.nextOf part + 1) }
        Hw.serveHeld (h.serveAlloc e die j c) e die part n

/-- Held ALLOCs whose turn came while a clear held their RESULT are served once it has ended (R133, R229). -/
def Hw.retryHeld (h : Hw) (e : Env) (die : Nat) : Hw :=
  (upto 8).foldl (fun h p => h.serveHeld e die p ((h.keeper die).held.length + 1)) h

/-- ALLOC (R226, R228 to R231). -/
def Hw.kprAlloc (h : Hw) (e : Env) (die : Nat) (j : Job) (c : KprD) : Hw :=
  if h.kpostForeign j.origin c.part then h.kprDone die j .refused
  else if !(c.allocOk h e) || !(h.allocRoom e die c) then h.kprDone die j .badDescriptor
  else if h.partDown j.origin c.part then h.kprDone die j .partitionDown
  else if (!e.tl.det || c.seq = (h.keeper die).nextOf c.part) && h.allocHeld e die c then h
  else if !e.tl.det then h.serveAlloc e die j c
  else
    let k := h.keeper die
    let nx := k.nextOf c.part
    if c.seq < nx || k.held.any (fun q => q.body.fld 0 10 8 = c.part && q.body.fld 4 31 0 = c.seq) then
      h.kprDone die j .badDescriptor
    else if nx < c.seq then
      let h := h.setQueue die 0 ((h.queue die 0).filter (fun q => q.tag ≠ j.tag))
      h.setKeeper die { k with held := k.held ++ [{ j with since := h.now }] }
    else
      let h := h.setKeeper die { k with next := SMap.put k.next c.part (nx + 1) }
      (h.serveAlloc e die j c).serveHeld e die c.part (k.held.length + 1)

/-- A served ALLOC whose RESULT went to another node completes once it is answered (R231). -/
def Hw.settleKeeper (h : Hw) (die : Nat) : Hw :=
  (h.keeper die).writing.foldl (fun h x =>
    let o : Owner := .job die 0 x.1.tag
    if !(h.answered o) then h
    else
      let bad := firstFail (h.reqsOf o)
      let k := h.keeper die
      let h := { h with reqs := h.reqs.filter (fun r => r.owner ≠ o) }
      let h := h.setKeeper die { k with writing := k.writing.filter (fun y => y.1.tag ≠ x.1.tag) }
      match bad with
      | none => h.kprServed die x.1 x.2.2
      | some s => (h.dropGroup die x.2.1 x.2.2).kprDone die x.1 s) h

/-! RELEASE and FREE. -/

/-- A buffer goes back to its class; its group ends with its last buffer (R233). -/
def Resv.giveBack (r : Resv) (key : Nat) (b : KBuf) : Resv :=
  let (len, out) := SMap.get r.live (0, 1) b.group
  { r with
    bufs := SMap.del r.bufs key
    live := if out ≤ 1 then SMap.del r.live b.group else SMap.put r.live b.group (len, out - 1) }

/-- The buffer that a handle names, if the handle is not stale (R232). -/
def Hw.buffer (h : Hw) (die handle : Nat) : Option (Nat × Nat × Resv × KBuf) :=
  if bits handle 47 40 ≠ 0 || bits handle 33 32 ≠ die - 28 then none
  else
    let part := bits handle 39 37
    let key := bufKey (bits handle 36 34) (bits handle 31 0)
    match SMap.find? (h.keeper die).resv part with
    | none => none
    | some r => match SMap.find? r.bufs key with
      | some b => if b.gen = bits handle 63 48 then some (part, key, r, b) else none
      | none => none

/-- The class whose state a RELEASE or FREE touches: the one its handle names in its partition's reservation (R232,
R236). -/
def Hw.handleClass (h : Hw) (die : Nat) (c : KprD) : List Nat :=
  match SMap.find? (h.keeper die).resv c.part with
  | some r => if bits c.a 39 37 = c.part && bits c.a 33 32 = die - 28 && bits c.a 47 40 = 0
      && bits c.a 36 34 < r.sizes.length && bits c.a 31 0 < r.counts.getD (bits c.a 36 34) 0 then [bits c.a 36 34] else []
  | none => []

/-- RELEASE and FREE (R233 to R235); `free` tells which. -/
def Hw.kprShare (h : Hw) (e : Env) (die : Nat) (j : Job) (c : KprD) (free : Bool) : Hw :=
  let bare := { c with part := 0, a := 0 }
  if h.kpostForeign j.origin c.part then h.kprDone die j .refused
  else if !bare.bare then h.kprDone die j .badDescriptor
  else if h.partDown j.origin c.part then h.kprDone die j .partitionDown
  else
    let b := rkey die 0 0
    let deny (h : Hw) : Hw := (h.incSat Reg.kprCountDenied b c.part 1).kprDone die j .notOwner
    h.onClasses die j c.part (h.handleClass die c) fun h =>
    match h.buffer die c.a with
    | none => deny h
    | some (part, key, r, buf) =>
      if part ≠ c.part then deny h
      else
        let who := h.requester j.origin
        let i := buf.owners.findIdx (fun o => o = who)
        let holds := buf.shares.getD i false
        let last := i + 1 = buf.owners.length
        if !holds || (free && (!last || buf.marked)) then deny h
        else
          let buf := { buf with shares := listSet buf.shares i false, marked := buf.marked || free }
          let goes := buf.marked && !(buf.shares.any id)
          let r := if goes && !e.tl.det then r.giveBack key buf
            else { r with bufs := SMap.put r.bufs key { buf with returning := goes } }
          (h.setResv die part r).kprDone die j .ok

/-- A beat boundary of a partition at a Keeper: returned buffers go back, held ALLOCs time out, and NEXT is 0
(R229, R234). -/
def Hw.kprBeat (h : Hw) (die part : Nat) : Hw :=
  let k := h.keeper die
  let h := match SMap.find? k.resv part with
    | some r => h.setResv die part ((r.bufs.filter (fun (b : Nat × KBuf) => b.2.returning)).foldl (fun (r : Resv) (b : Nat × KBuf) => r.giveBack b.1 b.2) r)
    | none => h
  let k := h.keeper die
  let gone := k.held.filter (fun j => j.body.fld 0 10 8 = part)
  let h := h.setKeeper die { k with
    held := k.held.filter (fun j => j.body.fld 0 10 8 ≠ part), next := SMap.put k.next part 0 }
  (gone.foldl (fun h j => h.kprDone die j .timeout) h).settleLandings

/-- The command at the head of a Keeper's queue, when its operation is `op` (R235). -/
def kprOp (op die : Nat) (f : Env → Hw → Job → KprD → Hw) (e : Env) (h : Hw) : Hw :=
  if 28 ≤ die && die < 32 then
    match h.queue die 0 with
    | j :: _ => if j.body.fld 0 7 0 = op then f e h j (KprD.of j.body) else h
    | [] => h
  else h

/-- RESERVE; a reserved operation code is decoded here and fails (R15). -/
def reserve (die : Nat) (e : Env) (h : Hw) : Hw :=
  match h.queue die 0 with
  | j :: _ =>
    let c := KprD.of j.body
    if 28 ≤ die && die < 32 && (c.op = 0 || 5 < c.op) then h.kprDone die j .badDescriptor
    else kprOp 1 die (fun e h j c => h.kprReserve e die j c) e h
  | [] => h

/-- UNRESERVE (R227). -/
def unreserve (die : Nat) (e : Env) (h : Hw) : Hw :=
  kprOp 2 die (fun _ h j c =>
    if h.kpostForeign j.origin c.part then h.kprDone die j .refused
    else if !({ c with part := 0 } : KprD).bare then h.kprDone die j .badDescriptor
    else if h.partDown j.origin c.part then h.kprDone die j .partitionDown
    else (h.kprUnreserve die c.part).kprDone die j .ok) e h

/-- ALLOC_SEQ_TIMEOUT (R229): of the ALLOCs held for their turn, the one held longest. -/
def allocSeqTimeout (die : Nat) (_ : Env) (h : Hw) : Hw :=
  let k := h.keeper die
  let t := h.rf Reg.kprCtrlSeqTimeout (rkey die 0 0)
  match k.held.find? (fun j => k.nextOf (j.body.fld 0 10 8) < j.body.fld 4 31 0) with
  | some j =>
    if t = 0 || die < 28 || 32 ≤ die then h
    else ((h.reach (j.since + t * 1000)).setKeeper die { k with
      held := k.held.filter (fun q => q.tag ≠ j.tag) }).kprDone die j .timeout
  | none => h

/-- KPR_CTRL.ABORT (R236). -/
def kprAbort (die : Nat) (_ : Env) (h : Hw) : Hw :=
  let k := h.keeper die
  if 28 ≤ die && die < 32 then
    k.held.foldl (fun h j => h.kprDone die j .aborted) (h.setKeeper die { k with held := [] })
  else h

/-- UNRESERVE (R227). -/
def execUnreserve (die : Nat) (s : State) : Host.Outcome State Fault Refusal := onHw (fun e h => (unreserve die e h).settleLandings) s

/-- ALLOC (R228): first the held ones that a clear kept waiting. -/
def execAlloc (die : Nat) (s : State) : Host.Outcome State Fault Refusal :=
  onHw (fun e h => (kprOp 3 die (fun e h j c => h.kprAlloc e die j c) e (h.retryHeld e die)).settleLandings) s

/-- KEEPER_RELEASE (R233). -/
def execKeeperRelease (die : Nat) (s : State) : Host.Outcome State Fault Refusal :=
  onHw (kprOp 4 die (fun e h j c => h.kprShare e die j c false)) s

/-- FREE (R233). -/
def execFree (die : Nat) (s : State) : Host.Outcome State Fault Refusal :=
  onHw (kprOp 5 die (fun e h j c => h.kprShare e die j c true)) s

/-- ALLOC_SEQ_TIMEOUT (R229). -/
def execAllocSeqTimeout (die : Nat) (s : State) : Host.Outcome State Fault Refusal := onHw (fun e h => (allocSeqTimeout die e h).settleLandings) s

/-- KPR_CTRL_ABORT (R236). -/
def execKprCtrlAbort (die : Nat) (s : State) : Host.Outcome State Fault Refusal := onHw (fun e h => (kprAbort die e h).settleLandings) s

end Sys2Proof.Machine
end

