-- ==== Sys2Proof/Machine/Dies.lean ====
section
/-! DEFINITION. The floorplan, the die links and the fixed routes between dies (R17, R18, R20, R21). -/

namespace Sys2Proof.Machine

/-- Row and column of a C-die (R17). -/
def dieRow (n : Nat) : Nat := n / 6
def dieCol (n : Nat) : Nat := n % 6

/-- Edges of the package (R17). -/
inductive Side where
  | north | east | south | west
  deriving DecidableEq, Repr

/-- The edge at which an edge die sits, and the rows or columns of the C-die grid that it spans (R17). -/
def edgePlace : Nat → Option (Side × List Nat)
  | 24 => some (.west, [0, 1])
  | 25 => some (.west, [2, 3])
  | 26 => some (.east, [0, 1])
  | 27 => some (.east, [2, 3])
  | 28 => some (.north, [0, 1, 2])
  | 29 => some (.north, [3, 4, 5])
  | 30 => some (.south, [0, 1, 2])
  | 31 => some (.south, [3, 4, 5])
  | _ => none

/-- The C-dies an edge die attaches to: those of the outermost column or row beside it (R18). -/
def attached (die : Nat) : List Nat :=
  match edgePlace die with
  | some (.west, l) => l.map (fun r => 6 * r)
  | some (.east, l) => l.map (fun r => 6 * r + 5)
  | some (.north, l) => l
  | some (.south, l) => l.map (fun c => 18 + c)
  | none => []

/-- HBM4 stacks and DDR5 channels that an edge die serves (R18). -/
def edgeStacks (die : Nat) : List Nat := if 28 ≤ die && die < 32 then [2 * (die - 28), 2 * (die - 28) + 1] else []
def edgeChannels (die : Nat) : List Nat := if 28 ≤ die && die < 32 then (upto 4).map (fun i => 4 * (die - 28) + i) else []

/-- The edge ring in clockwise order (R20). -/
def edgeRing : List Nat := [28, 29, 26, 27, 31, 30, 25, 24]

/-- A die link: the dies it joins and its modules (R20). -/
structure DieLink where
  a : Nat
  b : Nat
  modules : Nat
  deriving DecidableEq, Repr

/-- The 66 die links (R20): along rows, along columns, to edge dies, and around the ring. -/
def dieLinks : List DieLink :=
  ((upto 24).filter (fun n => dieCol n < 5)).map (fun n => ⟨n, n + 1, 1⟩)
    ++ (upto 18).map (fun n => ⟨n, n + 6, 1⟩)
    ++ ((upto 8).flatMap (fun i => (attached (24 + i)).map (fun c => ⟨24 + i, c, 1⟩)))
    ++ (upto 8).map (fun i => ⟨edgeRing.getD i 0, edgeRing.getD ((i + 1) % 8) 0, 4⟩)

/-- The far die of a link that ends at a die. -/
def DieLink.far (l : DieLink) (die : Nat) : Option Nat :=
  if l.a = die then some l.b else if l.b = die then some l.a else none

/-- Place of an edge die on the ring. -/
def ringPos (die : Nat) : Nat := edgeRing.findIdx (fun d => d = die)

/-- The die that a module of a die leads to (R20): a C-die's modules 0 to 3 lead north, east, south and west; an edge
die's, in a numbering of the model's own (log entry 101), lead to its attached C-dies in ascending order, then four
clockwise and four counter-clockwise around the ring. -/
def moduleEnd (die module : Nat) : Option Nat :=
  if die < 24 then
    let edge (s : Side) (i : Nat) : Option Nat :=
      ((upto 8).map (fun k => 24 + k)).find? (fun d => (edgePlace d).any (fun x => x.1 = s && x.2.contains i))
    match module with
    | 0 => if dieRow die = 0 then edge .north (dieCol die) else some (die - 6)
    | 1 => if dieCol die = 5 then edge .east (dieRow die) else some (die + 1)
    | 2 => if dieRow die = 3 then edge .south (dieCol die) else some (die + 6)
    | 3 => if dieCol die = 0 then edge .west (dieRow die) else some (die - 1)
    | _ => none
  else if die < 32 then
    let l := attached die
    let p := ringPos die
    if module < l.length then l[module]?
    else if module < l.length + 4 then some (edgeRing.getD ((p + 1) % 8) 0)
    else if module < l.length + 8 then some (edgeRing.getD ((p + 7) % 8) 0)
    else none
  else none

/-- A die has a module (R20). -/
def linkModule (die module : Nat) : Bool := (moduleEnd die module).isSome


/-- The dies passed from C-die `a` to C-die `b`, without `a`: along the row of `a` to the column of `b`, then along that
column (R21). -/
def rowThenCol (a b : Nat) : List Nat :=
  let row := (upto (Nat.max (dieCol a) (dieCol b) - Nat.min (dieCol a) (dieCol b))).map (fun i =>
    6 * dieRow a + (if dieCol a < dieCol b then dieCol a + 1 + i else dieCol a - 1 - i))
  let col := (upto (Nat.max (dieRow a) (dieRow b) - Nat.min (dieRow a) (dieRow b))).map (fun i =>
    6 * (if dieRow a < dieRow b then dieRow a + 1 + i else dieRow a - 1 - i) + dieCol b)
  row ++ col

/-- Distance of two numbers. -/
def apartBy (a b : Nat) : Nat := Nat.max a b - Nat.min a b

/-- The attached C-die through which traffic between an edge die and C-die `c` passes (R21): of an F-die the one of the
nearest row, of an M-die the one of the nearest column. -/
def dieEntry (edge c : Nat) : Nat :=
  let dist (x : Nat) : Nat := if edge < 28 then apartBy (dieRow x) (dieRow c) else apartBy (dieCol x) (dieCol c)
  let l := attached edge
  l.foldl (fun best x => if dist x < dist best then x else best) (l.headD 0)

/-- The dies passed from one edge die to another around the ring, the shorter way (R21). -/
def ringRoute (src dst : Nat) : List Nat :=
  let cw := (ringPos dst + 8 - ringPos src) % 8
  let goCw := cw < 4 || (cw = 4 && src % 2 = 0)
  if goCw then (upto cw).map (fun i => edgeRing.getD ((ringPos src + 1 + i) % 8) 0)
  else (upto (8 - cw)).map (fun i => edgeRing.getD ((ringPos src + 7 - i) % 8) 0)

/-- The fixed route between two dies (R21): the dies it passes after `src`, `dst` last. -/
def dieRoute (src dst : Nat) : List Nat :=
  if src = dst then []
  else if 24 ≤ src && 24 ≤ dst then ringRoute src dst
  else if 24 ≤ src then
    let e := dieEntry src dst
    e :: rowThenCol e dst
  else if 24 ≤ dst then
    let e := dieEntry dst src
    rowThenCol src e ++ [dst]
  else rowThenCol src dst

/-- The links of a route, each as the dies it joins. -/
def routeLinks (src : Nat) : List Nat → List (Nat × Nat)
  | [] => []
  | d :: l => (src, d) :: routeLinks d l

end Sys2Proof.Machine
end

