-- ==== Sys2Proof/Machine/Transport.lean ====
section
/-! DEFINITION. The transport engines (09_fabric_transport.md without the exchange): paths, flows at their source and
destination owners, acknowledgement, resend and ageing, and partition tags. -/

namespace Sys2Proof.Machine

/-! Geometry (R238, R240). -/

/-- Group and member of a node. -/
def groupOf (node : Nat) : Nat := node / 32
def memberOf (node : Nat) : Nat := node % 32

/-- The package port of a local slot and of a global slot. -/
def localSlotPort (l : Nat) : Nat := 12 * (l / 8) + l % 8
def globalSlotPort (g : Nat) : Nat := 12 * (g / 4) + 8 + g % 4

/-- A field of a package port's registers. -/
def Hw.pf (h : Hw) (f : FieldRef) (p : Nat) : Nat := h.rf f (xptB (24 + p / 12)) (p % 12)
def Hw.setPf (h : Hw) (f : FieldRef) (p v : Nat) : Hw := h.wf f (xptB (24 + p / 12)) (p % 12) v

/-- The far end of a port, as its control blocks told it. -/
def Hw.farNode (h : Hw) (p : Nat) : Option Nat :=
  if h.pf Reg.xptPortNbValid p = 1 then some (h.pf Reg.xptPortNbNode p) else none

/-- The port that XPT_SPARE names (R240). -/
def Hw.spareNamed (h : Hw) : Option Nat :=
  let v := h.rf Reg.xptSpareFor (xptB 27)
  if v < 48 && v ≠ 43 then some v else none

/-- The far end of a local slot is the member that R238 names. -/
def localEnd (own far slot : Nat) : Bool :=
  groupOf far = groupOf own && memberOf far = (memberOf own + 1 + slot) % 32

/-- The spare is cabled to the far end of a port, as far as the two far ends are known (R240). -/
def Hw.spareFits (h : Hw) (v : Nat) : Bool :=
  match h.node?, h.farNode 43 with
  | some own, some far =>
    if v % 12 < 8 then localEnd own far (8 * (v / 12) + v % 12)
    else (match h.farNode v with | some n => n = far | none => true)
  | _, _ => true

/-- The port the spare stands in for: the one that XPT_SPARE names, where the spare is cabled to its far end (R240). -/
def Hw.spareFor (h : Hw) : Option Nat := h.spareNamed.bind (fun v => if h.spareFits v then some v else none)

/-- The port that carries a port's slot (R240). -/
def Hw.standIn (h : Hw) (p : Nat) : Nat := if h.spareFor = some p then 43 else p

/-- The local port of member `m` toward member `k` of its group. -/
def Hw.localPort (h : Hw) (m k : Nat) : Nat := h.standIn (localSlotPort ((k + 32 - m - 1) % 32))

/-- The global port of a slot. -/
def Hw.globalPort (h : Hw) (slot : Nat) : Nat := h.standIn (globalSlotPort slot)

/-- A port's dynamic state. -/
def Hw.port (h : Hw) (p : Nat) : Port := SMap.get h.ports {} p
def Hw.setPort (h : Hw) (p : Nat) (x : Port) : Hw := { h with ports := SMap.put h.ports p x }

/-- States of XPT_PORT_j. -/
def pDown : Nat := 0
def pTraining : Nat := 1
def pLoopback : Nat := 2
def pProbing : Nat := 3
def pUp : Nat := 4

/-- The usable weight of a port: 0 unless it is UP (R255). -/
def Hw.portWeight (h : Hw) (p : Nat) : Nat :=
  if h.pf Reg.xptPortState p = pUp then Nat.min 8 (h.pf Reg.xptPortWeight p) else 0

/-! Ages and tags. -/

/-- Bits 20:5 of the system time counter (R246). -/
def Hw.ageNow (h : Hw) : Nat := bits h.now 20 5

/-- AGE_LIMIT of an F-die, in units of 32 ns. -/
def Hw.ageLimit (h : Hw) (f : Nat) : Nat :=
  Nat.min 32767 (orElse (h.rf Reg.xptCtrlAgeLimit (xptB f)) 1)

/-- A frame is older than an F-die's AGE_LIMIT (R264). -/
def Hw.aged (h : Hw) (f : Nat) (x : Frame) : Bool :=
  h.ageLimit f < (h.ageNow + 2 ^ 16 - Frame.age x) % 2 ^ 16

/-- The tag of a partition, and whether it is valid; a TAG of 0 is not accepted. -/
def Hw.tagOf (h : Hw) (f p : Nat) : Nat := h.rf Reg.xptPtagTag (xptB f) p
def Hw.tagValid (h : Hw) (f p : Nat) : Bool := h.rf Reg.xptPtagValid (xptB f) p = 1 && h.tagOf f p ≠ 0

/-- The partition of this package that a tag names. -/
def Hw.tagPart (h : Hw) (f tag : Nat) : Option Nat :=
  (upto 8).find? (fun p => h.tagValid f p && h.tagOf f p = tag)

/-- A destination unit acts for the partition its tag names, or belongs to none (R265). -/
def Hw.tagOk (h : Hw) (f tag dst : Nat) : Bool :=
  let die := cDie dst
  let unit := cUnit dst
  if tag = 0 then (24 ≤ die && die < 28) || (die = 28 && 8 ≤ unit && unit ≤ 12)
  else match h.tagPart f tag with
    | some p => if die < 24 then h.partOf die = some p else (28 ≤ die && unit < 8) || (die = 28 && unit = 8)
    | none => false

/-- A node is excluded at an F-die (R527). -/
def Hw.excluded (h : Hw) (f node : Nat) : Bool :=
  (upto 64).any (fun i =>
    h.rf Reg.xptExclValid (xptB f) i = 1 &&
      (if h.rf Reg.xptExclGroup (xptB f) i = 1 then h.rf Reg.xptExclNode (xptB f) i / 32 = groupOf node
       else h.rf Reg.xptExclNode (xptB f) i = node))

/-! Paths (R254 to R257). -/

/-- The spray number of a frame (R255). -/
def sprayOf (src dst seq : Nat) : Nat :=
  let key := Nat.xor (bits src 23 4) (cNode dst <<< 11)
  Nat.xor (seq % 2 ^ 32) ((key * 0x85EBCA6B) % 2 ^ 32) * 0x9E3779B1 % 2 ^ 32

/-- The gateways toward a group, in list order: member, slot, usable weight (R254, R255). -/
def Hw.gateways (h : Hw) (f m group : Nat) : List (Nat × Nat × Nat) :=
  let b := xptB f
  let first := h.rf Reg.xptGrpFirst b group
  let last := Nat.min 512 (first + h.rf Reg.xptGrpCount b group)
  (upto (last - first)).map (fun i =>
    let mem := h.rf Reg.xptGwMember b (first + i)
    let slot := h.rf Reg.xptGwSlot b (first + i)
    let w := Nat.min 8 (h.rf Reg.xptGwWeight b (first + i))
    let p := if mem = m then h.globalPort slot else h.localPort m mem
    (mem, slot, w * h.portWeight p))

/-- The entry of a weighted list under a fraction of its total (R255). -/
def weightedPick (l : List (Nat × Nat × Nat)) (u : Nat) : Option (Nat × Nat) :=
  let total := (l.map (fun x => x.2.2)).sum
  let pos := u % 2 ^ 24 * total
  let r := l.foldl (fun (a : Nat × Option (Nat × Nat)) x =>
    let c := a.1 + x.2.2
    (c, if a.2.isNone && pos < c * 2 ^ 24 then some (x.1, x.2.1) else a.2)) (0, none)
  r.2

/-- A path chosen for a frame (R255): NONMIN, GW1 and VIA, and whether its level is the global one. -/
structure Path where
  nonmin : Bool := false
  gwMember : Nat := 0
  gwSlot : Nat := 0
  via : Nat := 0
  far : Bool := false
  deriving DecidableEq, Repr

/-- The share of the non-minimal sets at a level (R256, R257). -/
def Hw.share (h : Hw) (det : Bool) (f : Nat) (far : Bool) (occ : Nat) : Nat :=
  let b := xptB f
  let pick (l g : FieldRef) : Nat := if far then h.rf g b else h.rf l b
  let mn := pick Reg.xptNmLocalMin Reg.xptNmGlobalMin
  if det then pick Reg.xptNmLocalDet Reg.xptNmGlobalDet
  else if (if far then h.satGlobal else h.satLocal) then
    Nat.min (pick Reg.xptNmLocalMax Reg.xptNmGlobalMax)
      (mn + (occ * pick Reg.xptNmLocalSlope Reg.xptNmGlobalSlope) >>> 4)
  else mn

/-- The path of a frame from this package, or none when both sets are empty (R255). -/
def Hw.path (h : Hw) (det : Bool) (f src dst seq occ : Nat) : Option Path :=
  let own := h.node
  let node := cNode dst
  if node = own then some {}
  else
    let g := groupOf own
    let m := memberOf own
    let u := sprayOf src dst seq
    let far := groupOf node ≠ g
    let nm := u >>> 24 < h.share det f far occ
    if !far then
      let k := memberOf node
      let direct := 0 < h.portWeight (h.localPort m k)
      let c := (upto 32).filter (fun i => i ≠ m && i ≠ k && 0 < h.portWeight (h.localPort m i))
      let detour : Path := { nonmin := true, gwMember := c.getD (u % 2 ^ 24 % orElse c.length 1) 0 }
      if direct && !(nm && !c.isEmpty) then some {}
      else if !c.isEmpty then some detour
      else none
    else
      let set := (h.gateways f m (groupOf node)).filter (fun x => 0 < x.2.2)
      let minimal : Option Path :=
        (weightedPick set u).map (fun x => { gwMember := x.1, gwSlot := x.2, far := true })
      let v := (upto 513).filter (fun i =>
        i ≠ g && i ≠ groupOf node && (h.gateways f m i).any (fun x => 0 < x.2.2))
      let via := v.getD (u % 2 ^ 24 % orElse v.length 1) 0
      let detour : Option Path := if v.isEmpty then none else
        (weightedPick ((h.gateways f m via).filter (fun x => 0 < x.2.2)) u).map (fun x =>
          { nonmin := true, gwMember := x.1, gwSlot := x.2, via := via, far := true })
      match minimal, detour with
      | none, d => d
      | some p, none => some p
      | some p, some d => if nm then some d else some p

/-! Building and sending a frame. -/

/-- The frame as it leaves its source owner (R246, R248). -/
def TxFrame.build (t : TxFrame) (seq inc age xidx : Nat) (resent : Bool) (p : Path) : Frame :=
  let hdr := t.typ % 256 + place 1 0 2 t.cls + place 1 2 1 (b2n p.nonmin) + place 1 3 1 (b2n resent)
    + place 1 7 1 (b2n t.ordered) + place 2 0 7 (t.payload.length / 64) + place 4 0 16 t.tag + place 6 0 16 age
    + place 8 0 32 t.src + place 0x0C 0 32 t.dst + place 0x10 0 32 seq
    + place 0x14 0 4 p.gwSlot + place 0x14 4 5 p.gwMember + place 0x14 9 10 p.via
    + place 0x18 0 48 t.arg + place 0x1E 0 8 inc + place 0x1F 0 8 xidx
  let f : Frame := { hdr := BitVec.ofNat 256 hdr, payload := t.payload, e2e := 0, hcrc := 0 }
  Frame.seal { f with e2e := BitVec.ofNat 32 (Frame.e2eOf f) }

/-- Bytes of a frame (R244). -/
def frameBytes (payload : Nat) : Nat := 40 + payload

/-- A whole frame stands at an ingress point of an F-die's switch core (R276, R277). -/
def Hw.enterSwitch (h : Hw) (f point : Nat) (x : Frame) : Hw :=
  let sw : Switch := SMap.get h.switches {} f
  let q := SMap.get sw.inq [] point ++ [x]
  { h with switches := SMap.put h.switches f { sw with inq := SMap.put sw.inq point q } }

/-! The package port's die links (R21, R22, R276, R282). -/

/-- Granules a frame occupies in a buffer (R253, R281). -/
def bufGranules (f : Frame) : Nat := Frame.len f + 1

/-- Granules of the guaranteed area, per class and ingress point (R281, R282). -/
def guaranteed : Nat := 1024

/-- Key of a routing stage's queue. -/
def stageKey (f cls : Nat) : Nat := f * 4 + cls

/-- Frames at an F-die's routing stage enter the package port in order, while their class holds the granules that the
port grants (R22, R282). -/
def Hw.stageDrain (f cls : Nat) : Nat → Hw → Hw
  | 0, h => h
  | n + 1, h =>
    let k := stageKey f cls
    match SMap.get h.stages [] k with
    | [] => h
    | x :: rest =>
      let used := SMap.get h.stageUsed 0 k + bufGranules x
      if guaranteed < used then h
      else Hw.stageDrain f cls n
        ({ h with stages := SMap.put h.stages k rest, stageUsed := SMap.put h.stageUsed k used }.enterSwitch f 12 x)

/-- A frame comes to the routing stage of an F-die, from its transport engine or over die links, on its way to the
package port. -/
def Hw.toRouting (h : Hw) (f : Nat) (x : Frame) : Hw :=
  let k := stageKey f (Frame.cls x)
  let q := SMap.get h.stages [] k ++ [x]
  Hw.stageDrain f (Frame.cls x) q.length { h with stages := SMap.put h.stages k q }

/-- The package port returns granules of a class to its routing stage (R22, R283). -/
def Hw.stageReturn (h : Hw) (f cls g : Nat) : Hw :=
  let k := stageKey f cls
  Hw.stageDrain f cls (SMap.get h.stages [] k).length
    { h with stageUsed := SMap.put h.stageUsed k (SMap.get h.stageUsed 0 k - g) }

/-- Every die link of the route between two dies is up (R21, R24). -/
def Hw.routeUp (h : Hw) (src dst : Nat) : Bool :=
  (routeLinks src (dieRoute src dst)).all (fun l =>
    !(h.linksDown.contains l) && !(h.linksDown.contains (l.2, l.1)))

/-- Accounting of a partition's fabric bytes and other quantities (R457). -/
def Hw.acctAdd (h : Hw) (p : Option Nat) (f : Acct → Acct) : Hw :=
  match p with
  | some p => { h with acct := SMap.put h.acct p (f (SMap.get h.acct {} p)) }
  | none => h

/-- Send a built frame from a source owner, with its counts (XPT_TX, XPT_NONMIN, R457). -/
def Hw.emit (h : Hw) (f : Nat) (t : TxFrame) (seq inc xidx : Nat) (resent : Bool) (p : Path) : Hw :=
  let b := xptB f
  let h := h.inc Reg.xptTxFrames b 0 1
  let h := if resent then h.inc Reg.xptTxResent b 0 1 else h
  let h := if !p.nonmin then h else if p.far then h.inc Reg.xptNonminNmGlobal b 0 1 else h.inc Reg.xptNonminNmLocal b 0 1
  let h := h.acctAdd t.part (fun a => { a with tx := a.tx + frameBytes t.payload.length })
  h.toRouting f (t.build seq inc h.ageNow xidx resent p)

/-! Owners. -/

/-- A copy of a multicast original has been acknowledged or abandoned (R290). -/
def Hw.copyDone (h : Hw) (id t : Nat) : Hw :=
  let less (o : McOrig) : McOrig := if o.id = id then { o with copies := o.copies.filter (fun c => c.1 ≠ t) } else o
  { h with originals := (h.originals.map less).filter (fun o => !o.copies.isEmpty) }

/-- A frame is abandoned or cannot be sent: its operation hears of it (R255, R263, R527). -/
def Hw.ownerFail (h : Hw) (o : Owner) (s : Status) : Hw :=
  match o with
  | .free => h
  | .req id => h.answer id { code := s.code }
  | .copy _ id t => h.copyDone id t
  | o => { h with failures := h.failures ++ [(o, s)] }

/-- A frame is acknowledged. -/
def Hw.ownerOk (h : Hw) (o : Owner) : Hw :=
  match o with
  | .copy _ id t => h.copyDone id t
  | _ => h

/-- Frames of an operation that wait or are in flight. -/
def Hw.framesOf (h : Hw) (o : Owner) : Nat :=
  ((h.txq.map (fun q => (q.2.filter (fun t => t.owner = o)).length)).sum)
    + ((h.txFlows.map (fun f => (f.2.recs.filter (fun r => r.frame.owner = o)).length)).sum)

/-- The failures of an operation's frames, in order. -/
def Hw.failuresOf (h : Hw) (o : Owner) : List Status :=
  (h.failures.filter (fun f => f.1 = o)).map (fun f => f.2)

/-- Forget the failures of an operation. -/
def Hw.dropFailures (h : Hw) (o : Owner) : Hw := { h with failures := h.failures.filter (fun f => f.1 ≠ o) }

/-! Flows at the source (R251, R252). -/

/-- Key of a flow by die and node. -/
def flowKey (die node : Nat) : Nat := die * 65536 + node

/-- A flow at its source owner; every flow starts at XPT_INC with SEQ 0. -/
def Hw.txFlow (h : Hw) (f key : Nat) : TxFlow :=
  match SMap.find? h.txFlows key with
  | some x => x
  | none => { inc := h.rf Reg.xptIncInc (xptB f) }
def Hw.setTxFlow (h : Hw) (key : Nat) (x : TxFlow) : Hw := { h with txFlows := SMap.put h.txFlows key x }

/-- A flow is closed once its INC has advanced 255 times. -/
def TxFlow.closed (x : TxFlow) : Bool := 255 ≤ x.advanced

/-- A flow starts again with INC + 1 and SEQ 0 (R251). -/
def TxFlow.restart (x : TxFlow) (limit : Nat) : TxFlow :=
  { x with inc := (x.inc + 1) % 256, advanced := x.advanced + 1, next := 0, wbase := 0, recs := [],
           quietUntil := x.lastSent + limit * 32 }

/-- End every frame in flight on a flow with a status, and start the flow again (R251, R263, R527). -/
def Hw.abandonFlow (h : Hw) (f key : Nat) (s : Status) : Hw :=
  let x := h.txFlow f key
  let h := h.setTxFlow key (x.restart (h.ageLimit f))
  x.recs.foldl (fun h r => h.ownerFail r.frame.owner s) h

/-- Transmit records in use at a source owner (R252). -/
def Hw.recordsAt (h : Hw) (f : Nat) : Nat :=
  ((h.txFlows.filter (fun x => ownerFdie (x.1 / 65536) = f)).map (fun x => x.2.recs.length)).sum

/-- What a waiting frame may do now: wait with its flow, wait alone, fail, or be sent. -/
inductive TxVerdict where
  | block | skip | fail | go
  deriving DecidableEq, Repr

/-- Judge a waiting frame (R29, R30, R251, R252, R265, R527, R570): before the package has a node number, a frame that
stays within it, its node field 0 as PKG_NODE reads, may go. -/
def Hw.judgeTx (h : Hw) (f : Nat) (full : Bool) (t : TxFrame) : TxVerdict :=
  let key := flowKey (cDie t.src) (cNode t.dst)
  let x := h.txFlow f key
  if (h.node?.isNone && cNode t.dst ≠ h.node) || x.closed || h.excluded f (cNode t.dst)
    || 16416 ≤ cNode t.dst || !(unitExists (cDie t.dst) (cUnit t.dst)) then .fail
  else if full || 128 ≤ (x.next + 2 ^ 32 - x.wbase) % 2 ^ 32 || h.now < x.quietUntil then .block
  else if t.part.any (fun p => !h.tagValid f p) then .block
  else if (t.typ = 2 || t.typ = 3) && !(x.xsends.any (fun o => o.1 = t.owner))
      && x.xsends.head?.any (fun o => 4 ≤ (x.xidx + 256 - o.2) % 256) then .skip
  else .go

/-- The frames a source owner may take now, in order, each the first of its flow that may go; with the position of
each. -/
def Hw.txReady (h : Hw) (f : Nat) : List (Nat × TxFrame × TxVerdict) :=
  let full := 262144 ≤ h.recordsAt f
  let r := (SMap.get h.txq [] f).zipIdx.foldl
    (fun (a : List Nat × List (Nat × TxFrame × TxVerdict)) (x : TxFrame × Nat) =>
      let key := flowKey (cDie x.1.src) (cNode x.1.dst)
      if a.1.contains key then a
      else match h.judgeTx f full x.1 with
        | .block => (key :: a.1, a.2)
        | .skip => a
        | v => (a.1, a.2 ++ [(x.2, x.1, v)])) ([], [])
  r.2

/-- Deficit round robin over `n` queues: `cost` gives the head's size where a queue can send, `quantum` a queue's
grant at its turn (R280, R454). -/
def drrGo (n : Nat) (cost : Nat → Option Nat) (quantum : Nat → Nat) : Nat → Drr → Option Nat × Drr
  | 0, d => (none, d)
  | k + 1, d =>
    let q := d.turn % n
    let move (d : Drr) : Drr := { d with turn := (q + 1) % n, granted := false }
    match cost q with
    | none => drrGo n cost quantum k (move { d with deficits := SMap.del d.deficits q })
    | some c =>
      let have_ := SMap.get d.deficits 0 q + (if d.granted then 0 else quantum q)
      if c ≤ have_ then (some q, { d with granted := true, deficits := SMap.put d.deficits q (have_ - c) })
      else drrGo n cost quantum k (move { d with deficits := SMap.put d.deficits q have_ })

/-- One choice of the round robin; nothing is chosen when no queue can send. -/
def drr (n : Nat) (cost : Nat → Option Nat) (quantum : Nat → Nat) (d : Drr) : Option Nat × Drr :=
  if (upto n).any (fun q => (cost q).isSome) then drrGo n cost quantum 2048 d
  else (none, { d with deficits := [], granted := false })

/-- The partition a waiting frame is charged to. -/
def Hw.txPart (h : Hw) (f : Nat) (t : TxFrame) : Option Nat :=
  match t.part with
  | some p => some p
  | none => if t.tag = 0 then none else h.tagPart f t.tag

/-- The frame a source owner takes next: those of no partition first, then by the shares of the partitions
(R454). -/
def Hw.txChoose (h : Hw) (f : Nat) : Option (Nat × TxFrame × TxVerdict) × Hw :=
  let l := h.txReady f
  match l.find? (fun x => (h.txPart f x.2.1).isNone) with
  | some x => (some x, h)
  | none =>
    let first (p : Nat) := l.find? (fun x => h.txPart f x.2.1 = some p)
    let r := drr 8 (fun p => (first p).map (fun x => frameBytes x.2.1.payload.length))
      (fun p => orElse (h.rf Reg.shareInject pkgB p) 1 * 256) (SMap.get h.inject {} f)
    ((r.1.bind first), { h with inject := SMap.put h.inject f r.2 })

/-- A first transmission takes a SEQ and a transmit record; XIDX numbers the exchanges of the flow (R251, R252,
R570). -/
def Hw.transmit (h : Hw) (det : Bool) (f : Nat) (t : TxFrame) : Option Hw :=
  let key := flowKey (cDie t.src) (cNode t.dst)
  let x := h.txFlow f key
  match h.path det f t.src t.dst x.next x.recs.length with
  | none => none
  | some p =>
    let t := { t with tag := (match t.part with | some q => h.tagOf f q | none => t.tag) }
    let exch := t.typ = 2 || t.typ = 3
    let known := x.xsends.find? (fun o => o.1 = t.owner)
    let x := if exch && known.isNone then
        { x with xidx := (x.xidx + 1) % 256, xsends := x.xsends ++ [(t.owner, x.xidx)] } else x
    let xi := if exch then ((x.xsends.find? (fun o => o.1 = t.owner)).map (fun o => o.2)).getD 0 else 0
    let seq := x.next
    let x := { x with next := (seq + 1) % 2 ^ 32, lastSent := h.now,
                      recs := x.recs ++ [{ seq := seq, frame := t, lastSent := h.now }] }
    some ((h.emit f t seq x.inc xi false p).setTxFlow key x)

/-- FRAME_TRANSMIT: a source owner takes one frame (R252, R255). -/
def frameTransmit (f : Nat) (e : Env) (h : Hw) : Hw :=
  if f < 24 || 28 ≤ f then h
  else match h.txChoose f with
    | (none, h) => h
    | (some (i, t, v), h) =>
      let h := { h with txq := SMap.put h.txq f ((SMap.get h.txq [] f).eraseIdx i) }
      if v = .fail then h.ownerFail t.owner .destUnreachable
      else match h.transmit e.tl.det f t with
        | some h => h
        | none => h.ownerFail t.owner .destUnreachable

/-! Resend (R262, R263). -/

/-- A read of `n` words of an F-die's reduction memory from `lo` by a unit: corrected words are counted; failing ones end
it, counted and recorded with READER 4 at an address that the manual leaves open (R302, R323, R325, R523). -/
def Hw.rdmRead (h : Hw) (die unit lo n : Nat) : Bool × Hw :=
  let mine (s : Site) : Bool := match s with
    | .reduction d w => d = die && lo ≤ w && w < lo + n
    | _ => false
  let h := h.incSat Reg.rdmEccCorrected (rkey die 10 0) 0 (h.corrSites.filter mine).length
  if !(h.badSites.any mine) then (true, h)
  else
    let h := h.incSat Reg.rdmEccUncorr (rkey die 10 0) 0 (h.badSites.filter mine).length
    let r := h.drawFree
    (false, r.2.error 1 4 Status.eccUncorrected.code 0 r.1.toNat none (r.2.coord die unit))

/-- Words of reduction memory written, or cleared, are sound (R325). -/
def Hw.rdmWrite (h : Hw) (die lo n : Nat) : Hw :=
  let out (s : Site) : Bool := match s with
    | .reduction d w => !(d = die && lo ≤ w && w < lo + n)
    | _ => true
  { h with badSites := h.badSites.filter out, corrSites := h.corrSites.filter out }

/-- A failing chunk's payload: the preamble with its status, and zero data (R321). -/
def failedPayload (code : Nat) (p : List Byte) : List Byte :=
  p.take 16 ++ toBytes 1 code ++ (p.drop 17).take 47 ++ rep (p.length - 64) 0

/-- A resend of a stitch unit's frame reads the output area again (R306). Where that read fails, the chunk fails: the
frame goes with its place in the flow as the frame that reports the status (R321; DEDUCED, log entry 126). -/
def Hw.rereadOutput (h : Hw) (f key seq : Nat) : Hw :=
  let x := h.txFlow f key
  match x.recs.find? (fun r => r.seq = seq) with
  | none => h
  | some r => match r.frame.owner with
    | .stitch die unit _ _ =>
      match h.rdmRead die unit r.frame.area.1 r.frame.area.2 with
      | (true, h) => h
      | (false, h) =>
        let g := { r.frame with payload := failedPayload Status.eccUncorrected.code r.frame.payload, area := (0, 0) }
        let h := h.setTxFlow key { x with recs := x.recs.map (fun q => if q.seq = seq then { q with frame := g } else q) }
        { h with failures := h.failures ++ [(r.frame.owner, .eccUncorrected)] }
    | _ => h

/-- A resend of one frame, or the abandonment of its flow (R255, R262, R263). -/
def Hw.retry (h : Hw) (det : Bool) (f key seq : Nat) : Hw :=
  let h := h.rereadOutput f key seq
  let x := h.txFlow f key
  match x.recs.find? (fun r => r.seq = seq) with
  | none => h
  | some r =>
    if orElse (h.rf Reg.xptCtrlRetryLimit (xptB f)) 1 ≤ r.resends then
      (h.incSat Reg.xptAbandonAbandoned (xptB f) 0 x.recs.length).abandonFlow f key .timeout
    else
      let r' := { r with resends := r.resends + 1, lastSent := h.now }
      let x' := { x with recs := x.recs.map (fun q => if q.seq = seq then r' else q) }
      match h.path det f r.frame.src r.frame.dst seq x.recs.length with
      | none => h.setTxFlow key x'
      | some p =>
        let xi := ((x.xsends.find? (fun o => o.1 = r.frame.owner)).map (fun o => o.2)).getD 0
        let xi := if r.frame.typ = 2 || r.frame.typ = 3 then xi else 0
        (h.emit f r.frame seq x.inc xi true p).setTxFlow key { x' with lastSent := h.now }

/-- RESEND_TIMEOUT in ns, at least AGE_LIMIT + 1 µs (R262). -/
def Hw.resendAfter (h : Hw) (f : Nat) : Nat :=
  Nat.max (h.rf Reg.xptCtrlResendTimeout (xptB f) * 1000) (h.ageLimit f * 32 + 1000)

/-- The record of a source owner that was sent longest ago: its flow and SEQ, and when. -/
def Hw.oldestRec (h : Hw) (f : Nat) : Option (Nat × Nat × Nat) :=
  let l := (h.txFlows.filter (fun x => ownerFdie (x.1 / 65536) = f)).flatMap (fun x =>
    x.2.recs.map (fun r => (x.1, r.seq, r.lastSent)))
  l.foldl (fun (a : Option (Nat × Nat × Nat)) x => match a with
    | none => some x
    | some y => if x.2.2 < y.2.2 then some x else some y) none

/-- RESEND_TIMEOUT: the timeout of the frame sent longest ago runs out (R262). -/
def resendTimeout (f : Nat) (e : Env) (h : Hw) : Hw :=
  if f < 24 || 28 ≤ f then h
  else match h.oldestRec f with
    | none => h
    | some (key, seq, t) => (h.reach (t + h.resendAfter f)).retry e.tl.det f key seq

/-- Number of bits set in a map of 128. -/
def popcount128 (m : Nat) : Nat := ((upto 128).filter (fun i => bit m i)).length

/-- A record acknowledges a SEQ (R262). -/
def acks (edge map seq : Nat) : Bool :=
  let d := (seq + 2 ^ 32 - edge) % 2 ^ 32
  2 ^ 31 ≤ d || (d < 128 && bit map d)

/-- One ACK record at the source owner: acknowledged frames leave, WBASE advances, missing frames behind enough later
ones are resent (R262). -/
def Hw.ackRecord (h : Hw) (det : Bool) (f key inc edge map : Nat) : Hw :=
  let x := h.txFlow f key
  if (SMap.find? h.txFlows key).isNone || x.inc ≠ inc then h
  else
    let done := x.recs.filter (fun r => acks edge map r.seq)
    let left := x.recs.filter (fun r => !acks edge map r.seq)
    let h := h.setTxFlow key { x with recs := left, wbase := (left.head?.map (fun r => r.seq)).getD x.next }
    let h := done.foldl (fun h r => h.ownerOk r.frame.owner) h
    let thr := orElse (h.rf Reg.xptCtrlSackThresh (xptB f)) 1
    let due := left.filter (fun r =>
      let d := (r.seq + 2 ^ 32 - edge) % 2 ^ 32
      d < 128 && thr ≤ popcount128 (map >>> (d + 1)) && r.lastSent + 2000 ≤ h.now)
    due.foldl (fun h r => if (h.txFlow f key).inc = inc then h.retry det f key r.seq else h) h

/-- Records of an ACK frame (R261). -/
def ackPayload (p : List Byte) : List (Nat × Nat × Nat × Nat) :=
  (upto (p.length / 32)).map (fun i =>
    (pay p (32 * i) 1, pay p (32 * i + 1) 1, pay p (32 * i + 4) 4, pay p (32 * i + 8) 16))

/-! Flows at the destination (R259 to R261). -/

/-- A flow at its destination owner. -/
def Hw.rxFlow (h : Hw) (key : Nat) : RxFlow := SMap.get h.rxFlows {} key
def Hw.setRxFlow (h : Hw) (key : Nat) (x : RxFlow) : Hw := { h with rxFlows := SMap.put h.rxFlows key x }

/-- A frame waits to be acknowledged (R261). -/
def RxFlow.note (x : RxFlow) (now : Nat) : RxFlow :=
  { x with waiting := x.waiting + 1, since := if x.waiting = 0 then now else x.since }

/-- EDGE advances over the set bits at its front. -/
def edgeOver : Nat → Nat → Nat → Nat × Nat
  | 0, edge, map => (edge, map)
  | n + 1, edge, map => if bit map 0 then edgeOver n ((edge + 1) % 2 ^ 32) (map >>> 1) else (edge, map)

/-- What step 3 and 4 of R259 say of a frame. -/
inductive Seqd where
  | accept | duplicate | stale
  deriving DecidableEq, Repr

/-- The receive entry a frame is judged against: a new incarnation takes it over (R259, R570). -/
def RxFlow.adopt (x : RxFlow) (inc seq : Nat) : RxFlow :=
  if x.valid && x.inc = inc then x
  else if seq < 128 then { x with valid := true, inc := inc, edge := 0, map := 0, xtags := [] }
  else x

/-- Judge a frame's SEQ (R259). -/
def RxFlow.judge (x : RxFlow) (inc seq : Nat) : Seqd :=
  if (!x.valid || x.inc ≠ inc) && 128 ≤ seq then .stale
  else
    let y := x.adopt inc seq
    let d := (seq + 2 ^ 32 - y.edge) % 2 ^ 32
    if 2 ^ 31 ≤ d || (d < 128 && bit y.map d) then .duplicate
    else if d < 128 then .accept
    else .stale

/-- The entry after an accepted frame. -/
def RxFlow.take (x : RxFlow) (inc seq : Nat) : RxFlow :=
  let y := x.adopt inc seq
  let d := (seq + 2 ^ 32 - y.edge) % 2 ^ 32
  let r := edgeOver 128 y.edge (y.map ||| 2 ^ d)
  { y with edge := r.1, map := r.2 }

/-- Granules that the reorder store of a transport engine holds (R260). -/
def Hw.reorderHeld (h : Hw) (f : Nat) : Nat :=
  let used (m : SMap (List Frame)) : Nat :=
    ((m.filter (fun x => ownerFdie (x.1 / 65536) = f)).flatMap (fun x => x.2.map Frame.len)).sum
  used h.reorder + used h.ready

/-- Granules returned to the far end of an ingress point: credits owed on a fabric port (R283), room at the routing stage
of the package port (R22). -/
def Hw.owe (h : Hw) (die point cls g : Nat) : Hw :=
  if 12 ≤ point then h.stageReturn die cls g
  else
    let p := 12 * (die - 24) + point
    let x := h.port p
    h.setPort p { x with owed := listSet x.owed cls (x.owed.getD cls 0 + g) }

/-- A buffered frame leaves: a charge to the guaranteed area returns its credits (R283). -/
def Hw.releaseBuf (h : Hw) (b : Buf) : Hw :=
  if b.shared then h else h.owe b.die b.point (Frame.cls b.frame) (bufGranules b.frame)

/-- A frame is discarded where it waits, if it waits: the destination counts it. -/
def Hw.dropArrived (h : Hw) (f : Frame) : Hw :=
  match h.arrived.find? (fun b => b.frame = f) with
  | some b => ({ h with arrived := h.arrived.erase b }).releaseBuf b
  | none => h

/-- A frame that its destination cannot take yet waits at the F-die it came in by, its owner's answer delayed (R260,
R285); frames behind it are no longer held by its notice. One that no switch core of this package has seen waits at its
owner's F-die. -/
def Hw.keepArrived (h : Hw) (own : Nat) (f : Frame) : Hw :=
  if h.arrived.any (fun b => b.frame = f) then
    { h with arrived := h.arrived.map (fun b => if b.frame = f then { b with noticed := true } else b) }
  else
    let k := stageKey own (Frame.cls f)
    { h with
      arrived := h.arrived ++ [{ die := own, point := 12, frame := f, noticed := true }]
      stageUsed := SMap.put h.stageUsed k (SMap.get h.stageUsed 0 k + bufGranules f) }

/-- A frame has not come to its destination: it stands in a queue of this package, or the notice of an earlier one of its
class from the same F-die to the same owner comes first (R22, R250). -/
def Hw.notCome (h : Hw) (own : Nat) (f : Frame) : Bool :=
  match h.arrived.findIdx? (fun b => b.frame = f) with
  | some i =>
    let b := h.arrived.getD i { die := 0, point := 0, frame := f }
    !b.noticed && (h.arrived.take i).any (fun x => !x.noticed && x.die = b.die && Frame.cls x.frame = Frame.cls f
      && ownerFdie (cDie (Frame.src x.frame)) = own)
  | none =>
    h.stages.any (fun q => q.2.contains f) || h.switches.any (fun s => s.2.inq.any (fun q => q.2.contains f))
      || h.egress.any (fun q => 48 * 4 ≤ q.1 && q.2.any (fun b => b.frame = f))

/-- Ordered frames that EDGE has passed become ready in SEQ order (R260). -/
def Hw.releaseOrdered (h : Hw) (key : Nat) : Nat → Hw
  | 0 => h
  | n + 1 =>
    let x := h.rxFlow key
    let l := SMap.get h.reorder [] key
    let passed := l.filter (fun f => 2 ^ 31 ≤ (Frame.seq f + 2 ^ 32 - x.edge) % 2 ^ 32)
    match sortBy (fun (a b : Frame) =>
        (x.edge + 2 ^ 32 - Frame.seq b) % 2 ^ 32 < (x.edge + 2 ^ 32 - Frame.seq a) % 2 ^ 32) passed with
    | [] => h
    | f :: _ =>
      Hw.releaseOrdered { h with
        reorder := SMap.put h.reorder key (l.erase f)
        ready := SMap.put h.ready key (SMap.get h.ready [] key ++ [f]) } key n

/-- A frame is delivered: counted, and charged to the partition of its tag (XPT_RX, R457). -/
def Hw.countDelivered (h : Hw) (own : Nat) (f : Frame) : Hw :=
  (h.inc Reg.xptRxDelivered (xptB own) 0 1).acctAdd (h.tagPart own (Frame.ptag f)) (fun a =>
    { a with rx := a.rx + frameBytes f.payload.length })

/-- A frame being delivered locally has a word that cannot be read: it is discarded under the HCRC cause, counted at the
port it came in by, and recorded (R286). -/
def Hw.spoilt (h : Hw) (f : Frame) : Hw :=
  match h.arrived.find? (fun x => x.frame = f) with
  | none => h
  | some b =>
    let h := h.incSat Reg.swEccUncorr (rkey b.die 9 0) 0 1
    let h := if b.point < 12 then h.incSat Reg.xptLinkHcrc (xptB b.die) b.point 1 else h
    let r := h.drawFree
    r.2.error 1 3 0 0 r.1.toNat none (r.2.coord b.die 9)

/-- The corrected words of a frame's read for local delivery (SW_ECC.CORRECTED). -/
def Hw.mended (h : Hw) (f : Frame) : Hw :=
  match h.arrived.find? (fun x => x.frame = f) with
  | some b => if b.corr = 0 then h else h.incSat Reg.swEccCorrected (rkey b.die 9 0) 0 b.corr
  | none => h

/-- The checks of a destination before those of the flow (R249, R259, R264, R265, R286, R527): the hardware with the
discard counted, or none where the frame passes. -/
def Hw.refuseFrame (h : Hw) (own : Nat) (f : Frame) : Option Hw :=
  let b := xptB own
  if !Frame.wellFormed f then some (h.incSat Reg.xptAbandonMalformed b 0 1)
  else if h.node ≠ cNode (Frame.dst f) then some h
  else if h.arrived.any (fun x => x.frame = f && x.bad) then some (h.spoilt f)
  else if h.aged own f then some (h.incSat Reg.xptDropAged b 0 1)
  else if f.e2e.toNat ≠ Frame.e2eOf f then some (h.incSat Reg.xptDropE2e b 0 1)
  else if h.excluded own (cNode (Frame.src f)) then some (h.inc Reg.xptExclDropDrops b 0 1)
  else if !h.tagOk own (Frame.ptag f) (Frame.dst f) then some (h.incSat Reg.xptDropStaleTag b 0 1)
  else none

/-- An entry takes a new INC: ordered frames of the old one that wait for their turn can have none, and leave (R259,
R260). -/
def Hw.adoptFlow (h : Hw) (key inc : Nat) : Hw :=
  let x := h.rxFlow key
  if (x.valid && x.inc = inc) || (SMap.find? h.reorder key).isNone then h else { h with reorder := SMap.del h.reorder key }

/-- A frame not accepted before. -/
def Hw.arriveNew (h : Hw) (own key : Nat) (f : Frame) (can : Hw → Bool) : Bool × Hw :=
  match h.refuseFrame own f with
  | some h => (false, h.dropArrived f)
  | none =>
    if Frame.typ f = 5 then (true, (h.mended f).dropArrived f)
    else
      let x := h.rxFlow key
      match x.judge (Frame.inc f) (Frame.seq f) with
      | .stale => (false, (h.incSat Reg.xptDropStaleInc (xptB own) 0 1).dropArrived f)
      | .duplicate =>
        (false, ((h.inc Reg.xptRxDuplicate (xptB own) 0 1).setRxFlow key (x.note h.now)).dropArrived f)
      | .accept =>
        if !Frame.ordered f then
          if can h then
            (true, ((((h.mended f).dropArrived f).adoptFlow key (Frame.inc f)).setRxFlow key
              ((x.take (Frame.inc f) (Frame.seq f)).note h.now)).countDelivered own f)
          else (false, h.keepArrived own f)
        else if 8192 < h.reorderHeld own + Frame.len f then (false, h.keepArrived own f)
        else
          let h := (((h.mended f).dropArrived f).adoptFlow key (Frame.inc f)).setRxFlow key
            ((x.take (Frame.inc f) (Frame.seq f)).note h.now)
          let old := SMap.get h.reorder [] key
          let h := { h with reorder := SMap.put h.reorder key (old ++ [f]) }
          let h := h.releaseOrdered key (old.length + 1)
          match SMap.get h.ready [] key with
          | r :: rest =>
            if r = f && can h then
              (true, ({ h with ready := SMap.put h.ready key rest }).countDelivered own f)
            else (false, h)
          | [] => (false, h)

/-- A frame at its destination (R22, R250, R259, R260, R264, R265): whether it is delivered now, and the hardware after the
checks. `can` tells whether its destination can take it. -/
def Hw.arrive (h : Hw) (f : Frame) (can : Hw → Bool) : Bool × Hw :=
  let key := flowKey (cDie (Frame.src f)) (cNode (Frame.src f))
  let own := ownerFdie (cDie (Frame.src f))
  match SMap.get h.ready [] key with
  | r :: rest =>
    if r = f then
      if h.aged own f then (false, ({ h with ready := SMap.put h.ready key rest }).incSat Reg.xptDropAged (xptB own) 0 1)
      else if can h then (true, ({ h with ready := SMap.put h.ready key rest }).countDelivered own f) else (false, h)
    else if h.notCome own f then (false, h) else h.arriveNew own key f can
  | [] => if h.notCome own f then (false, h) else h.arriveNew own key f can

/-- ACK at the source owner (R262). -/
def ackFrame (f : Frame) (e : Env) (h : Hw) : Hw :=
  if Frame.typ f ≠ 5 then h
  else match h.arrive f (fun _ => true) with
    | (true, h) =>
      (ackPayload f.payload).foldl (fun h r =>
        h.ackRecord e.tl.det (ownerFdie r.1) (flowKey r.1 (cNode (Frame.src f))) r.2.1 r.2.2.1 r.2.2.2) h
    | (false, h) => h

/-- ACK_RECORD_SEND: the destination owner acknowledges a flow of which 32 frames wait, or else the one that has waited
longest (R261). -/
def ackRecordSend (f : Nat) (e : Env) (h : Hw) : Hw :=
  if f < 24 || 28 ≤ f then h
  else
    let mine := h.rxFlows.filter (fun x => ownerFdie (x.1 / 65536) = f && 0 < x.2.waiting)
    let longest := mine.foldl
      (fun (a : Option (Nat × RxFlow)) x => match a with
        | none => some x
        | some y => if x.2.since < y.2.since then some x else some y) none
    match (mine.find? (fun x => 32 ≤ x.2.waiting)).orElse (fun _ => longest) with
    | none => h
    | some (key, x) =>
      let delay := orElse (h.rf Reg.xptCtrlAckDelay (xptB f)) 1 * 128
      let h := if 32 ≤ x.waiting then h else h.reach (x.since + delay)
      let h := h.setRxFlow key { x with waiting := 0 }
      let die := key / 65536
      let dst := coordOf (key % 65536) (ownerFdie die) 8
      let t : TxFrame :=
        { typ := 5, cls := 0, src := h.coord f 8, dst := dst,
          payload := granules (toBytes 1 die ++ toBytes 1 x.inc ++ toBytes 2 0 ++ toBytes 4 x.edge ++ toBytes 16 x.map) }
      match h.path e.tl.det f t.src t.dst 0 0 with
      | some p => h.emit f t 0 0 0 false p
      | none => h

/-- The level a port's slot belongs to: none for an idle spare or a port it replaces (R238, R240). -/
def Hw.portLevel (h : Hw) (p : Nat) : Option Bool :=
  let role (q : Nat) : Bool := 8 ≤ q % 12
  if p = 43 then h.spareFor.map role else if h.spareFor = some p then none else some (role p)

/-- For how long a port has been stalled in the interval in hand (R256). -/
def Port.stallTime (x : Port) (now : Nat) : Nat :=
  x.stalled + (match x.stallSince with | some t => now - t | none => 0)

/-- LEVEL_SAMPLE: an interval of 1 µs ends; a level is saturated for the next one when enough of its ports were stalled
for more than half of it (R256). -/
def levelSample (_ : Env) (h : Hw) : Hw :=
  let h := h.reach (h.sampleAt + 1000)
  let long (p : Nat) : Bool := h.now - h.sampleAt < 2 * (h.port p).stallTime h.now
  let n (far : Bool) : Nat := ((upto 48).filter (fun p => long p && h.portLevel p = some far)).length
  let judge (f : FieldRef) (far : Bool) : Bool := h.rf f (xptB 24) ≠ 0 && h.rf f (xptB 24) ≤ n far
  let l := judge Reg.xptNmLocalSatPorts false
  let g := judge Reg.xptNmGlobalSatPorts true
  (upto 4).foldl (fun h i =>
    (h.inc Reg.xptLevelSatLocal (xptB (24 + i)) 0 (b2n l)).inc Reg.xptLevelSatGlobal (xptB (24 + i)) 0 (b2n g))
    { h with
      satLocal := l, satGlobal := g, sampleAt := h.now
      ports := h.ports.map (fun (x : Nat × Port) =>
        (x.1, { x.2 with stalled := 0, stallSince := x.2.stallSince.map (fun _ => h.now) })) }

end Sys2Proof.Machine
end

