-- ==== Sys2Proof/Machine/Exchange.lean ====
section
/-! DEFINITION. The expert exchange (R266 to R275, R567 to R570): XCH_SEND at its source, the landing of header and row
frames at their destination, XCH_RETURN and the counting of returned rows, and XCH_CLOSE. -/

namespace Sys2Proof.Machine

/-- The transport engine that keeps the landing state (R269). -/
def xchB : Nat := xptB 24

/-- The oldest descriptor at a transport engine with an operation code that has not begun. -/
def Hw.xchJob (h : Hw) (die op : Nat) : Option Job :=
  (h.queue die 8).find? (fun j => j.body.fld 0 7 0 = op && !j.started)

/-- A descriptor at a transport engine completes without having sent anything. -/
def Hw.xchDone (h : Hw) (die : Nat) (j : Job) (s : Status) : Hw := h.finishJob die 8 j ⟨s, 0, 0⟩

/-- The outcome of a failed access, as a descriptor's status and VALUE. -/
def Hw.xchFail (h : Hw) (die : Nat) (j : Job) (part : Option Nat) (f : Fail) : Hw :=
  match f with
  | .held => h
  | f => let r := h.failDone j.origin.opid part (h.coord die 8) f
         r.2.finishJob die 8 j r.1

/-- An arrival flag is set only with FLAG, and is then one of R106. -/
def Hw.flagFieldOk (h : Hw) (e : Env) (flag addr tag : Nat) : Bool :=
  if flag = 1 then h.flagOk e addr else addr = 0 && tag = 0

/-- An address is well formed (R38). -/
def Hw.addrOk (h : Hw) (e : Env) (a : Nat) : Bool :=
  match h.resolve e true a 1 with | .error .badDescriptor => false | _ => true

/-! XCH_SEND. -/

/-- The checks of an XCH_SEND that need no memory (R15, R38, R42, R266). -/
def Hw.sendOk (h : Hw) (e : Env) (d : Desc) : Bool :=
  d.fld 0 31 17 = 0 && d.fld 0x44 479 0 = 0 && d.fld 0 11 8 ≤ 4 && d.fld 0x34 31 0 ≤ d.fld 0x1C 31 0
    && h.flagFieldOk e (d.fld 0 13 13) (d.fld 0x38 63 0) (d.fld 0x40 31 0)
    && h.flagOk e (d.fld 0x28 63 0) && h.addrOk e (d.fld 8 63 0) && h.addrOk e (d.fld 0x10 63 0)
    && h.addrOk e (d.fld 0x20 63 0)

/-- The return slots and the flag of an XCH_SEND can be reached: they are used by frames that come after it, so it is the
XCH_SEND that ends DEST_UNREACHABLE where they cannot (R4, R41; log entry 106). -/
def Hw.sendReach (h : Hw) (e : Env) (d : Desc) : Bool :=
  (match h.resolveMem e true (d.fld 0x20 63 0) 1 with | .ok _ => true | .error _ => false)
    && (match h.flagLoc e (d.fld 0x28 63 0) with | .ok _ => true | .error _ => false)

/-- Read an extent that a descriptor names. -/
def readExt (e : Env) (a n : Nat) : Op (List Byte) := do
  let h ← get
  match h.localMem e a n with
  | .ok off => loadB off n
  | .error s => failSt s

/-- The segments of a token row: dense, or tiles checked under R165, each read whole before any of it is sent (R568).
A tile's extent comes from BYTES. -/
def rowTiles (e : Env) (f : Fmt) : List Nat → Nat → Op (List (List Byte))
  | [], _ => pure []
  | n :: l, a => do
    match tileHead 1 f n (← readExt e a 16) with
    | none => failSt .sparseFormat
    | some len =>
      let bs ← readExt e a len
      match readTile 1 f n bs with
      | some _ => do
        let rest ← rowTiles e f l (a + len)
        return bs :: rest
      | none => failSt .sparseFormat

/-- The segments of a token row (R150, R268). -/
def rowSegs (e : Env) (f : Fmt) (tiled : Bool) (elems a : Nat) : Op (List (List Byte)) :=
  if elems = 0 then pure []
  else if tiled then rowTiles e f (segLens elems) a
  else do
    let bs ← readExt e a (f.rowBytes elems)
    return (segLens elems).zipIdx.map (fun (x : Nat × Nat) =>
      (bs.drop (f.rowBytes (256 * x.2))).take (f.rowBytes x.1))

/-- A list of a dispatch output: its place among its node's lists, COUNT, FIRST, DEST, and its header (R182). -/
structure DList where
  index : Nat
  count : Nat
  first : Nat
  dest : Nat
  hdr : List Byte
  deriving DecidableEq, Repr

/-- Row frames under construction: the frames, the payload in hand with its ARG. -/
structure RowBuild where
  frames : List TxFrame := []
  cur : List Byte := []
  arg : Nat := 0
  deriving DecidableEq, Repr

/-- Close the payload in hand. -/
def RowBuild.flush (b : RowBuild) (mk : Nat → List Byte → TxFrame) : RowBuild :=
  if b.cur.isEmpty then b else { b with frames := b.frames ++ [mk b.arg b.cur], cur := [] }

/-- Add one segment: a payload holds as many whole segments as fit in 4,096 bytes (R268). -/
def RowBuild.add (b : RowBuild) (mk : Nat → List Byte → TxFrame) (list row seg : Nat) (bs : List Byte) : RowBuild :=
  let b := if 4096 < b.cur.length + bs.length then b.flush mk else b
  { b with cur := b.cur ++ bs, arg := if b.cur.isEmpty then list + row <<< 14 + seg <<< 32 else b.arg }

/-- What an XCH_SEND is building from. -/
structure SendCtx where
  fmt : Fmt
  tiled : Bool
  elems : Nat
  rows : Nat
  stride : Nat
  /-- Address of the dispatch entries. -/
  ents : Nat
  deriving DecidableEq, Repr

/-- Read dispatch entry `i`, then the token row it names (R182, R266, R568). -/
def entryRow (e : Env) (c : SendCtx) (i : Nat) : Op (List (List Byte)) := do
  let ent ← readExt e (c.ents + 8 * i) 8
  rowSegs e c.fmt c.tiled c.elems (c.rows + bits (pay ent 4 4) 15 0 * c.stride)

/-- The row frames of one list, until a read fails (R268, R568). -/
def listFrames (e : Env) (c : SendCtx) (l : DList) (mk : Nat → List Byte → TxFrame) :
    Nat → Nat → RowBuild → Hw → RowBuild × Option Fail × Hw
  | 0, _, b, h => (b.flush mk, none, h)
  | n + 1, r, b, h =>
    match runOp (entryRow e c (l.first + r)) h with
    | (.ok segs, h) =>
      let b := segs.zipIdx.foldl (fun (b : RowBuild) (x : List Byte × Nat) => b.add mk l.index r x.2 x.1) b
      listFrames e c l mk n (r + 1) b h
    | (.error f, h) => (b, some f, h)

/-- The lists of a dispatch output for one node (R181, R267). -/
def listsOf (hdrs : List Byte) (n node : Nat) : List DList :=
  (((upto n).filter (fun i => cNode (pay hdrs (32 * i + 12) 4) = node)).zipIdx).map (fun (x : Nat × Nat) =>
    { index := x.2, count := pay hdrs (32 * x.1 + 4) 4, first := pay hdrs (32 * x.1 + 8) 4,
      dest := pay hdrs (32 * x.1 + 12) 4, hdr := (hdrs.drop (32 * x.1)).take 32 })

/-- The header frames of a node (R267, R569). -/
def hdrFrames (d : Desc) (xtag src part : Nat) (o : Owner) (ls : List DList) : List TxFrame :=
  (upto (ceilDiv ls.length 126)).map (fun k =>
    let part' := (ls.drop (126 * k)).take 126
    let pre := toBytes 4 xtag ++ toBytes 4 ls.length ++ toBytes 4 (126 * k)
      ++ toBytes 4 (d.fld 0 12 8) ++ toBytes 4 (d.fld 4 31 0) ++ toBytes 4 (d.fld 0x1C 31 0)
      ++ toBytes 8 (d.fld 0x20 63 0) ++ toBytes 4 (d.fld 0x34 31 0) ++ rep 28 0
    { typ := 2, cls := 0, part := some part, src := src, dst := (part'.head?.map (fun l => l.dest)).getD 0,
      payload := granules (pre ++ part'.flatMap (fun l => l.hdr)), owner := o })

/-- Every frame of an XCH_SEND to one node, until a read fails. -/
def nodeFrames (e : Env) (d : Desc) (c : SendCtx) (xtag src part : Nat) (o : Owner) (ls : List DList) (h : Hw) :
    List TxFrame × Option Fail × Hw :=
  ls.foldl (fun (a : List TxFrame × Option Fail × Hw) l =>
    match a.2.1 with
    | some _ => a
    | none =>
      let mk (arg : Nat) (bs : List Byte) : TxFrame :=
        { typ := 3, cls := 2, part := some part, src := src, dst := l.dest, arg := arg, payload := granules bs, owner := o }
      let r := listFrames e c l mk (if c.elems = 0 then 0 else l.count) 0 {} a.2.2
      (a.1 ++ r.1.frames, r.2.1, r.2.2)) (hdrFrames d xtag src part o ls, none, h)

/-- Nodes in order of first appearance. -/
def nodesOf (hdrs : List Byte) (n : Nat) : List Nat :=
  (upto n).foldl (fun l i =>
    let k := cNode (pay hdrs (32 * i + 12) 4)
    if l.contains k then l else l ++ [k]) []

/-- Build and queue the frames of an XCH_SEND whose list headers have been read (R267 to R273, R568): the frames before a
failing read are sent. A read that a clear holds leaves the rest for later, and what was sent before is not sent again
(R133). -/
def Hw.sendOut (h : Hw) (e : Env) (die : Nat) (j : Job) (pre hdrs : List Byte) : Hw :=
  let d := j.body
  let part := d.fld 0 16 14
  let n := pay pre 4 4
  let pairs := pay pre 8 4
  let src := pay pre 16 4
  let xtag := pay pre 20 4
  let nodes := nodesOf hdrs n
  if nodes.any (fun k => 16384 < (listsOf hdrs n k).length) then h.xchDone die j .badDescriptor
  else
    let o : Owner := .job die 8 j.tag
    let c : SendCtx := { fmt := (Fmt.ofCode (d.fld 0 11 8)).getD .fp32, tiled := d.fld 0 12 12 = 1
                         elems := d.fld 4 31 0, rows := d.fld 0x10 63 0, stride := d.fld 0x18 31 0
                         ents := d.fld 8 63 0 + 0x20 + 256 * pay pre 12 4 }
    let r := nodes.foldl (fun (a : List TxFrame × Option Fail × Hw) (k : Nat) =>
      match a.2.1 with
      | some _ => a
      | none =>
        let b := nodeFrames e d c xtag src part o (listsOf hdrs n k) a.2.2
        (a.1 ++ b.1, b.2.1, b.2.2)) ([], none, h)
    let h := (r.1.drop j.sent).foldl (fun (h : Hw) (t : TxFrame) => h.send t) r.2.2
    let x : XRet := { src := src, lo := d.fld 0x20 47 0, stride := d.fld 0x1C 31 0, bytes := d.fld 0x34 31 0
                      pairs := pairs, flag := (match h.flagLoc e (d.fld 0x28 63 0) with | .ok a => a | .error _ => 0)
                      tag := d.fld 0x30 31 0, job := j.tag }
    let h := if h.xrets.any (fun y => y.job = j.tag) then h else { h with xrets := h.xrets ++ [x] }
    match r.2.1 with
    | some .held => h.putJob die 8 { j with sent := r.1.length }
    | bad =>
      let (done, h) : Done × Hw := match bad with
        | some f => h.failDone j.origin.opid (some part) (h.coord die 8) f
        | none => (⟨.ok, 0, 0⟩, h)
      h.putJob die 8 { j with started := true, result := some (done.st, if done.st.ownValue then done.value else pairs) }

/-- XCH_SEND: its checks, the lower status code first (R483), and the reading of its preamble and of the list headers, whose
number for each node stands in the first frame for it (R266, R267, R567, R568). -/
def Hw.runSend (h : Hw) (e : Env) (die : Nat) (j : Job) : Hw :=
  let d := j.body
  let part := d.fld 0 16 14
  if h.kpostForeign j.origin part then h.xchDone die j .refused
  else if !h.sendOk e d then h.xchDone die j .badDescriptor
  else if !h.sendReach e d then h.xchDone die j .destUnreachable
  else if !h.loaded part then h.xchDone die j .partitionDown
  else
    let a := d.fld 8 63 0
    match runOp (readExt e a 32) h with
    | (.error f, h) => h.xchFail die j (some part) f
    | (.ok pre, h) =>
      if pay pre 0 4 ≠ 0x20 then h.xchDone die j .badDescriptor
      else
        match runOp (readExt e (a + 0x20) (32 * pay pre 4 4)) h with
        | (.error f, h) => h.xchFail die j (some part) f
        | (.ok hdrs, h) => h.sendOut e die j pre hdrs

/-- An operation of a transport engine has no frame left waiting or in flight: it completes, its flag written where it
succeeded, or DEST_UNREACHABLE where that flag's window cannot be reached (R4, R263, R273, R568). -/
def Hw.settleXch (h : Hw) (e : Env) (die : Nat) (j : Job) : Hw :=
  let o : Owner := .job die 8 j.tag
  match j.result with
  | none => h
  | some (s, v) =>
    if h.framesOf o ≠ 0 then h
    else
      let d := j.body
      let send := d.fld 0 7 0 = 0x11
      let flagOn := if send then d.fld 0 13 13 = 1 else d.fld 0 8 8 = 1
      let addr := if send then d.fld 0x38 63 0 else d.fld 0x18 63 0
      let tag := if send then d.fld 0x40 31 0 else d.fld 0x20 31 0
      let bad := (h.failuresOf o).head?
      let less (x : TxFlow) : TxFlow := { x with xsends := x.xsends.filter (fun q => q.1 ≠ o) }
      let h := { (h.dropFailures o) with txFlows := h.txFlows.map (fun (x : Nat × TxFlow) => (x.1, less x.2)) }
      let st := if s.good then bad.getD s else s
      if st.good then
        if !flagOn then h.finishJob die 8 j ⟨st, 0, 0⟩
        else match h.flagLoc e addr with
          | .ok a => if h.clearing a 8 then h else (h.flag a tag v).finishJob die 8 j ⟨st, v, 0⟩
          | .error s => h.finishJob die 8 j ⟨s, if s.ownValue then 0 else v, 0⟩
      else h.finishJob die 8 j ⟨st, if st.ownValue || flagOn then v else 0, 0⟩

/-- A count of returned rows that has nothing to count ends once the header frames are acknowledged (R272). -/
def Hw.settleRets (h : Hw) : Hw :=
  h.xrets.foldl (fun h x =>
    if x.pairs * x.bytes ≠ 0 then h
    else
      let mine (t : TxFrame) : Bool := t.typ = 2 && (match t.owner with | .job _ 8 tag => tag = x.job | _ => false)
      let out := h.txq.any (fun q => q.2.any mine) || h.txFlows.any (fun f => f.2.recs.any (fun r => mine r.frame))
      let bad := h.failures.any (fun f => match f.1 with | .job _ 8 tag => tag = x.job | _ => false)
      if out then h
      else
        let h := { h with xrets := h.xrets.filter (fun y => y.job ≠ x.job) }
        if bad then h else h.flag x.flag x.tag x.pairs) h

/-- Settle the operations of every transport engine. -/
def Hw.settleExchange (h : Hw) (e : Env) : Hw :=
  (upto 4).foldl (fun h f =>
    (h.queue (24 + f) 8).foldl (fun h j =>
      if j.body.fld 0 7 0 = 0x11 || j.body.fld 0 7 0 = 0x13 then h.settleXch e (24 + f) j else h) h) h.settleRets

/-- XCH_SEND; a reserved operation code is decoded here and fails (R15). -/
def xchSend (die : Nat) (e : Env) (h : Hw) : Hw :=
  if die < 24 || 28 ≤ die then h
  else
    match (h.queue die 8).find? (fun j => !j.started && (j.body.fld 0 7 0 < 0x11 || 0x14 < j.body.fld 0 7 0)) with
    | some j => h.xchDone die j .badDescriptor
    | none => match h.xchJob die 0x11 with
      | some j => (h.runSend e die j).settleExchange e
      | none => h

/-! XCH_OPEN. -/

/-- The ALLOC of a landing entry (R225, R269). -/
def Hw.landAlloc (h : Hw) (part : Nat) (raw : Desc) (xtag i : Nat) : Hw :=
  let k := raw.fld 0x3C 1 0
  let length := raw.fld 4 31 0 * raw.fld 0x10 31 0
  let n := match SMap.find? (h.keeper (28 + k)).resv part with
    | some r => (chainClasses r.sizes length).length
    | none => 0
  let d := 3 + place 0 8 3 part + place 0 12 4 1 + place 4 0 32 (raw.fld 0x14 31 0) + place 8 0 64 length
    + place 0x10 0 64 (raw.fld 0x30 63 0) + place 0x18 0 64 n + place 0x20 0 32 (raw.fld 0x38 31 0)
  h.enqueue (28 + k) 0 { body := BitVec.ofNat 1024 d, origin := .land xtag i, part := some part, beat := none }

/-- A landing entry whose fields break R15, R38, R40 or R106 (R269). -/
def Hw.entryOk (h : Hw) (e : Env) (raw : Desc) : Bool :=
  let kalloc := raw.fld 2 3 3 = 1
  let bad (a n : Nat) : Bool := match h.resolveMem e true a n with | .error .badDescriptor => true | _ => false
  raw.fld 2 6 4 = 0 && raw.fld 0x3C 31 2 = 0 && h.flagOk e (raw.fld 0x20 63 0)
    && (if kalloc then raw.fld 8 63 0 = 0
        else raw.fld 0x30 63 0 = 0 && !bad (raw.fld 8 63 0) (raw.fld 4 31 0 * raw.fld 0x10 31 0)
          && !bad (raw.fld 0x18 63 0) (16 * raw.fld 4 31 0))

/-- A landing entry as the engine takes it up (R269). -/
def Hw.entryOf (h : Hw) (e : Env) (raw : Desc) : XEnt :=
  let kalloc := raw.fld 2 3 3 = 1
  let total := raw.fld 4 31 0
  let size := total * raw.fld 0x10 31 0
  { expert := raw.fld 0 15 0, replica := raw.fld 2 2 0, total := total, slot := raw.fld 0x10 31 0
    tag := raw.fld 0x28 31 0, flag := (match h.flagLoc e (raw.fld 0x20 63 0) with | .ok a => some a | .error _ => none)
    tags := match h.localMem e (raw.fld 0x18 63 0) (16 * total) with | .ok a => some a | .error _ => none
    chain := if kalloc then [] else match h.localMem e (raw.fld 8 63 0) size with | .ok a => [(a, size)] | .error _ => []
    keeper := if kalloc then some (raw.fld 0x3C 1 0) else none
    waiting := kalloc }

/-- XCH_OPEN: the table is read, the XTAG opened, and landings taken from Keeper where asked (R269). -/
def Hw.runOpen (h : Hw) (e : Env) (die : Nat) (j : Job) : Hw :=
  let d := j.body
  let part := d.fld 0 10 8
  let xtag := d.fld 8 31 0
  let n := d.fld 0x0C 31 0
  if h.kpostForeign j.origin part then h.xchDone die j .refused
  else if d.fld 0 31 11 ≠ 0 || d.fld 0x18 319 0 ≠ 0 || d.fld 4 31 0 = 0 || 65535 < d.fld 4 31 0 || n = 0 || 4096 < n
    || (SMap.find? h.opens xtag).isSome then h.xchDone die j .badDescriptor
  else if !h.loaded part then h.xchDone die j .partitionDown
  else
    match runOp (readExt e (d.fld 0x10 63 0) (64 * n)) h with
    | (.error f, h) => h.xchFail die j (some part) f
    | (.ok bs, h) =>
      let raws := (upto n).map (fun i => (BitVec.ofNat 1024 (ofBytes ((bs.drop (64 * i)).take 64)) : Desc))
      let table := match h.localMem e (d.fld 0x10 63 0) (64 * n) with | .ok a => a | .error _ => 0
      let ents := raws.map (fun r =>
        let x := h.entryOf e r
        { x with waiting := x.waiting && h.entryOk e r })
      let h := { h with
        opens := SMap.put h.opens xtag { part := part, nsrc := d.fld 4 31 0, table := table, ents := ents }
        closedX := h.closedX.filter (fun x => x ≠ xtag) }
      let h := raws.zipIdx.foldl (fun (h : Hw) (x : Desc × Nat) =>
        if !h.entryOk e x.1 then h.endEntry xtag x.2 .badDescriptor
        else if x.1.fld 2 3 3 = 1 then h.landAlloc part x.1 xtag x.2
        else h) h
      h.xchDone die j .ok

/-- XCH_OPEN (R269). -/
def xchOpen (die : Nat) (e : Env) (h : Hw) : Hw :=
  if die < 24 || 28 ≤ die then h
  else match h.xchJob die 0x12 with
    | some j => h.runOpen e die j
    | none => h

/-! Landing. -/

/-- An EXCHANGE record (R488). -/
def Hw.xchEvent (h : Hw) (kind xtag part src expert replica : Nat) : Hw :=
  h.raise 0x06 (some part) (h.coord 24 8)
    (toBytes 1 kind ++ toBytes 1 replica ++ toBytes 2 expert ++ toBytes 4 xtag ++ toBytes 4 src)

/-- Positions are known, and the row's bytes can be written there (R269). -/
def writePos (x : XEnt) (pos off : Nat) (bs : List Byte) : Op Unit := do
  let ps := chainPieces x.chain (pos * x.slot + off) bs.length
  need ((ps.map (fun (p : Nat × Nat) => p.2)).sum = bs.length) .destUnreachable
  storePieces ps bs

/-- The tag record of a position (R270). -/
def tagRecord (s : XSrc) (l : XList) (r : Nat) : List Byte :=
  toBytes 8 (s.retAddr + (l.first + r) * s.retStride) ++ toBytes 4 s.coord ++ toBytes 4 (l.first + r)

/-- The status a failed landing write gives its entry. -/
def Hw.landFail (h : Hw) (part : Nat) (f : Fail) : Status × Hw :=
  let r := h.failDone 0 (some part) (h.coord 24 8) f
  (r.1.st, r.2)

/-- A position has landed whole: its tag record is written, and the flag follows COUNT (R270, R271). -/
def Hw.landPos (h : Hw) (xtag i : Nat) (s : XSrc) (l : XList) (pos r : Nat) : Hw :=
  match SMap.find? h.opens xtag with
  | none => h
  | some o => match o.ents[i]? with
    | none => h
    | some x =>
      if x.done then h
      else
        let w : Op Unit := match x.tags with
          | none => failSt .destUnreachable
          | some a => storeB (a + 16 * pos) (tagRecord s l r)
        match runOp w h with
        | (.error f, h) =>
          let b := h.landFail o.part f
          b.2.endEntry xtag i b.1
        | (.ok _, h) =>
          let x := { x with landed := natInsert x.landed pos, segs := SMap.del x.segs pos }
          let h := h.setEnt xtag i x
          if x.count ≤ x.flagged then h
          else if x.flag.isNone then h.endEntry xtag i .destUnreachable
          else h.landFlag xtag i

/-- The base of a list is fixed; with ELEMS 0 its positions land at once (R270, R271). -/
def Hw.fixBase (h : Hw) (xtag : Nat) (src idx base : Nat) : Hw :=
  match SMap.find? h.opens xtag with
  | none => h
  | some o => match o.srcs.find? (fun s => s.coord = src) with
    | none => h
    | some s => match SMap.find? s.lists idx with
      | none => h
      | some l =>
        let s' := { s with lists := SMap.put s.lists idx { l with base := some base } }
        let o' := { o with srcs := o.srcs.map (fun t => if t.coord = src then s' else t) }
        let h := { h with opens := SMap.put h.opens xtag o' }
        match l.entry with
        | none => h
        | some i =>
          if s.elems ≠ 0 then h
          else (upto l.count).foldl (fun h r =>
            match (SMap.find? h.opens xtag).bind (fun o => o.ents[i]?) with
            | some x =>
              if x.done then h
              else if x.total ≤ base + r then h.endEntry xtag i .reserveRefused
              else h.landPos xtag i s l (base + r) r
            | none => h) h

/-- In deterministic mode bases follow the sources in ascending coordinate once all headers have come (R270). -/
def Hw.fixAll (h : Hw) (xtag : Nat) : Hw :=
  match SMap.find? h.opens xtag with
  | none => h
  | some o =>
    let srcs := sortBy (fun (a b : XSrc) => a.coord < b.coord) o.srcs
    (upto o.ents.length).foldl (fun h i =>
      (srcs.flatMap (fun s => (s.lists.filter (fun l => l.2.entry = some i)).map (fun l => (s.coord, l.1, l.2)))).foldl
        (fun (a : Nat × Hw) (x : Nat × Nat × XList) =>
          if x.2.2.base.isSome then a else (a.1 + x.2.2.count, a.2.fixBase xtag x.1 x.2.1 a.1)) (0, h) |>.2) h

/-- One list header of a header frame (R267, R270). -/
def Hw.takeHeader (h : Hw) (det : Bool) (xtag src idx : Nat) (bs : List Byte) : Hw :=
  match SMap.find? h.opens xtag with
  | none => h
  | some o => match o.srcs.find? (fun s => s.coord = src) with
    | none => h
    | some s =>
      if (SMap.find? s.lists idx).isSome then h
      else
        let expert := pay bs 2 2
        let replica := bits (pay bs 0 2) 10 8
        let i := o.ents.findIdx? (fun x => x.expert = expert && x.replica = replica)
        let l : XList := { count := pay bs 4 4, first := pay bs 8 4, entry := i }
        let s' := { s with lists := SMap.put s.lists idx l }
        let o' := { o with srcs := o.srcs.map (fun t => if t.coord = src then s' else t) }
        let h := { h with opens := SMap.put h.opens xtag o' }
        match i with
        | none => h.xchEvent 1 xtag o.part src expert replica
        | some i => match o.ents[i]? with
          | none => h
          | some x =>
            let h := if x.unfit s then h.endEntry xtag i .badDescriptor else h
            if det then h
            else
              let x := match (SMap.find? h.opens xtag).bind (fun o => o.ents[i]?) with | some y => y | none => x
              (h.setEnt xtag i { x with next := x.next + l.count }).fixBase xtag src idx x.next

/-- Count a discarded frame (XPT_XCH_DROP). -/
def Hw.xchExtra (h : Hw) : Hw := h.inc Reg.xptXchDropExtra xchB 0 1
def Hw.xchClosed (h : Hw) : Hw := h.inc Reg.xptXchDropClosed xchB 0 1

/-- The number of header frames' lists a frame carries. -/
def hdrCount (nlists first payload : Nat) : Nat :=
  Nat.min 126 (Nat.min (nlists - first) ((payload - 64) / 32))

/-- An accepted header frame of an open exchange (R267, R270, R275). -/
def Hw.landHeaders (h : Hw) (det : Bool) (xtag : Nat) (f : Frame) : Hw :=
  match SMap.find? h.opens xtag with
  | none => h.xchClosed
  | some o =>
    let p := f.payload
    let src := Frame.src f
    let known := o.srcs.find? (fun s => s.coord = src)
    if known.isNone && o.nsrc ≤ o.srcs.length then (h.xchEvent 2 xtag o.part src 0 0).xchExtra
    else if known.any (fun s => s.nlists ≤ s.lists.length) then (h.xchEvent 3 xtag o.part src 0 0).xchExtra
    else
      let fresh : XSrc := { coord := src, nlists := pay p 4 4, fmt := bits (pay p 12 4) 3 0
                            tiled := bit (pay p 12 4) 4, elems := pay p 16 4, retStride := pay p 20 4
                            retAddr := pay p 24 8, retBytes := pay p 32 4 }
      let o := if known.isSome then o else { o with srcs := o.srcs ++ [fresh] }
      let h := { h with opens := SMap.put h.opens xtag o }
      let first := pay p 8 4
      let n := hdrCount ((known.map (fun s => s.nlists)).getD fresh.nlists) first p.length
      let h := (upto n).foldl (fun h k => h.takeHeader det xtag src (first + k) ((p.drop (64 + 32 * k)).take 32)) h
      match SMap.find? h.opens xtag with
      | none => h
      | some o =>
        if !o.allHeaders then h
        else
          let h := if det then h.fixAll xtag else h
          (upto o.ents.length).foldl (fun h i => h.endIfLanded xtag i) h

/-- An XTAG is open or in the closed list. -/
def Hw.xtagKnown (h : Hw) (xtag : Nat) : Bool := (SMap.find? h.opens xtag).isSome || h.closedX.contains xtag

/-- The XTAG that a flow's XIDX maps to (R570). -/
def Hw.xtagOf (h : Hw) (f : Frame) : Option Nat :=
  let x := h.rxFlow (flowKey (cDie (Frame.src f)) (cNode (Frame.src f)))
  if x.valid && x.inc = Frame.inc f then (x.xtags.find? (fun q => q.1 = Frame.xidx f)).map (fun q => q.2) else none

/-- EXCH_HDR (R267, R270, R275, R570). -/
def exchHdr (f : Frame) (e : Env) (h : Hw) : Hw :=
  if Frame.typ f ≠ 2 then h
  else
    let xtag := pay f.payload 0 4
    match h.arrive f (fun h => h.xtagKnown xtag) with
    | (false, h) => h
    | (true, h) =>
      let key := flowKey (cDie (Frame.src f)) (cNode (Frame.src f))
      let x := h.rxFlow key
      let h := h.setRxFlow key { x with
        xtags := ((Frame.xidx f, xtag) :: x.xtags.filter (fun q => q.1 ≠ Frame.xidx f)).take 4 }
      h.landHeaders e.tl.det xtag f

/-- A row frame's destination can take it: its XTAG and list are known, and its base fixed (R270, R570). -/
def Hw.rowReady (h : Hw) (f : Frame) : Bool :=
  match h.xtagOf f with
  | none => false
  | some xtag => match SMap.find? h.opens xtag with
    | none => h.closedX.contains xtag
    | some o => match o.srcs.find? (fun s => s.coord = Frame.src f) with
      | none => o.nsrc ≤ o.srcs.length
      | some s => match SMap.find? s.lists (bits (Frame.arg f) 13 0) with
        | none => false
        | some l => match l.entry.bind (fun i => o.ents[i]?) with
          | none => true
          | some x => x.done || (l.base.isSome && !x.waiting)

/-- One segment of a row frame: its dense bytes and how much of the payload it took, or a tile that fails R165. -/
def segOf (fm : Fmt) (tiled : Bool) (n : Nat) (p : List Byte) : Option (List Byte × Nat) :=
  if tiled then
    match readTile 1 fm n p with
    | some t => some (t.seg.dense fm, t.bytes)
    | none => none
  else some (p.take (fm.rowBytes n), fm.rowBytes n)

/-- A payload has another segment: after the last one fewer than 64 bytes follow, all zero (R268). -/
def moreSegs (tiled : Bool) (n : Nat) (p : List Byte) : Bool :=
  if tiled then 64 ≤ p.length || p.any (fun b => b ≠ 0) else n ≤ p.length

/-- Land the segments of a row frame, from row `r`, segment `s` (R268, R270); segments of positions that have landed are
discarded (R275). Answers whether any was. -/
def Hw.landSegs (h : Hw) (xtag i : Nat) (src : XSrc) (l : XList) (fm : Fmt) (base : Nat) :
    Nat → Nat → Nat → List Byte → Bool × Hw
  | 0, _, _, _ => (false, h)
  | k + 1, r, s, p =>
    match SMap.find? h.opens xtag with
    | none => (false, h)
    | some o => match o.ents[i]? with
      | none => (false, h)
      | some x =>
        let nseg := ceilDiv src.elems 256
        let n := Nat.min 256 (src.elems - 256 * s)
        if x.done || l.count ≤ r || nseg ≤ s || !moreSegs src.tiled (fm.rowBytes n) p then (false, h)
        else
          let pos := base + r
          let nx := if s + 1 = nseg then (r + 1, 0) else (r, s + 1)
          match segOf fm src.tiled n p with
          | none => (false, if x.landed.contains pos then h else h.endEntry xtag i .sparseFormat)
          | some (bs, used) =>
            if x.landed.contains pos then
              let q := Hw.landSegs h xtag i src l fm base k nx.1 nx.2 (p.drop used)
              (true, q.2)
            else if x.total ≤ pos then (false, h.endEntry xtag i .reserveRefused)
            else match runOp (writePos x pos (fm.rowBytes (256 * s)) bs) h with
              | (.error f, h) =>
                let b := h.landFail o.part f
                (false, b.2.endEntry xtag i b.1)
              | (.ok _, h) =>
                let got := natInsert (SMap.get x.segs [] pos) s
                let h := h.setEnt xtag i { x with segs := SMap.put x.segs pos got }
                let h := if got.length = nseg then h.landPos xtag i src l pos r else h
                Hw.landSegs h xtag i src l fm base k nx.1 nx.2 (p.drop used)

/-- An accepted row frame (R268 to R271, R274, R275): one that brings a row whose position has landed counts in EXTRA, once. -/
def Hw.landRows (h : Hw) (xtag : Nat) (f : Frame) : Hw :=
  match SMap.find? h.opens xtag with
  | none => h.xchClosed
  | some o => match o.srcs.find? (fun s => s.coord = Frame.src f) with
    | none => h.xchExtra
    | some s =>
      let row := bits (Frame.arg f) 31 14
      match SMap.find? s.lists (bits (Frame.arg f) 13 0) with
      | none => h
      | some l => match l.entry with
        | none => h
        | some i => match o.ents[i]?, l.base, Fmt.ofCode s.fmt with
          | some x, some base, some fm =>
            if x.done then h.xchExtra
            else
              let q := h.landSegs xtag i s l fm base (64 * 4096) row (bits (Frame.arg f) 47 32) f.payload
              (if q.1 then q.2.xchExtra else q.2).endIfLanded xtag i
          | _, _, _ => h.xchExtra

/-- EXCH_ROW (R268, R270, R570). -/
def exchRow (f : Frame) (_ : Env) (h : Hw) : Hw :=
  if Frame.typ f ≠ 3 then h
  else match h.arrive f (fun h => h.rowReady f) with
    | (false, h) => h
    | (true, h) => match h.xtagOf f with
      | some xtag => h.landRows xtag f
      | none => h

/-! XCH_RETURN and XCH_CLOSE. -/

/-- The EXCH_RET frames of one position (R272, R569). -/
def retFrames (src part : Nat) (o : Owner) (ret dst : Nat) (bs : List Byte) : List TxFrame :=
  (upto (ceilDiv bs.length 4096)).map (fun k =>
    { typ := 4, cls := 2, part := some part, src := src, dst := dst, arg := (ret + 4096 * k) % 2 ^ 48,
      payload := granules ((bs.drop (4096 * k)).take 4096), owner := o })

/-- The frames of an XCH_RETURN, until a read fails (R272). -/
def returnFrames (e : Env) (x : XOpen) (ent : XEnt) (d : Desc) (src : Nat) (o : Owner) (h : Hw) :
    List TxFrame × Option Fail × Hw :=
  (upto ent.count).foldl (fun (a : List TxFrame × Option Fail × Hw) pos =>
    match a.2.1 with
    | some _ => a
    | none =>
      let rd : Op (List TxFrame) := do
        let rec_ ← match ent.tags with
        | none => failSt .destUnreachable
        | some a => loadB (a + 16 * pos) 16
        let dst := pay rec_ 8 4
        let n := ((x.srcs.find? (fun s => s.coord = dst)).map (fun s => s.retBytes)).getD 0
        let bs ← if n = 0 then pure [] else readExt e (d.fld 0x10 63 0 + pos * d.fld 0x0C 31 0) n
        return retFrames src x.part o (pay rec_ 0 8) dst bs
      match runOp rd a.2.2 with
      | (.ok l, h) => (a.1 ++ l, none, h)
      | (.error f, h) => (a.1, some f, h)) ([], none, h)

/-- XCH_RETURN: it waits for its entry's DONE, then sends the result rows (R272, R273, R416). -/
def Hw.runReturn (h : Hw) (e : Env) (die : Nat) (j : Job) : Hw :=
  let d := j.body
  let xtag := d.fld 4 31 0
  let foreign := (SMap.find? h.opens xtag).any (fun x => h.kpostForeign j.origin x.part)
  if foreign then h.xchDone die j .refused
  else if d.fld 0 31 9 ≠ 0 || d.fld 0x24 223 0 ≠ 0 || !h.flagFieldOk e (d.fld 0 8 8) (d.fld 0x18 63 0) (d.fld 0x20 31 0)
    || !h.addrOk e (d.fld 0x10 63 0) then h.xchDone die j .badDescriptor
  else match SMap.find? h.opens xtag with
    | none => h.xchDone die j (if h.closedX.contains xtag then .aborted else .badDescriptor)
    | some x =>
      match x.ents[d.fld 8 31 0]? with
      | none => h.xchDone die j .badDescriptor
      | some ent =>
        if x.closing && j.sent = 0 then h.xchDone die j .aborted
        else if !ent.done then h
        else
          let o : Owner := .job die 8 j.tag
          let r := returnFrames e x ent d (h.coord die 8) o h
          let h := (r.1.drop j.sent).foldl (fun (h : Hw) (t : TxFrame) => h.send t) r.2.2
          match r.2.1 with
          | some .held => h.putJob die 8 { j with sent := r.1.length }
          | bad =>
            let (done, h) : Done × Hw := match bad with
              | some f => h.failDone j.origin.opid (some x.part) (h.coord die 8) f
              | none => (⟨.ok, 0, 0⟩, h)
            h.putJob die 8 { j with
              started := true, result := some (done.st, if done.st.ownValue then done.value else ent.count) }

/-- XCH_RETURN (R272): the oldest that has not begun and whose entry is DONE, or that cannot be served. -/
def xchReturn (die : Nat) (e : Env) (h : Hw) : Hw :=
  if die < 24 || 28 ≤ die then h
  else
    let ready (j : Job) : Bool :=
      j.body.fld 0 7 0 = 0x13 && !j.started && (match SMap.find? h.opens (j.body.fld 4 31 0) with
        | some x => match x.ents[j.body.fld 8 31 0]? with | some ent => ent.done || x.closing | none => true
        | none => true)
    match (h.queue die 8).find? ready with
    | some j => (h.runReturn e die j).settleExchange e
    | none => match h.xchJob die 0x13 with
      | some j => h.runReturn e die j
      | none => h

/-- EXCH_RET: the bytes of a returned row are written at their offset; when all have landed the source owner writes
RET_FLAG (R272). A row ends where its RET_BYTES do, so the padding of its last granule is not written. -/
def exchRet (f : Frame) (e : Env) (h : Hw) : Hw :=
  if Frame.typ f ≠ 4 then h
  else match h.arrive f (fun h => !h.clearing (Frame.arg f) f.payload.length) with
    | (false, h) => h
    | (true, h) =>
      let a := Frame.arg f
      let x := h.xrets.find? (fun x => x.src = Frame.dst f && x.lo ≤ a && a < x.lo + x.pairs * x.stride)
      let n := match x with
        | some x => Nat.min f.payload.length (x.bytes - (a - x.lo) % orElse x.stride 1)
        | none => f.payload.length
      match h.localMem e a n with
      | .error _ => h
      | .ok off => match runOp (storeB off (f.payload.take n)) h with
        | (.error _, h) => h
        | (.ok _, h) => match x with
          | none => h
          | some x =>
            let y := { x with got := x.got + n }
            if y.pairs * y.bytes ≤ y.got then
              ({ h with xrets := h.xrets.filter (fun z => z.job ≠ x.job) }).flag x.flag x.tag x.pairs
            else { h with xrets := h.xrets.map (fun z => if z.job = x.job then y else z) }

/-- XCH_CLOSE (R274): landing stops, waiting XCH_RETURNs abort, and the close completes once every ALLOC of the XTAG
has. -/
def Hw.runClose (h : Hw) (die : Nat) (j : Job) : Hw :=
  let h := h.settleLandings
  let d := j.body
  let xtag := d.fld 8 31 0
  let foreign := (SMap.find? h.opens xtag).any (fun x => h.kpostForeign j.origin x.part)
  if foreign then h.xchDone die j .refused
  else if d.fld 0 31 8 ≠ 0 || d.fld 4 31 0 ≠ 0 || d.fld 0x0C 415 0 ≠ 0 then h.xchDone die j .badDescriptor
  else match SMap.find? h.opens xtag with
    | none => h.xchDone die j .ok
    | some o =>
        let h := (upto o.ents.length).foldl (fun h i => h.endEntry xtag i .aborted) h
        let h := (upto 4).foldl (fun h f =>
          (h.queue (24 + f) 8).foldl (fun h q =>
            if q.body.fld 0 7 0 = 0x13 && !q.started && q.sent = 0 && q.body.fld 4 31 0 = xtag then h.xchDone (24 + f) q .aborted
            else h) h) h
        let h := match SMap.find? h.opens xtag with
          | some o => { h with opens := SMap.put h.opens xtag { o with closing := true } }
          | none => h
        (h.putJob die 8 { j with started := true }).tryClose xtag

/-- XCH_CLOSE (R274). -/
def xchClose (die : Nat) (_ : Env) (h : Hw) : Hw :=
  if die < 24 || 28 ≤ die then h
  else match h.xchJob die 0x14 with
    | some j => h.runClose die j
    | none => h

/-- XCH_SEND (R266). -/
def execXchSend (die : Nat) (s : State) : Host.Outcome State Fault Refusal := onHw (xchSend die) s

/-- XCH_OPEN (R269). -/
def execXchOpen (die : Nat) (s : State) : Host.Outcome State Fault Refusal := onHw (xchOpen die) s

/-- XCH_RETURN (R272). -/
def execXchReturn (die : Nat) (s : State) : Host.Outcome State Fault Refusal := onHw (xchReturn die) s

/-- XCH_CLOSE (R274). -/
def execXchClose (die : Nat) (s : State) : Host.Outcome State Fault Refusal := onHw (xchClose die) s

/-- EXCH_HDR (R267). -/
def execExchHdr (frame : Frame) (s : State) : Host.Outcome State Fault Refusal := onHw (exchHdr frame) s

/-- EXCH_ROW (R268). -/
def execExchRow (frame : Frame) (s : State) : Host.Outcome State Fault Refusal := onHw (exchRow frame) s

/-- EXCH_RET (R272). -/
def execExchRet (frame : Frame) (s : State) : Host.Outcome State Fault Refusal := onHw (exchRet frame) s

end Sys2Proof.Machine
end

