-- ==== Sys2Proof/Machine/Chunk.lean ====
section
/-! DEFINITION. The chunk preamble of collectives (R336), the signature's check (R337), and what a node checks of the
chunks it reduces (R338). -/

namespace Sys2Proof.Machine

/-- CRC-64 with the ECMA-182 polynomial, not reflected, initial value and final XOR zero (R337). -/
def crc64 (l : List Byte) : Nat :=
  l.foldl (fun c b => crcMsbBits 0x42F0E1EBA9EA3693 64 8 (Nat.xor c (b.toNat <<< 56))) 0

/-- A chunk preamble (R336). `clean` tells that its reserved fields are zero. -/
structure Pre where
  sig : Nat := 0
  opseq : Nat := 0
  idx : Nat := 0
  status : Nat := 0
  role : Nat := 0
  down : Bool := false
  tree : Nat := 0
  level : Nat := 0
  origin : Nat := 0
  offender : Nat := 0
  rank : Nat := 0
  sat : Nat := 0
  nonfin : Nat := 0
  uflow : Nat := 0
  clean : Bool := true
  deriving DecidableEq, Repr

/-- The preamble in granule 0 of a payload. -/
def Pre.of (p : List Byte) : Pre :=
  let b := pay p 0x11 1
  { sig := pay p 0 8, opseq := pay p 8 4, idx := pay p 12 4, status := pay p 16 1, role := bits b 2 0
    down := bit b 3, tree := bits b 4 4, level := pay p 18 1, origin := pay p 20 4, offender := pay p 24 4
    rank := pay p 28 4, sat := pay p 32 4, nonfin := pay p 36 4, uflow := pay p 40 4
    clean := bits b 7 5 = 0 && pay p 19 1 = 0 && pay p 0x2C 20 = 0 }

/-- The 64 bytes of a preamble. -/
def Pre.bytes (p : Pre) : List Byte :=
  toBytes 8 p.sig ++ toBytes 4 p.opseq ++ toBytes 4 p.idx ++ toBytes 1 p.status
    ++ toBytes 1 (p.role % 8 + 8 * b2n p.down + 16 * (p.tree % 2)) ++ toBytes 1 p.level ++ [0] ++ toBytes 4 p.origin
    ++ toBytes 4 p.offender ++ toBytes 4 p.rank ++ toBytes 4 p.sat ++ toBytes 4 p.nonfin ++ toBytes 4 p.uflow
    ++ rep 20 0

/-- ROLE codes (R336). -/
def roleContrib : Nat := 0
def roleResult : Nat := 1
def roleSignature : Nat := 2
def roleData : Nat := 3

/-- What identifies a chunk: SIG, OPSEQ and CHUNK_IDX. -/
def Pre.ident (p : Pre) : Nat × Nat × Nat := (p.sig, p.opseq, p.idx)

/-- The reference of a set of inputs: held by the most of them, on a tie that of input 0 (R338). -/
def refOf (l : List Pre) : Nat × Nat × Nat :=
  let ids := l.map Pre.ident
  let n (x : Nat × Nat × Nat) : Nat := (ids.filter (fun y => y = x)).length
  let most := ids.foldl (fun m x => Nat.max m (n x)) 0
  match ids.filter (fun x => n x = most) with
  | x :: rest => if rest.all (fun y => y = x) then x else ids.headD (0, 0, 0)
  | [] => (0, 0, 0)

/-- The checks of R338, with the sizes of R301 after the first: the status code and the offender of a failing chunk.
`sizes` tells for each input whether its size is right, `srcs` the coordinate a size mismatch names. -/
def checkInputs (l : List Pre) (sizes : List Bool) (srcs : List Nat) : Option (Nat × Nat) :=
  match l.find? (fun p => p.status ≠ 0) with
  | some p => some (p.status, p.offender)
  | none =>
    match sizes.findIdx? (fun b => !b) with
    | some k => some (Status.mismatch.code, srcs.getD k 0)
    | none =>
      let r := refOf l
      (l.find? (fun p => p.ident ≠ r || p.role ≠ roleContrib || p.down || !p.clean)).map (fun p =>
        (Status.mismatch.code, p.origin))

/-- A count that stops at its greatest 32-bit value. -/
def sat32 (n : Nat) : Nat := Nat.min n (2 ^ 32 - 1)

/-- The preamble a node sends up for the chunks it has reduced, with its own conversion counts (R338). -/
def outPre (l : List Pre) (own : Counts) (top : Bool) : Pre :=
  let r := refOf l
  let p0 := l.headD {}
  let sum (f : Pre → Nat) (n : Nat) : Nat := sat32 ((l.map f).sum + n)
  { sig := r.1, opseq := r.2.1, idx := r.2.2, role := if top then roleResult else roleContrib, down := top
    tree := p0.tree, level := (l.getD 1 p0).level, origin := p0.origin
    sat := sum Pre.sat own.saturations, nonfin := sum Pre.nonfin own.nonfinite, uflow := sum Pre.uflow own.underflows }

/-! Fields of a COLL frame's ARG (R287, R298). -/

def Frame.ctx (f : Frame) : Nat := bits (Frame.arg f) 9 0
def Frame.key (f : Frame) : Nat := bits (Frame.arg f) 25 10
def Frame.chunk (f : Frame) : Nat := bits (Frame.arg f) 47 26

/-- ARG of a COLL frame. -/
def collArg (idx key chunk : Nat) : Nat := idx % 2 ^ 10 + key % 2 ^ 16 * 2 ^ 10 + chunk % 2 ^ 22 * 2 ^ 26

end Sys2Proof.Machine
end

