-- ==== Sys2Proof/Machine/Switch.lean ====
section
/-! DEFINITION. The switch cores (10_switch_core.md): forwarding, the packet buffer's charges, egress arbitration,
mirroring, ageing where frames wait, and multicast. -/

namespace Sys2Proof.Machine

/-- Base of a switch core's registers (R28). -/
def swB (f : Nat) : Nat := rkey f 9 0

/-- Frames buffered in the package's switch cores. -/
def Hw.bufs (h : Hw) : List Buf := h.arrived ++ h.egress.flatMap (fun q => q.2)

/-- Shared-pool granules held at an F-die by frames that meet a condition. -/
def Hw.sharedBy (h : Hw) (die : Nat) (c : Buf → Bool) : Nat :=
  ((h.bufs.filter (fun b => b.shared && b.die = die && c b)).map (fun b => bufGranules b.frame)).sum

/-- Shared-pool granules held at an F-die, multicast originals among them (R281, R290). -/
def Hw.sharedUsed (h : Hw) (die : Nat) : Nat :=
  h.sharedBy die (fun _ => true)
    + ((h.originals.filter (fun o => o.die = die)).map (fun o => bufGranules o.frame)).sum

/-- Granules of the shared pool (R281). -/
def poolSize : Nat := 733184

/-- The pool's share of a partition: granules its frames may hold (R455). -/
def Hw.poolShare (h : Hw) (p : Nat) : Nat :=
  let w (q : Nat) : Nat := orElse (h.rf Reg.sharePool pkgB q) 1
  let total := (((upto 8).filter (fun q => h.loaded q)).map w).sum
  poolSize * w p / orElse total 1

/-- The partition whose share of the pool a frame takes: one of this package, for a frame that has crossed no link
(R455). -/
def Hw.poolPart (h : Hw) (die : Nat) (f : Frame) : Option Nat :=
  if Frame.hops f ≠ 0 || Frame.ptag f = 0 then none
  else (h.tagPart die (Frame.ptag f)).bind (fun p => if h.loaded p then some p else none)

/-- The charge of a frame is to the shared pool (R283, R284, R455). -/
def Hw.chargeShared (h : Hw) (die point : Nat) (f : Frame) : Bool :=
  let g := bufGranules f
  let b := swB die
  let cap := Nat.min poolSize (h.rf Reg.swBufCap b)
  let used := h.sharedBy die (fun x => x.point = point && Frame.cls x.frame = Frame.cls f)
  let hopsLeft := 5 - Frame.hops f
  used + g ≤ cap && g + hopsLeft * h.rf Reg.swBufHopResv b ≤ poolSize - h.sharedUsed die
    && (match h.poolPart die f with
        | some p => h.sharedBy die (fun x => x.part = some p) + g ≤ h.poolShare p
        | none => true)

/-- The guaranteed area of an ingress point and class has room for a frame (R281); it always has for one that its sender
held credits for (R283). -/
def Hw.guardRoom (h : Hw) (die point : Nat) (f : Frame) : Bool :=
  ((h.bufs.filter (fun b => !b.shared && b.die = die && b.point = point && Frame.cls b.frame = Frame.cls f)).map
    (fun b => bufGranules b.frame)).sum + bufGranules f ≤ guaranteed

/-- Charge a frame as it is taken from its ingress point (R283). -/
def Hw.charge (h : Hw) (die point : Nat) (f : Frame) : Buf × Hw :=
  let s := h.chargeShared die point f
  let h := if s then (h.inc Reg.swFwdShared (swB die) 0 1).owe die point (Frame.cls f) (bufGranules f) else h
  ({ die := die, point := point, frame := f, shared := s, part := if s then h.poolPart die f else none }, h)

/-! Mirroring (R293, R294). -/

/-- Sampling interval as a power of two (SW_MIRROR.LOG2N). -/
def Hw.mirrorLog (h : Hw) (die : Nat) : Nat := Nat.max 4 (Nat.min 24 (h.rf Reg.swMirrorLog2n (swB die)))

/-- Count a frame that has passed HCRC at its ingress and, for every N-th one, make the record of R294. Of a frame that is
not forwarded, EGRESS is 12 (log entry 48). -/
def Hw.mirror (h : Hw) (die point out : Nat) (f : Frame) : Hw :=
  let b := swB die
  if h.rf Reg.swMirrorEnable b ≠ 1 || !bit (h.rf Reg.swMirrorPorts b) point then h
  else
    let sw : Switch := SMap.get h.switches {} die
    let n := sw.counted + 1
    let h := { h with switches := SMap.put h.switches die { sw with counted := n } }
    if n % 2 ^ h.mirrorLog die ≠ 0 then h
    else
      let skip (h : Hw) : Hw := h.inc Reg.swMirrorCntSkipped b 0 1
      let made (h : Hw) : Hw :=
        { (h.inc Reg.swMirrorCntSamples b 0 1) with
          switches := SMap.put h.switches die { sw with counted := n, sample := sw.sample + 1 } }
      let body := toBytes 8 h.now ++ toBytes 1 point ++ toBytes 1 out ++ toBytes 1 (Frame.len f) ++ [0]
        ++ toBytes 4 sw.sample
        ++ (toBytes 32 f.hdr.toNat ++ f.payload ++ toBytes 4 f.e2e.toNat ++ toBytes 4 f.hcrc.toNat ++ rep 128 0).take 128
      if h.rf Reg.swMirrorDest b = 0 then
        if h.mirrorRecs.length < 256 then made { h with mirrorRecs := h.mirrorRecs ++ [body] } else skip h
      else
        let k := h.rf Reg.swMirrorRingRing b
        let e := fkey 0 0
        if 16 ≤ k || h.rf Reg.eqStatusState e k ≠ 1 || !h.io.linkUp
          || ringFree (h.rf Reg.eqCfgSize e k) (h.rf Reg.eqStatusHead e k) (h.rf Reg.eqStatusTail e k)
            < 3 + b2n ((SMap.get h.io.rings {} (eqKey 0 k)).lost ≠ 0) then skip h
        else
          let seq := h.io.evSeq
          made (({ h with io := { h.io with evSeq := seq + 1 } }).deliver 0 k 0x07 3 0 (h.coord die 9) seq false body)

/-! Forwarding (R258, R277, R278). -/

/-- Where a switch core sends a frame. -/
inductive Egress where
  /-- Local delivery, through the package port. -/
  | here
  | port (p : Nat)
  /-- No usable gateway: it waits (R528). -/
  | nowhere
  deriving DecidableEq, Repr

/-- The egress of a frame (R258), from the tables of the F-die it is at. -/
def Hw.egressOf (h : Hw) (die : Nat) (f : Frame) : Egress :=
  let own := h.node
  let g := groupOf own
  let m := memberOf own
  let dst := cNode (Frame.dst f)
  let src := cNode (Frame.src f)
  if dst = own then .here
  else if groupOf dst = g then
    if Frame.nonmin f && src = own then .port (h.localPort m (Frame.gwMember f))
    else .port (h.localPort m (memberOf dst))
  else
    let gw : Option (Nat × Nat) :=
      if g = groupOf src then some (Frame.gwMember f, Frame.gwSlot f)
      else weightedPick ((h.gateways die m (groupOf dst)).filter (fun x => 0 < x.2.2))
        (sprayOf (Frame.src f) (Frame.dst f) (Frame.seq f))
    match gw with
    | some (mem, slot) => .port (if mem = m then h.globalPort slot else h.localPort m mem)
    | none => .nowhere

/-- The F-die of a fabric port, or of a package port: number 48 and up in the numbering of egress queues. -/
def portDie (p : Nat) : Nat := if p < 48 then 24 + p / 12 else 24 + (p - 48) % 4

/-- The number of an F-die's package port among egress queues. -/
def packagePort (die : Nat) : Nat := 48 + (die - 24)

/-- The egress point a frame takes at an F-die (R276): a port of another F-die is reached through the package port. -/
def egressPoint (die : Nat) : Egress → Nat
  | .port p => if portDie p = die then p % 12 else 12
  | _ => 12

/-- Key of a port's queue of a class (R279). -/
def egressKey (port cls : Nat) : Nat := port * 4 + cls

/-- The size of the head frame of a queue where it may leave: its class holds the credits on a fabric port (R253, R280), the
die links to where it goes are up at a package port (R22, R24). -/
def Hw.sendable (h : Hw) (port cls : Nat) : Option Nat :=
  match SMap.get h.egress [] (egressKey port cls) with
  | b :: _ =>
    let ok := if port < 48 then bufGranules b.frame ≤ (h.port port).credits.getD cls 0
      else h.routeUp (portDie port) (b.toDie.getD (cDie (Frame.dst b.frame)))
    if ok then some (bufGranules b.frame) else none
  | [] => none

/-- A head frame of a fabric port stands without enough credits (R256). -/
def Hw.stalledNow (h : Hw) (port : Nat) : Bool :=
  (upto 4).any (fun c => !(SMap.get h.egress [] (egressKey port c)).isEmpty && (h.sendable port c).isNone)

/-- The queues or credits of a port have changed: the time for which it was stalled is kept (R256). -/
def Hw.noteStall (h : Hw) (port : Nat) : Hw :=
  let x := h.port port
  let s := h.stalledNow port
  if x.stallSince.isNone && !s then h
  else h.setPort port { x with stalled := x.stallTime h.now, stallSince := if s then some h.now else none }

/-- Queue a buffered frame at an egress point (R279). -/
def Hw.enqueueEgress (h : Hw) (port : Nat) (b : Buf) : Hw :=
  let k := egressKey port (Frame.cls b.frame)
  let h := { h with egress := SMap.put h.egress k (SMap.get h.egress [] k ++ [b]) }
  if port < 48 then h.noteStall port else h

/-- Forward one frame from an ingress point (R249, R258, R264, R278, R279, R283). -/
def Hw.forward (h : Hw) (die point : Nat) (f : Frame) (out : Egress) : Hw :=
  if !Frame.wellFormed f then
    ((h.mirror die point 12 f).incSat Reg.xptAbandonMalformed (xptB die) 0 1).owe die point (Frame.cls f) (bufGranules f)
  else
    let h := h.mirror die point (egressPoint die out) f
    if h.aged die f then
      (h.incSat Reg.xptDropAged (xptB die) 0 1).owe die point (Frame.cls f) (bufGranules f)
    else
      let h := h.inc Reg.swFwdFrames (swB die) 0 1
      let (b, h) := h.charge die point f
      match out with
      | .port p =>
        if portDie p = die then h.enqueueEgress p b else h.enqueueEgress (packagePort die) { b with toDie := some (portDie p) }
      | _ => h.enqueueEgress (packagePort die) b

/-- SWITCH_FORWARD: the first frame of an ingress point that has somewhere to go; one without a usable gateway waits
until it ages out, and one that a sender put there without credits until there is room (R258, R278, R281, R528). -/
def switchForward (die point : Nat) (_ : Env) (h : Hw) : Hw :=
  if die < 24 || 28 ≤ die || 13 ≤ point then h
  else
    let sw : Switch := SMap.get h.switches {} die
    let q := SMap.get sw.inq [] point
    match q.find? (fun f => h.egressOf die f ≠ .nowhere || h.aged die f || !Frame.wellFormed f) with
    | none => h
    | some f =>
      let out := h.egressOf die f
      if Frame.wellFormed f && !(h.aged die f) && !(h.chargeShared die point f) && !(h.guardRoom die point f) then h
      else { h with switches := SMap.put h.switches die { sw with inq := SMap.put sw.inq point (q.erase f) } }.forward
        die point f out

/-! Egress arbitration (R280). -/

/-- Discard the frames at the head of a queue that have grown too old (R264). -/
def Hw.dropAgedHead (h : Hw) (port cls : Nat) : Nat → Hw
  | 0 => h
  | n + 1 =>
    let k := egressKey port cls
    match SMap.get h.egress [] k with
    | [] => h
    | b :: rest =>
      if h.aged (portDie port) b.frame then
        Hw.dropAgedHead (({ h with egress := SMap.put h.egress k rest }.releaseBuf b).incSat Reg.xptDropAged
          (xptB (portDie port)) 0 1) port cls n
      else h

/-- HOPS may not exceed 5, nor 3 on a minimal path (R249). -/
def loops (f : Frame) : Bool := 5 < Frame.hops f + 1 || (!Frame.nonmin f && 3 < Frame.hops f + 1)

/-- A frame as an egress sends it: HOPS incremented, HCRC computed anew, or made not to match where a word of it
cannot be read (R248, R286). -/
def Buf.out (b : Buf) : Frame :=
  let f := Frame.seal (Frame.withHops b.frame (Frame.hops b.frame + 1))
  if b.bad then { f with hcrc := ~~~ f.hcrc } else f

/-- The egress read of a buffered frame: corrected words are counted, an uncorrectable one is counted and recorded
(R286). -/
def Hw.egressRead (h : Hw) (die : Nat) (b : Buf) : Hw :=
  let h := if b.corr = 0 then h else h.incSat Reg.swEccCorrected (swB die) 0 b.corr
  if b.bad then
    let r := (h.incSat Reg.swEccUncorr (swB die) 0 1).drawFree
    r.2.error 1 3 0 0 r.1.toNat none (r.2.coord die 9)
  else h

/-- Send the head frame of a fabric port's queue, or discard it as a loop (R249, R280, R286). -/
def Hw.sendHead (h : Hw) (port cls : Nat) : Hw :=
  let k := egressKey port cls
  match SMap.get h.egress [] k with
  | [] => h
  | b :: rest =>
    let h := { h with egress := SMap.put h.egress k rest }.releaseBuf b
    if loops b.frame then h.incSat Reg.xptAbandonLoop (xptB (portDie port)) 0 1
    else
      let h := h.egressRead (portDie port) b
      let x := h.port port
      h.setPort port { x with
        credits := listSet x.credits cls (x.credits.getD cls 0 - bufGranules b.frame)
        wire := x.wire ++ [b.out] }

/-- The head frame of a package port's queue leaves: its owner has the notice of one to deliver here, which waits for the
answer in its buffer (R250); one for another F-die goes over the edge ring to that F-die's package port, where one that
cannot be read is discarded (R258, R276, R286). -/
def Hw.sendInside (h : Hw) (port cls : Nat) : Hw :=
  let k := egressKey port cls
  match SMap.get h.egress [] k with
  | [] => h
  | b :: rest =>
    let h := { h with egress := SMap.put h.egress k rest }
    match b.toDie with
    | none => { h with arrived := h.arrived ++ [b] }
    | some f =>
      let h := (h.releaseBuf b).egressRead (portDie port) b
      if b.bad then h else h.toRouting f b.frame

/-- The head frame of a queue leaves its egress point. -/
def Hw.leaveHead (h : Hw) (port cls : Nat) : Hw :=
  if port < 48 then (h.sendHead port cls).noteStall port else h.sendInside port cls

/-- The quantum of a class (SW_ARB). -/
def Hw.quantum (h : Hw) (die q : Nat) : Nat :=
  let b := swB die
  orElse (if q = 0 then h.rf Reg.swArbQColl b else if q = 1 then h.rf Reg.swArbQExch b else h.rf Reg.swArbQBulk b) 1

/-- EGRESS_ARBITRATION at a fabric port, or at the package port of an F-die, 48 to 51: control first, then deficit round
robin over collective, exchange and bulk (R280). -/
def egressArbitration (port : Nat) (_ : Env) (h : Hw) : Hw :=
  if 52 ≤ port || (port < 48 && h.pf Reg.xptPortState port ≠ pUp) then h
  else
    let h := (upto 4).foldl (fun h c => h.dropAgedHead port c (SMap.get h.egress [] (egressKey port c)).length) h
    let h := if port < 48 then h.noteStall port else h
    if (h.sendable port 0).isSome then h.leaveHead port 0
    else
      let x := h.port port
      let r := drr 3 (fun q => h.sendable port (q + 1)) (fun q => h.quantum (portDie port) q) x.arb
      let h := h.setPort port { x with arb := r.2 }
      match r.1 with
      | some q => h.leaveHead port (q + 1)
      | none => h

/-- AGE_OUT: the head frame of an egress queue, or the first frame at an arriving F-die, that is too old is discarded
(R264, R285). -/
def ageOut (place : AgePlace) (_ : Env) (h : Hw) : Hw :=
  match place with
  | .egress port cls =>
    let k := egressKey port cls
    (match SMap.get h.egress [] k with
     | b :: rest =>
       if h.aged (portDie port) b.frame then
         let h := ({ h with egress := SMap.put h.egress k rest }.releaseBuf b).incSat Reg.xptDropAged (xptB (portDie port)) 0 1
         if port < 48 then h.noteStall port else h
       else h
     | [] => h)
  | .arriving die =>
    (match h.arrived.find? (fun b => b.die = die && h.aged die b.frame) with
     | some b => ({ h with arrived := h.arrived.erase b }.releaseBuf b).incSat Reg.xptDropAged (xptB die) 0 1
     | none => h)

/-! Multicast (R287 to R292). -/

/-- A 32-bit word of a multicast entry (R288). -/
def Hw.mcWord (h : Hw) (die entry off : Nat) : Nat :=
  let w := (SMap.get h.regs 0 (rkey die 9 (0x40000 + 0x80 * entry + off / 8 * 8))).toNat
  if off % 8 = 0 then bits w 31 0 else bits w 63 32

/-- The entry of a multicast frame: tag and targets, where it is valid, has the frame's KEY, and has no reserved bit
set (R288, R289). Target 30, whose place by the formula of R288 is the first word of the entry after, counts only where
NCOPY is 31: the one a SETUP kept, else what stands there (DESIGN CHOICE, log entry 102). -/
def Hw.mcEntry (h : Hw) (die entry key : Nat) : Option (Nat × List Nat) :=
  let w := h.mcWord die entry 0
  let n := bits w 20 16
  let t := h.mcWord die entry 4
  let targets := (upto 30).map (fun i => h.mcWord die entry (8 + 4 * i)) ++ (if n = 31 then
    [(SMap.find? h.mcExtra (die * 1024 + entry)).getD (h.mcWord die entry 0x80)] else [])
  if bit w 31 && bits w 30 21 = 0 && bits w 15 0 = key && bits t 31 16 = 0
    && (targets.drop n).all (fun x => x = 0) && (targets.take n).all (fun x => bits x 31 24 = 0)
  then some (bits t 15 0, targets.take n) else none

/-- The shared pool has room for a multicast original beside the charge it came with (R290). -/
def Hw.mcRoom (h : Hw) (f : Frame) (die : Nat) : Bool :=
  let own := match h.arrived.find? (fun b => b.frame = f) with
    | some b => if b.shared && b.die = die then bufGranules f else 0
    | none => 0
  h.sharedUsed die - own + bufGranules f ≤ poolSize

/-- MULTICAST_FRAME: a COLL frame at a switch core (R287 to R290). -/
def multicastFrame (f : Frame) (_ : Env) (h : Hw) : Hw :=
  let die := cDie (Frame.dst f)
  if Frame.typ f ≠ 9 || cUnit (Frame.dst f) ≠ 9 || die < 24 || 28 ≤ die then h
  else
    let place := match h.arrived.find? (fun b => b.frame = f) with
      | some b => (b.die, b.point)
      | none => (die, 12)
    let makes (h : Hw) : Bool := match h.mcEntry die (bits (Frame.arg f) 9 0) (bits (Frame.arg f) 25 10) with
      | some (_, targets) => !targets.isEmpty
      | none => false
    match h.arrive f (fun h => !(makes h) || h.mcRoom f die) with
    | (false, h) => h
    | (true, h) =>
      match h.mcEntry die (bits (Frame.arg f) 9 0) (bits (Frame.arg f) 25 10) with
      | none => h.inc Reg.swMcMissed (swB die) 0 1
      | some (tag, targets) =>
        if targets.isEmpty then h
        else
          let o : McOrig := { id := h.nextOrig, die := die, inDie := place.1, point := place.2, frame := f, tag := tag,
                              copies := targets.zipIdx.map (fun (x : Nat × Nat) => (x.2, x.1, false)) }
          { h with originals := h.originals ++ [o], nextOrig := h.nextOrig + 1 }

/-- The copy of a multicast frame for a target (R290). -/
def McOrig.copyFor (o : McOrig) (src t target : Nat) : TxFrame :=
  { typ := Frame.typ o.frame, cls := Frame.cls o.frame, ordered := Frame.ordered o.frame
    tag := if cUnit target = 9 && 24 ≤ cDie target && cDie target < 28 then 0 else o.tag
    src := src, dst := target, arg := Frame.arg o.frame, payload := o.frame.payload, owner := .copy o.die o.id t }

/-- The first-hop egress of a path (R258). -/
def Hw.firstPort (h : Hw) (dst : Nat) (p : Path) : Option Nat :=
  let m := memberOf h.node
  if cNode dst = h.node then none
  else if p.far then some (if p.gwMember = m then h.globalPort p.gwSlot else h.localPort m p.gwMember)
  else if p.nonmin then some (h.localPort m p.gwMember)
  else some (h.localPort m (memberOf (cNode dst)))

/-- A copy may be sent: its flow has window room and the class on its first-hop egress holds credits; a copy that
cannot be sent at all goes now as well, to fail (R252, R291). -/
def Hw.copyReady (h : Hw) (det : Bool) (die : Nat) (t : TxFrame) : Bool :=
  match h.judgeTx die (262144 ≤ h.recordsAt die) t with
  | .fail => true
  | .go =>
    let x := h.txFlow die (flowKey (cDie t.src) (cNode t.dst))
    (match h.path det die t.src t.dst x.next x.recs.length with
     | none => true
     | some p => match h.firstPort t.dst p with
       | none => true
       | some q => t.payload.length / 64 + 1 ≤ (h.port q).credits.getD t.cls 0)
  | _ => false

/-- In input-copy mode a frame's copies wait for those of the frame before it from the same ingress point (R292): a
copy has been handed over once its first transmission stands at no switch queue of this package. -/
def Hw.copyHeld (h : Hw) (die : Nat) (o : McOrig) : Bool :=
  h.rf Reg.swCtrlInputCopy (swB die) = 1 &&
    h.originals.any (fun q => q.die = die && q.inDie = o.inDie && q.point = o.point && q.id < o.id &&
      q.copies.any (fun c => !c.2.2 || (h.bufs.map (fun b => b.frame) ++ h.stages.flatMap (fun s => s.2) ++
        (h.switches.flatMap (fun s => s.2.inq.flatMap (fun i => i.2)))).any (fun f =>
          Frame.src f = h.coord die 9 && Frame.dst f = c.2.1 && !(Frame.resent f) && f.payload = q.frame.payload
            && Frame.arg f = Frame.arg q.frame)))

/-- MULTICAST_COPY: the first copy at an F-die that is ready is sent (R290, R291). -/
def multicastCopy (die : Nat) (e : Env) (h : Hw) : Hw :=
  if die < 24 || 28 ≤ die then h
  else
    let l := (h.originals.filter (fun o => o.die = die && !h.copyHeld die o)).flatMap (fun o =>
      (o.copies.filter (fun c => !c.2.2)).map (fun c => (o, c.1, o.copyFor (h.coord die 9) c.1 c.2.1)))
    match l.find? (fun (x : McOrig × Nat × TxFrame) => h.copyReady e.tl.det die x.2.2) with
    | none => h
    | some (o, t, x) =>
      let sent (q : McOrig) : McOrig :=
        if q.id = o.id then { q with copies := q.copies.map (fun c => if c.1 = t then (c.1, c.2.1, true) else c) } else q
      let h := { (h.inc Reg.swMcCopies (swB die) 0 1) with originals := h.originals.map sent }
      if h.judgeTx die false x = TxVerdict.fail then h.ownerFail x.owner .destUnreachable
      else match h.transmit e.tl.det die x with
        | some h => h
        | none => h.ownerFail x.owner .destUnreachable

/-- SWITCH_FORWARD (R278). -/
def execSwitchForward (die point : Nat) (s : State) : Host.Outcome State Fault Refusal :=
  onHw (switchForward die point) s

/-- EGRESS_ARBITRATION (R280). -/
def execEgressArbitration (port : Nat) (s : State) : Host.Outcome State Fault Refusal := onHw (egressArbitration port) s

/-- MULTICAST_FRAME (R287). -/
def execMulticastFrame (frame : Frame) (s : State) : Host.Outcome State Fault Refusal := onHw (multicastFrame frame) s

/-- MULTICAST_COPY (R291). -/
def execMulticastCopy (die : Nat) (s : State) : Host.Outcome State Fault Refusal := onHw (multicastCopy die) s

/-- ACK_RECORD_SEND (R261). -/
def execAckRecordSend (die : Nat) (s : State) : Host.Outcome State Fault Refusal := onHw (ackRecordSend die) s

/-- LEVEL_SAMPLE (R256). -/
def execLevelSample (_ : Unit) (s : State) : Host.Outcome State Fault Refusal := onHw levelSample s

/-- AGE_OUT (R264). -/
def execAgeOut (place : AgePlace) (s : State) : Host.Outcome State Fault Refusal := onHw (ageOut place) s

end Sys2Proof.Machine
end

