-- ==== Sys2Proof/Machine/Stitch.lean ====
section
/-! DEFINITION. The stitch units (11_stitch_programs.md): contexts and claims, input chunks, the validation and the
instructions of programs, output and failure. -/

namespace Sys2Proof.Machine

/-! Entries (R296, R297). -/

/-- A context's entry (R296). -/
structure StuEnt where
  key : Nat
  start : Nat
  nin : Nat
  depth : Nat
  outFmt : Nat
  elems : Nat
  outg : Nat
  tag : Nat
  dst : Nat
  outIdx : Nat
  outKey : Nat
  fmts : List Nat
  srcs : List Nat
  clean : Bool
  deriving DecidableEq, Repr

/-- Fields of an entry; `clean` tells that its reserved fields, and what lies beyond NIN, are zero (R296, R304). -/
def StuEnt.of (w : BitVec 2048) : StuEnt :=
  let v := w.toNat
  let nin := fld v 4 5 0
  let fmts := (upto 32).map (fun k => fld v 0x20 (4 * k + 3) (4 * k))
  let srcs := (upto 32).map (fun k => fld v (0x80 + 4 * k) 31 0)
  { key := fld v 0 15 0, start := fld v 2 9 0, nin := nin, depth := fld v 5 2 0, outFmt := fld v 5 7 4
    elems := fld v 6 15 0, outg := fld v 8 15 0, tag := fld v 10 15 0, dst := fld v 12 31 0, outIdx := fld v 0x10 9 0
    outKey := fld v 0x10 25 10, fmts := fmts.take nin, srcs := srcs.take nin
    clean := fld v 2 15 10 = 0 && fld v 4 7 6 = 0 && fld v 5 3 3 = 0 && fld v 0x10 31 26 = 0 && fld v 0x14 15 11 = 0
      && fld v 0x16 15 6 = 0 && fld v 0x1C 31 3 = 0 && fld v 0x30 639 0 = 0
      && (fmts.drop nin).all (fun x => x = 0) && (srcs.drop nin).all (fun x => x = 0) }

/-- A unit of an F-die. -/
def onFdie (c : Nat) : Bool := 24 ≤ cDie c && cDie c < 28

/-- The format of input `k`. -/
def StuEnt.fmtOf (x : StuEnt) (k : Nat) : Fmt := (Fmt.ofCode (x.fmts.getD k 0)).getD .fp32

/-- The lane format of a context, or its key type, where FMTS and OUT_FMT agree with R297. -/
def StuEnt.lane (x : StuEnt) : Option Fmt :=
  let fs := x.fmts.map Fmt.ofCode
  let out := Fmt.ofCode x.outFmt
  let all (f : Fmt) : Bool := fs.all (fun g => g = some f)
  let narrow : List (Option Fmt) := [some .fp32, some .bf16, some .e4m3, some .e5m2]
  if x.elems = 0 then
    if all .int32 && out = some .int32 then some .int32
    else if all .uint32 && out = some .uint32 then some .uint32
    else if all .fp32 && out = some .fp32 then some .fp32
    else if all .fp64 && out = some .fp64 then some .fp64
    else none
  else if fs.all (fun g => narrow.contains g) && (narrow.contains out || out = some .uint32) then some .fp32
  else if all .fp64 && (out = some .fp64 || out = some .fp32) then some .fp64
  else if all .int32 && out = some .int32 then some .int32
  else if all .uint32 && out = some .uint32 then some .uint32
  else none

/-- Lanes of a lane format (R297). -/
def lanesOf (f : Fmt) : Nat := if f = .fp64 then 8 else 16

/-- Slots a context needs (R302). -/
def StuEnt.slots (x : StuEnt) : Nat := ceilDiv (x.depth * (64 * x.nin + x.outg)) 512

/-- Element bytes of the output. -/
def StuEnt.outBytes (x : StuEnt) : Nat := ((Fmt.ofCode x.outFmt).map Fmt.bytes).getD 4

/-- The checks of an entry (R304); the lane format where it passes. -/
def StuEnt.check (x : StuEnt) (h : Hw) (e : Env) : Option Fmt :=
  if !x.clean || x.nin = 0 || 32 < x.nin || x.depth = 0 || 4 < x.depth || x.outg = 0 || 2016 < x.outg then none
  else match x.lane with
    | none => none
    | some lf =>
      let okCoord (c : Nat) : Bool := bits c 31 24 = 0 && e.coordOk h.node c
      if !(x.srcs.all okCoord) || !noDup x.srcs || !okCoord x.dst
        || (onFdie x.dst && cUnit x.dst < 8 && 63 < x.outg) || (x.tag = 0 && !onFdie x.dst)
        || (x.elems ≠ 0 && (x.elems % lanesOf lf ≠ 0
            || (upto x.nin).any (fun k => 4032 < x.elems * (x.fmtOf k).bytes)))
        || 32 < x.slots then none
      else some lf

/-! Programs (R307, R308, R310). -/

/-- An instruction's fields (R307). -/
structure StuIns where
  opc : Nat
  vd : Nat
  va : Nat
  vb : Nat
  rsv : Nat
  sub : Nat
  imm : Nat
  deriving DecidableEq, Repr

/-- Fields of an instruction word. -/
def StuIns.of (w : Word) : StuIns :=
  ⟨w.fld 63 56, w.fld 55 51, w.fld 50 46, w.fld 45 41, w.fld 40 37, w.fld 36 32, w.fld 31 0⟩

/-- Bytes of a record (R317). -/
def StuIns.recBytes (i : StuIns) : Nat := 4 * 2 ^ bits i.imm 2 0
/-- K of a TOPK. -/
def StuIns.k (i : StuIns) : Nat := bits i.imm 31 16

/-- Fields an operation uses: VD, VA, VB, SUB, IMM (R308). -/
def stuUses : Nat → Option (Bool × Bool × Bool × Bool × Bool)
  | 0x00 | 0x01 | 0x28 => some (false, false, false, false, false)
  | 0x02 => some (false, false, false, false, true)
  | 0x08 | 0x0A => some (true, false, false, false, true)
  | 0x09 => some (false, true, false, true, false)
  | 0x0B => some (true, true, false, false, false)
  | 0x10 | 0x11 | 0x12 => some (true, false, false, false, false)
  | 0x13 => some (true, true, false, true, false)
  | 0x18 | 0x19 | 0x1A | 0x1B => some (true, true, true, false, false)
  | 0x20 | 0x21 | 0x23 => some (false, false, false, false, true)
  | 0x22 => some (false, true, false, true, true)
  | _ => none

/-- An instruction is encoded as R307, R308 and R317 allow. -/
def StuIns.ok (i : StuIns) (lf : Fmt) : Bool :=
  match stuUses i.opc with
  | none => false
  | some (d, a, b, s, m) =>
    i.rsv = 0 && (d || i.vd = 0) && (a || i.va = 0) && (b || i.vb = 0) && (m || i.imm = 0)
      && (if i.opc = 0x09 then i.sub < 2 else if s then i.sub < 8 else i.sub = 0)
      && (if 0x20 ≤ i.opc && i.opc ≤ 0x23 then
            bits i.imm 2 0 ≤ 4 && !(lf = .fp64 && bits i.imm 2 0 = 0) && bits i.imm 15 4 = 0
              && (i.opc = 0x21 || bit i.imm 3 = false) && (i.opc = 0x23 || i.k = 0)
          else true)

/-- The folds, and the operations a GLOOP body may hold (R310). -/
def isFold (o : Nat) : Bool := 0x10 ≤ o && o ≤ 0x13
def inBody (o : Nat) : Bool := (0x08 ≤ o && o ≤ 0x0B) || isFold o || (0x18 ≤ o && o ≤ 0x1B)
def isRecord (o : Nat) : Bool := 0x20 ≤ o && o ≤ 0x23

/-- Registers an instruction reads and the one it writes. -/
def StuIns.reads (i : StuIns) : List Nat :=
  if i.opc = 0x09 || i.opc = 0x0B || i.opc = 0x13 then [i.va]
  else if 0x18 ≤ i.opc && i.opc ≤ 0x1B then [i.va, i.vb] else []
def StuIns.writes (i : StuIns) : List Nat :=
  if i.opc = 0x08 || i.opc = 0x0A || i.opc = 0x0B || isFold i.opc || (0x18 ≤ i.opc && i.opc ≤ 0x1B) then [i.vd] else []

/-- No instruction of a body reads a register that the body writes only later (R310). -/
def bodyOrder (body : List StuIns) : Bool :=
  let all := body.flatMap StuIns.writes
  (body.foldl (fun (a : List Nat × Bool) i =>
    (i.writes ++ a.1, a.2 && i.reads.all (fun r => !all.contains r || a.1.contains r))) ([], true)).2

/-- The program from START to its first END (R310). -/
def takeProg : Nat → List Word → Option (List Word)
  | 0, _ => none
  | _, [] => none
  | n + 1, w :: l => if w.fld 63 56 = 1 then some [w] else (takeProg n l).map (fun p => w :: p)

/-- The GLOOP of a program: its index and its body. -/
def gloopOf (p : List StuIns) : Option (Nat × List StuIns) :=
  (p.findIdx? (fun i => i.opc = 2)).map (fun n => (n, (p.drop (n + 1)).take ((p.getD n ⟨0, 0, 0, 0, 0, 0, 0⟩).imm)))

/-- Output room (R310). -/
def StuEnt.room (x : StuEnt) (i : StuIns) : Bool :=
  if i.opc = 0x20 then x.nin * 63 ≤ x.outg
  else if i.opc = 0x21 || i.opc = 0x22 then 1 + x.nin * 62 ≤ x.outg
  else if i.opc = 0x23 then i.k ≠ 0 && 1 + ceilDiv (i.k * i.recBytes) 64 ≤ x.outg
  else true

/-- The rules of R310 over a program taken from START to END. -/
def StuEnt.valid (x : StuEnt) (lf : Fmt) (ws : List Word) : Bool :=
  let p := ws.map StuIns.of
  let ops := p.map StuIns.opc
  let n (o : Nat) : Nat := (ops.filter (fun q => q = o)).length
  let recs := (ops.filter isRecord).length
  let emit := ops.findIdx (fun o => o = 0x28)
  let body := (gloopOf p).map (fun g => g.2)
  let outside := match gloopOf p with
    | some (k, b) => p.take (k + 1) ++ p.drop (k + 1 + b.length)
    | none => p
  p.all (fun i => i.ok lf) && n 2 ≤ 1 && recs ≤ 1 && !(n 2 = 1 && recs = 1)
    && (if x.elems = 0 then n 2 = 0 else recs = 0)
    && n 0x28 = 1 && emit + 2 = p.length
    && (match gloopOf p, body with
        | some (k, b), _ =>
          b.length ≠ 0 && b.length ≤ 32 && b.length = (p.getD k ⟨0, 0, 0, 0, 0, 0, 0⟩).imm && b.all (fun i => inBody i.opc)
            && (b.filter (fun i => i.opc = 9)).length ≤ 1 && bodyOrder b
        | none, _ => true)
    && outside.all (fun i => !(i.opc = 8 || i.opc = 9 || isFold i.opc))
    && p.all (fun i => (i.opc ≠ 8 || i.imm < x.nin) && (i.opc ≠ 0x13 || lf ≠ .fp64)
        && (i.opc ≠ 9 || (if i.sub = 1 then x.outFmt = 7 else !(x.outFmt = 7 && lf = .fp32))) && x.room i)
    && (x.elems = 0 || x.elems * x.outBytes ≤ 64 * x.outg)

/-! The unit's state. -/

/-- Base of a stitch unit's registers, and the place of a context's entry. -/
def stuB (die unit : Nat) : Nat := rkey die unit 0
def entB (die unit c : Nat) : Nat := rkey die unit (0x10000 + 0x100 * c)

/-- A stitch unit. -/
def Hw.stu (h : Hw) (die unit : Nat) : Stu := SMap.get h.stus {} (ukey die unit)
def Hw.setStu (h : Hw) (die unit : Nat) (x : Stu) : Hw := { h with stus := SMap.put h.stus (ukey die unit) x }

/-- An entry as its 256 bytes stand. -/
def Hw.entry (h : Hw) (die unit c : Nat) : BitVec 2048 :=
  BitVec.ofNat 2048 ((upto 32).foldl (fun a i =>
    a + (SMap.get h.regs 0 (entB die unit c + 8 * i)).toNat <<< (64 * i)) 0)

/-- A field of an entry that the unit writes. -/
def Hw.entGet (h : Hw) (die unit c off hi lo : Nat) : Nat :=
  bits (SMap.get h.regs 0 (entB die unit c + off / 8 * 8)).toNat (off % 8 * 8 + hi) (off % 8 * 8 + lo)
def Hw.entPut (h : Hw) (die unit c off hi lo v : Nat) : Hw :=
  let k := entB die unit c + off / 8 * 8
  let w := setBits (SMap.get h.regs 0 k).toNat (off % 8 * 8 + hi) (off % 8 * 8 + lo) v
  { h with regs := SMap.put h.regs k (BitVec.ofNat 64 w) }

/-- VALID, FAILED and NEXT of a context (R296). -/
def Hw.stuValid (h : Hw) (die unit c : Nat) : Bool := h.entGet die unit c 0x18 31 31 = 1
def Hw.stuFailed (h : Hw) (die unit c : Nat) : Bool := h.entGet die unit c 0x18 30 30 = 1
def Hw.stuNext (h : Hw) (die unit c : Nat) : Nat := h.entGet die unit c 0x18 21 0

/-- A context fails with a status code (R306, R321). -/
def Hw.stuFail (h : Hw) (die unit c code : Nat) : Hw :=
  (h.entPut die unit c 0x18 30 30 1).entPut die unit c 0x18 29 22 code

/-- Slots of an F-die's reduction memory that contexts hold: first and number (R302, R305). -/
def Hw.slotRuns (h : Hw) (die : Nat) : List (Nat × Nat) :=
  (upto 8).flatMap (fun u =>
    let x := h.stu die u
    (x.ctxs ++ x.old).map (fun (c : Nat × StuCtx) => (c.2.first, c.2.slots)))

/-- The context of an index under a claim of that number is the one claimed last. -/
def Stu.current (u : Stu) (c gen : Nat) : Bool := (SMap.find? u.ctxs c).any (fun x => x.gen = gen)

/-- The context of an index under a claim of that number, though another claim may have come since (R305). -/
def Stu.ctxOf (u : Stu) (c gen : Nat) : Option StuCtx :=
  if u.current c gen then SMap.find? u.ctxs c
  else (u.old.find? (fun (p : Nat × StuCtx) => p.1 = c && p.2.gen = gen)).map (fun p => p.2)

/-- Replace it, or take it away. -/
def Stu.setCtx (u : Stu) (c : Nat) (x : StuCtx) : Stu :=
  if u.current c x.gen then { u with ctxs := SMap.put u.ctxs c x }
  else { u with old := u.old.map (fun (p : Nat × StuCtx) => if p.1 = c && p.2.gen = x.gen then (c, x) else p) }
def Stu.delCtx (u : Stu) (c gen : Nat) : Stu :=
  if u.current c gen then { u with ctxs := SMap.del u.ctxs c }
  else { u with old := u.old.filter (fun (p : Nat × StuCtx) => !(p.1 = c && p.2.gen = gen)) }

/-- Granules of a chunk set: 64 for each input, then the output area (R302). -/
def StuEnt.setGranules (x : StuEnt) : Nat := 64 * x.nin + x.outg

/-- The first word of the chunk set of a chunk in reduction memory (R300, R302). -/
def StuCtx.setBase (x : StuCtx) (chunk : Nat) : Nat :=
  let t := StuEnt.of x.entry
  x.first * 4096 + chunk % orElse t.depth 1 * t.setGranules * 8

/-- The number by which the frames of a chunk know it: its claim's, and its own. -/
def chunkId (gen chunk : Nat) : Nat := gen * 2 ^ 22 + chunk

/-- A slot is free. -/
def slotFree (runs : List (Nat × Nat)) (s : Nat) : Bool := runs.all (fun r => s < r.1 || r.1 + r.2 ≤ s)

/-- The lowest run of `n` free consecutive slots (R303). -/
def freeRun (runs : List (Nat × Nat)) (n : Nat) : Option Nat :=
  (upto 1024).find? (fun s => s + n ≤ 1024 && (upto n).all (fun i => slotFree runs (s + i)))

/-- A program store word (R311). -/
def Hw.stuWord (h : Hw) (die unit i : Nat) : Word := SMap.get h.regs 0 (rkey die unit (0x80000 + 8 * i))

/-! Commands (R303, R305). -/

/-- Queue a command; with 64 queued at the unit it is discarded (STU_CMD). -/
def Hw.stuCommand (h : Hw) (die unit op c : Nat) : Hw :=
  if die < 24 || 28 ≤ die || 8 ≤ unit || 64 ≤ c then h
  else if 64 ≤ (h.stuCmds.filter (fun x => x.1 = die && x.2.1 = unit)).length then h.regFault 4 (stuB die unit)
  else { h with stuCmds := h.stuCmds ++ [(die, unit, op, c)] }

/-- The result of a command on a context (CRES). -/
def Hw.cres (h : Hw) (die unit c v : Nat) : Hw := h.entPut die unit c 0x1C 2 0 v

/-- Apply a CLAIM: the entry, then the program, then the slots (R303). A context claimed before and released keeps its
slots until its frames are done (R305); one whose clear still runs gives its own back once the new run is taken (DESIGN
CHOICE, log entry 125). -/
def Hw.stuClaim (h : Hw) (e : Env) (die unit c : Nat) : Hw :=
  let u := h.stu die unit
  if h.stuValid die unit c then h.cres die unit c 5
  else
    let w := h.entry die unit c
    let x := StuEnt.of w
    match x.check h e with
    | none => h.cres die unit c 2
    | some lf =>
      let n := Nat.min 256 (1024 - x.start)
      match takeProg n ((upto n).map (fun i => h.stuWord die unit (x.start + i))) with
      | none => h.cres die unit c 3
      | some p =>
        if !x.valid lf p then h.cres die unit c 3
        else match freeRun (h.slotRuns die) x.slots with
          | none => h.cres die unit c 4
          | some s =>
            let ctx : StuCtx := { entry := w, prog := p, first := s, slots := x.slots
                                  sets := rep x.depth {}, gen := u.claims }
            let old := match SMap.find? u.ctxs c with
              | some y => if y.clearing then u.old else u.old ++ [(c, y)]
              | none => u.old
            let h := h.setStu die unit { u with ctxs := SMap.put u.ctxs c ctx, old := old, claims := u.claims + 1 }
            let h := (h.entPut die unit c 0x14 10 0 s).entPut die unit c 0x16 5 0 x.slots
            h.cres die unit c 1

/-- A chunk set that a context's frames still hold: its output is not yet acknowledged or abandoned, or a word of it has
failed (R306, R325). -/
def Hw.setBusy (h : Hw) (die unit c gen : Nat) (s : StuSet) : Bool :=
  match s.chunk with
  | some k => s.ended && (s.bad || 0 < h.framesOf (.stitch die unit c (chunkId gen k)))
  | none => false

/-- The frames of a chunk set are done. -/
def Hw.setDone (h : Hw) (die unit c gen : Nat) (s : StuSet) : Bool :=
  match s.chunk with
  | some k => s.bad && h.framesOf (.stitch die unit c (chunkId gen k)) = 0
  | none => true

/-- The failures of a context's frames: the chunk of each and its status. -/
def Hw.stuFailures (h : Hw) (die unit c gen : Nat) : List (Nat × Status) :=
  h.failures.filterMap (fun f => match f.1 with
    | .stitch a b d k => if a = die && b = unit && d = c && k / 2 ^ 22 = gen then some (k % 2 ^ 22, f.2) else none
    | _ => none)

/-- Forget them. -/
def Hw.dropStuFailures (h : Hw) (die unit c gen : Nat) : Hw :=
  { h with failures := h.failures.filter (fun f => match f.1 with
      | .stitch a b d k => !(a = die && b = unit && d = c && k / 2 ^ 22 = gen)
      | _ => true) }

/-- Settle the context of a claim: abandoned frames, and failing reads of its output area, fail it, sets whose frames are
done are free again, and a released context with nothing left gives its slots back (R305, R306, R321, R325). -/
def Hw.settleCtx (h : Hw) (die unit c gen : Nat) : Hw :=
  let u := h.stu die unit
  match u.ctxOf c gen with
  | none => h
  | some x =>
    let bad := h.stuFailures die unit c gen
    let h := h.dropStuFailures die unit c gen
    let ecc := bad.filter (fun (f : Nat × Status) => f.2 = .eccUncorrected)
    let h := h.inc Reg.stuCntFailed (stuB die unit) 0 ecc.length
    let h := match bad.getLast? with
      | some f => if u.current c gen then
          h.stuFail die unit c (if f.2 = Status.eccUncorrected then f.2.code else Status.timeout.code) else h
      | none => h
    let sets := x.sets.map (fun s =>
      let s := if ecc.any (fun f => s.chunk = some f.1) then { s with bad := true } else s
      if s.ended && !h.setBusy die unit c gen s then {} else s)
    let running := u.run.any (fun r => r.ctx = c && r.gen = gen)
    let valid := u.current c gen && h.stuValid die unit c
    if !valid && !x.clearing && !running && sets.all (fun s => h.setDone die unit c gen s) then
      h.setStu die unit (u.delCtx c gen)
    else h.setStu die unit (u.setCtx c { x with sets := sets })

/-- Settle every context of the package. -/
def Hw.settleStitch (h : Hw) : Hw :=
  h.stus.foldl (fun h (u : Nat × Stu) =>
    (u.2.ctxs ++ u.2.old).foldl (fun h (c : Nat × StuCtx) => h.settleCtx (u.1 / 16) (u.1 % 16) c.1 c.2.gen) h) h

/-- Apply a RELEASE: VALID clears, chunks that have not begun are discarded (R305). -/
def Hw.stuRelease (h : Hw) (die unit c : Nat) : Hw :=
  if !h.stuValid die unit c then h.cres die unit c 6
  else
    let h := (h.entPut die unit c 0x18 31 31 0).cres die unit c 1
    let u := h.stu die unit
    match SMap.find? u.ctxs c with
    | none => h
    | some x =>
      let runs (s : StuSet) : Bool := u.run.any (fun r => r.ctx = c && r.gen = x.gen && s.chunk = some r.chunk)
      let sets := x.sets.map (fun s => if s.ended || runs s then s else {})
      (h.setStu die unit { u with ctxs := SMap.put u.ctxs c { x with sets := sets } }).settleCtx die unit c x.gen

/-- A CLAIM that a SETUP wrote waits for the epoch of its group's claims (R341). -/
def Hw.claimWaits (h : Hw) (x : Nat × Nat × Nat × Nat) : Bool :=
  x.2.2.1 = 1 && h.groups.any (fun (g : Nat × Group) => !g.2.move && !g.2.claimed && g.2.job.isSome
    && g.2.hosts.any (fun y => y.nodes.any (fun n => n.ctx = some (x.1, x.2.1, x.2.2.2))))

/-- The commands queued at every stitch unit apply, in the order written (R303). -/
def Hw.stuEpoch (h : Hw) (e : Env) : Hw :=
  (h.stuCmds.filter (fun x => !h.claimWaits x)).foldl (fun h (x : Nat × Nat × Nat × Nat) =>
    if x.2.2.1 = 1 then h.stuClaim e x.1 x.2.1 x.2.2.2 else h.stuRelease x.1 x.2.1 x.2.2.2)
    { h with stuCmds := h.stuCmds.filter h.claimWaits }

/-- The slot clear of a claim ends: its words are sound, NEXT 0, FAILED 0, VALID 1 (R303, R325). -/
def claimClearEnd (die unit c : Nat) (_ : Env) (h : Hw) : Hw :=
  let u := h.stu die unit
  match SMap.find? u.ctxs c with
  | none => h
  | some x =>
    if !x.clearing then h
    else
      let h := h.setStu die unit { u with ctxs := SMap.put u.ctxs c { x with clearing := false } }
      (h.rdmWrite die (x.first * 4096) (x.slots * 4096)).entPut die unit c 0x18 31 0 (2 ^ 31)

/-! Input (R298 to R301). -/

/-- What becomes of an input frame. -/
inductive StuTake where
  | badCtx | stale | dup | same | wait
  | take (set k : Nat)
  deriving DecidableEq, Repr

/-- Judge an input frame (R299, R300); the frame that a set holds already is told from another by INC and SEQ. -/
def Hw.stuJudge (h : Hw) (die unit : Nat) (f : Frame) : StuTake :=
  let c := Frame.ctx f
  match SMap.find? (h.stu die unit).ctxs c with
  | none => .badCtx
  | some x =>
    let t := StuEnt.of x.entry
    match t.srcs.findIdx? (fun s => s = Frame.src f) with
    | none => .badCtx
    | some k =>
      if 64 ≤ c || !h.stuValid die unit c || h.stuFailed die unit c || Frame.key f ≠ t.key then .badCtx
      else
        let d := (Frame.chunk f + 2 ^ 22 - h.stuNext die unit c) % 2 ^ 22
        let i := Frame.chunk f % t.depth
        let s := x.sets.getD i {}
        if 2 ^ 21 ≤ d then .stale
        else if t.depth ≤ d || s.chunk.any (fun q => q ≠ Frame.chunk f) then .wait
        else match SMap.find? s.ins k with
          | some g => if Frame.inc g = Frame.inc f && Frame.seq g = Frame.seq f then .same else .dup
          | none => .take i k

/-- STITCH_INPUT: a COLL frame to a stitch unit (R299, R300). -/
def stitchInput (f : Frame) (_ : Env) (h : Hw) : Hw :=
  let die := cDie (Frame.dst f)
  let unit := cUnit (Frame.dst f)
  if Frame.typ f ≠ 9 || !onFdie (Frame.dst f) || 8 ≤ unit then h
  else
    match h.arrive f (fun h => h.stuJudge die unit f ≠ .wait) with
    | (false, h) => h
    | (true, h) =>
      let b := stuB die unit
      match h.stuJudge die unit f with
      | .badCtx => h.incSat Reg.stuDropBadCtx b 0 1
      | .stale => h.incSat Reg.stuDropStaleChunk b 0 1
      | .dup => h.incSat Reg.stuDropDupInput b 0 1
      | .same => h
      | .wait => h
      | .take i k =>
        let u := h.stu die unit
        match SMap.find? u.ctxs (Frame.ctx f) with
        | none => h
        | some x =>
          let s := x.sets.getD i {}
          let s := { s with chunk := some (Frame.chunk f), ins := SMap.put s.ins k f }
          let t := StuEnt.of x.entry
          let h := h.setStu die unit { u with ctxs := SMap.put u.ctxs (Frame.ctx f) { x with sets := listSet x.sets i s } }
          h.rdmWrite die (x.first * 4096 + (i * t.setGranules + 64 * k) * 8) (8 * Frame.len f)

/-! Running a chunk (R312 to R322). -/

/-- The next chunk of a context is ready: its set holds every input (R322). -/
def Hw.chunkReady (h : Hw) (die unit c : Nat) (x : StuCtx) : Option Nat :=
  let t := StuEnt.of x.entry
  let n := h.stuNext die unit c
  let i := n % orElse t.depth 1
  let s := x.sets.getD i {}
  if h.stuValid die unit c && s.chunk = some n && !s.ended && s.ins.length = t.nin then some i else none

/-- The granules of output data of a context without a record operation's own count (R319). -/
def StuEnt.lanesOut (x : StuEnt) : Nat := ceilDiv (x.elems * x.outBytes) 64

/-- Send frames of a chunk to OUT_DST, each with the words of the output area it is read from (R306, R320). -/
def Hw.stuSend (h : Hw) (die unit : Nat) (x : StuEnt) (c gen chunk : Nat) (pre : Pre)
    (parts : List (List Byte × Nat × Nat)) : Hw :=
  parts.foldl (fun h p => h.send
    { typ := 9, cls := 1, tag := if onFdie x.dst then 0 else x.tag, src := h.coord die unit, dst := x.dst
      arg := collArg x.outIdx x.outKey chunk, payload := pre.bytes ++ p.1
      owner := .stitch die unit c (chunkId gen chunk), area := p.2 }) h

/-- A context feeds the top root's multicast entry (R338, R343). -/
def StuEnt.top (x : StuEnt) : Bool := onFdie x.dst && cUnit x.dst = 9

/-- The chunk in hand ends: its set waits for its frames, NEXT advances unless the context has been claimed anew, the unit
is free (R306). -/
def Hw.endChunk (h : Hw) (die unit c gen chunk : Nat) : Hw :=
  let u := h.stu die unit
  match u.ctxOf c gen with
  | none => h
  | some x =>
    let sets := x.sets.map (fun s => if s.chunk = some chunk then { s with ended := true, ins := [] } else s)
    let h := h.setStu die unit { (u.setCtx c { x with sets := sets }) with run := none }
    (if u.current c gen then h.entPut die unit c 0x18 21 0 (chunk + 1) else h).settleCtx die unit c gen

/-- TREE and LEVEL of the node a context serves; of a context no group holds, those of its inputs stand (R338). -/
def Hw.nodePre (h : Hw) (die unit c : Nat) (p : Pre) : Pre :=
  let hosts := h.groups.flatMap (fun (g : Nat × Group) => g.2.hosts)
  match hosts.findSome? (fun x => (x.nodes.find? (fun n => n.ctx = some (die, unit, c))).map (fun n => (x.tree, n.level))) with
  | some (t, l) => { p with tree := t, level := l }
  | none => p

/-- A chunk fails: one frame reports the status in place of the output (R321, R338). -/
def Hw.failChunk (h : Hw) (die unit c gen chunk : Nat) (x : StuEnt) (pres : List Pre) (code off : Nat) : Hw :=
  let p := { (h.nodePre die unit c (outPre pres {} x.top)) with status := code, offender := off }
  let n := if x.elems = 0 then 0 else Nat.min 63 x.lanesOut
  let h := h.stuSend die unit x c gen chunk p [(rep (64 * n) 0, 0, 0)]
  let h := h.inc Reg.stuCntFailed (stuB die unit) 0 1
  let h := if (h.stu die unit).current c gen then h.stuFail die unit c code else h
  h.endChunk die unit c gen chunk

/-- A chunk set that holds a failing word is not used again until the context is released (R325). -/
def Hw.spoilSet (h : Hw) (die unit c gen chunk : Nat) : Hw :=
  let u := h.stu die unit
  match u.ctxOf c gen with
  | none => h
  | some x => h.setStu die unit (u.setCtx c { x with
      sets := x.sets.map (fun s => if s.chunk = some chunk then { s with bad := true } else s) })

/-- A read of reduction memory fails a chunk (R321, R325). -/
def Hw.failRead (h : Hw) (die unit c gen chunk : Nat) (x : StuEnt) (pres : List Pre) : Hw :=
  (h.spoilSet die unit c gen chunk).failChunk die unit c gen chunk x pres Status.eccUncorrected.code 0

/-- Reads of words of reduction memory in order, as far as they pass (R323). -/
def Hw.rdmReads (h : Hw) (die unit : Nat) (l : List (Nat × Nat)) : Bool × Hw :=
  l.foldl (fun (a : Bool × Hw) (p : Nat × Nat) => if a.1 then a.2.rdmRead die unit p.1 p.2 else a) (true, h)

/-- The inputs of a chunk in ascending input index. -/
def StuCtx.inputs (x : StuCtx) (chunk : Nat) : List Frame :=
  match x.sets.find? (fun s => s.chunk = some chunk) with
  | some s => s.ins.map (fun p => p.2)
  | none => []

/-- What an instruction of the chunk in hand works on. -/
structure StuCx where
  ent : StuEnt
  lane : Fmt
  ins : List Frame
  /-- The first word of the chunk's set. -/
  base : Nat
  deriving DecidableEq, Repr

/-- The run of a unit, what its instructions work on, and its context. -/
def Hw.stuRun? (h : Hw) (die unit : Nat) : Option (StuRun × StuCx × StuCtx) :=
  let u := h.stu die unit
  match u.run with
  | none => none
  | some r => (u.ctxOf r.ctx r.gen).map (fun x =>
      let t := StuEnt.of x.entry
      (r, ⟨t, t.lane.getD .fp32, x.inputs r.chunk, x.setBase r.chunk⟩, x))

/-- The word of the program store that a run stands at fails its check (R516, R520). -/
def Hw.stuBad (h : Hw) (die unit : Nat) (r : StuRun) (c : StuCx) : Bool :=
  h.badSites.contains (.program die unit (c.ent.start + r.pc))

/-- The run of a unit, its context, and the instruction it stands at, when that can be read. -/
def Hw.stuAt (h : Hw) (die unit : Nat) : Option (StuRun × StuCx × StuIns × List StuIns) :=
  match h.stuRun? die unit with
  | none => none
  | some (r, c, x) =>
    let p := x.prog.map StuIns.of
    if h.stuBad die unit r c then none else (p[r.pc]?).map (fun i => (r, c, i, p))

/-- The instruction after this one: within a GLOOP the next of the body or of the next group (R309). -/
def StuRun.advance (r : StuRun) (x : StuEnt) (lanes : Nat) : StuRun :=
  match r.gloop with
  | none => { r with pc := r.pc + 1 }
  | some (start, n, j) =>
    if r.pc + 1 < start + n then { r with pc := r.pc + 1 }
    else if (j + 1) * lanes < x.elems then
      { r with pc := start, gloop := some (start, n, j + 1), regs := r.base }
    else { r with pc := r.pc + 1, gloop := none }

/-- Group of a run. -/
def StuRun.group (r : StuRun) : Nat := match r.gloop with | some (_, _, j) => j | none => 0

/-- The words that an instruction reads of input `k`: the element bytes of its group (R308). -/
def StuCx.inWords (c : StuCx) (k j : Nat) : Nat × Nat :=
  let n := lanesOf c.lane * (c.ent.fmtOf k).bytes
  (c.base + 512 * k + 8 + j * n / 8, n / 8)

/-- The words of the output area that a group's lanes take (R308). -/
def StuCx.outWords (c : StuCx) (j : Nat) : Nat × Nat :=
  let n := lanesOf c.lane * c.ent.outBytes
  (c.base + 512 * c.ent.nin + j * n / 8, n / 8)

/-- The words of reduction memory that an instruction reads, in order (R308, R318, R323). -/
def StuCx.reads (c : StuCx) (r : StuRun) (i : StuIns) : List (Nat × Nat) :=
  if i.opc = 0x08 then [c.inWords i.imm r.group]
  else if isFold i.opc then (upto c.ent.nin).map (fun k => c.inWords k r.group)
  else if isRecord i.opc then c.ins.zipIdx.map (fun (p : Frame × Nat) => (c.base + 512 * p.2 + 8, 8 * (Frame.len p.1 - 1)))
  else []

/-- A read of the chunk in hand fails it (R321). -/
def Hw.failCx (h : Hw) (die unit : Nat) (r : StuRun) (c : StuCx) : Hw :=
  h.failRead die unit r.ctx r.gen r.chunk c.ent (c.ins.map (fun f => Pre.of f.payload))

/-- The chunk in hand fails where the instruction that its run stands at cannot be read; the record's ADDR is the word's
place in the program store (R321, R516, R520, R522; DEDUCED, log entry 134). -/
def Hw.stuReadRun (h : Hw) (die unit : Nat) : Hw :=
  match h.stuRun? die unit with
  | none => h
  | some (r, c, _) =>
    if h.stuBad die unit r c then
      let a := 0xF00000000000 + rkey die unit (0x80000 + 8 * (c.ent.start + r.pc))
      (h.error 1 4 Status.eccUncorrected.code 0 (h.globalAddr a) none (h.coord die unit)).failCx die unit r c
    else h

/-- CHUNK_RUN: the preamble check of the ready chunk of the lowest context (R321, R322, R338). -/
def chunkRun (die unit : Nat) (_ : Env) (h : Hw) : Hw :=
  let u := h.stu die unit
  if u.run.isSome then h.stuReadRun die unit
  else match List.find? (fun (c : Nat × StuCtx) => (h.chunkReady die unit c.1 c.2).isSome) u.ctxs with
    | none => h
    | some (c, x) =>
      let t := StuEnt.of x.entry
      let chunk := h.stuNext die unit c
      let ins := x.inputs chunk
      let pres := ins.map (fun f => Pre.of f.payload)
      let h := h.inc Reg.stuCntChunks (stuB die unit) 0 1
      match h.rdmReads die unit ((upto t.nin).map (fun k => (x.setBase chunk + 512 * k, 8))) with
      | (false, h) => h.failRead die unit c x.gen chunk t pres
      | (true, h) =>
        let size (p : Frame × Nat) : Bool :=
          if t.elems = 0 then 2 ≤ Frame.len p.1
          else Frame.len p.1 = 1 + ceilDiv (t.elems * (t.fmtOf p.2).bytes) 64
        match checkInputs pres (ins.zipIdx.map size) t.srcs with
        | some (code, off) => h.failChunk die unit c x.gen chunk t pres code off
        | none => h.setStu die unit { (h.stu die unit) with run := some { ctx := c, gen := x.gen, chunk := chunk } }

/-- Run the instruction a unit stands at, when it is one of `ops`, and move on; a failing read of its operands fails the
chunk (R321). -/
def stuStep (die unit : Nat) (ops : List Nat) (f : StuRun → StuCx → StuIns → StuRun) (_ : Env) (h : Hw) : Hw :=
  match h.stuAt die unit with
  | none => h
  | some (r, c, i, _) =>
    if ops.contains i.opc then
      match h.rdmReads die unit (c.reads r i) with
      | (false, h) => h.failCx die unit r c
      | (true, h) =>
        let h := if i.opc = 0x09 then h.rdmWrite die (c.outWords r.group).1 (c.outWords r.group).2 else h
        let r := (f r c i).advance c.ent (lanesOf c.lane)
        h.setStu die unit { (h.stu die unit) with run := some r }
    else h

/-- Element bits of input `k` at lane `i` of group `j`. -/
def StuCx.elem (c : StuCx) (k j i : Nat) : Nat :=
  let n := (c.ent.fmtOf k).bytes
  match c.ins[k]? with
  | some f => pay f.payload (64 + (j * lanesOf c.lane + i) * n) n
  | none => 0

/-- An input element converted exactly to the lane format, as lane bits (R312). -/
def StuCx.laneOf (c : StuCx) (k v : Nat) : Nat :=
  if c.lane.isFloat then encodeRounded c.lane (roundTo c.lane (decodeFloat (c.ent.fmtOf k) v)) else v

/-- Group `j` of input `k` as lanes. -/
def StuCx.group (c : StuCx) (k j : Nat) : List Nat :=
  (upto (lanesOf c.lane)).map (fun i => c.laneOf k (c.elem k j i))

/-- A register's lanes; registers are zero when a program begins (R308). -/
def StuRun.reg (r : StuRun) (c : StuCx) (v : Nat) : List Nat := SMap.get r.regs (rep (lanesOf c.lane) 0) v
def StuRun.setReg (r : StuRun) (v : Nat) (l : List Nat) : StuRun := { r with regs := SMap.put r.regs v l }

/-- Lane addition, multiplication, maximum and minimum (R312, R313). -/
def laneAdd (f : Fmt) (a b : Nat) : Nat :=
  if f.isFloat then encodeRounded f (roundTo f ((decodeFloat f a).add (decodeFloat f b))) else (a + b) % 2 ^ 32
def laneMul (f : Fmt) (a b : Nat) : Nat :=
  if f.isFloat then encodeRounded f (roundTo f ((decodeFloat f a).mul (decodeFloat f b))) else (a * b) % 2 ^ 32
def laneLt (f : Fmt) (a b : Nat) : Bool := if f = .int32 then toSigned 32 a < toSigned 32 b else a < b
def laneMax (f : Fmt) (a b : Nat) : Nat :=
  if f.isFloat then encodeRounded f (fmax (decodeFloat f a) (decodeFloat f b)) else if laneLt f a b then b else a
def laneMin (f : Fmt) (a b : Nat) : Nat :=
  if f.isFloat then encodeRounded f (fmin (decodeFloat f a) (decodeFloat f b)) else if laneLt f b a then b else a

/-- A fold over all inputs in ascending input index, from input 0 (R312). -/
def StuCx.fold (c : StuCx) (op : Fmt → Nat → Nat → Nat) (j : Nat) : List Nat :=
  (upto (c.ent.nin - 1)).foldl (fun acc k => (acc.zip (c.group (k + 1) j)).map (fun (p : Nat × Nat) => op c.lane p.1 p.2))
    (c.group 0 j)

/-- A predicate (R308, R313): `v` an element, `r` the register's lane, both in the lane format. -/
def lanePred (f : Fmt) (sub v r : Nat) : Bool :=
  if f.isFloat then
    let a := decodeFloat f v
    let b := decodeFloat f r
    let nan := a = .nan || b = .nan
    let eq := !nan && !a.lt b && !b.lt a
    match sub with
    | 0 => eq
    | 1 => !eq
    | 2 => !nan && a.lt b
    | 3 => eq || (!nan && a.lt b)
    | 4 => !nan && b.lt a
    | 5 => eq || (!nan && b.lt a)
    | 6 => a.isFin
    | _ => !a.isZero
  else
    match sub with
    | 0 => v = r
    | 1 => v ≠ r
    | 2 => laneLt f v r
    | 3 => !laneLt f r v
    | 4 => laneLt f r v
    | 5 => !laneLt f v r
    | 6 => true
    | _ => v ≠ 0

/-- STG: one group written to the output area (R308, R314). -/
def stuStg (r : StuRun) (c : StuCx) (i : StuIns) : StuRun :=
  let lanes := r.reg c i.va
  let of := (Fmt.ofCode c.ent.outFmt).getD .fp32
  let at_ := r.group * lanesOf c.lane * c.ent.outBytes
  if i.sub = 1 then { r with out := Mem.write r.out at_ (lanes.flatMap (fun v => toBytes 4 v)) }
  else if !c.lane.isFloat then { r with out := Mem.write r.out at_ (lanes.flatMap (fun v => toBytes 4 v)) }
  else
    let cs := lanes.map (fun v => convFloat of .rne (decodeFloat c.lane v))
    { r with out := Mem.write r.out at_ (cs.flatMap (fun (x : Nat × Counts) => toBytes of.bytes x.1))
             counts := cs.foldl (fun (a : Counts) (x : Nat × Counts) => a.add x.2) r.counts }

/-- LDC: every lane the immediate; for FP64 the FP32 value converted exactly (R308). -/
def stuLdc (r : StuRun) (c : StuCx) (i : StuIns) : StuRun :=
  let v := if c.lane = .fp64 then encodeRounded .fp64 (roundTo .fp64 (decodeFloat .fp32 i.imm)) else i.imm
  r.setReg i.vd (rep (lanesOf c.lane) v)

/-- RCNT: per lane the number of inputs that meet the predicate, as UINT32 (R308, R313). -/
def stuRcnt (r : StuRun) (c : StuCx) (i : StuIns) : StuRun :=
  let a := r.reg c i.va
  r.setReg i.vd ((upto (lanesOf c.lane)).map (fun l =>
    ((upto c.ent.nin).filter (fun k => lanePred c.lane i.sub (c.laneOf k (c.elem k r.group l)) (a.getD l 0))).length))

/-- Lane by lane operation on two registers. -/
def stuBin (op : Fmt → Nat → Nat → Nat) (r : StuRun) (c : StuCx) (i : StuIns) : StuRun :=
  r.setReg i.vd (((r.reg c i.va).zip (r.reg c i.vb)).map (fun (p : Nat × Nat) => op c.lane p.1 p.2))

/-- GLOOP begins: the body runs for group 0 (R308, R309). -/
def stuGloop (die unit : Nat) (_ : Env) (h : Hw) : Hw :=
  match h.stuAt die unit with
  | none => h
  | some (r, _, i, _) =>
    if i.opc = 2 then
      h.setStu die unit { (h.stu die unit) with
        run := some { r with pc := r.pc + 1, gloop := some (r.pc + 1, i.imm, 0), base := r.regs } }
    else h

/-! Record operations (R317, R318). -/

/-- A record: the rank of its input's SRC among the inputs, its position, its key's bits and its bytes. -/
structure Rec where
  src : Nat
  pos : Nat
  key : Nat
  bytes : List Byte
  deriving DecidableEq, Repr

/-- The run of an input, where it is one (R317). -/
def runOf (lane : Fmt) (rb src : Nat) (f : Frame) : Option (List Rec) :=
  let n := pay f.payload 64 4
  if (Frame.len f - 2) * 64 < n * rb || ((f.payload.drop 68).take 60).any (fun b => b ≠ 0) then none
  else some ((upto n).map (fun i =>
    let bs := (f.payload.drop (128 + i * rb)).take rb
    { src := src, pos := i, key := ofBytes (bs.take lane.bytes), bytes := bs }))

/-- A key is a NaN. -/
def keyNan (f : Fmt) (k : Nat) : Bool := f.isFloat && decodeFloat f k = .nan

/-- Keys by value. -/
def keyLt (f : Fmt) (a b : Nat) : Bool :=
  if f.isFloat then (decodeFloat f a).lt (decodeFloat f b) else laneLt f a b

/-- The key order of R318, ascending or descending. -/
def recLt (f : Fmt) (desc : Bool) (a b : Rec) : Bool :=
  let na := keyNan f a.key
  let nb := keyNan f b.key
  let tie := a.src < b.src || (a.src = b.src && a.pos < b.pos)
  if na && nb then tie
  else if na then false
  else if nb then true
  else if keyLt f a.key b.key then !desc
  else if keyLt f b.key a.key then desc
  else tie

/-- MSORT takes the first head record of the inputs until none is left (R318). -/
def mergeRuns (f : Fmt) (desc : Bool) : Nat → List (List Rec) → List Rec
  | 0, _ => []
  | n + 1, runs =>
    let heads := runs.filterMap (fun l => l.head?)
    match heads with
    | [] => []
    | x :: l =>
      let m := l.foldl (fun (a b : Rec) => if recLt f desc b a then b else a) x
      m :: mergeRuns f desc n (runs.map (fun l => if l.head? = some m then l.tail else l))

/-- Records out of order within their inputs (STU_DROP.UNSORTED). -/
def unsorted (f : Fmt) (desc : Bool) : List Rec → Nat
  | a :: b :: l => b2n (recLt f desc { b with src := 0, pos := 0 } { a with src := 0, pos := 0 }) + unsorted f desc (b :: l)
  | _ => 0

/-- Rank of an input's SRC among the inputs. -/
def StuEnt.srcRank (x : StuEnt) (k : Nat) : Nat :=
  (x.srcs.filter (fun s => s < x.srcs.getD k 0)).length

/-- Bytes of an output run: header and records (R317). -/
def runBytes (l : List Rec) : List Byte := toBytes 4 l.length ++ rep 60 0 ++ l.flatMap (fun r => r.bytes)

/-- Run a record operation: the output's bytes and granules, and the out-of-order records met; or nothing where an
input's run breaks R317. -/
def recordOp (c : StuCx) (r : StuRun) (i : StuIns) : Option (List Byte × Nat × Nat) :=
  let rb := i.recBytes
  let runs := c.ins.zipIdx.map (fun (p : Frame × Nat) => runOf c.lane rb (c.ent.srcRank p.2) p.1)
  if runs.any Option.isNone then none
  else
    let runs := runs.filterMap id
    let total := (runs.map List.length).sum
    let out (l : List Rec) (u : Nat) : Option (List Byte × Nat × Nat) :=
      some (runBytes l, 1 + ceilDiv (l.length * rb) 64, u)
    match i.opc with
    | 0x20 => some (c.ins.flatMap (fun f => f.payload.drop 64), (c.ins.map (fun f => Frame.len f - 1)).sum, 0)
    | 0x21 =>
      let desc := bit i.imm 3
      out (mergeRuns c.lane desc total runs) ((runs.map (unsorted c.lane desc)).sum)
    | 0x22 =>
      let a := r.reg c i.va
      out (runs.flatMap (fun l => l.filter (fun x => lanePred c.lane i.sub x.key (a.getD 0 0)))) 0
    | _ => out ((sortBy (recLt c.lane true) (runs.flatMap id)).take i.k) 0

/-- A record operation of the chunk in hand (R317, R318, R321). -/
def stuRecord (die unit op : Nat) (_ : Env) (h : Hw) : Hw :=
  match h.stuAt die unit with
  | none => h
  | some (r, c, i, _) =>
    if i.opc ≠ op then h
    else match h.rdmReads die unit (c.reads r i) with
      | (false, h) => h.failCx die unit r c
      | (true, h) => match recordOp c r i with
        | some (bs, olen, u) =>
          let r := { r with pc := r.pc + 1, out := Mem.write [] 0 bs, olen := some olen }
          let h := h.rdmWrite die (c.base + 512 * c.ent.nin) (8 * olen)
          (h.incSat Reg.stuDropUnsorted (stuB die unit) 0 u).setStu die unit { (h.stu die unit) with run := some r }
        | none =>
          h.failChunk die unit r.ctx r.gen r.chunk c.ent (c.ins.map (fun f => Pre.of f.payload)) Status.badDescriptor.code 0

/-! Output (R319, R320). -/

/-- The granules of output data of a chunk (R319). -/
def StuRun.outLen (r : StuRun) (x : StuEnt) : Nat := r.olen.getD (if x.elems = 0 then 0 else x.lanesOut)

/-- A program writes its output area: an STG writes every group, a record operation all of its run. What it does not write
is sent as zero (R319). -/
def writesOut (p : List StuIns) : Bool := p.any (fun i => i.opc = 0x09 || isRecord i.opc)

/-- The frames of a chunk's output: the data of each and the words it is read from (R306, R320). -/
def StuRun.frames (r : StuRun) (c : StuCx) (p : List StuIns) : List (List Byte × Nat × Nat) :=
  let olen := r.outLen c.ent
  (upto (Nat.max 1 (ceilDiv olen 63))).map (fun k =>
    let n := Nat.min (63 * k + 63) olen - 63 * k
    (Mem.read r.out (64 * 63 * k) (64 * n), c.base + 512 * c.ent.nin + 8 * 63 * k, if writesOut p then 8 * n else 0))

/-- EMIT: the output area goes out as frames, if each word of it passes (R314, R319 to R321). -/
def stuEmit (die unit : Nat) (_ : Env) (h : Hw) : Hw :=
  match h.stuAt die unit with
  | none => h
  | some (r, c, i, prog) =>
    if i.opc ≠ 0x28 then h
    else
      let parts := r.frames c prog
      match h.rdmReads die unit (parts.map (fun q => q.2)) with
      | (false, h) => h.failCx die unit r c
      | (true, h) =>
        let p := h.nodePre die unit r.ctx (outPre (c.ins.map (fun f => Pre.of f.payload)) r.counts c.ent.top)
        let h := h.stuSend die unit c.ent r.ctx r.gen r.chunk p parts
        let b := stuB die unit
        let h := (h.incSat Reg.stuConvSaturations b 0 r.counts.saturations).incSat Reg.stuConvNonfinite b 0
          r.counts.nonfinite
        h.setStu die unit { (h.stu die unit) with run := some { r with pc := r.pc + 1, emitted := true } }

/-- END: the chunk's program ends (R306, R308). -/
def stuEnd (die unit : Nat) (_ : Env) (h : Hw) : Hw :=
  match h.stuAt die unit with
  | none => h
  | some (r, _, i, _) => if i.opc = 1 then h.endChunk die unit r.ctx r.gen r.chunk else h

/-- STU_CMD_CLAIM (R303). -/
def execStuCmdClaim (die unit ctx : Nat) (s : State) : Host.Outcome State Fault Refusal :=
  onHw (fun _ h => h.stuCommand die unit 1 ctx) s

/-- STU_CMD_RELEASE (R305). -/
def execStuCmdRelease (die unit ctx : Nat) (s : State) : Host.Outcome State Fault Refusal :=
  onHw (fun _ h => h.stuCommand die unit 2 ctx) s

/-- CLAIM_CLEAR_END (R303). -/
def execClaimClearEnd (die unit ctx : Nat) (s : State) : Host.Outcome State Fault Refusal :=
  onHw (claimClearEnd die unit ctx) s

/-- STITCH_INPUT (R299). -/
def execStitchInput (frame : Frame) (s : State) : Host.Outcome State Fault Refusal := onHw (stitchInput frame) s

/-- CHUNK_RUN (R322). -/
def execChunkRun (die unit : Nat) (s : State) : Host.Outcome State Fault Refusal := onHw (chunkRun die unit) s

/-- Stitch NOP (R308). -/
def execStuNop (die unit : Nat) (s : State) : Host.Outcome State Fault Refusal :=
  onHw (stuStep die unit [0x00] (fun r _ _ => r)) s

/-- Stitch END (R308). -/
def execStuEnd (die unit : Nat) (s : State) : Host.Outcome State Fault Refusal := onHw (stuEnd die unit) s

/-- GLOOP (R309). -/
def execGloop (die unit : Nat) (s : State) : Host.Outcome State Fault Refusal := onHw (stuGloop die unit) s

/-- LDG (R308). -/
def execLdg (die unit : Nat) (s : State) : Host.Outcome State Fault Refusal :=
  onHw (stuStep die unit [0x08] (fun r c i => r.setReg i.vd (c.group i.imm r.group))) s

/-- STG (R314). -/
def execStg (die unit : Nat) (s : State) : Host.Outcome State Fault Refusal :=
  onHw (stuStep die unit [0x09] stuStg) s

/-- LDC (R308). -/
def execLdc (die unit : Nat) (s : State) : Host.Outcome State Fault Refusal :=
  onHw (stuStep die unit [0x0A] stuLdc) s

/-- MOV (R308). -/
def execMov (die unit : Nat) (s : State) : Host.Outcome State Fault Refusal :=
  onHw (stuStep die unit [0x0B] (fun r c i => r.setReg i.vd (r.reg c i.va))) s

/-- RSUM (R312). -/
def execRsum (die unit : Nat) (s : State) : Host.Outcome State Fault Refusal :=
  onHw (stuStep die unit [0x10] (fun r c i => r.setReg i.vd (c.fold laneAdd r.group))) s

/-- RMAX (R312). -/
def execRmax (die unit : Nat) (s : State) : Host.Outcome State Fault Refusal :=
  onHw (stuStep die unit [0x11] (fun r c i => r.setReg i.vd (c.fold laneMax r.group))) s

/-- RMIN (R312). -/
def execRmin (die unit : Nat) (s : State) : Host.Outcome State Fault Refusal :=
  onHw (stuStep die unit [0x12] (fun r c i => r.setReg i.vd (c.fold laneMin r.group))) s

/-- RCNT (R308). -/
def execRcnt (die unit : Nat) (s : State) : Host.Outcome State Fault Refusal :=
  onHw (stuStep die unit [0x13] stuRcnt) s

/-- Stitch ADD (R313). -/
def execStuAdd (die unit : Nat) (s : State) : Host.Outcome State Fault Refusal :=
  onHw (stuStep die unit [0x18] (stuBin laneAdd)) s

/-- Stitch MUL (R313). -/
def execStuMul (die unit : Nat) (s : State) : Host.Outcome State Fault Refusal :=
  onHw (stuStep die unit [0x19] (stuBin laneMul)) s

/-- Stitch MAX (R308). -/
def execStuMax (die unit : Nat) (s : State) : Host.Outcome State Fault Refusal :=
  onHw (stuStep die unit [0x1A] (stuBin laneMax)) s

/-- Stitch MIN (R308). -/
def execStuMin (die unit : Nat) (s : State) : Host.Outcome State Fault Refusal :=
  onHw (stuStep die unit [0x1B] (stuBin laneMin)) s

/-- GCAT (R318). -/
def execGcat (die unit : Nat) (s : State) : Host.Outcome State Fault Refusal := onHw (stuRecord die unit 0x20) s

/-- MSORT (R318). -/
def execMsort (die unit : Nat) (s : State) : Host.Outcome State Fault Refusal := onHw (stuRecord die unit 0x21) s

/-- FILT (R318). -/
def execFilt (die unit : Nat) (s : State) : Host.Outcome State Fault Refusal := onHw (stuRecord die unit 0x22) s

/-- TOPK (R318). -/
def execTopk (die unit : Nat) (s : State) : Host.Outcome State Fault Refusal := onHw (stuRecord die unit 0x23) s

/-- EMIT (R320). -/
def execEmit (die unit : Nat) (s : State) : Host.Outcome State Fault Refusal := onHw (stuEmit die unit) s

end Sys2Proof.Machine
end

