-- ==== Sys2Proof/Machine/Group.lean ====
section
/-! DEFINITION. Collective groups (R31 to R36, R326 to R345): the expansion of a span, the two trees, SETUP with its
records, the decision of the form, and RELEASE. -/

namespace Sys2Proof.Machine

/-! Spans (R31 to R35). -/

/-- A span of an expansion: its identity, its level, and its members, each a span or an endpoint. -/
structure GSpan where
  id : Nat
  level : Nat
  members : List (Bool × Nat)
  deriving DecidableEq, Repr

/-- The full expansion of a span: its list elements as stored, its spans, its endpoints in rank order, its depth. -/
structure Expand where
  bytes : List Byte
  spans : List GSpan
  ends : List Nat
  depth : Nat
  deriving DecidableEq, Repr

/-- Spans a partition's table holds, which bounds how deep they can nest (R33, R34). -/
def spanCount : Nat := 4096

/-- Read a span entry and its member lists at every depth (R34); an expansion deeper than the fuel is refused, as is a
span that contains itself. -/
def readSpan (e : Env) (base : Nat) : Nat → Nat → Nat → Op Expand
  | 0, _, _ => failSt .refused
  | n + 1, id, level => do
    let ent ← readExt e (base + 32 * id) 32
    let count := pay ent 2 2
    let list := pay ent 8 8
    need (bits (pay ent 0 2) 15 15 = 1 && bits (pay ent 0 2) 14 12 = 0 && bits (pay ent 0 2) 11 0 = id && count ≠ 0
      && pay ent 16 16 = 0 && list < 2 ^ 48 && list % 4 = 0) .refused
    let bs ← readExt e list (4 * count)
    let own := (← get).node
    let r ← (upto count).foldlM (fun (a : Expand × List (Bool × Nat) × List Nat) i => do
      let w := pay bs (4 * i) 4
      let x := { a.1 with bytes := a.1.bytes ++ (bs.drop (4 * i)).take 4 }
      if bit w 31 then
        need (bits w 30 12 = 0) .refused
        let s ← readSpan e base n (bits w 11 0) (level + 1)
        let x := { bytes := x.bytes ++ s.bytes, spans := x.spans ++ s.spans, ends := x.ends ++ s.ends
                   depth := Nat.max x.depth (s.depth + 1) }
        return (x, a.2.1 ++ [(true, bits w 11 0)], a.2.2 ++ [s.ends.headD 0])
      else
        need (bits w 30 24 = 0 && e.coordOk own (bits w 23 0)) .refused
        return ({ x with ends := x.ends ++ [bits w 23 0] }, a.2.1 ++ [(false, bits w 23 0)], a.2.2 ++ [bits w 23 0]))
      (⟨[], [], [], 1⟩, [], [])
    need (strictAsc r.2.2 && pay ent 4 4 = r.2.2.headD 0) .refused
    return { r.1 with spans := ⟨id, level, r.2.1⟩ :: r.1.spans }

/-! The trees (R329 to R331). -/

/-- The endpoint reached from a participant by its first or last members. -/
def endOf (l : List GSpan) (last : Bool) : Nat → Bool × Nat → Nat
  | _, (false, c) => c
  | 0, _ => 0
  | n + 1, (true, id) => match l.find? (fun s => s.id = id) with
    | some s => endOf l last n ((if last then s.members.getLast? else s.members.head?).getD (false, 0))
    | none => 0

/-- The participant at a position of a tree, and its host. -/
def GSpan.at_ (s : GSpan) (t p : Nat) : Bool × Nat :=
  s.members.getD (if t = 0 then p else s.members.length - 1 - p) (false, 0)
def GSpan.host (l : List GSpan) (s : GSpan) (t p : Nat) : Nat := endOf l (t = 1) 8 (s.at_ t p)

/-- The positions of a node's children, in ascending key. -/
def GSpan.kids (s : GSpan) (f t p : Nat) : List Nat :=
  let l := (upto f).filterMap (fun k => if f * p + 1 + k < s.members.length then some (f * p + 1 + k) else none)
  if t = 0 then l else l.reverse

/-- The node at a position passes on what an agent sends: no node from it down to the endpoint has children. -/
def GSpan.bare (l : List GSpan) (f t : Nat) : Nat → GSpan → Nat → Bool
  | 0, _, _ => true
  | n + 1, s, p => (s.kids f t p).isEmpty && (match s.at_ t p with
    | (false, _) => true
    | (true, id) => match l.find? (fun x => x.id = id) with
      | some x => GSpan.bare l f t n x 0
      | none => true)

/-- An endpoint's nodes in a tree, deepest first: the span and the position. -/
def nodesAt (l : List GSpan) (t host : Nat) : List (GSpan × Nat) :=
  let all := l.flatMap (fun s => ((upto s.members.length).filter (fun p => s.host l t p = host)).map (fun p => (s, p)))
  sortBy (fun (a b : GSpan × Nat) => b.1.level < a.1.level) all

/-- What an endpoint hosts in a tree. -/
def ghost (l : List GSpan) (f t host : Nat) : GHost :=
  let ns := nodesAt l t host
  let top := ns.getLast?
  let nodes := ns.filterMap (fun (x : GSpan × Nat) =>
    let ks := x.1.kids f t x.2
    if ks.isEmpty then none
    else some { level := x.1.level, kids := ks.map (fun q => (x.1.host l t q, GSpan.bare l f t 8 x.1 q)) : GNode })
  let parent := top.bind (fun (x : GSpan × Nat) =>
    if x.2 = 0 then none else some (x.1.level, x.1.host l t ((x.2 - 1) / f)))
  { host := host, tree := t, level := (ns.head?.map (fun x => x.1.level)).getD 0, nodes := nodes, parent := parent
    targets := nodes.flatMap (fun n => n.kids.map (fun k => k.1)) ++ (if parent.isNone then [host] else []) }

/-- Children an endpoint hosts over all its levels in a tree. -/
def GHost.kids (x : GHost) : List (Nat × Bool) := x.nodes.flatMap (fun n => n.kids)

/-! Groups. -/

/-- A recorded group. -/
def Hw.group (h : Hw) (key : Nat) : Option Group := SMap.find? h.groups key
def Hw.setGroup (h : Hw) (key : Nat) (g : Group) : Hw := { h with groups := SMap.put h.groups key g }

/-- The formats of a group: those of R327. -/
def groupFmtsOk (inF outF : Nat) : Bool :=
  let narrow : List (Option Fmt) := [some .fp32, some .bf16, some .e4m3, some .e5m2]
  match Fmt.ofCode inF, Fmt.ofCode outF with
  | some .fp64, o => o = some .fp64 || o = some .fp32
  | some .int32, o => o = some .int32
  | some .uint32, o => o = some .uint32
  | i, o => narrow.contains i && narrow.contains o

/-- The formats and the operation of a reduction. -/
structure CollFmt where
  inF : Fmt
  outF : Fmt
  lane : Fmt
  red : Nat
  deriving DecidableEq, Repr

/-- The carry format (R327). -/
def carryOf (f : Fmt) : Fmt := if f = .fp64 || f = .int32 || f = .uint32 then f else .fp32

/-- Formats of a group's collectives; OPSEQ 0 is a UINT32 maximum (R341). -/
def Group.fmts (g : Group) (opseq : Nat) : CollFmt :=
  if opseq = 0 then ⟨.uint32, .uint32, .uint32, 1⟩
  else
    let i := (Fmt.ofCode g.inFmt).getD .fp32
    ⟨i, (Fmt.ofCode g.outFmt).getD .fp32, carryOf i, g.red⟩

/-- Elements of a chunk (R327). -/
def CollFmt.elems (c : CollFmt) : Nat := if c.lane = .fp64 then 504 else 1008

/-- Show the number of groups an engine records (DE_COLL). -/
def Hw.showGroups (h : Hw) (die : Nat) : Hw :=
  h.wf Reg.deCollGroups (rkey die 4 0) 0 ((h.groups.filter (fun (g : Nat × Group) => g.2.agents.any (fun a => a.die = die))).length)

/-! SETUP, step 1 (R339 to R341). -/

/-- A SETUP within the ranges of R339 and the formats of R327. -/
def setupOk (d : Desc) : Bool :=
  let move := d.fld 0 11 11 = 1
  d.fld 0 15 14 = 0 && d.fld 4 31 28 = 0 && d.fld 0x18 319 0 = 0 && d.fld 4 15 0 ≠ 0 && d.fld 0 26 24 ≠ 0
    && d.fld 0 26 24 ≤ 4 && 2 ≤ d.fld 0 31 27 && d.fld 0 13 12 ≤ 2
    && (if move then d.fld 0 13 12 = 0 && d.fld 0 19 16 = 0 && d.fld 0 23 20 = 0
        else groupFmtsOk (d.fld 0 19 16) (d.fld 0 23 20))

/-- Contexts of this package that nothing uses: F-die, unit and index. -/
def Hw.freeCtxs (h : Hw) : List (Nat × Nat × Nat) :=
  let used := h.groups.flatMap (fun (g : Nat × Group) => g.2.hosts.flatMap (fun x => x.nodes.filterMap (fun n => n.ctx)))
  (upto 2048).filterMap (fun i =>
    let k := (24 + i / 512, i / 64 % 8, i % 64)
    if used.contains k || h.stuValid k.1 k.2.1 k.2.2 || (SMap.find? (h.stu k.1 k.2.1).ctxs k.2.2).isSome then none
    else some k)

/-- Multicast entries of this package that nothing uses: F-die and index. -/
def Hw.freeEntries (h : Hw) : List (Nat × Nat) :=
  let used := h.groups.flatMap (fun (g : Nat × Group) => g.2.hosts.filterMap (fun x => x.entry))
  (upto 4096).filterMap (fun i =>
    let k := (24 + i / 1024, i % 1024)
    if used.contains k || bit (h.mcWord k.1 k.2 0) 31 then none else some k)

/-- Pick one of what is free: which one is the implementation's choice (R341). -/
def pickFree {α : Type} (h : Hw) (l : List α) : Option α × Hw :=
  let r := h.drawFree
  (l[r.1.toNat % orElse l.length 1]?, r.2)

/-- A context as a set-up takes it: with the tree it serves. -/
abbrev Taken := Nat × Nat × Nat × Nat

/-- Contexts for a host's nodes. Units that serve the tree already are avoided while others remain, since a context
takes no two inputs from one unit (R304). -/
def Hw.pickNodes (h : Hw) (tree : Nat) (taken : List Taken) : List GNode → Option (List GNode) × Hw
  | [] => (some [], h)
  | n :: l =>
    let free := h.freeCtxs.filter (fun k => !(taken.any (fun (q : Taken) => q.2 = k)))
    let apart := free.filter (fun k => !(taken.any (fun (q : Taken) => q.1 = tree && q.2.1 = k.1 && q.2.2.1 = k.2.1)))
    match pickFree h (if apart.isEmpty then free else apart) with
    | (none, h) => (none, h)
    | (some k, h) => match h.pickNodes tree ((tree, k) :: taken) l with
      | (some r, h) => (some ({ n with ctx := some k } :: r), h)
      | (none, h) => (none, h)

/-- Contexts and entries for every host of a group. An endpoint without targets takes no entry. -/
def Hw.pickHosts (h : Hw) (move : Bool) (ctxs : List Taken) (ents : List (Nat × Nat)) :
    List GHost → Option (List GHost) × Hw
  | [] => (some [], h)
  | x :: l =>
    match (if move then (some x.nodes, h) else h.pickNodes x.tree ctxs x.nodes) with
    | (none, h) => (none, h)
    | (some ns, h) =>
      let r := if x.targets.isEmpty then (some (none : Option (Nat × Nat)), h) else
        match pickFree h (h.freeEntries.filter (fun k => !ents.contains k)) with
        | (some k, h) => (some (some k), h)
        | (none, h) => (none, h)
      match r with
      | (none, h) => (none, h)
      | (some k, h) =>
        match h.pickHosts move ((ns.filterMap (fun n => n.ctx)).map (fun c => (x.tree, c)) ++ ctxs) (k.toList ++ ents) l with
        | (some r, h) => (some ({ x with nodes := ns, entry := k } :: r), h)
        | (none, h) => (none, h)

/-- A COLL frame of the management processor (R342), sent for a SETUP. -/
def Hw.mgmtSend (h : Hw) (job : Option Nat) (node : Nat) (record : List Byte) : Hw :=
  h.send { typ := 9, cls := 0, src := h.coord 28 8, dst := coordOf node 28 8, payload := granules record
           owner := match job with | some t => .job 28 8 t | none => .free }

/-- A set-up record (R342). -/
def setupRecord (kind tree key node from_ level source ctx : Nat) : List Byte :=
  toBytes 1 kind ++ toBytes 1 (tree % 2) ++ toBytes 2 key ++ toBytes 4 node ++ toBytes 4 from_ ++ toBytes 1 level
    ++ rep 3 0 ++ toBytes 4 source ++ toBytes 4 (ctx % 1024) ++ rep 8 0

/-- The coordinate of a context's unit. -/
def Hw.ctxCoord (h : Hw) (k : Nat × Nat × Nat) : Nat := h.coord k.1 k.2.1

/-- The SRC of the frames that leave an endpoint's nodes: its last context, or its agent (R342). -/
def GHost.source (x : GHost) (h : Hw) : Nat :=
  match (x.nodes.filterMap (fun n => n.ctx)).getLast? with
  | some k => h.ctxCoord k
  | none => x.host

/-- The words of the kept programs, by index (R343). -/
def stitchPrograms : List (Nat × Nat) :=
  [(1000, 0x10), (1005, 0x11), (1010, 0x12)].flatMap (fun (p : Nat × Nat) =>
    [(p.1, 0x0200000000000002), (p.1 + 1, p.2 * 2 ^ 56), (p.1 + 2, 0x0900000000000000), (p.1 + 3, 0x2800000000000000)
     , (p.1 + 4, 0x0100000000000000)])

/-- The programs that the management processor keeps in every stitch program store (R343). -/
def Hw.keepPrograms (h : Hw) : Hw :=
  (upto 32).foldl (fun h u => stitchPrograms.foldl (fun h (p : Nat × Nat) =>
    { h with regs := SMap.put h.regs (rkey (24 + u / 8) (u % 8) (0x80000 + 8 * p.1)) (BitVec.ofNat 64 p.2) }) h) h

/-- Write a little-endian structure into registers. -/
def Hw.putRegs (h : Hw) (base : Nat) (bs : List Byte) : Hw :=
  (upto (bs.length / 8)).foldl (fun h i =>
    { h with regs := SMap.put h.regs (base + 8 * i) (BitVec.ofNat 64 (pay bs (8 * i) 8)) }) h

/-- A node's context entry (R296, R343): `ins` are its inputs with whether an agent feeds each, `out` where it sends. -/
def nodeEntry (g : Group) (key tag : Nat) (top : Bool) (ins : List (Nat × Bool)) (out : Nat × Nat) : List Byte :=
  let c := g.fmts 1
  let start := 1000 + 5 * g.red
  let nin := ins.length
  let outF := if top then c.outF.code else c.lane.code
  let fmts := ins.zipIdx.foldl (fun a (x : (Nat × Bool) × Nat) =>
    a + (if x.1.2 then c.inF.code else c.lane.code) * 16 ^ x.2) 0
  let head := toBytes 2 key ++ toBytes 2 start ++ toBytes 1 nin ++ toBytes 1 (g.depth + 16 * outF) ++ toBytes 2 c.elems
    ++ toBytes 2 63 ++ toBytes 2 tag ++ toBytes 4 out.1 ++ toBytes 4 (out.2 + key * 2 ^ 10) ++ rep 12 0
    ++ toBytes 16 fmts ++ rep 80 0
  head ++ ins.flatMap (fun x => toBytes 4 x.1) ++ rep (4 * (32 - nin)) 0

/-- Write a host's multicast entry (R288, R343). -/
def Hw.writeMc (h : Hw) (key tag : Nat) (x : GHost) : Hw :=
  match x.entry with
  | none => h
  | some (die, i) =>
    let ts := x.targets.take 31
    let bs := toBytes 4 (2 ^ 31 + ts.length * 2 ^ 16 + key) ++ toBytes 4 tag ++ (ts.take 30).flatMap (fun t => toBytes 4 t)
    let h := h.putRegs (rkey die 9 (0x40000 + 0x80 * i)) (bs ++ rep (128 - bs.length) 0)
    { h with mcExtra := SMap.put h.mcExtra (die * 1024 + i) (ts.getD 30 0) }

/-- Where a host's chain sends: the parent's context, or the top root's multicast entry. -/
def GHost.out (x : GHost) (h : Hw) : Nat × Nat :=
  match x.parent, x.entry with
  | none, some (die, i) => (h.coord die 9, i)
  | _, _ => x.down.getD (0, 0)

/-- Step 3 for the nodes of a host, shallowest first: a node whose children have all told their SOURCE, and whose
parent is known, gets its context, its children their SETUP_DOWN, and its unit a CLAIM (R341, R343). Frames and contexts of the nodes
already written stand. -/
def Hw.writeNodes (h : Hw) (key : Nat) (g : Group) (x : GHost) : Nat → GHost × Hw
  | 0 => (x, h)
  | i + 1 =>
    match x.nodes[i]? with
    | none => Hw.writeNodes h key g x i
    | some n =>
      let upper := if i + 1 < x.nodes.length then (x.nodes.getD (i + 1) n).written else x.parent.isNone || x.down.isSome
      if n.written then Hw.writeNodes h key g x i
      else if !upper || !(n.kids.all (fun k => (SMap.find? x.ups k.1).isSome)) then (x, h)
      else
        let tag := h.tagOf (ownerFdie (cDie x.host)) g.part
        let h := match n.ctx with
          | none => h
          | some k =>
            let below := match (if i = 0 then none else x.nodes[i - 1]?) with
              | some b => ((b.ctx.map h.ctxCoord).getD x.host, false)
              | none => (x.host, true)
            let last := i + 1 = x.nodes.length
            let out := if last then x.out h else match (x.nodes.getD (i + 1) n).ctx with
              | some q => (h.ctxCoord q, q.2.2)
              | none => (0, 0)
            let ins := below :: n.kids.map (fun (q : Nat × Bool) => (SMap.get x.ups q.1 q.1, q.2))
            (h.keepPrograms).putRegs (entB k.1 k.2.1 k.2.2) (nodeEntry g key tag (last && x.parent.isNone) ins out)
        let h := h.writeMc key tag x
        let h := match n.ctx with | some k => h.stuCommand k.1 k.2.1 1 k.2.2 | none => h
        let src := match n.ctx with | some k => (h.ctxCoord k, k.2.2) | none => (0, 0)
        let h := n.kids.foldl (fun h q => h.mgmtSend g.job (cNode q.1)
          (setupRecord 2 x.tree key q.1 x.host n.level src.1 src.2)) h
        Hw.writeNodes h key g { x with nodes := listSet x.nodes i { n with written := true } } i

/-- A host's part of step 3 is complete. -/
def GHost.complete (x : GHost) : Bool :=
  x.nodes.all (fun n => n.written) && (x.parent.isNone || x.down.isSome)

/-- Complete a SETUP that waits. -/
def Hw.endSetup (h : Hw) (key : Nat) (d : Done) : Hw :=
  match h.group key with
  | none => h
  | some g =>
    let h := h.setGroup key { g with job := none }
    match g.job.bind (fun t => (h.queue 28 8).find? (fun j => j.tag = t)) with
    | some j => h.finishJob 28 8 j d
    | none => h

/-- Step 3 for every host of a group. A top root without children has nothing to wait for but its entry. A MOVE group
is set up once it is complete. -/
def Hw.setupStep (h : Hw) (key : Nat) : Hw :=
  match h.group key with
  | none => h
  | some g =>
    let r := g.hosts.foldl (fun (a : List GHost × Hw) x =>
      let h := if x.nodes.isEmpty && x.parent.isNone then a.2.writeMc key (a.2.tagOf (ownerFdie (cDie x.host)) g.part) x
        else a.2
      let b := h.writeNodes key g x x.nodes.length
      (a.1 ++ [b.1], b.2)) ([], h)
    let g := { g with hosts := r.1 }
    let h := r.2.setGroup key g
    if g.move && g.job.isSome && g.hosts.all GHost.complete then
      (h.setGroup key { g with form := some 0, agents := g.agents.map (fun a => { a with opseq := 1 }) }).endSetup key ⟨.ok, 0, 0⟩
    else h

/-- Why a SETUP is refused, once its span is known (R340). -/
def Hw.setupRefused (h : Hw) (e : Env) (d : Desc) (x : Expand) (hosts : List GHost) : Bool :=
  let part := d.fld 0 10 8
  let mine := x.ends.filter (fun c => cNode c = h.node)
  let size := d.fld 0x0C 31 0
  !noDup x.ends || x.ends.any (fun c => cUnit c ≠ 4 || 24 ≤ cDie c)
    || mine.isEmpty
    || mine.any (fun c => !e.cdie (cDie c) || h.partOf (cDie c) ≠ some part
        || 64 ≤ (h.groups.filter (fun (g : Nat × Group) => g.2.agents.any (fun a => a.die = cDie c))).length
        || !h.tagValid (ownerFdie (cDie c)) part)
    || x.ends.any (fun c => [0, 1].any (fun t => 30 < (ghost x.spans (d.fld 0 31 27) t c).kids.length))
    || (h.group (d.fld 4 15 0)).isSome
    || 0x10000000 < d.fld 8 31 0 + size
    || mine.any (fun c =>
        let ys := hosts.filter (fun y => y.host = c)
        let n := (ys.map (fun y => (nodesAt x.spans y.tree c).length)).sum
        size < 4096 * d.fld 0 26 24 * (n + (ys.map (fun y => y.kids.length)).sum))

/-- SETUP, steps 1 and 2 (R341). -/
def Hw.runSetup (h : Hw) (e : Env) (j : Job) : Hw :=
  let d := j.body
  let part := d.fld 0 10 8
  let fin (h : Hw) (s : Status) : Hw := h.finishJob 28 8 j ⟨s, 0, 0⟩
  if h.kpostForeign j.origin part then fin h .refused
  else if !setupOk d then fin h .badDescriptor
  else if !h.loaded part then fin h .partitionDown
  else if h.rf Reg.spanTblEnable pkgB part = 0 then fin h .refused
  else match runOp (readSpan e (h.rf Reg.spanTblBase pkgB part * 2 ^ 17) 8 (d.fld 4 27 16) 0) h with
    | (.error .held, h) => h
    | (.error f, h) =>
      let r := h.failDone j.origin.opid (some part) (h.coord 28 8) f
      r.2.finishJob 28 8 j r.1
    | (.ok x, h) =>
      let f := d.fld 0 31 27
      let mine := x.ends.filter (fun c => cNode c = h.node)
      let hosts := mine.flatMap (fun c => [ghost x.spans f 0 c, ghost x.spans f 1 c])
      if h.setupRefused e d x hosts then fin h .refused
      else
        let move := d.fld 0 11 11 = 1
        match h.pickHosts move [] [] hosts with
        | (none, _) => fin h .refused
        | (some hosts, h) =>
          let key := d.fld 4 15 0
          let root := x.spans.headD ⟨0, 0, []⟩
          let g : Group := {
            part := part, move := move, red := d.fld 0 13 12, inFmt := d.fld 0 19 16, outFmt := d.fld 0 23 20
            depth := d.fld 0 26 24, degree := f, stage := d.fld 8 31 0, stageSize := d.fld 0x0C 31 0
            at_ := d.fld 0x10 63 0, levels := x.depth, digest := crc64 x.bytes, ends := x.ends
            tops := [root.host x.spans 0 0, root.host x.spans 1 0], hosts := hosts
            agents := mine.map (fun c => { die := cDie c, rank := (x.ends.findIdx (fun y => y = c)) })
            job := some j.tag }
          let h := (h.setGroup key g).putJob 28 8 { j with started := true, since := h.now }
          let h := mine.foldl (fun h c => h.showGroups (cDie c)) h
          let h := hosts.foldl (fun h y => match y.parent with
            | some (level, p) => h.mgmtSend (some j.tag) (cNode p) (setupRecord 1 y.tree key p y.host level (y.source h) 0)
            | none => h) h
          h.setupStep key

/-- The oldest descriptor at the management processor with an operation code that has not begun. -/
def Hw.mgmtJob (h : Hw) (op : Nat) : Option Job :=
  (h.queue 28 8).find? (fun j => j.body.fld 0 7 0 = op && !j.started)

/-- SETUP (R340, R341). -/
def setup (e : Env) (h : Hw) : Hw :=
  match h.mgmtJob 0x40 with
  | some j => h.runSetup e j
  | none => h

/-! Set-up records (R341, R342). -/

/-- KEY, TREE, NODE, FROM, SOURCE and CTX of a set-up record. -/
def setupKey (f : Frame) : Nat := pay f.payload 2 2
def setupTree (f : Frame) : Nat := bits (pay f.payload 1 1) 0 0

/-- A set-up record of a kind for this package's management processor. -/
def isSetup (f : Frame) (kind : Nat) : Bool :=
  Frame.typ f = 9 && cDie (Frame.dst f) = 28 && cUnit (Frame.dst f) = 8 && pay f.payload 0 1 = kind

/-- Change the host that a set-up record addresses. -/
def Hw.setupAt (h : Hw) (f : Frame) (up : GHost → GHost) : Hw :=
  match h.group (setupKey f) with
  | none => h
  | some g =>
    let hosts := g.hosts.map (fun x => if x.host = pay f.payload 4 4 && x.tree = setupTree f then up x else x)
    (h.setGroup (setupKey f) { g with hosts := hosts }).setupStep (setupKey f)

/-- SETUP_UP: a child tells the SRC of its frames. -/
def setupUp (f : Frame) (_ : Env) (h : Hw) : Hw :=
  if !isSetup f 1 then h
  else match h.arrive f (fun h => (h.group (setupKey f)).isSome) with
    | (false, h) => h
    | (true, h) => h.setupAt f (fun x => { x with ups := SMap.put x.ups (pay f.payload 8 4) (pay f.payload 16 4) })

/-- SETUP_DOWN: the parent tells its context. -/
def setupDown (f : Frame) (_ : Env) (h : Hw) : Hw :=
  if !isSetup f 2 then h
  else match h.arrive f (fun h => (h.group (setupKey f)).isSome) with
    | (false, h) => h
    | (true, h) => h.setupAt f (fun x => { x with down := some (pay f.payload 16 4, bits (pay f.payload 20 4) 9 0) })

/-! Epochs (R341, R345). -/

/-- The contexts of a group. -/
def Group.ctxs (g : Group) : List (Nat × Nat × Nat) := g.hosts.flatMap (fun x => x.nodes.filterMap (fun n => n.ctx))

/-- Before the commands of the stitch units apply: the claims of every group whose epoch has come wait no longer
(R341). -/
def Hw.groupClaims (h : Hw) : Hw :=
  h.groups.foldl (fun h (p : Nat × Group) =>
    let g := p.2
    if g.move || g.claimed || g.job.isNone || h.now < g.at_ || !(g.hosts.all GHost.complete) then h
    else h.setGroup p.1 { g with claimed := true }) h

/-- Release the contexts of a group at this epoch; claims that still wait are taken back (DEDUCED, log entry 127). -/
def Hw.groupFree (h : Hw) (g : Group) : Hw :=
  if g.claimed then g.ctxs.foldl (fun h k => h.stuCommand k.1 k.2.1 2 k.2.2) h
  else { h with stuCmds := h.stuCmds.filter (fun x => !(x.2.2.1 = 1 && g.ctxs.contains (x.1, x.2.1, x.2.2.2))) }

/-- Clear VALID of a host's multicast entry (R345). -/
def Hw.clearMc (h : Hw) (x : GHost) : Hw :=
  match x.entry with
  | none => h
  | some (die, i) =>
    let k := rkey die 9 (0x40000 + 0x80 * i)
    { h with regs := SMap.put h.regs k (BitVec.ofNat 64 (setBits (SMap.get h.regs 0 k).toNat 31 31 0))
             mcExtra := SMap.del h.mcExtra (die * 1024 + i) }

/-- A released group is gone: its contexts are to be released, its entries are invalid, its agents forget it. -/
def Hw.endGroup (h : Hw) (key : Nat) : Hw :=
  match h.group key with
  | none => h
  | some g =>
    let h := (if g.form ≠ some 1 then h.groupFree g else h).endSetup key ⟨.aborted, 0, 0⟩
    let h := g.hosts.foldl (fun h x => h.clearMc x) h
    let h := { h with groups := SMap.del h.groups key }
    g.agents.foldl (fun h a => h.showGroups a.die) h

/-- RELEASE of a group: its checks; it then waits for its epoch (R339, R345). -/
def groupRelease (_ : Env) (h : Hw) : Hw :=
  match h.mgmtJob 0x41 with
  | none => h
  | some j =>
    let d := j.body
    let part := d.fld 0 10 8
    let fin (s : Status) : Hw := h.finishJob 28 8 j ⟨s, 0, 0⟩
    if h.kpostForeign j.origin part then fin .refused
    else if d.fld 0 31 11 ≠ 0 || d.fld 4 31 16 ≠ 0 || d.fld 4 15 0 = 0 || d.fld 8 63 0 ≠ 0 || d.fld 0x18 319 0 ≠ 0 then
      fin .badDescriptor
    else if !h.loaded part then fin .partitionDown
    else h.putJob 28 8 { j with started := true, since := h.now }

/-- SETUP (R341). -/
def execSetup (s : State) : Host.Outcome State Fault Refusal := onHw setup s

/-- SETUP_UP (R342). -/
def execSetupUp (frame : Frame) (s : State) : Host.Outcome State Fault Refusal := onHw (setupUp frame) s

/-- SETUP_DOWN (R342). -/
def execSetupDown (frame : Frame) (s : State) : Host.Outcome State Fault Refusal := onHw (setupDown frame) s

/-- GROUP_RELEASE (R345). -/
def execGroupRelease (s : State) : Host.Outcome State Fault Refusal := onHw groupRelease s

end Sys2Proof.Machine
end

