-- ==== Sys2Proof/Machine/Mma.lean ====
section
/-! DEFINITION. The matrix product (R90 to R108, R160 to R163): the descriptor and its checks, the product in the
reference order, the output path and the skiver, and the commands of the array queue. -/

namespace Sys2Proof.Machine

/-- The MMA descriptor (R94), with the rows a register may have given. -/
structure MmaD where
  aF : Nat
  bF : Nat
  cF : Nat
  round : Nat
  accum : Bool
  bias : Bool
  mask : Bool
  sparse : Bool
  form : Nat
  stream : Bool
  toDispatch : Bool
  aStep : Bool
  cStep : Bool
  m : Nat
  k : Nat
  n : Nat
  aAddr : Nat
  aStride : Nat
  bAddr : Nat
  bStride : Nat
  cAddr : Nat
  cStride : Nat
  biasAddr : Nat
  maskAddr : Nat
  seed : Nat
  tensor : Nat
  flagList : Nat
  op : Nat
  deriving DecidableEq, Repr

/-- Fields of an MMA descriptor (R94). -/
def MmaD.of (d : Desc) (m : Nat) : MmaD :=
  { op := d.fld 0 7 0, aF := d.fld 0 11 8, bF := d.fld 0 15 12, cF := d.fld 0 19 16, round := d.fld 0 21 20
    accum := d.fld 0 22 22 = 1, bias := d.fld 0 23 23 = 1, mask := d.fld 0 24 24 = 1, sparse := d.fld 0 25 25 = 1
    form := d.fld 0 27 26, stream := d.fld 0 28 28 = 1, toDispatch := d.fld 0 29 29 = 1
    aStep := d.fld 0 30 30 = 1, cStep := d.fld 0 31 31 = 1
    m := m, k := d.fld 8 31 0, n := d.fld 0x0C 31 0
    aAddr := d.fld 0x10 31 0, aStride := d.fld 0x14 31 0, bAddr := d.fld 0x18 31 0, bStride := d.fld 0x1C 31 0
    cAddr := d.fld 0x20 31 0, cStride := d.fld 0x24 31 0, biasAddr := d.fld 0x28 31 0, maskAddr := d.fld 0x2C 31 0
    seed := d.fld 0x30 63 0, tensor := d.fld 0x38 31 0, flagList := d.fld 0x3C 31 0 }

/-- A format code with its replay steps applied where the STEP bit is set (R121). -/
def stepped (on : Bool) (step code : Nat) : Option Fmt :=
  (Fmt.ofCode code).map (fun f => if on then Fmt.chain step f else f)

/-- Bytes of a strided extent of `rows` rows whose last row has `row` bytes. -/
def extent (rows stride row : Nat) : Nat := if rows = 0 || row = 0 then 0 else (rows - 1) * stride + row

/-- Bytes of one row of C in its output form (R156). -/
def MmaD.cRow (d : MmaD) (f : Fmt) : Nat := if d.form = 0 then f.rowBytes d.n else rowBound f d.n

/-- Bytes a stepped operand's rows must have room for (R95, R156). -/
def MmaD.cRowFp32 (d : MmaD) : Nat := d.cRow .fp32

/-- The window extent ends within the scratchpad (R89). -/
def inWin (a n : Nat) : Bool := a + n ≤ 0x10000000

/-- The entries of a flag list from its bytes (R108): flag address, tag, first k, count. -/
def flagEntries (bs : List Byte) : List (Nat × Nat × Nat × Nat) :=
  (upto (bs.length / 16)).map (fun i =>
    (pay bs (16 * i) 4, pay bs (16 * i + 4) 4, pay bs (16 * i + 8) 4, pay bs (16 * i + 12) 4))

/-- The entries cover 0 to K − 1 in ascending order without gaps (R108). -/
def coverFrom : Nat → Nat → List (Nat × Nat × Nat × Nat) → Bool
  | k, j, [] => j = k
  | k, j, (_, _, f, c) :: l => f = j && c ≠ 0 && coverFrom k (j + c) l

/-- The rules of the entries of a flag list (R106, R108). -/
def MmaD.entriesOk (d : MmaD) (es : List (Nat × Nat × Nat × Nat)) : Bool :=
  coverFrom d.k 0 es && es.all (fun x => x.1 % 8 = 0 && inWin x.1 8
    && x.2.2.1 % (if d.sparse then 512 else 256) = 0)

/-- Extents of the inputs of a product: A, B, bias, mask, flag list (R95). `size` is the SIZE of a 2:4 image and `count`
the entries of the flag list. -/
def MmaD.inputs (d : MmaD) (step size count : Nat) : List (Nat × Nat) :=
  let aF := (stepped d.aStep step d.aF).getD .fp32
  let bF := (Fmt.ofCode d.bF).getD .fp32
  let noK := d.k = 0
  [ (d.aAddr, if noK then 0 else extent d.m d.aStride (aF.rowBytes d.k)),
    (d.bAddr, if noK then 0 else if d.sparse then size else extent d.n d.bStride (bF.rowBytes d.k)),
    (d.biasAddr, if d.bias then 4 * d.n else 0),
    (d.maskAddr, if d.mask then ceilDiv d.m 8 else 0),
    (d.flagList, if d.stream && !noK then 8 + 16 * count else 0) ]

/-- Bytes of C (R95). -/
def MmaD.cExt (d : MmaD) (step : Nat) : Nat :=
  if d.toDispatch then 0 else
  extent d.m d.cStride (d.cRow ((stepped d.cStep step d.cF).getD .fp32))

/-- Codes A and B may have (R90). -/
def arrayIn (c : Nat) : Bool := c = 1 || c = 2 || c = 3 || c = 4

/-- The checks of R95 with those of R15, R42, R54, R90 and R162 that need no replay step. -/
def MmaD.wellFormed (d : MmaD) : Bool :=
  d.op = 1 && arrayIn d.aF && arrayIn d.bF && d.cF ≤ 4 && d.round ≤ 1 && !(d.round = 1 && d.cF = 0)
    && !(d.sparse && (d.aF = 1 || d.bF = 1))
    && d.form ≠ 3 && !(d.form ≠ 0 && d.toDispatch) && !(d.form ≠ 0 && d.accum)
    && !(d.toDispatch && (d.cF ≠ 0 || d.cAddr ≠ 0 || d.cStride ≠ 0 || d.cStep || d.accum))
    && (d.bias || d.biasAddr = 0) && (d.mask || d.maskAddr = 0) && (d.stream || d.flagList = 0)
    && (d.round = 1 || d.seed = 0) && !(d.sparse && d.bStride ≠ 0)

/-- The strides of R95. -/
def MmaD.stridesOk (d : MmaD) : Bool :=
  match Fmt.ofCode d.aF, Fmt.ofCode d.bF, Fmt.ofCode d.cF with
  | some a, some b, some c =>
    a.rowBytes d.k ≤ d.aStride && (d.sparse || b.rowBytes d.k ≤ d.bStride)
      && (d.toDispatch || d.cRow c ≤ d.cStride)
      && (!d.cStep || d.cRowFp32 ≤ d.cStride) && (!d.aStep || 4 * d.k ≤ d.aStride)
  | _, _, _ => false

/-- A SPARSE product does not take an A that has stepped to BF16 or FP32 (R90). -/
def MmaD.sparseStepOk (d : MmaD) (step : Nat) : Bool :=
  !(d.sparse && d.aStep &&
    (match stepped true step d.aF with | some .bf16 => true | some .fp32 => true | _ => false))

/-- A product of zero length (R96). -/
def MmaD.empty (d : MmaD) : Bool := d.m = 0 || d.n = 0 || d.k = 0

/-- A TO_DISPATCH product that still reaches the dispatch engine (R96, R172). -/
def MmaD.handsOver (d : MmaD) : Bool := d.toDispatch && (d.m = 0 || (d.n ≠ 0 && d.m ≠ 0))

/-- Every extent of a product lies in the window, and C overlaps none of its inputs (R89, R95). -/
def MmaD.extentsOk (d : MmaD) (step size count : Nat) : Bool :=
  (d.inputs step size count).all (fun x => inWin x.1 x.2) && inWin d.cAddr (d.cExt step) &&
  (d.inputs step size count).all (fun x => !extOverlap d.cAddr (d.cExt step) x.1 x.2)

/-- Every check that needs nothing of memory (R89, R90, R95). -/
def MmaD.ok (d : MmaD) (step : Nat) : Bool :=
  d.wellFormed && d.stridesOk && d.sparseStepOk step && (d.empty || d.extentsOk step 0 0)

/-- Read and check a flag list (R106, R108). -/
def MmaD.readList (d : MmaD) (w : Nat) : Op (List (Nat × Nat × Nat × Nat)) := do
  need (inWin d.flagList 8) .badDescriptor
  let v ← loadN (w + d.flagList) 8
  let n := bits v 31 0
  need (1 ≤ n && n ≤ 64 && bits v 63 32 = 0 && inWin d.flagList (8 + 16 * n)) .badDescriptor
  let es := flagEntries (← loadB (w + d.flagList + 8) (16 * n))
  need (d.entriesOk es) .badDescriptor
  return es

/-- The checks made when a product enters the array queue (R95, R106, R108): those of the descriptor alone first, then
those that read the flag list and the SIZE of a 2:4 image. It answers the flag list, which the product keeps. A product
without rows, columns or k reads nothing (R96). -/
def MmaD.flagsRead (d : MmaD) (w step : Nat) : Op (List (Nat × Nat × Nat × Nat)) := do
  need (d.ok step) .badDescriptor
  if d.empty then
    need (d.m = 0 || d.n = 0 || !d.handsOver || d.extentsOk step 0 0) .badDescriptor
    return []
  else
    let es ← if d.stream then d.readList w else pure []
    let size ← if d.sparse then do
        need (inWin d.bAddr 16) .badDescriptor
        loadN (w + d.bAddr + 0x0C) 4
      else pure 0
    need (d.extentsOk step size es.length) .badDescriptor
    return es

/-- Chunks of 256 consecutive values (R57). -/
def chunksOf (l : List (FVal × Option FVal)) : List (List (FVal × Option FVal)) :=
  (upto (ceilDiv l.length 256)).map (fun c => (l.drop (256 * c)).take 256)

/-- One chunk partial: products in ascending k, an absent weight entering as +0.0 (R57, R59). -/
def chunkSum (l : List (FVal × Option FVal)) : FVal :=
  l.foldl (fun p x => add32 p (match x.2 with | some b => x.1.mul b | none => FVal.zero)) FVal.zero

/-- A sum in hand, with the chunk partials of a row of A and a row of B added in ascending chunk order (R57, R104). -/
def accumulate (acc : FVal) (a : List FVal) (b : List (Option FVal)) : FVal :=
  ((chunksOf (a.zip b)).map chunkSum).foldl add32 acc

/-- The sum of a row of A with a row of B in the reference order (R57). -/
def dotRef (a : List FVal) (b : List (Option FVal)) : FVal := accumulate FVal.zero a b

/-- Rows a mask leaves live (R100). -/
def liveRows (m : Nat) (mask : List Bool) : List Nat := (upto m).filter (fun r => !(mask.getD r false))

/-- Read a row mask (R100). -/
def readMask (on : Bool) (a m : Nat) : Op (List Bool) := do
  if on then return bitsOf (← loadB a (ceilDiv m 8)) m else return []

/-- A row of `n` elements read from memory. -/
def readRow (f : Fmt) (n a : Nat) : Op (List FVal) := do return decodeRow f n (← loadB a (f.rowBytes n))

/-- The columns of a weight tile, from the formats the product has reached (R90). -/
def tileCols (aF bF : Fmt) : Nat := if aF = .kb4 && bF = .kb4 then 512 else 256

/-- The k of a weight tile (R90, R104). -/
def MmaD.tileK (d : MmaD) : Nat := if d.sparse then 512 else 256

/-- Cycle-exact mode of a core (R102). -/
def Hw.cycleExact (h : Hw) (e : Env) (die core : Nat) : Bool :=
  e.tl.det || h.rf Reg.coreCtrlCycleExact (rkey die core 0) = 1

/-- A row, where it is live. -/
def liveAt (live : List Nat) (r : Nat) : Option Nat := if live.contains r then some r else none

/-- The feed slots of a block of `r` rows from `base`: in each, the row of array A and that of array B (R97, R101). In
cycle-exact mode rows are dealt by position and a masked row keeps its slot; else the live rows are dealt as if they were
the block. -/
def dealt (exact : Bool) (live : List Nat) (base r : Nat) : List (Option Nat × Option Nat) :=
  if exact then
    let half := ceilDiv r 2
    (upto half).map (fun i => (liveAt live (base + i), if half + i < r then liveAt live (base + half + i) else none))
  else
    let l := live.filter (fun x => base ≤ x && x < base + r)
    let half := ceilDiv l.length 2
    (upto half).map (fun i => (l[i]?, l[half + i]?))

/-- A block that has no live row takes no pass outside cycle-exact mode (R101). -/
def blockRuns (exact : Bool) (live : List Nat) (base r : Nat) : Bool :=
  exact || live.any (fun x => base ≤ x && x < base + r)

/-- Array cycles in which either array fed a row, over one pass of a block (R97, R101). -/
def feedCycles (exact : Bool) (live : List Nat) (base r : Nat) : Nat :=
  ((dealt exact live base r).filter (fun s => s.1.isSome || s.2.isSome)).length

/-- The row blocks of a product that take passes: first row and rows (R97, R101). -/
def MmaD.blocks (d : MmaD) (exact : Bool) (live : List Nat) : List (Nat × Nat) :=
  ((upto (ceilDiv d.m 512)).map (fun b => (512 * b, Nat.min 512 (d.m - 512 * b)))).filter
    (fun x => blockRuns exact live x.1 x.2)

/-- The array cycles of a product that count in CORE_BUSY (R97, R121). -/
def MmaD.feed (d : MmaD) (aF bF : Fmt) (exact : Bool) (live : List Nat) : Nat :=
  let perRow := if aF = .bf16 || aF = .fp32 || d.bF = 1 then 4 else 1
  ((d.blocks exact live).map (fun x => feedCycles exact live x.1 x.2)).sum * ceilDiv d.k d.tileK
    * ceilDiv d.n (tileCols aF bF) * perRow

/-- One pass of a product (R97): its number, its block, its n-tile, its stretch of k, and whether it is the last of the
n-tile. With K 0 a block's one pass of each n-tile loads and feeds nothing (R96). -/
structure Pass where
  i : Nat
  base : Nat
  rows : Nat
  n0 : Nat
  nn : Nat
  k0 : Nat
  kn : Nat
  last : Bool
  deriving DecidableEq, Repr

/-- The passes of a product in order: row blocks, n-tiles, stretches of k (R97). -/
def MmaD.passes (d : MmaD) (cols : Nat) (exact : Bool) (live : List Nat) : List Pass :=
  let ks := Nat.max 1 (ceilDiv d.k d.tileK)
  ((d.blocks exact live).flatMap (fun x => (upto (ceilDiv d.n cols)).flatMap (fun j => (upto ks).map (fun c =>
    (⟨0, x.1, x.2, cols * j, Nat.min cols (d.n - cols * j), d.tileK * c, Nat.min d.tileK (d.k - d.tileK * c),
      c + 1 = ks⟩ : Pass))))).zipIdx.map (fun p => { p.1 with i := p.2 })

/-- What the output path found in a product: its counts, a non-finite accumulator, and the skiver's counts. -/
structure OutStat where
  counts : Counts := {}
  acc : Bool := false
  tiles : Nat := 0
  raws : Nat := 0
  saved : Nat := 0
  pruned : Nat := 0
  deriving DecidableEq, Repr

/-- The tiles of one converted row segment through the skiver (R154, R160, R161). -/
def skive (form : Nat) (f : Fmt) (n : Nat) (dense : List Byte) (st : OutStat) : List Byte × OutStat :=
  let s := Segment.ofDense f n dense
  let (s, pr) := if form = 2 then s.prune f else (s, 0)
  let (t, raw) := buildTile form f s
  (t, { st with tiles := st.tiles + 1, raws := st.raws + b2n raw, pruned := st.pruned + pr,
                saved := (st.saved + f.rowBytes n + 2 ^ 64 - t.length) % 2 ^ 64 })

/-- Write one row segment of C through the output path: conversion (R98), then dense or by the skiver at the row's
cursor. Answers the statistics and the new cursor. -/
def writeSeg (d : MmaD) (f : Fmt) (w row n0 cursor : Nat) (vs : List FVal) (st : OutStat) : Op (OutStat × Nat) := do
  let (bs, c) := convRow f (fun i => rndOf d.round d.seed d.tensor (row * d.n + n0 + i)) vs
  let st := { st with counts := st.counts.add c, acc := st.acc || vs.any (fun v => !v.isFin) }
  let base := w + d.cAddr + row * d.cStride
  if d.form = 0 then
    storeB (base + f.rowBytes n0) bs
    return (st, cursor)
  else
    let segs := (upto (ceilDiv vs.length 256)).map (fun g =>
      (Nat.min 256 (vs.length - 256 * g), (bs.drop (f.rowBytes 256 * g)).take (f.rowBytes (Nat.min 256 (vs.length - 256 * g)))))
    segs.foldlM (fun (a : OutStat × Nat) s => do
      let (t, st) := skive d.form f s.1 s.2 a.1
      storeB (base + a.2) t
      return (st, a.2 + t.length)) (st, cursor)

/-- Read the bias vector (R94). -/
def readBias (d : MmaD) (w : Nat) : Op (List FVal) := do
  if d.bias then return (← readRow .fp32 d.n (w + d.biasAddr)) else return []

/-- What a core reads when a product leaves the array queue: its row mask and its bias (R94, R100). With every row masked
it reads no bias. -/
def mmaPrepare (d : MmaD) (w : Nat) : Op MmaRun := do
  let mask ← readMask d.mask (w + d.maskAddr) d.m
  let bias ← if (liveRows d.m mask).isEmpty then pure [] else readBias d w
  return { mask := mask, bias := bias }

/-- A product at work: its descriptor and formats, its window, the issue number, its flag list, and what `mmaPrepare`
read. -/
structure Prod where
  d : MmaD
  aF : Fmt
  bF : Fmt
  cF : Fmt
  w : Nat
  issue : Nat
  exact : Bool
  flags : List (Nat × Nat × Nat × Nat)
  mask : List Bool
  bias : List FVal
  deriving DecidableEq, Repr

/-- The rows of a product that are live. -/
def Prod.live (p : Prod) : List Nat := liveRows p.d.m p.mask

/-- The passes of a product. -/
def Prod.passes (p : Prod) : List Pass := p.d.passes (tileCols p.aF p.bF) p.exact p.live

/-- The stored weights of one row of a 2:4 image over `kn` k from `k0` (R103, R158). -/
def Prod.slotRow (p : Prod) (n k0 kn : Nat) : Op (List (Option FVal)) := do
  let s := ceilDiv p.d.k 256
  let segs ← (upto (ceilDiv kn 256)).mapM (fun g => do
    let off ← loadN (p.w + p.d.bAddr + 32 + 4 * (n * s + k0 / 256 + g)) 4
    let el := Nat.min 256 (p.d.k - (k0 + 256 * g))
    let a := p.d.bAddr + off
    need (inWin a 16) .sparseFormat
    match tileHead 2 p.bF el (← loadB (p.w + a) 16) with
    | none => failSt .sparseFormat
    | some len => do
      need (inWin a len) .sparseFormat
      match readTile 2 p.bF el (← loadB (p.w + a) len) with
      | none => failSt .sparseFormat
      | some t => return (upto el).map (t.elem p.bF))
  return segs.flatten

/-- The weights of a tile, by column (R92, R103). -/
def Prod.weights (p : Prod) (n0 nn k0 kn : Nat) : Op (List (List (Option FVal))) :=
  (upto nn).mapM (fun i =>
    if p.d.sparse then p.slotRow (n0 + i) k0 kn
    else do return (← readRow p.bF kn (p.w + p.d.bAddr + (n0 + i) * p.d.bStride + p.bF.rowBytes k0)).map some)

/-- The loader fills the shadow sets with a tile (R92); what its reads meet is reported before the swap (R99). -/
def Prod.load (p : Prod) (i n0 nn k0 kn : Nat) : Op Tile := do
  match ← tryOp (p.weights n0 nn k0 kn) with
  | .ok ws => return { issue := p.issue, tile := i, weights := ws }
  | .error f => return { issue := p.issue, tile := i, fault := some f.fault }

/-- The flag that guards a k of a streaming product is set (R108). -/
def Prod.flagSet (p : Prod) (k : Nat) : Op Bool :=
  match p.flags.find? (fun x => x.2.2.1 ≤ k && k < x.2.2.1 + x.2.2.2) with
  | some x => do return (← loadFlag (p.w + x.1) x.2.1).isSome
  | none => pure true

/-- The passes before which a streaming product waits for a flag: those of its first n-tile (R108). -/
def Prod.streams (p : Prod) (x : Pass) : Bool := p.d.stream && x.kn ≠ 0 && x.i < ceilDiv p.d.k p.d.tileK

/-- A core's arrays while a product runs: the weight sets, whether the next pass's weights are active, the accumulators,
the skiver's cursors by row, and what the output path found. -/
structure Feed where
  active : Option Tile
  shadow : Option Tile
  swapped : Bool
  accA : SMap (List FVal)
  accB : SMap (List FVal)
  cur : SMap Nat := []
  st : OutStat := {}
  deriving DecidableEq, Repr

/-- The swap before a pass (R93): once the pass's flag is set, the whole tile is in the shadow sets, where it was loaded
ahead or is loaded now, and the sets change places. `none`: it waits for its flag (R108). -/
def Prod.swapIn (p : Prod) (x : Pass) (s : Feed) : Op (Option Feed) := do
  if s.swapped || x.kn = 0 then return some s
  else
    let go ← if p.streams x then p.flagSet x.k0 else pure true
    if !go then return none
    let t ← match s.shadow with
      | some t => if t.issue = p.issue && t.tile = x.i then pure t else p.load x.i x.n0 x.nn x.k0 x.kn
      | none => p.load x.i x.n0 x.nn x.k0 x.kn
    match t.fault with
    | some f => throw (faultFail f)
    | none => return some { s with active := some t, shadow := s.active, swapped := true }

/-- One array's rows of a pass: each takes its chunk partials into its accumulator (R57, R97, R104). -/
def Prod.feedRows (p : Prod) (x : Pass) (ws : List (List (Option FVal))) (acc : SMap (List FVal)) (rows : List Nat) :
    Op (SMap (List FVal)) :=
  rows.mapM (fun r => do
    let a ← if x.kn = 0 then pure []
      else readRow p.aF x.kn (p.w + p.d.aAddr + r * p.d.aStride + p.aF.rowBytes x.k0)
    let old := if x.k0 = 0 then rep x.nn FVal.zero else SMap.get acc [] r
    return (r, (upto x.nn).map (fun n => accumulate (old.getD n FVal.zero) a (ws.getD n []))))

/-- The tile that the loader begins during a pass: the next pass's, or after the last one the first of the next product
in the queue (R93). The tile of a stretch whose flag is not set is not begun: its flag guards B too (R108, DEDUCED, log
entry 110). -/
def Prod.ahead (p : Prod) (rest : List Pass) (after : Op (Option Tile)) (s : Feed) : Op Feed :=
  match rest with
  | [] => do
    match ← after with
    | some t => return { s with shadow := some t }
    | none => return s
  | y :: _ => do
    if y.kn = 0 then return s
    else
      let go ← if p.streams y then tryOp (p.flagSet y.k0) else pure (.ok true)
      match go with
      | .ok true => return { s with shadow := some (← p.load y.i y.n0 y.nn y.k0 y.kn) }
      | _ => return s

/-- A pass feeds the block's rows to both arrays while the loader fills the shadow sets (R93, R97). A damaged tile of the
product is reported before its swap, and so before the rows of an n-tile that this pass ends are written (R99). -/
def Prod.feed (p : Prod) (x : Pass) (rest : List Pass) (after : Op (Option Tile)) (s : Feed) : Op Feed := do
  let slots := dealt p.exact p.live x.base x.rows
  let ws := (s.active.map (fun t => t.weights)).getD []
  let a ← p.feedRows x ws s.accA (slots.filterMap (fun q => q.1))
  let b ← p.feedRows x ws s.accB (slots.filterMap (fun q => q.2))
  let s ← p.ahead rest after { s with accA := a, accB := b, swapped := false }
  match s.shadow.bind (fun t => if t.issue = p.issue && !rest.isEmpty then t.fault else none) with
  | some f => throw (faultFail f)
  | none => return s

/-- A finished row segment: the existing C, then the bias, in the order of R57. -/
def Prod.finish (p : Prod) (x : Pass) (r : Nat) (acc : List FVal) : Op (List FVal) := do
  let old ← if p.d.accum then do
      let vs ← readRow p.cF x.nn (p.w + p.d.cAddr + r * p.d.cStride + p.cF.rowBytes x.n0)
      pure (vs.map asFp32)
    else pure []
  return acc.zipIdx.map (fun v =>
    let y := if p.d.accum then add32 (old.getD v.2 FVal.zero) v.1 else v.1
    if p.d.bias then add32 y (p.bias.getD (x.n0 + v.2) FVal.zero) else y)

/-- Where the output path puts a row segment: row, first column, values, the row's cursor. -/
abbrev RowOut := Nat → Nat → List FVal → Nat → OutStat → Op (OutStat × Nat)

/-- Write the rows of an n-tile in the order their accumulators finish, those of one slot of array A first (R97, R98). A
failing read ends it; what is written stays, with its counts (R79, R99). -/
def Prod.writeRows (p : Prod) (x : Pass) (out : RowOut) : List Nat → Feed → Op (Feed × Option Fail)
  | [], s => pure (s, none)
  | r :: l, s => do
    let acc := ((SMap.find? s.accA r).orElse (fun _ => SMap.find? s.accB r)).getD []
    match ← tryOp (do out r x.n0 (← p.finish x r acc) (SMap.get s.cur 0 r) s.st) with
    | .error f => return (s, some f)
    | .ok (st, c) => p.writeRows x out l { s with st := st, cur := SMap.put s.cur r c }

/-- How a run of a product ends: every pass is done, it waits for a flag, or it fails. -/
inductive RunEnd where
  | finished | waits
  | failed (f : Fail)
  deriving DecidableEq, Repr

/-- Run passes in order (R97): swap, feed, and write after the last pass of an n-tile. It answers the passes left. -/
def Prod.run (p : Prod) (out : RowOut) (after : Op (Option Tile)) : List Pass → Feed → Op (Nat × Feed × RunEnd)
  | [], s => pure (0, s, .finished)
  | x :: l, s => do
    match ← tryOp (p.swapIn x s) with
    | .error f => return (l.length + 1, s, .failed f)
    | .ok none => return (l.length + 1, s, .waits)
    | .ok (some s) =>
      match ← tryOp (p.feed x l after s) with
      | .error f => return (l.length + 1, s, .failed f)
      | .ok s =>
        let order := (dealt p.exact p.live x.base x.rows).flatMap (fun q => q.1.toList ++ q.2.toList)
        match ← (if x.last then p.writeRows x out order s else pure (s, none)) with
        | (s, some f) => return (l.length, s, .failed f)
        | (s, none) => p.run out after l s

/-- Add the statistics of an operation to a core: replay flag, watch counts where the watch counts, and skiver counts
(R71, R79, R84, R167). -/
def Core.addStat (c : Core) (on : Bool) (tensor : Nat) (st : OutStat) : Core :=
  { c with
    satEv := c.satEv || st.counts.saturations ≠ 0
    nonfinEv := c.nonfinEv || st.counts.nonfinite ≠ 0
    accEv := c.accEv || st.acc
    watch := if on then SMap.put c.watch tensor ((SMap.get c.watch {} tensor).add st.counts) else c.watch
    skvTiles := c.skvTiles + st.tiles, skvRaw := c.skvRaw + st.raws
    skvSaved := (c.skvSaved + st.saved) % 2 ^ 64, skvPruned := c.skvPruned + st.pruned }

/-- Place of a format on the chains of R73, narrowest first. -/
def fmtRank (c : Nat) : Nat := if c = 4 then 0 else if c = 2 || c = 3 then 1 else if c = 1 then 2 else 3

/-- Keep the format of a stepped tensor that an attempt writes, where it stands on a chain (R73, R74): the narrowest is
the widest-stepping tensor's of R78. Of E4M3 and E5M2, which stand alike, the one recorded first is kept (DESIGN CHOICE,
log entry 111). -/
def Core.noteStep (c : Core) (f : Option Fmt) : Core :=
  match f with
  | none => c
  | some f =>
    if 4 < f.code then c
    else { c with stepFmt := some (match c.stepFmt with
      | some g => if fmtRank f.code < fmtRank g then f.code else g
      | none => f.code) }

/-- The descriptor at the head of the dispatch engine's queue, when it is a ROUTE that takes its rows from this core and
has no product yet (R172): its LOGITS, LOGIT_STRIDE and E. -/
def Hw.feedRoute (h : Hw) (die core : Nat) : Option (Nat × Nat × Nat) :=
  match h.queue die 4 with
  | j :: _ =>
    if j.started && j.body.fld 0 7 0 = 1 && j.body.fld 0 18 18 = 1 && j.body.fld 0 20 19 = core && (SMap.find? h.fed die).isNone
    then some (j.body.fld 0x10 31 0, j.body.fld 0x14 31 0, j.body.fld 8 31 0) else none
  | [] => none

/-- The ROUTE that took a product from a core hears how it ended (R172). -/
def Hw.endFed (h : Hw) (die core : Nat) (o : CoreOp) (st : Status) (value : Nat) : Hw :=
  match o.handed, SMap.find? h.fed die with
  | some _, some f =>
    if f.core = core && !f.ended then { h with fed := SMap.put h.fed die { f with ended := true, status := st, value := value } }
    else h
  | _, _ => h

/-- Keep some operations of the array queue; the shadow sets keep a tile only where its product waits (R105, R119). -/
def Core.keepOps (c : Core) (f : CoreOp → Bool) : Core :=
  let q := c.arrayQ.filter f
  { c with arrayQ := q, shadow := c.shadow.filter (fun t => q.any (fun o => o.issue = t.issue)) }

/-- Take a product off the array queue with what it leaves in the core (R71, R79, R119, R437). CORE_BUSY.ARRAY_FEED takes
the cycles of a product that succeeds; for one that fails part way the spec gives no count, and none is taken (DESIGN
CHOICE, log entry 112). -/
def Hw.popArray (h : Hw) (e : Env) (die core : Nat) (o : CoreOp) (st : OutStat) (fail : Option Done) (feed : Nat) : Hw :=
  let c := h.core die core
  let d := MmaD.of o.desc o.rows
  let c := (c.keepOps (fun q => q.issue ≠ o.issue)).addStat h.watchOn d.tensor st
  let c := match fail with
    | none =>
      let c := if d.cStep then c.noteStep (stepped true o.step d.cF) else c
      if h.lateStatus e (h.partOf die) (some o.beat) Status.ok = Status.okLate then { c with late := true } else c
    | some f => c.stop ⟨o.issue, f.st, o.index, f.value⟩
  let h := h.setCore die core c
  let h := h.endFed die core o ((fail.map (fun f => f.st)).getD .ok) ((fail.map (fun f => f.value)).getD 0)
  let h := h.inc Reg.coreBusyArrayFeed (rkey die core 0) 0 feed
  let h := match h.partOf die with
    | some p => { h with acct := SMap.upd h.acct {} p (fun a => { a with array := a.array + feed }) }
    | none => h
  h.settle die core

/-- Change the operation of a core's array queue that has an issue number. -/
def Core.putOp (c : Core) (o : CoreOp) : Core :=
  { c with arrayQ := c.arrayQ.map (fun q => if q.issue = o.issue then o else q) }

/-- A failure of an operation of a core, with the record of R522. -/
def Hw.coreFail (h : Hw) (die core : Nat) (f : Fail) : Done × Hw :=
  h.failDone 0 (h.partOf die) (h.coord die core) f

/-- A product of the array queue fails. -/
def Hw.failArray (h : Hw) (e : Env) (die core : Nat) (o : CoreOp) (st : OutStat) (f : Fail) : Hw :=
  let r := h.coreFail die core f
  r.2.popArray e die core o st (some r.1) 0

/-- The product that an operation of the array queue names, with its formats reached (R121). -/
def CoreOp.prod (o : CoreOp) (die : Nat) (exact : Bool) (r : MmaRun) : Option Prod :=
  let d := MmaD.of o.desc o.rows
  match stepped d.aStep o.step d.aF, Fmt.ofCode d.bF, stepped d.cStep o.step d.cF with
  | some aF, some bF, some cF => some ⟨d, aF, bF, cF, spWin die, o.issue, exact, o.flags, r.mask, r.bias⟩
  | _, _, _ => none

/-- The first tile of the product that waits behind the one at the head: loaded during the last pass of that one, with
STREAM once the flag of chunk 0 is set (R93). A product that loads no weights has none (R96). -/
def Hw.tileBehind (h : Hw) (die core : Nat) : Op (Option Tile) :=
  match (h.core die core).arrayQ with
  | _ :: o :: _ =>
    match o.prod die false { mask := [], bias := [] } with
    | none => pure none
    | some p =>
      if p.d.empty then pure none
      else do
        let go ← tryOp (p.flagSet 0)
        match go with
        | .ok true => return some (← p.load 0 0 (Nat.min (tileCols p.aF p.bF) p.d.n) 0 (Nat.min p.d.tileK p.d.k))
        | _ => return none
  | _ => pure none

/-- The arrays of a core as a product finds them. -/
def Core.feed (c : Core) (r : MmaRun) : Feed :=
  { active := c.active, shadow := c.shadow, swapped := r.swapped, accA := c.accA, accB := c.accB }

/-- The arrays of a core as a product leaves them. -/
def Core.setFeed (c : Core) (s : Feed) : Core :=
  { c with active := s.active, shadow := s.shadow, accA := s.accA, accB := s.accB }

/-- Where the rows of a product go: to C (R98), or as FP32 logits to the dispatch engine, which writes them at LOGITS
(R171, R172). -/
def Prod.out (p : Prod) (handed : Option (Nat × Nat)) : RowOut := fun r n0 vs cur st =>
  match handed with
  | none => writeSeg p.d p.cF p.w r n0 cur vs st
  | some (logits, stride) => do
    let (bs, c) := convRow .fp32 (fun _ => .rne) vs
    storeB (p.w + logits + r * stride + 4 * n0) bs
    return ({ st with counts := st.counts.add c, acc := st.acc || vs.any (fun v => !v.isFin) }, cur)

/-- A product begins when it is reached at the head of the array queue: the core reads its mask and bias (R100). -/
def Hw.beginProduct (h : Hw) (e : Env) (die core : Nat) (o : CoreOp) : Except Hw (CoreOp × MmaRun × Hw) :=
  match o.run with
  | some r => .ok (o, r, h)
  | none =>
    match runOp (mmaPrepare (MmaD.of o.desc o.rows) (spWin die)) h with
    | (.error .held, _) => .error h
    | (.error f, h) => .error (h.failArray e die core o {} f)
    | (.ok r, h) =>
      let o := { o with run := some r }
      let h := h.setCore die core ((h.core die core).putOp o)
      .ok (o, r, match o.handed, SMap.find? h.fed die with
        | some _, some f => { h with fed := SMap.put h.fed die { f with mask := r.mask } }
        | _, _ => h)

/-- Keep how far a product has come when it waits for a flag: the wait is measured from when it began (R107, R108). -/
def Hw.parkProduct (h : Hw) (die core : Nat) (o : CoreOp) (r : MmaRun) (passes : Nat) (s : Feed) : Hw :=
  let since := if passes = r.passes && o.since ≠ 0 then o.since else h.now + 1
  h.setCore die core (((h.core die core).setFeed s).putOp
    { o with run := some { r with passes := passes, swapped := s.swapped }, since := since })

/-- Run the product at the head of the array queue as far as it can (R97 to R99, R108). Rows of a product whose ROUTE has
gone are not written. -/
def Hw.runProduct (h : Hw) (e : Env) (die core : Nat) (o : CoreOp) : Hw :=
  match h.beginProduct e die core o with
  | .error h => h
  | .ok (o, r, h) =>
    match o.prod die (h.cycleExact e die core) r with
    | none => h.failArray e die core o {} (.st .badDescriptor)
    | some p =>
      let gone := o.handed.isSome && !((SMap.find? h.fed die).any (fun f => f.core = core && !f.ended))
      let out : RowOut := if gone then fun _ _ _ c st => pure (st, c) else p.out o.handed
      match runOp (p.run out (h.tileBehind die core) (p.passes.drop r.passes) ((h.core die core).feed r)) h with
      | (.error .held, _) => h
      | (.error f, h) => h.failArray e die core o {} f
      | (.ok (left, s, how), h) => match how with
        | .waits => h.parkProduct die core o r (p.passes.length - left) s
        | .finished => (h.setCore die core ((h.core die core).setFeed s)).popArray e die core o s.st none
            (p.d.feed p.aF p.bF p.exact p.live)
        | .failed f => (h.setCore die core ((h.core die core).setFeed s)).failArray e die core o s.st f

/-- Mark a product at the head of the array queue as waiting since now. -/
def Core.waitHead (c : Core) (now : Nat) : Core :=
  match c.arrayQ with
  | q :: l => if q.since = 0 then { c with arrayQ := { q with since := now + 1 } :: l } else c
  | [] => c

/-- A TO_DISPATCH product that reaches the head of the array queue hands M and N to the ROUTE that waits for it (R172).
Where no ROUTE does, it waits; a ROUTE of another size refuses it. -/
def Hw.handOver (h : Hw) (e : Env) (die core : Nat) (o : CoreOp) : Except Hw (CoreOp × Hw) :=
  let d := MmaD.of o.desc o.rows
  if !d.toDispatch || o.handed.isSome then .ok (o, h)
  else match h.feedRoute die core with
    | none => .error (h.setCore die core ((h.core die core).waitHead h.now))
    | some (logits, stride, ex) =>
      if d.n ≠ ex || 8192 < d.m then
        .error ((h.incSat Reg.deEventsFeedRefused (rkey die 4 0) 0 1).popArray e die core o {} (some ⟨.badDescriptor, 0, 0⟩) 0)
      else
        let o := { o with handed := some (logits, stride), since := 0 }
        .ok (o, { h.setCore die core ((h.core die core).putOp o) with
          fed := SMap.put h.fed die ⟨core, d.m, [], false, .ok, 0⟩ })

/-- What lets a product swap to its weights: with SPARSE, its scan has ended (R105). The outcome of a failed scan is the
product's. -/
def Hw.scanGate (h : Hw) (e : Env) (die core : Nat) (o : CoreOp) : Option Hw :=
  let d := MmaD.of o.desc o.rows
  if !d.sparse || d.empty then none
  else if !o.scanned then some h
  else match o.scanFault with
    | none => none
    | some f =>
      let c := h.core die core
      some ((h.setCore die core { c with shadow := none }).failArray e die core o {} (faultFail f))

/-- A product at the head of the array queue (R97, R105, R108, R172): a TO_DISPATCH one waits for its ROUTE and hands over,
a SPARSE one waits for its scan, a streaming one for its flags. -/
def mmaProduct (die core : Nat) (e : Env) (h : Hw) : Hw :=
  match (h.core die core).arrayQ with
  | [] => h
  | o :: _ =>
    if !(h.dieOn e die) then h
    else match h.handOver e die core o with
      | .error h => h
      | .ok (o, h) =>
        if (MmaD.of o.desc o.rows).m = 0 then h.popArray e die core o {} none 0
        else match h.scanGate e die core o with
          | some h => h
          | none => h.runProduct e die core o

/-- The reads of a scan (R105, R159): the image's header and index, every tile's header and its bitmap, or the values of a
RAW 1 tile. -/
def scanReads (d : MmaD) (f : Fmt) (w : Nat) : Op Unit := do
  let b := w + d.bAddr
  let hdr ← loadB b 32
  let size := pay hdr 12 4
  need (imageHead f d.n d.k size hdr && inWin d.bAddr size) .sparseFormat
  let s := ceilDiv d.k 256
  let idx ← loadB (b + 32) (4 * d.n * s)
  let _ ← (upto (d.n * s)).mapM (fun i => do
    let off := pay idx (4 * i) 4
    need (off + 16 ≤ size) .sparseFormat
    let el := Nat.min 256 (d.k - 256 * (i % s))
    let hd ← loadB (b + off) 16
    match tileHead 2 f el hd with
    | none => failSt .sparseFormat
    | some len => do
      need (off + len ≤ size) .sparseFormat
      let _ ← loadB (b + off + 16) (if bit (pay hd 1 1) 4 then len - 16 else ceilDiv el 8)
      pure ())
  let h ← get
  need ((readImage f d.n d.k (Mem.read h.mem b size)).isSome) .sparseFormat

/-- The 2:4 scan of the first SPARSE product not yet scanned (R105, R159). -/
def sparseScan (die core : Nat) (e : Env) (h : Hw) : Hw :=
  match (h.core die core).arrayQ.find? (fun o => (MmaD.of o.desc o.rows).sparse && !o.scanned) with
  | none => h
  | some o =>
    if !(h.dieOn e die) then h else
    let d := MmaD.of o.desc o.rows
    let m : Op Unit := if d.empty then pure () else match Fmt.ofCode d.bF with
      | some f => scanReads d f (spWin die)
      | none => failSt .badDescriptor
    match runOp m h with
    | (.error .held, _) => h
    | (.error f, h) => h.setCore die core ((h.core die core).putOp { o with scanned := true, scanFault := some f.fault })
    | (.ok (), h) => h.setCore die core ((h.core die core).putOp { o with scanned := true })

/-- The swap of R93 at the head of the array queue: with the whole next tile in the shadow sets and every row of the pass
before fed, active and shadow change places, and the loader begins the tile after it. It waits for a ROUTE, a scan or a
flag as the product does; between two steps a product's rows are all fed or none are. -/
def arraySwap (die core : Nat) (e : Env) (h : Hw) : Hw :=
  match (h.core die core).arrayQ with
  | [] => h
  | o :: _ =>
    let d := MmaD.of o.desc o.rows
    if !(h.dieOn e die) || d.empty || (d.toDispatch && o.handed.isNone) then h
    else match h.scanGate e die core o with
      | some h => h
      | none => match h.beginProduct e die core o with
        | .error h => h
        | .ok (o, r, h) => match o.prod die (h.cycleExact e die core) r with
          | none => h
          | some p => match p.passes.drop r.passes with
            | [] => h
            | x :: l =>
              if r.swapped then h
              else
                let m : Op (Option Feed) := do
                  match ← p.swapIn x ((h.core die core).feed r) with
                  | none => return none
                  | some s => return some (← p.ahead l (h.tileBehind die core) s)
                match runOp m h with
                | (.error .held, _) => h
                | (.error f, h) => h.failArray e die core o {} f
                | (.ok none, h) => h.parkProduct die core o r r.passes ((h.core die core).feed r)
                | (.ok (some s), h) => h.setCore die core (((h.core die core).setFeed s).putOp
                    { o with run := some { r with swapped := true }, since := 0 })

/-- MMA_PRODUCT (R97). -/
def execMmaProduct (die core : Nat) (s : State) : Host.Outcome State Fault Refusal := onHw (mmaProduct die core) s

/-- SPARSE_SCAN (R105). -/
def execSparseScan (die core : Nat) (s : State) : Host.Outcome State Fault Refusal := onHw (sparseScan die core) s

/-- ARRAY_SWAP (R93). -/
def execArraySwap (die core : Nat) (s : State) : Host.Outcome State Fault Refusal := onHw (arraySwap die core) s

end Sys2Proof.Machine
end

