-- ==== Sys2Proof/Machine/Placement.lean ====
section
/-! DEFINITION. Expert placement (07_expert_placement.md): banks and their verify, the switch at an epoch, popularity
intervals, and the default policy of the management processor. -/

namespace Sys2Proof.Machine

/-- A partition's placement. -/
def Hw.plcOf (h : Hw) (p : Nat) : Plc := SMap.get h.plc {} p
def Hw.setPlc (h : Hw) (p : Nat) (x : Plc) : Hw := { h with plc := SMap.put h.plc p x }

/-- Local offset of a placement bank (R199). -/
def Hw.plcBank (h : Hw) (p bank : Nat) : Nat :=
  4096 * (if bank = 0 then h.rf Reg.plcBank0Base pkgB p else h.rf Reg.plcBank1Base pkgB p)

/-- A placement event (R210). -/
def Hw.plcEvent (h : Hw) (p kind bank err entry gen time : Nat) : Hw :=
  h.raise 0x03 (some p) (h.coord 28 8)
    (toBytes 1 kind ++ toBytes 1 (p % 8 + 8 * (bank % 2) + 16 * (err % 16)) ++ toBytes 2 entry ++ toBytes 4 gen
      ++ toBytes 8 time)

/-- A bank is in force, or under verify (R208). -/
def Hw.plcBusy (h : Hw) (p bank : Nat) : Bool :=
  (h.rf Reg.plcStatusInForce pkgB p = 1 && h.rf Reg.plcStatusInForceBank pkgB p = bank)
    || (h.plcOf p).verify = some bank

/-- HELD: a ROUTE that began before the most recent switch runs (R207). -/
def Hw.plcHeld (h : Hw) (p : Nat) : Bool :=
  h.routes.any (fun r => r.2.part = p && r.2.switches < (h.plcOf p).switches)

/-- A failing word lies in an extent of the local map. -/
def Hw.failing (h : Hw) (a n : Nat) : Bool := (wordsOf a n).any (fun w => h.badWords.contains w || h.lineBad w)

/-- One replica slot of R200: DEST, the word at 0x04, WADDR. -/
def plcSlot (m : Mem) (entry q : Nat) : Nat × Nat × Nat :=
  (Mem.num m (entry + 16 * q) 4, Mem.num m (entry + 16 * q + 4) 4, Mem.num m (entry + 16 * q + 8) 8)

/-- The fault code of slot `q` of entry `i`, 0 for none (R205); `prior` holds the slots before it. -/
def Hw.plcSlotErr (h : Hw) (e : Env) (i : Nat) (prior : List (Nat × Nat × Nat)) (s : Nat × Nat × Nat) : Nat :=
  let (dest, w, addr) := s
  if bit w 31 then
    if bits w 15 0 ≠ i then 3
    else if bits w 30 16 ≠ 0 || bits dest 31 24 ≠ 0 then 4
    else if prior.any (fun x => !(bit x.2.1 31)) then 5
    else if !(e.coordOk h.node dest) || 24 ≤ cDie dest || 4 ≤ cUnit dest then 6
    else if prior.any (fun x => x.1 = dest) then 7
    else
      let off := bits addr 47 0
      if !(bit addr 63) || bits addr 62 48 ≠ cNode dest || bits addr 5 0 ≠ 0
        || !(off < 0x46000000000 || (spDie off).isSome) then 8 else 0
  else if dest ≠ 0 || w ≠ 0 || addr ≠ 0 then 4
  else 0

/-- The first fault of an entry. -/
def Hw.plcEntryErr (h : Hw) (e : Env) (i : Nat) (slots : List (Nat × Nat × Nat)) : Nat :=
  (slots.zipIdx.findSome? (fun x =>
    let c := h.plcSlotErr e i (slots.take x.2) x.1
    if c = 0 then none else some c)).getD 0

/-- The replicas of an entry: DEST of each valid slot. -/
def plcDests (slots : List (Nat × Nat × Nat)) : List Nat :=
  (slots.filter (fun s => bit s.2.1 31)).map (fun s => s.1)

/-- Entry `i` of a bank. -/
def plcEntry (m : Mem) (base i : Nat) : List (Nat × Nat × Nat) :=
  (upto 8).map (fun q => plcSlot m (base + 0x80 + 0x80 * i) q)

/-- The fields of a bank header (R199). -/
def plcHeaderOk (m : Mem) (base : Nat) : Bool :=
  Mem.num m base 1 = 0x30 && Mem.num m (base + 1) 3 = 0 && 1 ≤ Mem.num m (base + 4) 4
    && Mem.num m (base + 4) 4 ≤ 65536 && (Mem.read m (base + 0x0C) 116).all (fun b => b.toNat = 0)

/-- A verify (R204, R205): the fault code, its entry, the GEN of the header if it was read, and the set it loads. -/
def Hw.plcVerify (h : Hw) (e : Env) (p bank : Nat) : Nat × Nat × Nat × SMap (List Nat) :=
  let base := h.plcBank p bank
  let top := h.rf Reg.pkgMemTopTop pkgB * 2 ^ 21
  if h.rf Reg.plcStatusInForce pkgB p = 1 && h.rf Reg.plcStatusInForceBank pkgB p = bank then (9, 0, 0, [])
  else if top ≤ base + 127 then (2, 0, 0, [])
  else if h.failing base 128 then (10, 0, 0, [])
  else
    let gen := Mem.num h.mem (base + 8) 4
    let n := Mem.num h.mem (base + 4) 4
    if !(plcHeaderOk h.mem base) then (1, 0, gen, [])
    else if top < base + 0x80 + 0x80 * n then (2, 0, gen, [])
    else
      let bad := (upto n).findSome? (fun i =>
        if h.failing (base + 0x80 + 0x80 * i) 0x80 then some (10, i)
        else
          let c := h.plcEntryErr e i (plcEntry h.mem base i)
          if c = 0 then none else some (c, i))
      match bad with
      | some (c, i) => (c, i, gen, [])
      | none => (0, 0, gen, (upto n).map (fun i => (i, plcDests (plcEntry h.mem base i))))

/-- What a verify reads of a bank: its header, and its entries when that is sound; a word of it that cannot be read is
counted and recorded (R371, R384, R522). -/
def Hw.plcReads (h : Hw) (p bank err entry gen : Nat) : Hw :=
  let base := h.plcBank p bank
  if err = 9 || (err = 2 && gen = 0) then h
  else
    let n := Mem.num h.mem (base + 4) 4
    h.readTable base (0x80 + 0x80 * (if err = 0 then n else if err = 1 || err = 2 || gen = 0 then 0 else entry + 1)) (h.coord 28 8)

/-- Start a verify (R204). -/
def Hw.startVerify (h : Hw) (p bank : Nat) : Hw :=
  let h := h.setPlc p { h.plcOf p with verify := some bank }
  (h.wf Reg.plcStatusShadowOk pkgB p 0).wf Reg.plcStatusVerifyBusy pkgB p 1

/-- VERIFY (R204). -/
def verify (p bank : Nat) (_ : Env) (h : Hw) : Hw :=
  if p < 8 && bank < 2 then h.startVerify p bank else h

/-- VERIFY_DONE (R204, R205, R207): a load into the engines waits while HELD is 1. -/
def verifyDone (p : Nat) (e : Env) (h : Hw) : Hw :=
  match (h.plcOf p).verify with
  | none => h
  | some bank =>
    let (err, entry, gen, set) := h.plcVerify e p bank
    if err = 0 && h.plcHeld p then h
    else
      let x := h.plcOf p
      let h := h.plcReads p bank err entry gen
      let h := h.wf Reg.plcStatusVerifyBusy pkgB p 0
      let h := h.wf Reg.plcStatusErr pkgB p err
      let h := h.wf Reg.plcStatusErrEntry pkgB p entry
      if err = 0 then
        let h := h.setPlc p { x with verify := none, shadow := set }
        (h.wf Reg.plcStatusShadowOk pkgB p 1).wf Reg.plcStatusShadowBank pkgB p bank
      else
        (h.setPlc p { x with verify := none }).plcEvent p 1 bank err entry gen h.now

/-- The placement fields of a partition take force with a commit that staged PLC_CTRL or PLC_AT (R206); `t` is the
moment. -/
def Hw.plcCommit (h : Hw) (p t : Nat) : Hw :=
  let at_ := h.rf Reg.plcAtAt pkgB p
  let change := (h.rf Reg.plcCtrlEnable pkgB p, h.rf Reg.plcCtrlBank pkgB p, h.rf Reg.plcCtrlHash pkgB p, at_,
    decide (at_ ≠ 0 ∧ at_ < t))
  h.setPlc p { h.plcOf p with pending := some change }

/-- The half of the popularity area that accumulates (R214, R215). -/
def Hw.popHalf (h : Hw) (p : Nat) : Nat := 1 - h.rf Reg.plcPopStatusReadHalf pkgB p

/-- Local offset of a half (R214). -/
def Hw.popBase (h : Hw) (p half : Nat) : Nat := h.rf Reg.plcPopBase pkgB p * 2 ^ 22 + half * 2 ^ 21

/-- Clear a half of the popularity area (R215). -/
def Hw.popClear (h : Hw) (p half : Nat) : Hw :=
  let a := h.popBase p half
  let h := { h with mem := Mem.clear h.mem a (2 ^ 21) }
  (h.touch a (2 ^ 21)).setPlc p { h.plcOf p with popStale := (h.plcOf p).popStale.filter (· ≠ half) }

/-- End of a popularity interval: the halves exchange roles, and the new accumulating half is cleared before its first
addition (R215): now while the partition counts, else at that addition. -/
def Hw.popEnd (h : Hw) (p : Nat) : Hw :=
  let done := h.popHalf p
  let h := h.wf Reg.plcPopStatusReadHalf pkgB p done
  let h := h.inc Reg.plcPopStatusIntervals pkgB p 1
  let x := h.plcOf p
  let h := h.setPlc p { x with popBeats := 0, popEnd := false, popStale := natInsert x.popStale (1 - done) }
  if h.rf Reg.plcPopEnable pkgB p = 1 then h.popClear p (1 - done) else h

/-- Add a ROUTE's count vector to a half, element by element, saturating (R214). -/
def Hw.popAdd (h : Hw) (p half : Nat) (counts : SMap Nat) : Hw :=
  if h.rf Reg.plcPopEnable pkgB p = 1 then
    let h := if (h.plcOf p).popStale.contains half then h.popClear p half else h
    counts.foldl (fun h c =>
      let a := h.popBase p half + 4 * c.1
      h.poke a (toBytes 4 (satAdd 32 (Mem.num h.mem a 4) c.2))) h
  else h

/-- The switch epoch of a pending placement change (R206). Answers whether a switch took place. -/
def Hw.plcSwitch (h : Hw) (p t : Nat) : Bool × Hw :=
  let x := h.plcOf p
  match x.pending with
  | none => (false, h)
  | some (en, bank, hash, at_, late) =>
    if at_ ≠ 0 && t < at_ then (false, h)
    else
      let inF := h.rf Reg.plcStatusInForce pkgB p
      let h := h.setPlc p { x with pending := none, hash := hash = 1 }
      let (sw, h) :=
        if en = 0 then (false, h.wf Reg.plcStatusInForce pkgB p 0)
        else if inF = 1 && h.rf Reg.plcStatusInForceBank pkgB p = bank then (false, h)
        else if h.rf Reg.plcStatusShadowOk pkgB p = 1 && h.rf Reg.plcStatusShadowBank pkgB p = bank then
          let gen := Mem.num h.mem (h.plcBank p bank + 8) 4
          let y := h.plcOf p
          let h := h.setPlc p { y with active := y.shadow, shadow := y.active, switches := y.switches + 1, sinceSwitch := 0 }
          let h := h.wf Reg.plcStatusInForce pkgB p 1
          let h := h.wf Reg.plcStatusInForceBank pkgB p bank
          let h := h.wf Reg.plcStatusGen pkgB p gen
          let h := h.wf Reg.plcStatusShadowOk pkgB p 0
          (true, h.plcEvent p 2 bank 0 0 gen t)
        else
          let h := h.wf Reg.plcStatusMissed pkgB p 1
          (false, h.plcEvent p 3 bank 0 0 (if inF = 1 then h.rf Reg.plcStatusGen pkgB p else 0) t)
      if late then
        let h := h.wf Reg.plcStatusLateSwitch pkgB p 1
        let gen := if h.rf Reg.plcStatusInForce pkgB p = 1 then h.rf Reg.plcStatusGen pkgB p else 0
        (sw, h.plcEvent p 4 bank 0 0 gen t)
      else (sw, h)

/-! The default policy (R217, R218). -/

/-- Local offset of the policy block. -/
def Hw.policyBase (h : Hw) (p : Nat) : Nat := 4096 * h.rf Reg.plcPolicyList pkgB p

/-- Total of expert `i` in the completed half; the halves of other packages of the job's span reach the leader by a
reduction that the manual does not detail, and come in as a free value. -/
def Hw.policyTotal (h : Hw) (p : Nat) (alone : Bool) (i : Nat) : Nat :=
  let base := h.popBase p (h.rf Reg.plcPopStatusReadHalf pkgB p)
  let own := ((upto 8).map (fun q => Mem.num h.mem (base + 4 * (8 * i + q)) 4)).sum
  if alone then own else own + (Config.freeWord (h.freeCount + i)).toNat

/-- The expert that takes the next spare slot (R217). -/
def policyBest (min : Nat) (l : List (Nat × Nat × Nat)) : Option (Nat × Nat × Nat) :=
  l.foldl (fun b x =>
    if 1 ≤ x.2.2 && x.2.2 < 8 && min ≤ x.2.1 && 0 < x.2.1 then
      match b with
      | none => some x
      | some y => if x.2.1 * y.2.2 > y.2.1 * x.2.2 then some x else b
    else b) none

/-- Spare slots handed out one by one: expert, replica index and the number of the spare (R217). -/
def policyAssign (min : Nat) : List Nat → List (Nat × Nat × Nat) → List (Nat × Nat × Nat)
  | [], _ => []
  | j :: js, l =>
    match policyBest min l with
    | none => []
    | some (i, _, r) => (i, r, j) :: policyAssign min js (l.map (fun x => if x.1 = i then (x.1, x.2.1, r + 1) else x))

/-- One slot of 16 bytes as memory holds it. -/
def slotBytes (dest expert waddr : Nat) : List Byte :=
  toBytes 4 dest ++ toBytes 4 (2 ^ 31 + expert) ++ toBytes 8 waddr

/-- The other members of a partition's job (R217). -/
def Hw.jobOthers (h : Hw) (p : Nat) : List Nat := ((SMap.get h.dlm {} p).members).filter (· ≠ h.node)

/-- A copy descriptor of `n` bytes from one address to another (R134). -/
def copyDesc (src dst n : Nat) : Desc :=
  BitVec.ofNat 1024 (1 + 5 * 2 ^ 8 + n * 2 ^ 64 + 2 ^ 96 + 2 ^ 128 + 2 ^ 160 + src * 2 ^ 192 + dst * 2 ^ 256)

/-- The leader's revision begins at the end of an interval (R217): the spare slots are handed out, and the copies of home
weights to them wait for a copy engine of the partition. How many bytes an expert's weights have is free (log entry
118). -/
def Hw.policyRevise (h : Hw) (p : Nat) : Hw :=
  let lb := h.policyBase p
  let x := h.plcOf p
  let alone := (h.jobOthers p).isEmpty
  if h.rf Reg.plcPolicyEnable pkgB p = 0 || h.rf Reg.plcPolicyLeader pkgB p = 0 || h.rf Reg.plcStatusInForce pkgB p = 0
    || x.sinceSwitch < Mem.num h.mem (lb + 8) 4 || x.revision.isSome then h
  else
    let base := h.plcBank p (h.rf Reg.plcStatusInForceBank pkgB p)
    let n := Mem.num h.mem (base + 4) 4
    let gen := (h.rf Reg.plcStatusGen pkgB p + 1) % 2 ^ 32
    let count := Mem.num h.mem lb 4
    let home (i : Nat) : Nat × Nat × Nat := plcSlot h.mem (base + 0x80 + 0x80 * i) 0
    let tab := (upto n).map (fun i => (i, h.policyTotal p alone i, b2n (bit (home i).2.1 31)))
    let got := policyAssign (Mem.num h.mem (lb + 4) 4) (upto count) tab
    let onlyHome := (upto n).all (fun i => (plcDests (plcEntry h.mem base i)).length ≤ 1)
    if got.isEmpty && onlyHome then h
    else
      let h := if alone then h else { h with freeCount := h.freeCount + n }
      let spare (j : Nat) : Nat := Mem.num h.mem (lb + 0x28 + 16 * ((gen % 2) * count + j)) 8
      let copies := got.map (fun g => copyDesc (home g.1).2.2 (spare g.2.2) (Config.expertBytes g.1))
      h.setPlc p { h.plcOf p with revision := some { gen := gen, got := got, todo := copies } }

/-- The bytes of the new bank: home replicas in slot 0, the spares after them (R200, R217). -/
def Hw.policyBank (h : Hw) (p : Nat) (r : Revision) : List Byte :=
  let lb := h.policyBase p
  let base := h.plcBank p (h.rf Reg.plcStatusInForceBank pkgB p)
  let n := Mem.num h.mem (base + 4) 4
  let count := Mem.num h.mem lb 4
  let spare (j : Nat) : Nat := lb + 0x20 + 16 * ((r.gen % 2) * count + j)
  toBytes 4 0x30 ++ toBytes 4 n ++ toBytes 4 r.gen ++ rep 116 0 ++ (upto n).flatMap (fun i =>
    let s := plcSlot h.mem (base + 0x80 + 0x80 * i) 0
    let first := if bit s.2.1 31 then slotBytes s.1 i s.2.2 else rep 16 0
    let more := (r.got.filter (fun g => g.1 = i)).map (fun g =>
      slotBytes (Mem.num h.mem (spare g.2.2) 4) i (Mem.num h.mem (spare g.2.2 + 8) 8))
    let bs := (first :: more).flatten
    bs ++ rep (128 - bs.length) 0)

/-- An address of this package, or of another node, at a local offset (R37). -/
def nodeAddr (node off : Nat) : Nat := 2 ^ 63 + node * 2 ^ 48 + off

/-- A step of a revision whose copies have all ended (R217): the new bank is written here and copied to every other package
of the job, then REQ_AT and REQ_GEN, and then REVISED is raised. The banks and policy blocks of other packages are taken to
lie at the offsets of this package's (DESIGN CHOICE, log entry 118). -/
def Hw.policyStep (h : Hw) (e : Env) (p t : Nat) (r : Revision) : Hw :=
  let lb := h.policyBase p
  let bank := 1 - h.rf Reg.plcStatusInForceBank pkgB p
  let nb := h.plcBank p bank
  let put (h : Hw) (r : Option Revision) : Hw := h.setPlc p { h.plcOf p with revision := r }
  let each (f : Nat → List Desc) : List Desc := (h.jobOthers p).flatMap f
  let m : Option (Op Revision) := match r.phase with
    | 0 => some (do
      let bs := h.policyBank p r
      need (nb + bs.length ≤ h.rf Reg.pkgMemTopTop pkgB * 2 ^ 21) .destUnreachable
      storeB nb bs
      return { r with phase := 1, todo := each (fun n => [copyDesc nb (nodeAddr n nb) bs.length]) })
    | 1 => some (do
      let at_ := e.boundaryOf p (h.beatOf e p + orElse (Mem.num h.mem (lb + 8) 4) 1)
      storeN (lb + 0x10) 8 at_
      storeN (lb + 0x0C) 4 r.gen
      return { r with phase := 2, reqAt := at_, todo := each (fun n =>
        [copyDesc (lb + 0x10) (nodeAddr n (lb + 0x10)) 8, copyDesc (lb + 0x0C) (nodeAddr n (lb + 0x0C)) 4]) })
    | _ => none
  match m with
  | none => (put h none).plcEvent p 5 bank 0 0 r.gen t
  | some m => match runOp m h with
    | (.ok r, h) => put h (some r)
    | (.error _, h) => (put h none).plcEvent p 6 bank 0 0 r.gen t

/-- The management processor goes on with a revision at an epoch (R217): it hands copies to the first copy engine of the
partition while that has room, and takes the next step when they have ended; one that was refused or failed abandons the
revision with REVISION_FAILED. -/
def Hw.policyGo (h : Hw) (e : Env) (p t : Nat) : Nat → Hw
  | 0 => h
  | k + 1 =>
    match (h.plcOf p).revision with
    | none => h
    | some r =>
      if r.bad then
        (h.setPlc p { h.plcOf p with revision := none }).plcEvent p 6 (1 - h.rf Reg.plcStatusInForceBank pkgB p) 0 0 r.gen t
      else match r.todo, (h.diesOf p).head? with
        | d :: l, some die =>
          if queueCap die ≤ (h.queue die 5).length then h
          else
            let h := h.setPlc p { h.plcOf p with revision := some { r with todo := l, running := r.running + 1 } }
            (h.enqueue die 5 { body := d, origin := .revise p, part := some p, beat := none }).policyGo e p t k
        | _ :: _, none => h
        | [], _ => if r.running ≠ 0 then h else (h.policyStep e p t r).policyGo e p t k

/-- At each epoch the management processor compares REQ_GEN with GEN (R217): it verifies the bank not in force, and once
the shadow sets hold it, stages ENABLE, BANK and AT = REQ_AT (R216). Answers whether it commits the package block. -/
def Hw.policyEpoch (h : Hw) (p : Nat) : Bool × Hw :=
  let lb := h.policyBase p
  let x := h.plcOf p
  let d := (Mem.num h.mem (lb + 0x0C) 4 + 2 ^ 32 - h.rf Reg.plcStatusGen pkgB p) % 2 ^ 32
  if h.rf Reg.plcPolicyEnable pkgB p = 0 || h.rf Reg.plcStatusInForce pkgB p = 0 || d = 0 || 2 ^ 31 ≤ d
    || x.pending.isSome || x.verify.isSome || (SMap.find? h.commits pkgB).isSome then (false, h)
  else
    let bank := 1 - h.rf Reg.plcStatusInForceBank pkgB p
    let at_ := Mem.num h.mem (lb + 0x10) 8
    if h.rf Reg.plcStatusShadowOk pkgB p = 1 && h.rf Reg.plcStatusShadowBank pkgB p = bank then
      let put (s : SMap Word) (r : RegRow) (v : Nat) : SMap Word := SMap.put s (pkgB + r.off + r.stride * p) (BitVec.ofNat 64 v)
      (true, { h with staged := put (put h.staged Reg.plcCtrl (1 + 2 * bank + 4 * h.rf Reg.plcCtrlHash pkgB p)) Reg.plcAt at_ })
    else (false, h.startVerify p bank)

/-- The placement's part of an epoch of partition `p` at time `t` (R206, R215, R217). Answers whether the default policy
commits the package block. -/
def Hw.plcEpoch (h : Hw) (e : Env) (p t : Nat) : Bool × Hw :=
  let h := h.setPlc p { h.plcOf p with popBeats := (h.plcOf p).popBeats + 1, sinceSwitch := (h.plcOf p).sinceSwitch + 1 }
  let (sw, h) := h.plcSwitch p t
  let x := h.plcOf p
  let n := h.rf Reg.plcPopBeats pkgB p
  let h := if sw || x.popEnd || (n ≠ 0 && n ≤ x.popBeats) then (h.popEnd p).policyRevise p else h
  (h.policyGo e p t 64).policyEpoch p

/-- PLC_POP_END (R215). -/
def plcPopEnd (p : Nat) (_ : Env) (h : Hw) : Hw :=
  if p < 8 then h.setPlc p { h.plcOf p with popEnd := true } else h

/-- VERIFY (R204). -/
def execVerify (part bank : Nat) (s : State) : Host.Outcome State Fault Refusal := onHw (verify part bank) s

/-- VERIFY_DONE (R205). -/
def execVerifyDone (part : Nat) (s : State) : Host.Outcome State Fault Refusal := onHw (verifyDone part) s

/-- PLC_POP_END (R215). -/
def execPlcPopEnd (part : Nat) (s : State) : Host.Outcome State Fault Refusal := onHw (plcPopEnd part) s

end Sys2Proof.Machine
end

