-- ==== Sys2Proof/Machine/Route.lean ====
section
/-! DEFINITION. The dispatch engine (06_dispatch_engine.md, R211, R212): ROUTE and COMBINE. -/

namespace Sys2Proof.Machine

/-- The ROUTE descriptor (R173). -/
structure RouteD where
  op : Nat
  k : Nat
  score : Nat
  norm : Bool
  bias : Bool
  grouped : Bool
  gscore : Nat
  feed : Bool
  core : Nat
  mask : Bool
  flag : Bool
  t : Nat
  e : Nat
  groups : Nat
  topg : Nat
  logits : Nat
  stride : Nat
  biasAddr : Nat
  rscale : Nat
  tokenBase : Nat
  routeOut : Nat
  dispOut : Nat
  countsOut : Nat
  maskAddr : Nat
  tensor : Nat
  xtag : Nat
  tag : Nat
  flagAddr : Nat
  reserved : Bool
  deriving DecidableEq, Repr

/-- Fields of a ROUTE descriptor (R173). -/
def RouteD.of (d : Desc) : RouteD :=
  { op := d.fld 0 7 0, k := d.fld 0 11 8, score := d.fld 0 13 12, norm := d.fld 0 14 14 = 1, bias := d.fld 0 15 15 = 1
    grouped := d.fld 0 16 16 = 1, gscore := d.fld 0 17 17, feed := d.fld 0 18 18 = 1, core := d.fld 0 20 19
    mask := d.fld 0 21 21 = 1, flag := d.fld 0 22 22 = 1, t := d.fld 4 31 0, e := d.fld 8 31 0
    groups := d.fld 0x0C 15 0, topg := d.fld 0x0C 31 16, logits := d.fld 0x10 31 0, stride := d.fld 0x14 31 0
    biasAddr := d.fld 0x18 31 0, rscale := d.fld 0x1C 31 0, tokenBase := d.fld 0x20 31 0, routeOut := d.fld 0x24 31 0
    dispOut := d.fld 0x28 31 0, countsOut := d.fld 0x2C 31 0, maskAddr := d.fld 0x30 31 0, tensor := d.fld 0x34 31 0
    xtag := d.fld 0x38 31 0, tag := d.fld 0x3C 31 0, flagAddr := d.fld 0x40 31 0
    reserved := d.fld 0 31 23 = 0 && d.fld 0x44 479 0 = 0 }

/-- No two of a list of extents overlap, and none of them overlaps one of `ins` (R174). -/
def outsApart (ins : List (Nat × Nat)) : List (Nat × Nat) → Bool
  | [] => true
  | o :: l => (ins ++ l).all (fun x => !extOverlap o.1 o.2 x.1 x.2) && outsApart ins l

/-- Input extents of a ROUTE over `t` tokens (R174). -/
def RouteD.ins (r : RouteD) (t : Nat) : List (Nat × Nat) :=
  [(r.logits, extent t r.stride (4 * r.e)), (r.biasAddr, if r.bias then 4 * r.e else 0),
    (r.maskAddr, if r.mask then ceilDiv t 8 else 0)]

/-- Output extents of a ROUTE over `t` tokens (R174). -/
def RouteD.outs (r : RouteD) (t : Nat) : List (Nat × Nat) :=
  [(r.routeOut, 16 * r.k * t), (r.dispOut, 32 + 256 * r.e + 8 * r.k * t), (r.countsOut, 32 * r.e)]

/-- The grouping fields (R174). -/
def RouteD.groupOk (r : RouteD) : Bool :=
  if r.grouped then
    1 ≤ r.groups && r.groups ≤ 64 && r.e % r.groups = 0 && 1 ≤ r.topg && r.topg ≤ r.groups
      && r.k ≤ r.topg * (r.e / r.groups) && !(r.gscore = 1 && r.e / r.groups < 2)
  else r.groups = 0 && r.topg = 0 && r.gscore = 0

/-- The checks of R174. -/
def RouteD.ok (r : RouteD) : Bool :=
  let t := if r.feed then 8192 else r.t
  r.op = 1 && r.reserved && r.score ≠ 3 && r.k ≤ 8 && r.e ≤ 65536 && (r.k = 0 || r.e = 0 || r.k ≤ r.e)
    && r.t ≤ 8192 && !(r.feed && r.t ≠ 0) && r.tokenBase + r.t ≤ 2 ^ 32 && 4 * r.e ≤ r.stride
    && r.routeOut % 16 = 0 && r.dispOut % 32 = 0 && r.countsOut % 8 = 0
    && (r.feed || r.core = 0) && (r.bias || r.biasAddr = 0) && (r.mask || r.maskAddr = 0)
    && (r.flag || (r.tag = 0 && r.flagAddr = 0)) && !(r.feed && r.mask) && r.groupOk
    && (r.ins t ++ r.outs t).all (fun x => inWin x.1 x.2)
    && (!r.flag || (r.flagAddr % 8 = 0 && inWin r.flagAddr 8))
    && outsApart (r.ins t) (r.outs t)

/-- The total order of R178: `a` ranks above `b`. -/
def ranksAbove (a b : FVal × Nat) : Bool :=
  match a.1, b.1 with
  | .nan, .nan => a.2 < b.2
  | .nan, _ => false
  | _, .nan => true
  | x, y => if y.lt x then true else if x.lt y then false else a.2 < b.2

/-- The best of a list of keys with their identities. -/
def bestOf : List (FVal × Nat) → Option (FVal × Nat)
  | [] => none
  | x :: l => match bestOf l with
    | some y => some (if ranksAbove x y then x else y)
    | none => some x

/-- The `n` best, in rank order (R178). -/
def topN : Nat → List (FVal × Nat) → List (FVal × Nat)
  | 0, _ => []
  | n + 1, l => match bestOf l with
    | some x => x :: topN n (l.filter (fun y => y.2 ≠ x.2))
    | none => []

/-- Selection of K experts from their keys (R178, R179). -/
def RouteD.select (r : RouteD) (keys : List FVal) : List Nat :=
  let all := keys.zipIdx
  let cand := if r.grouped then
      let s := r.e / orElse r.groups 1
      let score (g : Nat) : FVal :=
        match topN 2 ((all.drop (g * s)).take s) with
        | [a, b] => if r.gscore = 1 then add32 a.1 b.1 else a.1
        | [a] => a.1
        | _ => .nan
      let kept := (topN r.topg ((upto r.groups).map (fun g => (score g, g)))).map (·.2)
      all.filter (fun x => kept.contains (x.2 / orElse s 1))
    else all
  (topN r.k cand).map (·.2)

/-- Scores, selection and finished weights of a live token (R176 to R179). -/
def RouteD.token (r : RouteD) (bias x : List FVal) : List (Nat × FVal) :=
  let s := if r.score = 0 then softmaxRow x else if r.score = 1 then x.map sigmoidf else x
  let keys := if r.bias then (s.zip bias).map (fun p => add32 p.1 p.2) else s
  let sel := r.select keys
  let w := if r.score = 2 then softmaxRow (sel.map (fun i => x.getD i .nan)) else sel.map (fun i => s.getD i .nan)
  let w := if r.norm then
      let d := recip32 (vecSum add32 w)
      w.map (fun v => mul32 v d)
    else w
  sel.zip (w.map (fun v => mul32 v (val32 r.rscale)))

/-- The hash rule of R211. -/
def replicaHash (token expert n : Nat) : Nat := ((token ^^^ (expert * 65536)) * 0x9E3779B1 % 2 ^ 32 * n) / 2 ^ 32

/-- The least-queued rule of R212, over the counts so far. -/
def leastQueued (counts : SMap Nat) (token expert n : Nat) : Nat :=
  let key (q : Nat) : Nat × Nat := (SMap.get counts 0 (8 * expert + q), (q + n - token % n) % n)
  (upto n).foldl (fun b q =>
    let x := key q
    let y := key b
    if x.1 < y.1 || (x.1 = y.1 && x.2 < y.2) then q else b) 0

/-- A pair placed into a list: row, k-rank, expert, replica, weight, and its place within the list. -/
structure Pair where
  row : Nat
  rank : Nat
  expert : Nat
  replica : Nat
  weight : FVal
  pos : Nat
  deriving DecidableEq, Repr

/-- Place the pairs in ascending row, then k-rank (R211, R212); none when an expert has no replica (R181). -/
def placePairs (set : SMap (List Nat)) (hash : Bool) (tokenBase : Nat) (l : List (Nat × Nat × Nat × FVal)) :
    Option (List Pair × SMap Nat) :=
  l.foldlM (fun (a : List Pair × SMap Nat) x =>
    let n := (SMap.get set [] x.2.2.1).length
    if n = 0 then none
    else
      let q := if hash then replicaHash (tokenBase + x.1) x.2.2.1 n else leastQueued a.2 (tokenBase + x.1) x.2.2.1 n
      let key := 8 * x.2.2.1 + q
      let c := SMap.get a.2 0 key
      some (a.1 ++ [⟨x.1, x.2.1, x.2.2.1, q, x.2.2.2, c⟩], SMap.put a.2 key (c + 1))) ([], [])

/-- The lists of a ROUTE in directory order: DEST, expert, replica (R181). -/
def dirLists (set : SMap (List Nat)) (e : Nat) : List (Nat × Nat × Nat) :=
  sortBy (fun a b => a.1 < b.1 || (a.1 = b.1 && (a.2.1 < b.2.1 || (a.2.1 = b.2.1 && a.2.2 < b.2.2))))
    ((set.filter (fun x => x.1 < e)).flatMap (fun x => x.2.zipIdx.map (fun d => (d.1, x.1, d.2))))

/-- Each list with its COUNT and FIRST (R182). -/
def withFirst (counts : SMap Nat) : Nat → List (Nat × Nat × Nat) → List (Nat × Nat × Nat × Nat × Nat)
  | _, [] => []
  | f, (d, x, q) :: l =>
    let c := SMap.get counts 0 (8 * x + q)
    (d, x, q, c, f) :: withFirst counts (f + c) l

/-- Bytes of a list header (R182). -/
def listHeader (src xtag : Nat) (l : Nat × Nat × Nat × Nat × Nat) : List Byte :=
  toBytes 2 (0x21 + 256 * (l.2.2.1 % 8)) ++ toBytes 2 l.2.1 ++ toBytes 4 l.2.2.2.1 ++ toBytes 4 l.2.2.2.2
    ++ toBytes 4 l.1 ++ toBytes 4 src ++ toBytes 4 xtag ++ rep 8 0

/-- Bytes of a route record of a live token (R180). -/
def routeRecord (weight expert replica entry : Nat) : List Byte :=
  toBytes 4 weight ++ toBytes 2 expert ++ toBytes 2 (replica % 8 + 0x8000) ++ toBytes 4 entry ++ rep 4 0

/-- Events of a dispatch operation's conversions: to the posting core, or to its partition (R79, R170). -/
def Hw.noteConv (h : Hw) (die : Nat) (o : Origin) (tensor : Nat) (c : Counts) : Hw :=
  match o with
  | .post d core _ => h.setCore d core ((h.core d core).addStat h.watchOn tensor { counts := c })
  | _ =>
    let ev := b2n (c.saturations ≠ 0) + 2 * b2n (c.nonfinite ≠ 0)
    let h := if h.watchOn then { h with watch := addWatch h.watch [(tensor, c)] } else h
    match h.partOf die with
    | some p => { h with replayEv := SMap.put h.replayEv p ((SMap.get h.replayEv 0 p ||| ev) % 8) }
    | none => h

/-- What a ROUTE computes: pairs, counts of replicas, weight conversions. -/
structure RouteOut where
  pairs : List Pair
  counts : SMap Nat
  conv : Counts
  live : List Nat
  deriving DecidableEq, Repr

/-- Read the inputs and place the pairs (R171, R176 to R181). -/
def RouteD.compute (r : RouteD) (w t : Nat) (mask : List Bool) (c : RouteCopy) (hash : Bool) : Op RouteOut := do
  let mask ← if r.mask then readMask true (w + r.maskAddr) t else pure mask
  let live := liveRows t mask
  let rows ← if r.k = 0 then pure [] else live.mapM (fun m => do
    let x ← readRow .fp32 r.e (w + r.logits + m * r.stride)
    return (r.token c.bias x).zipIdx.map (fun y => (m, y.2, y.1.1, y.1.2)))
  match placePairs c.set hash r.tokenBase rows.flatten with
  | none => failSt .destUnreachable
  | some (pairs, counts) =>
    let conv := pairs.foldl (fun a p => a.add (convElem .fp32 .rne p.weight).2) {}
    return ⟨pairs, counts, conv, live⟩

/-- Write the outputs (R180, R182, R184). -/
def RouteD.write (r : RouteD) (w t src : Nat) (c : RouteCopy) (o : RouteOut) : Op Unit := do
  let lists := withFirst o.counts 0 (dirLists c.set r.e)
  let first (x q : Nat) : Nat :=
    ((lists.find? (fun l => l.2.1 = x && l.2.2.1 = q)).map (fun l => l.2.2.2.2)).getD 0
  storeB (w + r.dispOut) (toBytes 4 0x20 ++ toBytes 4 lists.length ++ toBytes 4 o.pairs.length ++ toBytes 4 r.e
    ++ toBytes 4 src ++ toBytes 4 r.xtag ++ rep 8 0)
  storeB (w + r.dispOut + 0x20) (lists.flatMap (listHeader src r.xtag))
  for p in o.pairs do
    storeB (w + r.dispOut + 0x20 + 256 * r.e + 8 * (first p.expert p.replica + p.pos))
      (toBytes 4 (r.tokenBase + p.row) ++ toBytes 2 p.row ++ toBytes 2 (p.rank % 8))
  for m in upto t do
    if !(o.live.contains m) then storeB (w + r.routeOut + 16 * r.k * m) (rep (16 * r.k) 0)
  for p in o.pairs do
    storeB (w + r.routeOut + 16 * (r.k * p.row + p.rank))
      (routeRecord (convElem .fp32 .rne p.weight).1 p.expert p.replica (first p.expert p.replica + p.pos))
  storeB (w + r.countsOut) ((upto (8 * r.e)).flatMap (fun i => toBytes 4 (SMap.get o.counts 0 i)))

/-- The flag of a dispatch descriptor, written when it succeeds (R193). -/
def Hw.deFlag (h : Hw) (die : Nat) (on : Bool) (a tag count : Nat) : Hw :=
  if on then h.flag (spWin die + a) tag count else h

/-- The COUNT the flag of a dispatch descriptor would have carried, from its masks or route records (R193, R485). -/
def Hw.deCount (h : Hw) (die : Nat) (j : Job) : Nat :=
  let w := spWin die
  if j.body.fld 0 7 0 = 1 then
    let r := RouteD.of j.body
    if !r.flag then 0
    else if r.feed then match SMap.find? h.fed die with
      | some f => r.k * (liveRows f.m f.mask).length
      | none => 0
    else r.k * (liveRows r.t (if r.mask then bitsOf (Mem.read h.mem (w + r.maskAddr) (ceilDiv r.t 8)) r.t else [])).length
  else if j.body.fld 0 7 0 = 2 && j.body.fld 0 23 23 = 1 then
    let k := j.body.fld 0 11 8
    ((upto (j.body.fld 4 31 0)).filter (fun r =>
      k ≠ 0 && bit (Mem.num h.mem (w + j.body.fld 0x0C 31 0 + 16 * k * r + 4) 4) 31)).length
  else 0

/-- The descriptor at the head of an engine's queue ends: what it kept is dropped. -/
def Hw.endDispatch (h : Hw) (e : Env) (die : Nat) (j : Job) (r : Except Fail (Status × Nat)) : Hw :=
  let n := h.deCount die j
  let hc := { h with routes := SMap.del h.routes die, fed := SMap.del h.fed die }
  match r with
  | .error .held => h
  | .error (.st s) => hc.finishJob die 4 j ⟨s, if s.ownValue then 0 else n, 0⟩
  | r => hc.endJob e die 4 j r

/-- A word of the engine's own stores fails its check: the operation in hand ends with ECC_UNCORRECTED (R168, R520). The
record's ADDR is the engine's register space, since the stores have no address of their own (DESIGN CHOICE, log entry
115). The store is written anew by the next operation. -/
def engineSound (die : Nat) : Op Unit := do
  let h ← get
  if h.badSites.contains (.engine die) then
    set { h with badSites := h.badSites.filter (fun x => x ≠ Site.engine die) }
    throw (.ecc (0xF00000000000 + rkey die 4 0))

/-- A ROUTE begins: it keeps the placement copy of its partition, and its bias table in the engine's bias store (R176,
R181, R203, R207). -/
def beginRoute (die : Nat) (r : RouteD) : Op RouteCopy := do
  let bias ← if r.bias then readRow .fp32 r.e (spWin die + r.biasAddr) else pure []
  let h ← get
  match h.partOf die with
  | some p =>
    let x := h.plcOf p
    return ⟨p, if h.rf Reg.plcStatusInForce pkgB p = 1 then x.active else [], h.popHalf p, x.switches, bias⟩
  | none => return ⟨8, [], 0, 0, bias⟩

/-- The hash rule is in force (R211). -/
def Hw.hashRule (h : Hw) (e : Env) (p : Nat) : Bool := e.tl.det || (h.plcOf p).hash

/-- A ROUTE with its T and mask known runs to its end (R175 to R184, R193, R214). -/
def Hw.runRoute (h : Hw) (e : Env) (die : Nat) (j : Job) (r : RouteD) (c : RouteCopy) (t : Nat) (mask : List Bool) : Hw :=
  let w := spWin die
  let m : Op RouteOut := do
    engineSound die
    let o ← r.compute w t mask c (h.hashRule e c.part)
    r.write w t (h.coord die 4) c o
    return o
  match runOp m h with
  | (.ok o, h) =>
    let n := o.pairs.length
    let h := h.noteConv die j.origin r.tensor o.conv
    let h := h.inc Reg.deTokensRouted (rkey die 4 0) 0 o.live.length
    let h := h.inc Reg.dePairsPairs (rkey die 4 0) 0 n
    let h := h.incSat Reg.deEventsNonfinite (rkey die 4 0) 0 o.conv.nonfinite
    let h := if c.part < 8 then h.popAdd c.part c.half o.counts else h
    (h.deFlag die r.flag r.flagAddr r.tag n).endDispatch e die j (.ok (.ok, if r.flag then n else 0))
  | (.error f, h) => h.endDispatch e die j (.error f)

/-- Replace the descriptor at the head of an engine's queue by its waiting form. -/
def Hw.awaitJob (h : Hw) (die unit : Nat) (j : Job) : Hw :=
  if j.started then h else h.putJob die unit { j with started := true, since := h.now }

/-- ROUTE (R171 to R184). A descriptor of a reserved operation code fails here. -/
def route (die : Nat) (e : Env) (h : Hw) : Hw :=
  match h.queue die 4 with
  | [] => h
  | j :: _ =>
    let r := RouteD.of j.body
    if !(h.dieOn e die) || r.op = 2 || (0x10 ≤ r.op && r.op ≤ 0x14) then h
    else if !r.ok then h.endDispatch e die j (.error (.st .badDescriptor))
    else if r.e = 0 then (h.deFlag die r.flag r.flagAddr r.tag 0).endDispatch e die j (.ok (.ok, 0))
    else
      match (match SMap.find? h.routes die with
        | some c => (Except.ok c, h)
        | none => runOp (beginRoute die r) h) with
      | (.error f, h) => h.endDispatch e die j (.error f)
      | (.ok c, h) =>
        if !r.feed then h.runRoute e die j r c r.t []
        else match SMap.find? h.fed die with
        | some f =>
          if f.core ≠ r.core || !f.ended then h
          else if f.status.good then h.runRoute e die j r c f.m f.mask
          else
            let v := if f.status.ownValue then f.value else h.deCount die j
            { h with routes := SMap.del h.routes die, fed := SMap.del h.fed die }.finishJob die 4 j ⟨f.status, v, 0⟩
        | none => { h with routes := SMap.put h.routes die c }.awaitJob die 4 j

/-! COMBINE. -/

/-- The COMBINE descriptor (R188). -/
structure CombineD where
  op : Nat
  k : Nat
  inF : Nat
  outF : Nat
  round : Nat
  base : Bool
  flag : Bool
  inStep : Bool
  baseStep : Bool
  outStep : Bool
  baseF : Nat
  t : Nat
  d : Nat
  routeIn : Nat
  ret : Nat
  retStride : Nat
  baseAddr : Nat
  baseStride : Nat
  out : Nat
  outStride : Nat
  tensor : Nat
  seed : Nat
  retFlag : Nat
  retTag : Nat
  flagAddr : Nat
  tag : Nat
  reserved : Bool
  deriving DecidableEq, Repr

/-- Fields of a COMBINE descriptor (R188). -/
def CombineD.of (d : Desc) : CombineD :=
  { op := d.fld 0 7 0, k := d.fld 0 11 8, inF := d.fld 0 15 12, outF := d.fld 0 19 16, round := d.fld 0 21 20
    base := d.fld 0 22 22 = 1, flag := d.fld 0 23 23 = 1, inStep := d.fld 0 24 24 = 1, baseStep := d.fld 0 25 25 = 1
    outStep := d.fld 0 26 26 = 1, baseF := d.fld 0 31 28, t := d.fld 4 31 0, d := d.fld 8 31 0
    routeIn := d.fld 0x0C 31 0, ret := d.fld 0x10 31 0, retStride := d.fld 0x14 31 0, baseAddr := d.fld 0x18 31 0
    baseStride := d.fld 0x1C 31 0, out := d.fld 0x20 31 0, outStride := d.fld 0x24 31 0, tensor := d.fld 0x28 31 0
    seed := d.fld 0x30 63 0, retFlag := d.fld 0x38 31 0, retTag := d.fld 0x3C 31 0, flagAddr := d.fld 0x40 31 0
    tag := d.fld 0x44 31 0, reserved := d.fld 0 27 27 = 0 && d.fld 0x2C 31 0 = 0 && d.fld 0x48 447 0 = 0 }

/-- A stride has room for a row, and for FP32 rows where the operand steps (R189). -/
def strideRoom (f : Fmt) (n stride : Nat) (step : Bool) : Bool := f.rowBytes n ≤ stride && (!step || 4 * n ≤ stride)

/-- The checks of R189, at replay step `step`. -/
def CombineD.ok (c : CombineD) (step : Nat) : Bool :=
  c.reserved && c.k ≤ 8 && c.inF ≤ 3 && c.outF ≤ 4 && c.round ≤ 1 && !(c.round = 1 && c.outF = 0)
    && (c.round = 1 || c.seed = 0) && c.baseF ≤ 3 && c.t ≤ 8192
    && (c.base || (c.baseF = 0 && c.baseAddr = 0 && c.baseStride = 0 && !c.baseStep))
    && (c.flag || (c.tag = 0 && c.flagAddr = 0))
    && c.retFlag % 8 = 0 && inWin c.retFlag 8 && (!c.flag || (c.flagAddr % 8 = 0 && inWin c.flagAddr 8))
    && (match Fmt.ofCode c.inF, Fmt.ofCode c.outF, Fmt.ofCode c.baseF with
      | some i, some o, some b =>
        let os := if c.outStep then Fmt.chain step o else o
        let bs := if c.baseStep then Fmt.chain step b else b
        let is := if c.inStep then Fmt.chain step i else i
        let outN := if c.d = 0 then 0 else extent c.t c.outStride (os.rowBytes c.d)
        let baseN := if c.base then extent c.t c.baseStride (bs.rowBytes c.d) else 0
        let retN := extent (c.k * c.t) c.retStride (is.rowBytes c.d)
        strideRoom i c.d c.retStride c.inStep && strideRoom o c.d c.outStride c.outStep
          && (!c.base || strideRoom b c.d c.baseStride c.baseStep)
          && inWin c.routeIn (16 * c.k * c.t) && inWin c.out outN && inWin c.baseAddr baseN && inWin c.ret 0
          && c.ret < 0x10000000
          && !extOverlap c.out outN c.routeIn (16 * c.k * c.t) && !extOverlap c.out outN c.retFlag 8
          && !(c.flag && extOverlap c.out outN c.flagAddr 8) && !extOverlap c.out outN c.ret retN
          && (!extOverlap c.out outN c.baseAddr baseN || (c.out = c.baseAddr && c.outStride = c.baseStride && outN = baseN))
      | _, _, _ => false)

/-- A route record as COMBINE reads it: WEIGHT, the word at 0x04, ENTRY, the word at 0x0C (R180). -/
def readRecords (w routeIn k r : Nat) : Op (List (Nat × Nat × Nat × Nat)) := do
  let bs ← loadB (w + routeIn + 16 * k * r) (16 * k)
  return (upto k).map (fun j => (pay bs (16 * j) 4, pay bs (16 * j + 4) 4, pay bs (16 * j + 8) 4, pay bs (16 * j + 12) 4))

/-- One row of a COMBINE (R191). Answers the conversions it made, `none` for a masked token. -/
def CombineD.row (c : CombineD) (w : Nat) (i o b : Fmt) (r : Nat) : Op (Option Counts) := do
  let recs ← readRecords w c.routeIn c.k r
  if recs.all (fun x => !(bit x.2.1 31)) then return none
  need (recs.all (fun x => bit x.2.1 31 && bits x.2.1 30 19 = 0 && x.2.2.2 = 0)) .badDescriptor
  let base ← if c.base then readRow b c.d (w + c.baseAddr + r * c.baseStride) else pure (rep c.d FVal.zero)
  let rows ← recs.mapM (fun x => do
    let a := c.ret + x.2.2.1 * c.retStride
    need (inWin a (i.rowBytes c.d)) .badDescriptor
    let row ← readRow i c.d (w + a)
    return (val32 x.1, row))
  let acc := rows.foldl (fun (acc : List FVal) x =>
    (acc.zip x.2).map (fun p => add32 p.1 (mul32 x.1 (asFp32 p.2)))) (base.map asFp32)
  let (bs, n) := convRow o (fun y => rndOf c.round c.seed c.tensor (r * c.d + y)) acc
  storeB (w + c.out + r * c.outStride) bs
  return some n

/-- Rows in ascending order; what a failing row leaves stays (R192). Each row's counts are kept as it is written. -/
def CombineD.run (c : CombineD) (die : Nat) (o : Origin) (step : Nat) : Op Nat := do
  let w := spWin die
  match stepped c.inStep step c.inF, stepped c.outStep step c.outF, stepped c.baseStep step c.baseF with
  | some i, some f, some b =>
    (upto c.t).foldlM (fun n r => do
      match ← c.row w i f b r with
      | none => return n
      | some cv => do
        modify (fun h => (h.noteConv die o c.tensor cv).inc Reg.deTokensCombined (rkey die 4 0) 0 1)
        return n + 1) 0
  | _, _, _ => failSt .badDescriptor

/-- The replay step an operation carries: that of its posting core's program (R121, R170). -/
def Hw.stepOf (h : Hw) (o : Origin) : Nat :=
  match o with
  | .post d c _ => (h.core d c).replayStep
  | _ => 0

/-- COMBINE (R188 to R193): it waits for RET_FLAG before it reads a returned row. -/
def combine (die : Nat) (e : Env) (h : Hw) : Hw :=
  match h.queue die 4 with
  | [] => h
  | j :: _ =>
    let c := CombineD.of j.body
    if !(h.dieOn e die) || c.op ≠ 2 then h
    else if !(c.ok (h.stepOf j.origin)) then h.endDispatch e die j (.error (.st .badDescriptor))
    else if c.t = 0 || c.d = 0 || c.k = 0 then
      (h.deFlag die c.flag c.flagAddr c.tag 0).endDispatch e die j (.ok (.ok, 0))
    else
      let m : Op (Option Nat) := do
        match ← loadFlag (spWin die + c.retFlag) c.retTag with
        | none => return none
        | some _ => do
          engineSound die
          return some (← c.run die j.origin (h.stepOf j.origin))
      match runOp m h with
      | (.ok none, h) => h.awaitJob die 4 j
      | (.ok (some n), h) =>
        (h.deFlag die c.flag c.flagAddr c.tag n).endDispatch e die j (.ok (.ok, if c.flag then n else 0))
      | (.error f, h) => h.endDispatch e die j (.error f)

/-- The head of an engine's queue waits for a product or for RET_FLAG (R172, R190). -/
def Hw.deWaits (h : Hw) (die : Nat) (j : Job) : Bool :=
  j.started && (
    if j.body.fld 0 7 0 = 1 then (SMap.find? h.fed die).isNone
    else j.body.fld 0 7 0 = 2 && (h.flagAt (spWin die + j.body.fld 0x38 31 0) (j.body.fld 0x3C 31 0)).isNone)

/-- DE_FLAG_TIMEOUT (R172, R190): no output is written. -/
def deFlagTimeout (die : Nat) (e : Env) (h : Hw) : Hw :=
  match h.queue die 4 with
  | [] => h
  | j :: _ =>
    let t := h.rf Reg.deCtrlFlagTimeout (rkey die 4 0)
    if t ≠ 0 && h.dieOn e die && h.deWaits die j then
      (h.reach (j.since + t * 1000)).endDispatch e die j (.error (.st .timeout))
    else h

/-- ROUTE (R176). -/
def execRoute (die : Nat) (s : State) : Host.Outcome State Fault Refusal := onHw (route die) s

/-- COMBINE (R191). -/
def execCombine (die : Nat) (s : State) : Host.Outcome State Fault Refusal := onHw (combine die) s

/-- DE_FLAG_TIMEOUT (R172). -/
def execDeFlagTimeout (die : Nat) (s : State) : Host.Outcome State Fault Refusal := onHw (deFlagTimeout die) s

end Sys2Proof.Machine
end

