-- ==== Sys2Proof/Machine/Vector.lean ====
section
/-! DEFINITION. The vector unit (R111 to R114, R60 to R70): the VOP descriptor and its checks, and one command per
vector operation. -/

namespace Sys2Proof.Machine

/-- The VOP descriptor (R112), with the rows a register may have given. -/
structure VopD where
  op : Nat
  xF : Nat
  yF : Nat
  oF : Nat
  round : Nat
  mask : Bool
  xStep : Bool
  yStep : Bool
  oStep : Bool
  res : Nat
  rows : Nat
  n : Nat
  x : Nat
  xS : Nat
  y : Nat
  yS : Nat
  out : Nat
  oS : Nat
  g : Nat
  b : Nat
  eps : Nat
  seed : Nat
  tensor : Nat
  aux : Nat
  deriving DecidableEq, Repr

/-- Fields of a VOP descriptor (R112). -/
def VopD.of (d : Desc) (rows : Nat) : VopD :=
  { op := d.fld 0 7 0, xF := d.fld 0 11 8, yF := d.fld 0 15 12, oF := d.fld 0 19 16, round := d.fld 0 21 20
    mask := d.fld 0 22 22 = 1, xStep := d.fld 0 23 23 = 1, yStep := d.fld 0 24 24 = 1, oStep := d.fld 0 25 25 = 1
    res := d.fld 0 31 26, rows := rows, n := d.fld 8 31 0
    x := d.fld 0x0C 31 0, xS := d.fld 0x10 31 0, y := d.fld 0x14 31 0, yS := d.fld 0x18 31 0
    out := d.fld 0x1C 31 0, oS := d.fld 0x20 31 0, g := d.fld 0x24 31 0, b := d.fld 0x28 31 0
    eps := d.fld 0x2C 31 0, seed := d.fld 0x30 63 0, tensor := d.fld 0x38 31 0, aux := d.fld 0x3C 31 0 }

/-- Codes of R113. -/
def vopCode (c : Nat) : Bool :=
  [0x10, 0x11, 0x12, 0x13, 0x14, 0x15, 0x16, 0x18, 0x19, 0x1A, 0x1B, 0x20, 0x21, 0x22, 0x23, 0x24, 0x28, 0x29, 0x2A,
   0x2B, 0x2C, 0x30, 0x31].contains c

/-- Which inputs an operation takes (R113). -/
def vopY (c : Nat) : Bool := [0x10, 0x11, 0x12, 0x13, 0x14, 0x30].contains c
def vopG (c : Nat) : Bool := [0x15, 0x2A, 0x2B, 0x2C].contains c
def vopB (c : Nat) : Bool := [0x15, 0x2B].contains c
def vopEps (c : Nat) : Bool := [0x2A, 0x2B].contains c
/-- Operations that write one value per row, and XENT, which writes one in all (R113). -/
def vopScalar (c : Nat) : Bool := [0x18, 0x19, 0x1A, 0x1B, 0x31].contains c

/-- Input formats (R113). -/
def vopInOk (c f : Nat) : Bool :=
  f ≤ 4 || (f = 8 && (c = 0x30 || c = 0x31 || c = 0x16)) || (c = 0x16 && 5 ≤ f && f ≤ 7)

/-- Output formats (R113). -/
def vopOutOk (c f : Nat) : Bool :=
  if c = 0x2C || c = 0x30 || c = 0x31 then f = 8
  else if c = 0x1B then f = 6
  else if c = 0x16 then f ≤ 8
  else f ≤ 4

/-- Stochastic rounding is open to conversions from FP32, and to a CONVERT, into BF16, E4M3, E5M2 or KB4 (R54). -/
def vopRoundOk (c f round : Nat) : Bool := round = 0 || (round = 1 && 1 ≤ f && f ≤ 4 && c ≠ 0x2C)

/-- Elements an output row holds. -/
def VopD.outN (d : VopD) : Nat := if vopScalar d.op then 1 else d.n

/-- The extent of the output: XENT writes one FP64 value (R113). -/
def VopD.outExt (d : VopD) (f : Fmt) : Nat := if d.op = 0x2C then 8 else extent d.rows d.oS (f.rowBytes d.outN)

/-- Input extents: X, Y, gains or labels, offsets, mask. -/
def VopD.inputs (d : VopD) (xf yf : Fmt) : List (Nat × Nat) :=
  [ (d.x, extent d.rows d.xS (xf.rowBytes d.n)),
    (d.y, if vopY d.op then extent d.rows d.yS (yf.rowBytes d.n) else 0),
    (d.g, if d.op = 0x2C then 4 * d.rows else if vopG d.op then 4 * d.n else 0),
    (d.b, if vopB d.op then 4 * d.n else 0),
    (d.aux, if d.mask then ceilDiv d.rows 8 else 0) ]

/-- Formats, unused fields and rounding (R15, R42, R54, R113). -/
def VopD.wellFormed (d : VopD) : Bool :=
  vopCode d.op && d.res = 0 && vopInOk d.op d.xF && vopOutOk d.op d.oF && vopRoundOk d.op d.oF d.round
    && (if vopY d.op then vopInOk d.op d.yF else d.yF = 0 && !d.yStep && d.y = 0 && d.yS = 0)
    && (vopG d.op || d.g = 0) && (vopB d.op || d.b = 0) && (vopEps d.op || d.eps = 0)
    && (d.mask || d.aux = 0) && (d.round = 1 || d.seed = 0) && (d.op ≠ 0x2C || d.oS = 0)

/-- Room for FP32 rows under a STEP bit (R95, R121). -/
def stepRoom (on : Bool) (code stride n : Nat) : Bool := !on || 5 ≤ code || 4 * n ≤ stride

/-- The checks made when a vector operation is queued (R89, R95, R113, R114). -/
def VopD.ok (d : VopD) (step : Nat) : Bool :=
  d.wellFormed &&
  (match Fmt.ofCode d.xF, Fmt.ofCode d.yF, Fmt.ofCode d.oF with
   | some x, some y, some o =>
     x.rowBytes d.n ≤ d.xS && (!(vopY d.op) || y.rowBytes d.n ≤ d.yS) && (d.op = 0x2C || o.rowBytes d.outN ≤ d.oS)
       && stepRoom d.xStep d.xF d.xS d.n && (!(vopY d.op) || stepRoom d.yStep d.yF d.yS d.n)
       && (d.op = 0x2C || stepRoom d.oStep d.oF d.oS d.outN)
       && (d.rows = 0 || d.n = 0 ||
         (let xf := if d.xStep then Fmt.chain step x else x
          let yf := if d.yStep then Fmt.chain step y else y
          let oe := d.outExt (if d.oStep then Fmt.chain step o else o)
          (d.inputs xf yf).all (fun i => inWin i.1 i.2) && inWin d.out oe &&
          (d.inputs xf yf).zipIdx.all (fun i =>
            !(extOverlap d.out oe i.1.1 i.1.2) ||
            (i.1.1 = d.out && i.1.2 = oe && ((i.2 = 0 && d.xS = d.oS) || (i.2 = 1 && d.yS = d.oS))))))
   | _, _, _ => false)

/-- Vector cycles per row (R113). -/
def vopCycles (c n : Nat) : Nat :=
  let q := ceilDiv n 256
  if [0x18, 0x19, 0x1A, 0x1B].contains c then q + 8
  else if c = 0x20 then 8 * q else if c = 0x21 || c = 0x24 || c = 0x29 then 12 * q
  else if c = 0x22 || c = 0x23 then 2 * q else if c = 0x28 then 12 * q + 18
  else if c = 0x2A then 3 * q + 12 else if c = 0x2B then 5 * q + 22 else if c = 0x2C then 14 * q + 30
  else if c = 0x30 then 4 * q else if c = 0x31 then 4 * q + 32 else q

/-- An elementwise operation of two rows. -/
def zip2 (f : FVal → FVal → FVal) (xs ys : List FVal) : List FVal := (xs.zip ys).map (fun p => f p.1 p.2)

/-- The row result of an operation on FP32 inputs (R113); XENT's row value is `xentRow`. -/
def vopRow (c : Nat) (xs ys gs bs : List FVal) (eps : FVal) : List FVal :=
  match c with
  | 0x10 => zip2 add32 xs ys
  | 0x11 => zip2 sub32 xs ys
  | 0x12 => zip2 mul32 xs ys
  | 0x13 => zip2 fmax xs ys
  | 0x14 => zip2 fmin xs ys
  | 0x15 => ((xs.zip gs).zip bs).map (fun p => add32 (mul32 p.1.1 p.1.2) p.2)
  | 0x18 => [vecSum add32 xs]
  | 0x19 => [rowMax xs]
  | 0x1A => [xs.foldl fmin (.inf false)]
  | 0x1B => [FVal.ofInt (argmaxFrom (xs.drop 1) 1 (xs.headD .nan) 0)]
  | 0x20 => xs.map exp2f
  | 0x21 => xs.map log2f
  | 0x22 => xs.map recip32
  | 0x23 => xs.map rsqrt32
  | 0x24 => xs.map tanhf
  | 0x28 => softmaxRow xs
  | 0x29 => xs.map sigmoidf
  | 0x2A => rmsRow xs gs eps
  | 0x2B => layerRow xs gs bs eps
  | 0x30 => zip2 add64 xs ys
  | 0x31 => [vecSum add64 xs]
  | _ => xs

/-- An integer converted to another integer format wraps modulo its width (R113); one other than 0 that becomes 0 counts
as an underflow to zero (R53). -/
def convIntWrap (f : Fmt) (v : FVal) : Nat × Counts :=
  let i : Int := match v with | .fin n m _ => if n then -(m : Int) else m | _ => 0
  let r := ofSigned (8 * f.bytes) i
  (r, .one (r = 0) (r = 0 && i ≠ 0) false false)

/-- The conversion of an output row (R49, R51 to R56, R113). An output that a replay has stepped to FP32 rounds to
nearest even whatever ROUND says (R54). -/
def vopConv (d : VopD) (xf of : Fmt) (row : Nat) (vs : List FVal) : List Byte × Counts :=
  if d.op = 0x16 && !xf.isFloat && !of.isFloat then
    let rs := vs.map (convIntWrap of)
    (rs.flatMap (fun r => toBytes of.bytes r.1), rs.foldl (fun a r => a.add r.2) {})
  else convRow of (fun i => if of.narrow then rndOf d.round d.seed d.tensor (row * d.outN + i) else .rne) vs

/-- The inputs an operation reads exactly, with no FP32 step: every input of FADD64 and ROWSUM64, and the FP64 and
integer inputs of CONVERT (R113). -/
def vopExact (c : Nat) (f : Fmt) : Bool := c = 0x30 || c = 0x31 || (c = 0x16 && (f = .fp64 || !f.isFloat))

/-- Read an input row. -/
def vopRead (c : Nat) (f : Fmt) (n a : Nat) : Op (List FVal) := do
  let vs ← readRow f n a
  return if vopExact c f then vs else vs.map asFp32

/-- Run a step for each of a list, keeping the statistics; a failure ends it and leaves what was done (R79, R114). -/
def eachRow {α : Type} (f : α → OutStat → Op OutStat) : List α → OutStat → Op (OutStat × Option Fail)
  | [], st => pure (st, none)
  | x :: l, st => do
    match ← tryOp (f x st) with
    | .ok st => eachRow f l st
    | .error e => return (st, some e)

/-- One row of an operation: read, computed, converted, written (R113). -/
def vopStep (d : VopD) (w : Nat) (xf yf of : Fmt) (gs bs : List FVal) (r : Nat) (st : OutStat) : Op OutStat := do
  let xs ← vopRead d.op xf d.n (w + d.x + r * d.xS)
  let ys ← if vopY d.op then vopRead d.op yf d.n (w + d.y + r * d.yS) else pure []
  let (o, c) := vopConv d xf of r (vopRow d.op xs ys gs bs (val32 d.eps))
  storeB (w + d.out + r * d.oS) o
  return { st with counts := st.counts.add c }

/-- The operations that write a row per input row, in ascending order (R114). Rows written before a failing read keep
their values and their counts. -/
def vopRun (d : VopD) (w : Nat) (xf yf of : Fmt) : Op (OutStat × Option Fail) := do
  let head : Op (List Bool × List FVal × List FVal) := do
    let mask ← readMask d.mask (w + d.aux) d.rows
    let gs ← if vopG d.op then readRow .fp32 d.n (w + d.g) else pure []
    let bs ← if vopB d.op then readRow .fp32 d.n (w + d.b) else pure []
    return (mask, gs, bs)
  match ← tryOp head with
  | .error f => return ({}, some f)
  | .ok (mask, gs, bs) => eachRow (vopStep d w xf yf of gs bs) (liveRows d.rows mask) {}

/-- XENT: one FP64 value for all rows (R65, R113); a masked row enters as +0.0, a label out of range gives NaN. After a
failing read it writes nothing (R114). -/
def xentRun (d : VopD) (w : Nat) (xf : Fmt) : Op OutStat := do
  let mask ← readMask d.mask (w + d.aux) d.rows
  let zs ← (upto d.rows).mapM (fun r => do
    if mask.getD r false then return (FVal.zero, false) else
    let xs ← vopRead d.op xf d.n (w + d.x + r * d.xS)
    let lab := toSigned 32 (← loadN (w + d.g + 4 * r) 4)
    if 0 ≤ lab && lab < (d.n : Int) then return (xentRow xs lab.toNat, false) else return (FVal.nan, true))
  let total := vecSum add64 (zs.map (fun z => z.1))
  let (o, c) := convRow .fp64 (fun _ => .rne) [total]
  storeB (w + d.out) o
  return { counts := { c with nonfinite := c.nonfinite + (zs.filter (fun z => z.2)).length } }

/-- The rows of the operation a descriptor names. -/
def VopD.run (d : VopD) (w : Nat) (xf yf of : Fmt) : Op (OutStat × Option Fail) := do
  if d.op = 0x2C then
    match ← tryOp (xentRun d w xf) with
    | .ok st => return (st, none)
    | .error f => return ({}, some f)
  else vopRun d w xf yf of

/-- Take the head of the vector queue off with what it found and its outcome (R71, R79, R119, R437). CORE_BUSY.VECTOR_BUSY
takes the cycles of an operation that succeeds; for one that fails part way the spec gives no count, and none is taken
(DESIGN CHOICE, log entry 112). -/
def Hw.popVector (h : Hw) (e : Env) (die core : Nat) (o : CoreOp) (st : OutStat) (fail : Option Done) (cycles : Nat) : Hw :=
  let c := h.core die core
  let d := VopD.of o.desc o.rows
  let c := { c with vectorQ := c.vectorQ.filter (fun q => q.issue ≠ o.issue) }
  let c := c.addStat h.watchOn d.tensor st
  let c := match fail with
    | none =>
      let c := if d.oStep then c.noteStep (stepped true o.step d.oF) else c
      if h.lateStatus e (h.partOf die) (some o.beat) Status.ok = Status.okLate then { c with late := true } else c
    | some f => c.stop ⟨o.issue, f.st, o.index, f.value⟩
  let h := h.setCore die core c
  let h := h.inc Reg.coreBusyVectorBusy (rkey die core 0) 0 cycles
  let h := match h.partOf die with
    | some p => { h with acct := SMap.upd h.acct {} p (fun a => { a with vector := a.vector + cycles }) }
    | none => h
  h.settle die core

/-- Vector cycles of an operation: masked rows keep theirs in cycle-exact mode (R101, R113). -/
def VopD.cycles (d : VopD) (exact : Bool) (live : Nat) : Nat :=
  12 + (if exact then d.rows else live) * vopCycles d.op d.n

/-- The operation at the head of the vector queue, when it is the one named (R113, R114). -/
def vop (code : Nat) (die core : Nat) (e : Env) (h : Hw) : Hw :=
  match (h.core die core).vectorQ with
  | [] => h
  | o :: _ =>
    let d := VopD.of o.desc o.rows
    let w := spWin die
    if d.op ≠ code || !(h.dieOn e die) then h else
    match stepped d.xStep o.step d.xF, stepped d.yStep o.step d.yF, stepped d.oStep o.step d.oF with
    | some xf, some yf, some of =>
      let live := (liveRows d.rows (if d.mask then bitsOf (Mem.read h.mem (w + d.aux) (ceilDiv d.rows 8)) d.rows else [])).length
      match runOp (d.run w xf yf of) h with
      | (.ok (st, none), h') => h'.popVector e die core o st none (d.cycles (h.cycleExact e die core) live)
      | (.ok (st, some f), h') =>
        let (dn, h') := h'.coreFail die core f
        h'.popVector e die core o st (some dn) 0
      | (.error _, _) => h
    | _, _, _ => h.popVector e die core o {} (some ⟨.badDescriptor, 0, 0⟩) 0

/-- VOPADD (R113): x + y. -/
def execVopAdd (die core : Nat) (s : State) : Host.Outcome State Fault Refusal := onHw (vop 0x10 die core) s

/-- VOPSUB (R113): x − y. -/
def execVopSub (die core : Nat) (s : State) : Host.Outcome State Fault Refusal := onHw (vop 0x11 die core) s

/-- VOPMUL (R113): x × y. -/
def execVopMul (die core : Nat) (s : State) : Host.Outcome State Fault Refusal := onHw (vop 0x12 die core) s

/-- VOPMAX (R113): max(x, y) by R61. -/
def execVopMax (die core : Nat) (s : State) : Host.Outcome State Fault Refusal := onHw (vop 0x13 die core) s

/-- VOPMIN (R113): min(x, y) by R61. -/
def execVopMin (die core : Nat) (s : State) : Host.Outcome State Fault Refusal := onHw (vop 0x14 die core) s

/-- SCALE (R113): (x × g) + b. -/
def execScale (die core : Nat) (s : State) : Host.Outcome State Fault Refusal := onHw (vop 0x15 die core) s

/-- CONVERT (R113): x in OUT_FMT. -/
def execConvert (die core : Nat) (s : State) : Host.Outcome State Fault Refusal := onHw (vop 0x16 die core) s

/-- ROWSUM (R113): one sum by R60. -/
def execRowsum (die core : Nat) (s : State) : Host.Outcome State Fault Refusal := onHw (vop 0x18 die core) s

/-- ROWMAX (R113): one maximum. -/
def execRowmax (die core : Nat) (s : State) : Host.Outcome State Fault Refusal := onHw (vop 0x19 die core) s

/-- ROWMIN (R113): one minimum. -/
def execRowmin (die core : Nat) (s : State) : Host.Outcome State Fault Refusal := onHw (vop 0x1A die core) s

/-- ARGMAX (R113): lowest index of the maximum, or of the first NaN. -/
def execArgmax (die core : Nat) (s : State) : Host.Outcome State Fault Refusal := onHw (vop 0x1B die core) s

/-- EXP2 (R113): R68. -/
def execExp2 (die core : Nat) (s : State) : Host.Outcome State Fault Refusal := onHw (vop 0x20 die core) s

/-- LOG2 (R113): R69. -/
def execLog2 (die core : Nat) (s : State) : Host.Outcome State Fault Refusal := onHw (vop 0x21 die core) s

/-- RECIP (R113): R67. -/
def execRecip (die core : Nat) (s : State) : Host.Outcome State Fault Refusal := onHw (vop 0x22 die core) s

/-- RSQRT (R113): R67. -/
def execRsqrt (die core : Nat) (s : State) : Host.Outcome State Fault Refusal := onHw (vop 0x23 die core) s

/-- TANH (R113): R70. -/
def execTanh (die core : Nat) (s : State) : Host.Outcome State Fault Refusal := onHw (vop 0x24 die core) s

/-- SOFTMAX (R113): R65. -/
def execSoftmax (die core : Nat) (s : State) : Host.Outcome State Fault Refusal := onHw (vop 0x28 die core) s

/-- SIGMOID (R113): R65. -/
def execSigmoid (die core : Nat) (s : State) : Host.Outcome State Fault Refusal := onHw (vop 0x29 die core) s

/-- RMSNORM (R113): R65. -/
def execRmsnorm (die core : Nat) (s : State) : Host.Outcome State Fault Refusal := onHw (vop 0x2A die core) s

/-- LAYERNORM (R113): R65. -/
def execLayernorm (die core : Nat) (s : State) : Host.Outcome State Fault Refusal := onHw (vop 0x2B die core) s

/-- XENT (R113): R65. -/
def execXent (die core : Nat) (s : State) : Host.Outcome State Fault Refusal := onHw (vop 0x2C die core) s

/-- FADD64 (R113): x + y in FP64. -/
def execFadd64 (die core : Nat) (s : State) : Host.Outcome State Fault Refusal := onHw (vop 0x30 die core) s

/-- ROWSUM64 (R113): one FP64 sum, R60 and R62. -/
def execRowsum64 (die core : Nat) (s : State) : Host.Outcome State Fault Refusal := onHw (vop 0x31 die core) s

end Sys2Proof.Machine
end

