-- ==== Sys2Proof/Machine/Sequencer.lean ====
section
/-! DEFINITION. The sequencer (R106 to R109, R115 to R121, R436): launches, instructions, waits and replay points. -/

namespace Sys2Proof.Machine

/-- The fields of an instruction (R116). -/
structure Insn where
  opc : Nat
  sd : Nat
  sa : Nat
  sb : Nat
  unit : Nat
  res : Nat
  imm : Nat
  deriving DecidableEq, Repr

/-- Decode of a sequencer instruction word (R116). -/
def Insn.of (w : Word) : Insn :=
  ⟨w.fld 63 56, w.fld 55 51, w.fld 50 46, w.fld 45 41, w.fld 40 36, w.fld 35 32, w.fld 31 0⟩

/-- IMM as a number: sign-extended to 64 bits (R116). -/
def Insn.simm (i : Insn) : Nat := sext64 32 i.imm

/-- The operation codes of R117. -/
def opcOk (c : Nat) : Bool := c ≤ 0x0B || (0x10 ≤ c && c ≤ 0x13) || (0x20 ≤ c && c ≤ 0x22) || (0x28 ≤ c && c ≤ 0x2C) || c = 0x30

/-- Scalar register; s0 reads zero (R115). -/
def Core.s (c : Core) (i : Nat) : Word := if i = 0 then 0 else SMap.get c.regs 0 i

/-- A write of a scalar register; writes to s0 are discarded (R115). -/
def Core.setS (c : Core) (i : Nat) (v : Word) : Core := if i = 0 then c else { c with regs := SMap.putD 0 c.regs i v }

/-- A word of a core's program store (R121). -/
def Hw.progWord (h : Hw) (die core i : Nat) : Word := SMap.get h.regs 0 (rkey die core (0x80000 + 8 * i))

/-- What a core would read to issue: the instruction at its index, and its register file (R516). -/
def Hw.issueReads (h : Hw) (die core : Nat) : List Site := [.program die core (h.core die core).index, .file die core 0]

/-- A word that a core would read to issue fails its check (R516, R520). -/
def Hw.issueBad (h : Hw) (die core : Nat) : Bool := (h.issueReads die core).any (fun x => h.badSites.contains x)

/-- The instruction a running core would issue, when it is a valid one and can be read (R119, R520). -/
def Hw.insn? (h : Hw) (e : Env) (die core : Nat) : Option Insn :=
  let c := h.core die core
  if c.st = .running && h.dieOn e die && core < 4 && c.index < 4096 && !(h.issueBad die core) then
    let i := Insn.of (h.progWord die core c.index)
    if opcOk i.opc && i.res = 0 then some i else none
  else none

/-- Issue an instruction of operation code `opc`: nothing happens unless that is what the core would issue. -/
def onInsn (opc : Nat) (die core : Nat) (f : Env → Core → Insn → Hw → Hw) (e : Env) (h : Hw) : Hw :=
  match h.insn? e die core with
  | some i => if i.opc = opc then f e (h.core die core) i h else h
  | none => h

/-- The next instruction in order. -/
def Core.next (c : Core) : Core := { c with index := c.index + 1 }

/-- An instruction that stops its program with a status (R119). -/
def Hw.stopAt (h : Hw) (die core : Nat) (st : Status) (value : Nat) : Hw :=
  let c := h.core die core
  (h.setCore die core (c.stop ⟨c.nextIssue, st, c.index, value⟩)).settle die core

/-- An instruction that writes a register from the registers (R117). -/
def alu (opc : Nat) (f : Core → Insn → Word) (die core : Nat) (e : Env) (h : Hw) : Hw :=
  onInsn opc die core (fun _ c i h => h.setCore die core ((c.setS i.sd (f c i)).next)) e h

/-- IMM as a word. -/
def Insn.immW (i : Insn) : Word := BitVec.ofNat 64 i.simm

/-- Results of the register instructions (R117). -/
def ldiVal (_ : Core) (i : Insn) : Word := i.immW
def ldihVal (c : Core) (i : Insn) : Word := BitVec.ofNat 64 ((c.s i.sd).toNat % 2 ^ 32 + i.imm * 2 ^ 32)
def addVal (c : Core) (i : Insn) : Word := c.s i.sa + c.s i.sb + i.immW
def subVal (c : Core) (i : Insn) : Word := c.s i.sa - c.s i.sb
def andVal (c : Core) (i : Insn) : Word := c.s i.sa &&& c.s i.sb
def orVal (c : Core) (i : Insn) : Word := c.s i.sa ||| c.s i.sb
def shAmt (c : Core) (i : Insn) : Nat := (c.s i.sb + i.immW).toNat % 64
def shlVal (c : Core) (i : Insn) : Word := c.s i.sa <<< shAmt c i
def shrVal (c : Core) (i : Insn) : Word := c.s i.sa >>> shAmt c i

/-- A branch: taken, it continues at this index + IMM (R117). An index outside the store stops the program when it
would issue (R119); it is kept modulo 2^32, so that its completion reports the low 16 bits (DEDUCED). -/
def branch (opc : Nat) (taken : Core → Insn → Bool) (die core : Nat) (e : Env) (h : Hw) : Hw :=
  onInsn opc die core (fun _ c i h =>
    if taken c i then
      let t : Int := (c.index : Int) + toSigned 32 i.imm
      h.setCore die core { c with index := (BitVec.ofInt 32 t).toNat }
    else h.setCore die core c.next) e h

/-- The scratchpad offset sa + IMM of an 8-byte access; `none` where R117 stops the program. -/
def wordAddr (c : Core) (i : Insn) : Option Nat :=
  let a := (c.s i.sa + i.immW).toNat
  if a % 8 = 0 && a + 8 ≤ 0x10000000 then some a else none

/-- Run an operation of an instruction; a failure stops the program, a clear holds the instruction. -/
def Hw.insnOp {α : Type} (h : Hw) (die core : Nat) (m : Op α) (k : α → Hw → Hw) : Hw :=
  match runOp m h with
  | (.ok a, h') => k a h'
  | (.error .held, _) => h
  | (.error f, h') => let (d, h') := h'.coreFail die core f; h'.stopAt die core d.st d.value

/-- LD (R117). -/
def insnLd (die core : Nat) (e : Env) (h : Hw) : Hw :=
  onInsn 0x0A die core (fun _ c i h =>
    match wordAddr c i with
    | none => h.stopAt die core .badDescriptor 0
    | some a => h.insnOp die core (loadN (spWin die + a) 8) (fun v h =>
        h.setCore die core ((c.setS i.sd (BitVec.ofNat 64 v)).next))) e h

/-- ST (R117). -/
def insnSt (die core : Nat) (e : Env) (h : Hw) : Hw :=
  onInsn 0x0B die core (fun _ c i h =>
    match wordAddr c i with
    | none => h.stopAt die core .badDescriptor 0
    | some a => h.insnOp die core (storeN (spWin die + a) 8 (c.s i.sb).toNat) (fun _ h =>
        h.setCore die core c.next)) e h

/-- The 64-byte or 128-byte descriptor at sa + IMM. -/
def readDesc (die : Nat) (c : Core) (i : Insn) (n : Nat) : Op Desc := do
  let a := (c.s i.sa + i.immW).toNat
  need (inWin a n) .badDescriptor
  return BitVec.ofNat 1024 (← loadN (spWin die + a) n)

/-- MMA (R94 to R96, R117): a full queue of two products stalls it; a product that fails its checks stops the program,
and one of zero length completes at once. The checks read the flag list and the SIZE of a 2:4 image; an uncorrectable word
there stops the program with its status (R99). -/
def insnMma (die core : Nat) (e : Env) (h : Hw) : Hw :=
  onInsn 0x20 die core (fun _ c i h =>
    if 2 ≤ c.arrayQ.length then h else
    let m : Op (Desc × Nat × List (Nat × Nat × Nat × Nat)) := do
      let d ← readDesc die c i 64
      let rows := if i.sb = 0 then d.fld 4 31 0 else (c.s i.sb).toNat % 2 ^ 32
      return (d, rows, ← (MmaD.of d rows).flagsRead (spWin die) c.replayStep)
    h.insnOp die core m (fun x h =>
      let d := MmaD.of x.1 x.2.1
      let c := { c.next with nextIssue := c.nextIssue + 1 }
      if d.empty && !d.handsOver then h.setCore die core c
      else
        let o : CoreOp := { issue := c.nextIssue - 1, index := c.index - 1, desc := x.1, rows := x.2.1,
                            step := c.replayStep, beat := c.beat, flags := x.2.2 }
        h.setCore die core { c with arrayQ := c.arrayQ ++ [o] })) e h

/-- VOP (R112, R114, R117): a full queue of four operations stalls it. -/
def insnVop (die core : Nat) (e : Env) (h : Hw) : Hw :=
  onInsn 0x21 die core (fun _ c i h =>
    if 4 ≤ c.vectorQ.length then h else
    h.insnOp die core (readDesc die c i 64) (fun d h =>
      let rows := if i.sb = 0 then d.fld 4 31 0 else (c.s i.sb).toNat % 2 ^ 32
      let v := VopD.of d rows
      if !(v.ok c.replayStep) then h.stopAt die core .badDescriptor 0
      else
        let c := { c.next with nextIssue := c.nextIssue + 1 }
        if rows = 0 || v.n = 0 then h.setCore die core c
        else
          let o : CoreOp := { issue := c.nextIssue - 1, index := c.index - 1, desc := d, rows := rows,
                              step := c.replayStep, beat := c.beat }
          h.setCore die core { c with vectorQ := c.vectorQ ++ [o] })) e h

/-- POST (R117, R118): a full queue of eight descriptors stalls it. -/
def insnPost (die core : Nat) (e : Env) (h : Hw) : Hw :=
  onInsn 0x22 die core (fun _ c i h =>
    if i.unit < 4 || 6 < i.unit then h.stopAt die core .badDescriptor 0
    else if 8 ≤ c.posts.length then h else
    h.insnOp die core (readDesc die c i 128) (fun d h =>
      let p : PostRec := { issue := c.nextIssue, index := c.index, unit := i.unit, desc := d, beat := c.beat }
      let c := if i.unit = 4 && d.fld 0 7 0 = 2 && d.fld 0 26 26 = 1
        then c.noteStep (stepped true c.replayStep (d.fld 0 19 16)) else c
      (h.setCore die core { c.next with nextIssue := c.nextIssue + 1, posts := c.posts ++ [p] }).handAll die)) e h

/-- Continue past WAITF or GATE with a value in the destination register. -/
def Hw.released (h : Hw) (die core : Nat) (i : Insn) (count : Nat) : Hw :=
  let c := h.core die core
  h.setCore die core { (c.setS i.sd (BitVec.ofNat 64 count)).next with st := .running }

/-- WAITF as it reads its flag (R107): set, it copies COUNT; unset, it waits. -/
def Hw.tryWaitf (h : Hw) (die core : Nat) (i : Insn) : Hw :=
  let c := h.core die core
  match wordAddr c i with
  | none => h.stopAt die core .badDescriptor 0
  | some a => h.insnOp die core (loadN (spWin die + a) 8) (fun v h =>
      if bits v 31 0 = (c.s i.sb).toNat % 2 ^ 32 then h.released die core i (bits v 63 32)
      else h.setCore die core { c with st := .flagWait, since := if c.st = .flagWait then c.since else h.now })

/-- WAITF (R107). -/
def insnWaitf (die core : Nat) (e : Env) (h : Hw) : Hw :=
  onInsn 0x28 die core (fun _ _ i h => h.tryWaitf die core i) e h

/-- Threshold of a GATE; 0 means 512 (R109). -/
def gateT (i : Insn) : Nat := orElse (bits i.imm 15 0) 512

/-- The flag of a GATE: an offset in the window, 8-byte aligned (R106, R109). R117 names no stop for a GATE whose address
is neither; it stops the program with BAD_DESCRIPTOR as a WAITF does (DESIGN CHOICE, log entry 113). -/
def gateAddr (c : Core) (i : Insn) : Option Nat :=
  let a := (c.s i.sa).toNat
  if a % 8 = 0 && a + 8 ≤ 0x10000000 then some a else none

/-- GATE reads its flag: `last` ends the wait whatever the flag says (R109). -/
def Hw.tryGate (h : Hw) (e : Env) (die core : Nat) (i : Insn) (last : Bool) : Hw :=
  let c := h.core die core
  match gateAddr c i with
  | none => h.stopAt die core .badDescriptor 0
  | some a => h.insnOp die core (loadN (spWin die + a) 8) (fun v h =>
      let hit := bits v 31 0 = (c.s i.sb).toNat % 2 ^ 32
      let f := bits i.imm 23 16
      if (hit && gateT i ≤ bits v 63 32) || last || f = 0 then h.released die core i (if hit then bits v 63 32 else 0)
      else if c.st = .gateWait then h
      else
        let p := (h.partOf die).getD 0
        let dl := h.now + ceilDiv (e.periodOf p * f) 256
        let nb := e.boundaryOf p (h.beatOf e p + 1)
        h.setCore die core { c with st := .gateWait, since := h.now, deadline := Nat.min dl nb })

/-- GATE (R109). -/
def insnGate (die core : Nat) (e : Env) (h : Hw) : Hw :=
  onInsn 0x29 die core (fun e _ i h =>
    if bits i.imm 31 24 ≠ 0 then h.stopAt die core .badDescriptor 0
    else h.tryGate e die core i false) e h

/-- SETF (R117): it waits until the queues are empty, then writes the flag. -/
def insnSetf (die core : Nat) (e : Env) (h : Hw) : Hw :=
  onInsn 0x2A die core (fun _ c i h =>
    match wordAddr c i with
    | none => h.stopAt die core .badDescriptor 0
    | some a => if !c.drained then h else
        h.insnOp die core (storeN (spWin die + a) 8 (c.s i.sb).toNat) (fun _ h => h.setCore die core c.next)) e h

/-- FENCE (R117). -/
def insnFence (die core : Nat) (e : Env) (h : Hw) : Hw :=
  onInsn 0x2B die core (fun _ c i h =>
    if bits i.imm 31 3 ≠ 0 then h.stopAt die core .badDescriptor 0
    else if (bit i.imm 0 && !c.arrayQ.isEmpty) || (bit i.imm 1 && !c.vectorQ.isEmpty)
      || (bit i.imm 2 && !c.posts.isEmpty) then h
    else h.setCore die core c.next) e h

/-- Record a late time of a partition in the beat in hand (R436, R438). -/
def Hw.noteLate (h : Hw) (p t : Nat) : Hw :=
  { h with acct := SMap.upd h.acct {} p (fun a => { a with lateNs := Nat.max a.lateNs t }) }

/-- BEAT (R436). -/
def insnBeat (die core : Nat) (e : Env) (h : Hw) : Hw :=
  onInsn 0x2C die core (fun e c _ h =>
    let p := (h.partOf die).getD 0
    if c.beat + 1 ≤ h.beatOf e p then
      (h.noteLate p (h.now - e.boundaryOf p (c.beat + 1))).setCore die core { c.next with beat := c.beat + 1 }
    else h.setCore die core { c with st := .beatWait, since := h.now }) e h

/-- The local replay causes of a core, as the CAUSE bits of R78. -/
def Core.cause (c : Core) : Nat := b2n c.satEv + 2 * b2n c.nonfinEv + 4 * b2n c.accEv

/-- Bits of either of two numbers below 8. -/
def orCause (a b : Nat) : Nat := (a ||| b) % 8

/-- Cores of a partition that run a program. -/
def Hw.runningCores (h : Hw) (p : Nat) : List (Nat × Nat) :=
  (h.diesOf p).flatMap (fun d => ((upto 4).filter (fun c => (h.core d c).st ≠ .idle)).map (fun c => (d, c)))

/-- Every running program of a partition waits at a replay point (R72). -/
def Hw.allAtReplay (h : Hw) (p : Nat) : Bool :=
  let l := h.runningCores p
  !l.isEmpty && l.all (fun x => (h.core x.1 x.2).st = .replayWait)

/-- The replay causes of a partition: those of its cores and of work no tile program posted (R72, R170). -/
def Hw.partCause (h : Hw) (p : Nat) : Nat :=
  (h.runningCores p).foldl (fun a x => orCause a (h.core x.1 x.2).cause) (SMap.get h.replayEv 0 p)

/-- The narrowest stepped format of a partition's attempt. -/
def Hw.partStep (h : Hw) (p : Nat) : Option Nat :=
  (h.runningCores p).foldl (fun a x => match a, (h.core x.1 x.2).stepFmt with
    | some f, some g => some (if fmtRank g < fmtRank f then g else f)
    | none, g => g
    | f, none => f) none

/-- One core's part of a decision: continue, or run its unit again (R120). The watch counts of a replayed attempt are
dropped, those of a final attempt kept (R79, R167). -/
def Hw.decideCore (h : Hw) (again : Bool) (die core : Nat) : Hw :=
  let h := if again then h else h.flushSkiver die core
  let c := h.core die core
  let clean := { c with
    st := .running, satEv := false, nonfinEv := false, accEv := false, watch := [],
    stepFmt := none, skvTiles := 0, skvRaw := 0, skvSaved := 0, skvPruned := 0 }
  if again then
    h.setCore die core { clean with
      replayStep := c.replayStep + 1, regs := c.unitRegs, index := c.unitStart, replayed := true }
  else
    let h := { h with watch := addWatch h.watch c.watch }
    h.setCore die core { clean with
      replayStep := 0, index := c.index + 1, unitStart := c.index + 1, unitRegs := c.regs }

/-- The body of a REPLAY event (R78). -/
def replayBody (unit cause attempt fromF toF eoc beat : Nat) : List Byte :=
  toBytes 4 unit ++ toBytes 1 cause ++ toBytes 1 attempt ++ toBytes 1 (fromF + 16 * toF) ++ toBytes 1 eoc
    ++ toBytes 8 beat

/-- The decision of R72 reaches a partition's replay point: every waiting program continues or replays (R73, R74,
R77, R78, R120). In a record with END_OF_CHAIN 1, which makes no replay, ATTEMPT is the number of replays made (DESIGN
CHOICE, log entry 111). -/
def Hw.replayDecision (h : Hw) (e : Env) (p : Nat) (flag : Bool) : Hw :=
  let l := h.runningCores p
  let cause := h.partCause p
  let sf := h.partStep p
  let done := sf.isNone || sf = some 0
  let (d0, c0) := l.headD (0, 0)
  let c := h.core d0 c0
  let unit := (Insn.of (h.progWord d0 c0 c.index)).imm
  let beatT := e.boundaryOf p (h.beatOf e p)
  let again := flag && !done
  let h := if flag then
      let f := sf.getD 0
      let h := h.raise 0x01 (some p) (h.coord d0 c0)
        (replayBody unit cause (if again then c.replayStep + 1 else c.replayStep) f
          (if again then ((Fmt.ofCode f).map (fun x => x.chainNext.code)).getD 0 else f) (b2n (!again)) beatT)
      if again then h.incSat Reg.numReplayCountReplays pkgB 0 1 else h.incSat Reg.numReplayCountEndOfChain pkgB 0 1
    else h
  let h := { h with replayEv := SMap.put h.replayEv p 0 }
  l.foldl (fun h x => h.decideCore again x.1 x.2) h

/-- HALT (R117, R119, R437): once all queues are empty the program completes with its exit code. -/
def insnHalt (die core : Nat) (e : Env) (h : Hw) : Hw :=
  onInsn 0x01 die core (fun e c i h =>
    if !c.drained then h else
    let late := c.late || h.lateStatus e (h.partOf die) (some c.beat) Status.ok = Status.okLate
    let st : Status := if late then .okLate else if c.replayed then .okReplayed else .ok
    h.endProgram die core ⟨st, i.imm, c.index⟩) e h

/-- NOP (R117). -/
def insnNop (die core : Nat) (e : Env) (h : Hw) : Hw :=
  onInsn 0x00 die core (fun _ c _ h => h.setCore die core c.next) e h

/-- A word of the program store or of the register file that a core reads to issue fails its check: the program stops, and
the record's ADDR is the core's program store, since a register has no address of its own (R516, R520, R522; DESIGN
CHOICE, log entry 134). A failing register is written anew by the launch that follows. -/
def Hw.issueFail (h : Hw) (die core : Nat) : Hw :=
  let a := 0xF00000000000 + rkey die core (0x80000 + 8 * (h.core die core).index)
  let (d, h) := { h with badSites := h.badSites.filter (fun x => x ≠ Site.file die core 0) }.coreFail die core (.ecc a)
  h.stopAt die core d.st d.value

/-- A reserved OPC, a non-zero reserved field or an index outside the store (R119), or an instruction that cannot be
read. -/
def insnReserved (die core : Nat) (e : Env) (h : Hw) : Hw :=
  let c := h.core die core
  if c.st = .running && h.dieOn e die && core < 4 && (h.insn? e die core).isNone
  then (if c.index < 4096 && h.issueBad die core then h.issueFail die core else h.stopAt die core .badDescriptor 0) else h

/-- A launch whose partition's timeline is ARMED is held (R431); the clear of its die makes it wait (R133). -/
def Hw.launchHeld (h : Hw) (e : Env) (die : Nat) : Bool :=
  (match h.partOf die with
   | some p => (e.tl.part p).st = .armed
   | none => true) || (SMap.find? h.clears die).isSome

/-- Start the first waiting launch of an idle core with a beat in hand (R115, R436). -/
def Hw.startLaunch (h : Hw) (die core beat : Nat) : Hw :=
  let c := h.core die core
  match c.st, c.launches with
  | .idle, l :: ls =>
    let regs := l.args.zipIdx.foldl (fun (m : SMap Word) p => SMap.putD 0 m (p.2 + 1) p.1) []
    h.setCore die core { c with
      st := .running, index := l.start, regs := regs, unitStart := l.start, unitRegs := regs, replayStep := 0,
      launches := ls, cur := some l, satEv := false, nonfinEv := false, accEv := false, replayed := false,
      late := false, fail := none, nextIssue := 0, beat := beat, watch := [], stepFmt := none,
      skvTiles := 0, skvRaw := 0, skvSaved := 0, skvPruned := 0 }
  | _, _ => h

/-- LAUNCH (R115, R476): the next waiting launch of an idle core starts, unless it is held. -/
def launch (die core : Nat) (e : Env) (h : Hw) : Hw :=
  if h.dieOn e die && core < 4 && !(h.launchHeld e die) then
    h.startLaunch die core (h.beatOf e ((h.partOf die).getD 0))
  else h

/-- A launch descriptor reaches a core (R476): its reserved fields are checked, and it waits its turn. -/
def Hw.acceptLaunch (h : Hw) (die core : Nat) (d : Desc) (o : Origin) (part : Option Nat) : Hw :=
  if d.fld 0 7 0 ≠ 1 || d.fld 0 31 8 ≠ 0 || d.fld 4 31 12 ≠ 0 || d.fld 0x48 447 0 ≠ 0 then
    h.complete o ⟨.badDescriptor, 0, 0⟩
  else
    let c := h.core die core
    h.setCore die core { c with launches := c.launches ++
      [⟨d.fld 4 11 0, (upto 8).map (fun k => BitVec.ofNat 64 (d.fld (8 + 8 * k) 63 0)), o, part⟩] }

/-- A waiting WAITF or GATE reads its flag again (R107, R109). -/
def Hw.recheckCore (h : Hw) (e : Env) (die core : Nat) : Hw :=
  let c := h.core die core
  let i := Insn.of (h.progWord die core c.index)
  match c.st with
  | .flagWait => h.tryWaitf die core i
  | .gateWait => h.tryGate e die core i false
  | _ => h

/-- The flag that a product parked at the head of the array queue waits for is unset (R108). -/
def Hw.streamWaits (h : Hw) (die : Nat) (o : CoreOp) : Bool :=
  let d := MmaD.of o.desc o.rows
  match o.run with
  | some r => d.stream && r.passes < ceilDiv d.k d.tileK && !r.swapped &&
      (match o.flags.find? (fun x => x.2.2.1 ≤ d.tileK * r.passes && d.tileK * r.passes < x.2.2.1 + x.2.2.2) with
       | some x => (h.flagAt (spWin die + x.1) x.2.1).isNone
       | none => false)
  | none => false

/-- A product at the head of the array queue waits for its ROUTE or for a flag (R108, R172). -/
def Hw.headWaits (h : Hw) (die core : Nat) (o : CoreOp) : Bool :=
  o.since ≠ 0 && (h.streamWaits die o ||
    ((MmaD.of o.desc o.rows).toDispatch && o.handed.isNone && (h.feedRoute die core).isNone))

/-- A streaming product at the head of the queue reads its flag again; found set, it no longer waits (R93, R108). -/
def Hw.recheckStream (h : Hw) (die core : Nat) : Hw :=
  let c := h.core die core
  match c.arrayQ with
  | o :: l => if (MmaD.of o.desc o.rows).stream && o.run.isSome && !(h.streamWaits die o)
      then h.setCore die core { c with arrayQ := { o with since := 0 } :: l } else h
  | [] => h

/-- GATE_DEADLINE (R109): the counter reaches the deadline, and the gate releases. -/
def gateDeadline (die core : Nat) (e : Env) (h : Hw) : Hw :=
  let c := h.core die core
  if c.st = .gateWait then
    (h.reach c.deadline).tryGate e die core (Insn.of (h.progWord die core c.index)) true
  else h

/-- A WAITF whose flag is unset, with when its wait began. -/
def Hw.waitfSince (h : Hw) (die core : Nat) : Option Nat :=
  let c := h.core die core
  let i := Insn.of (h.progWord die core c.index)
  if c.st = .flagWait && (match wordAddr c i with
      | some a => (h.flagAt (spWin die + a) (c.s i.sb).toNat).isNone
      | none => false)
  then some c.since else none

/-- CORE_FLAG_TIMEOUT (R107, R108, R172): the wait that began first ends: that of a WAITF, which stops the program with
TIMEOUT, or that of the product at the head of the array queue for a flag or for its ROUTE, which completes with TIMEOUT. -/
def coreFlagTimeout (die core : Nat) (e : Env) (h : Hw) : Hw :=
  let t := h.rf Reg.coreCtrlFlagTimeout (rkey die core 0)
  let product := match (h.core die core).arrayQ with
    | o :: _ => if h.headWaits die core o then some o else none
    | [] => none
  if t = 0 then h
  else match h.waitfSince die core, product with
    | some s, some o =>
      if s ≤ o.since - 1 then (h.reach (s + t * 1000)).stopAt die core .timeout 0
      else (h.reach (o.since - 1 + t * 1000)).failArray e die core o {} (.st .timeout)
    | some s, none => (h.reach (s + t * 1000)).stopAt die core .timeout 0
    | none, some o => (h.reach (o.since - 1 + t * 1000)).failArray e die core o {} (.st .timeout)
    | none, none => h

/-- A product has started: it has handed over, or has read its mask (R100, R172). -/
def CoreOp.started (o : CoreOp) : Bool := o.handed.isSome || o.run.isSome

/-- Stop the program of a core with ABORTED: queued operations that have not started are discarded; a product that has,
and descriptors already handed to their targets, run to their end (R119). -/
def Hw.abortCore (h : Hw) (die core : Nat) : Hw :=
  let c := h.core die core
  if c.st = .idle then h else
  (h.setCore die core { c.keepOps CoreOp.started with
    st := .stopping, vectorQ := [], posts := c.posts.filter (·.handed)
    fail := some ⟨0, .aborted, c.index, 0⟩ }).settle die core

/-- CORE_CTRL_ABORT (R119). -/
def coreAbort (die core : Nat) (e : Env) (h : Hw) : Hw :=
  if h.dieOn e die && core < 4 then h.abortCore die core else h

/-- At a boundary, cores of a partition that wait in BEAT for it go on, and gates end with the beat (R109, R436). -/
def Hw.boundaryCores (h : Hw) (e : Env) (p : Nat) : Hw :=
  (h.runningCores p).foldl (fun h x =>
    let c := h.core x.1 x.2
    match c.st with
    | .beatWait => if c.beat + 1 ≤ h.beatOf e p
        then h.setCore x.1 x.2 { c.next with st := .running, beat := c.beat + 1 } else h
    | .gateWait => if c.deadline ≤ h.now
        then h.tryGate e x.1 x.2 (Insn.of (h.progWord x.1 x.2 c.index)) true else h
    | _ => h) h

/-- LAUNCH (R115, R476). -/
def execLaunch (die core : Nat) (s : State) : Host.Outcome State Fault Refusal :=
  onHw (launch die core) s

/-- NOP (R117). -/
def execNop (die core : Nat) (s : State) : Host.Outcome State Fault Refusal :=
  onHw (insnNop die core) s

/-- HALT (R117, R119). -/
def execHalt (die core : Nat) (s : State) : Host.Outcome State Fault Refusal :=
  onHw (insnHalt die core) s

/-- LDI (R117). -/
def execLdi (die core : Nat) (s : State) : Host.Outcome State Fault Refusal :=
  onHw (alu 0x02 ldiVal die core) s

/-- LDIH (R117). -/
def execLdih (die core : Nat) (s : State) : Host.Outcome State Fault Refusal :=
  onHw (alu 0x03 ldihVal die core) s

/-- ADD (R117). -/
def execAdd (die core : Nat) (s : State) : Host.Outcome State Fault Refusal :=
  onHw (alu 0x04 addVal die core) s

/-- SUB (R117). -/
def execSub (die core : Nat) (s : State) : Host.Outcome State Fault Refusal :=
  onHw (alu 0x05 subVal die core) s

/-- AND (R117). -/
def execAnd (die core : Nat) (s : State) : Host.Outcome State Fault Refusal :=
  onHw (alu 0x06 andVal die core) s

/-- OR (R117). -/
def execOr (die core : Nat) (s : State) : Host.Outcome State Fault Refusal :=
  onHw (alu 0x07 orVal die core) s

/-- SHL (R117). -/
def execShl (die core : Nat) (s : State) : Host.Outcome State Fault Refusal :=
  onHw (alu 0x08 shlVal die core) s

/-- SHR (R117). -/
def execShr (die core : Nat) (s : State) : Host.Outcome State Fault Refusal :=
  onHw (alu 0x09 shrVal die core) s

/-- LD (R117). -/
def execLd (die core : Nat) (s : State) : Host.Outcome State Fault Refusal :=
  onHw (insnLd die core) s

/-- ST (R117). -/
def execSt (die core : Nat) (s : State) : Host.Outcome State Fault Refusal :=
  onHw (insnSt die core) s

/-- BEQ (R117). -/
def execBeq (die core : Nat) (s : State) : Host.Outcome State Fault Refusal :=
  onHw (branch 0x10 (fun c i => c.s i.sa = c.s i.sb) die core) s

/-- BNE (R117). -/
def execBne (die core : Nat) (s : State) : Host.Outcome State Fault Refusal :=
  onHw (branch 0x11 (fun c i => c.s i.sa ≠ c.s i.sb) die core) s

/-- BLTU (R117). -/
def execBltu (die core : Nat) (s : State) : Host.Outcome State Fault Refusal :=
  onHw (branch 0x12 (fun c i => (c.s i.sa).toNat < (c.s i.sb).toNat) die core) s

/-- JMP (R117). -/
def execJmp (die core : Nat) (s : State) : Host.Outcome State Fault Refusal :=
  onHw (branch 0x13 (fun _ _ => true) die core) s

/-- MMA (R94, R117). -/
def execMma (die core : Nat) (s : State) : Host.Outcome State Fault Refusal :=
  onHw (insnMma die core) s

/-- VOP (R112, R117). -/
def execVop (die core : Nat) (s : State) : Host.Outcome State Fault Refusal :=
  onHw (insnVop die core) s

/-- POST (R117, R118). -/
def execPost (die core : Nat) (s : State) : Host.Outcome State Fault Refusal :=
  onHw (insnPost die core) s

/-- WAITF (R107). -/
def execWaitf (die core : Nat) (s : State) : Host.Outcome State Fault Refusal :=
  onHw (insnWaitf die core) s

/-- GATE (R109). -/
def execGate (die core : Nat) (s : State) : Host.Outcome State Fault Refusal :=
  onHw (insnGate die core) s

/-- SETF (R117). -/
def execSetf (die core : Nat) (s : State) : Host.Outcome State Fault Refusal :=
  onHw (insnSetf die core) s

/-- FENCE (R117). -/
def execFence (die core : Nat) (s : State) : Host.Outcome State Fault Refusal :=
  onHw (insnFence die core) s

/-- BEAT (R436). -/
def execBeat (die core : Nat) (s : State) : Host.Outcome State Fault Refusal :=
  onHw (insnBeat die core) s

/-- RESERVED_OPC (R119). -/
def execReservedOpc (die core : Nat) (s : State) : Host.Outcome State Fault Refusal :=
  onHw (insnReserved die core) s

/-- GATE_DEADLINE (R109). -/
def execGateDeadline (die core : Nat) (s : State) : Host.Outcome State Fault Refusal :=
  onHw (gateDeadline die core) s

/-- CORE_FLAG_TIMEOUT (R107). -/
def execCoreFlagTimeout (die core : Nat) (s : State) : Host.Outcome State Fault Refusal :=
  onHw (coreFlagTimeout die core) s

/-- CORE_CTRL_ABORT (R119). -/
def execCoreCtrlAbort (die core : Nat) (s : State) : Host.Outcome State Fault Refusal :=
  onHw (coreAbort die core) s

end Sys2Proof.Machine
end

