-- ==== Sys2Proof/Machine/Collective.lean ====
section
/-! DEFINITION. Collectives at the dispatch engines (R346 to R357): the COLL descriptor, reductions in switch form and
in endpoint form, moving collectives, bundles, failures, and the epochs of groups. -/

namespace Sys2Proof.Machine

/-! The descriptor (R346 to R348, R355). -/

/-- A COLL descriptor. -/
structure CollD where
  op : Nat
  flag : Bool
  zero : Bool
  pieces : Bool
  gkey : Nat
  count : Nat
  root : Nat
  src : Nat
  dst : Nat
  rowBytes : Nat
  srcStride : Nat
  dstStride : Nat
  band : Nat
  pflags : Nat
  ptag : Nat
  flagAddr : Nat
  tag : Nat
  clean : Bool
  deriving DecidableEq, Repr

/-- Fields of a COLL (R346). -/
def CollD.of (d : Desc) : CollD :=
  { op := d.fld 0 7 0, flag := d.fld 0 8 8 = 1, zero := d.fld 0 9 9 = 1, pieces := d.fld 0 10 10 = 1
    gkey := d.fld 4 15 0, count := d.fld 8 31 0, root := d.fld 0x0C 31 0, src := d.fld 0x10 63 0
    dst := d.fld 0x18 63 0, rowBytes := d.fld 0x20 31 0, srcStride := d.fld 0x24 31 0, dstStride := d.fld 0x28 31 0
    band := d.fld 0x2C 31 0, pflags := d.fld 0x30 31 0, ptag := d.fld 0x34 31 0, flagAddr := d.fld 0x38 31 0
    tag := d.fld 0x3C 31 0
    clean := d.fld 0 31 11 = 0 && d.fld 4 31 16 = 0 && d.fld 0x40 511 0 = 0 }

/-- No reserved field, and no field that OP and the flags leave unused, is set; flags lie in the window (R347). -/
def CollD.ok (c : CollD) : Bool :=
  let noStride := c.rowBytes = 0 && c.srcStride = 0 && c.dstStride = 0 && c.band = 0
  let flagOk (a n : Nat) : Bool := a % 8 = 0 && a + 8 * n ≤ 0x10000000
  c.clean && (if c.flag then flagOk c.flagAddr 1 else c.flagAddr = 0 && c.tag = 0)
    && (if c.pieces then c.op = 0x12 && flagOk c.pflags 1 else c.pflags = 0 && c.ptag = 0)
    && (!c.zero || ((c.op = 0x10 || c.op = 0x11) && c.src = 0))
    && (c.op = 0x11 || c.op = 0x13 || c.root = 0)
    && (c.op = 0x12 || noStride)
    && (c.op ≠ 0x14 || (c.dst = 0 && c.count ≤ 64))

/-- The signature of a collective (R337): `x` and `y` are the fields at 0x08 and 0x14. -/
def Group.sig (g : Group) (key opseq op count x y : Nat) : Nat :=
  let c := g.fmts opseq
  crc64 (toBytes 1 op ++ toBytes 1 (if g.move then 0 else c.red)
    ++ toBytes 1 (if g.move then 0 else c.inF.code + 16 * c.outF.code) ++ toBytes 1 (b2n g.move) ++ toBytes 4 count
    ++ toBytes 4 x ++ toBytes 4 opseq ++ toBytes 2 key ++ toBytes 1 g.degree ++ toBytes 1 g.levels ++ toBytes 4 y
    ++ toBytes 8 g.digest ++ rep 8 0)

/-- An extent of this node that a COLL names, as a local offset (R38, R40, R347). -/
def Hw.collLoc (h : Hw) (e : Env) (a n : Nat) : Except Status Nat :=
  if n = 0 then (if h.addrOk e a then .ok 0 else .error .badDescriptor)
  else match h.resolveMem e true a n with
    | .ok (.here off) => .ok off
    | .ok _ => .error .badDescriptor
    | .error s => .error s

/-- The same, within an operation. -/
def collExt (e : Env) (a n : Nat) : Op Nat := do
  match (← get).collLoc e a n with
  | .ok off => pure off
  | .error s => failSt s

/-- The run of a reduction's vector: its chunks, one at least (R335, R348). -/
def collChunks (c : CollFmt) (total : Nat) : Nat := Nat.max 1 (ceilDiv total c.elems)

/-- Decode an ALLREDUCE or a REDUCE. -/
def decodeReduce (e : Env) (g : Group) (c : CollD) (f : CollFmt) (own : Nat) (r : CollRun) : Op CollRun := do
  let here := c.op = 0x10 || c.root = own
  need (c.op = 0x10 || g.ends.contains c.root) .badDescriptor
  need (here || c.dst = 0) .badDescriptor
  let nin := c.count * f.inF.bytes
  let nout := c.count * f.outF.bytes
  let s ← if c.zero then pure 0 else collExt e c.src nin
  let d ← if here then collExt e c.dst nout else pure 0
  need (c.zero || !here || !(extOverlap s nin d nout) || (c.op = 0x10 && s = d && nin = nout)) .badDescriptor
  let ent : CollEnt := { elems := c.count, src := if c.zero then none else some s, dst := if here then some d else none }
  return { r with chunks := collChunks f c.count, ents := if c.count = 0 then [] else [ent] }

/-- The entries of a bundle's table (R355). -/
def readBundle (e : Env) (f : CollFmt) (c : CollD) : Op (List (CollEnt × Nat × Nat)) := do
  let a ← collExt e c.src (32 * c.count)
  let bs ← if c.count = 0 then pure [] else loadB a (32 * c.count)
  (upto c.count).mapM (fun i => do
    let b := (bs.drop (32 * i)).take 32
    let n := pay b 16 4
    let z := bit (pay b 20 4) 0
    need (bits (pay b 20 4) 31 1 = 0 && pay b 24 8 = 0 && (!z || pay b 0 8 = 0)) .badDescriptor
    let s ← if z then pure 0 else collExt e (pay b 0 8) (n * f.inF.bytes)
    let d ← collExt e (pay b 8 8) (n * f.outF.bytes)
    return (({ elems := n, src := if z then none else some s, dst := some d } : CollEnt), s, d))

/-- Decode a BUNDLE (R355): its signature carries the check of the ECOUNT words. -/
def decodeBundle (e : Env) (g : Group) (c : CollD) (f : CollFmt) (r : CollRun) : Op CollRun := do
  let l ← readBundle e f c
  let total := (l.map (fun x => x.1.elems)).sum
  need (total ≤ 2 * f.elems) .badDescriptor
  let outs := l.map (fun x => (x.2.2, x.1.elems * f.outF.bytes))
  let ins := l.map (fun x => (x.2.1, if x.1.src.isSome then x.1.elems * f.inF.bytes else 0))
  need (disjointExt outs && outs.all (fun o => ins.all (fun i => !extOverlap o.1 o.2 i.1 i.2))) .badDescriptor
  let y := crc32c (l.flatMap (fun x => toBytes 4 x.1.elems))
  return { r with
    chunks := collChunks f total, ents := (l.map (fun x => x.1)).filter (fun x => x.elems ≠ 0)
    sig := g.sig c.gkey r.opseq c.op c.count 0 y }

/-- Decode an ALLGATHER (R347, R353). -/
def decodeGather (e : Env) (g : Group) (c : CollD) (r : CollRun) : Op CollRun := do
  let n := g.ends.length
  need (n * c.rowBytes ≤ c.dstStride && (c.band = 0 || c.rowBytes % c.band = 0)) .badDescriptor
  let flags := n * (if c.band = 0 then 1 else c.rowBytes / c.band)
  need (!c.pieces || c.pflags + 8 * flags ≤ 0x10000000) .badDescriptor
  let empty := c.count = 0 || c.rowBytes = 0
  let ns := if empty then 0 else (c.count - 1) * c.srcStride + c.rowBytes
  let nd := if empty then 0 else (c.count - 1) * c.dstStride + n * c.rowBytes
  let s ← collExt e c.src ns
  let d ← collExt e c.dst nd
  need (!(extOverlap s ns d nd)) .badDescriptor
  return { r with
    rows := c.count, rowBytes := c.rowBytes, band := c.band, src := s, srcStride := c.srcStride, dst := d
    dstStride := c.dstStride, chunks := ceilDiv (c.count * c.rowBytes) 4032
    pieces := if c.pieces then some (spWin r.die + c.pflags, c.ptag) else none }

/-- Decode a BROADCAST (R354). SRC is well formed and names this node at every member, though ROOT alone reads it (R347). -/
def decodeBroadcast (e : Env) (g : Group) (c : CollD) (own : Nat) (r : CollRun) : Op CollRun := do
  need (g.ends.contains c.root) .badDescriptor
  let h ← get
  need ((match h.collLoc e c.src c.count with | .error s => s ≠ .badDescriptor | .ok _ => true)) .badDescriptor
  let s ← if own = c.root then collExt e c.src c.count else pure 0
  let d ← collExt e c.dst c.count
  need (own ≠ c.root || !(extOverlap s c.count d c.count)) .badDescriptor
  return { r with
    rows := 1, rowBytes := c.count, src := s, srcStride := c.count, dst := d, dstStride := c.count
    chunks := ceilDiv c.count 4032, from_ := some (g.ends.findIdx (fun x => x = c.root)) }

/-- Decode a COLL of a recorded group whose form is known. -/
def decodeColl (e : Env) (g : Group) (c : CollD) (die own : Nat) (a : GMember) (tag : Nat) : Op CollRun := do
  need (c.ok && (if c.op = 0x12 || c.op = 0x13 then g.move else !g.move)) .badDescriptor
  let h ← get
  let f := g.fmts 1
  let x := if c.op = 0x12 then c.rowBytes else c.root
  let r : CollRun := { die := die, gkey := c.gkey, opseq := a.opseq, tag := some tag, chunks := 0, since := h.now
                       sig := g.sig c.gkey a.opseq c.op c.count x (if c.op = 0x12 then c.band else 0) }
  if c.op = 0x12 then decodeGather e g c r else if c.op = 0x13 then decodeBroadcast e g c own r
  else if c.op = 0x14 then decodeBundle e g c f r else decodeReduce e g c f own r

/-! Runs. -/

/-- A run, by its agent and sequence. -/
def Hw.run? (h : Hw) (die key seq : Nat) : Option CollRun :=
  h.colls.find? (fun r => r.die = die && r.gkey = key && r.opseq = seq)
def CollRun.same (a b : CollRun) : Bool := a.die = b.die && a.gkey = b.gkey && a.opseq = b.opseq
def Hw.putRun (h : Hw) (r : CollRun) : Hw := { h with colls := h.colls.map (fun q => if q.same r then r else q) }

/-- A member agent of a group. -/
def Group.agent (g : Group) (die : Nat) : GMember := (g.agents.find? (fun a => a.die = die)).getD ⟨die, 0, 0, [0, 0], true, none⟩
def Hw.setAgent (h : Hw) (key : Nat) (a : GMember) : Hw :=
  match h.group key with
  | some g => h.setGroup key { g with agents := g.agents.map (fun b => if b.die = a.die then a else b) }
  | none => h

/-- What the agent of a die hosts in a tree. -/
def Group.hostAt (g : Group) (die t : Nat) : Option GHost := g.hosts.find? (fun x => cDie x.host = die && x.tree = t)

/-- The owner of a run's frames. -/
def CollRun.owner (r : CollRun) : Owner := match r.tag with | some t => .job r.die 4 t | none => .free

/-- Send a chunk of a run (R349): frames to F-die units carry PTAG 0, others the partition tag. -/
def Hw.collSend (h : Hw) (g : Group) (r : CollRun) (cls dst arg : Nat) (payload : List Byte) : Hw :=
  (h.send { typ := 9, cls := cls, part := if onFdie dst then none else some g.part, src := h.coord r.die 4, dst := dst
            arg := arg, payload := granules payload, owner := r.owner }).inc Reg.deCollCntSent (rkey r.die 4 0) 0 1

/-- The chunk number of chunk `i` on its tree (R335). -/
def Group.chunkNo (g : Group) (die i : Nat) : Nat := (g.agent die).base.getD (i % 2) 0 + i / 2

/-- Pass a payload to a host's own multicast entry. -/
def Hw.collDown (h : Hw) (g : Group) (r : CollRun) (x : GHost) (cls chunk : Nat) (payload : List Byte) : Hw :=
  match x.entry with
  | some (die, i) => h.collSend g r cls (h.coord die 9) (collArg i r.gkey chunk) payload
  | none => h

/-- An agent that hosts children, and is not the top root, passes on what it receives (R349, R352). -/
def Hw.collForward (h : Hw) (g : Group) (r : CollRun) (f : Frame) (t : Nat) : Hw :=
  match g.hostAt r.die t with
  | some x => if x.parent.isSome then h.collDown g r x (Frame.cls f) (Frame.chunk f) f.payload else h
  | none => h

/-- The preamble of an agent's own chunk (R336). -/
def Hw.ownPre (h : Hw) (g : Group) (r : CollRun) (i role : Nat) : Pre :=
  { sig := r.sig, opseq := r.opseq, idx := i, role := role, tree := i % 2
    level := ((g.hostAt r.die (i % 2)).map (fun x => x.level)).getD 0, origin := h.coord r.die 4
    rank := if g.move then (g.agent r.die).rank else 0 }

/-! Contributions and results of a reduction. -/

/-- The slices of the packed vector between two elements: the stretch, the offset in it, and the number. -/
def entSlices (lo hi : Nat) : List CollEnt → Nat → List (CollEnt × Nat × Nat)
  | [], _ => []
  | x :: l, s =>
    let a := Nat.max lo s
    let b := Nat.min hi (s + x.elems)
    if a < b then (x, a - s, b - a) :: entSlices lo hi l (s + x.elems) else entSlices lo hi l (s + x.elems)

/-- The bytes an agent contributes to a chunk, zeros beyond the vector (R335, R349). -/
def CollRun.contribution (r : CollRun) (f : CollFmt) (i : Nat) : Op (List Byte) := do
  let w := f.inF.bytes
  let n := f.elems
  let bs ← if r.tag.isNone then pure [toBytes 4 r.value] else
    (entSlices (i * n) (i * n + n) r.ents 0).mapM (fun x => match x.1.src with
      | some a => loadB (a + x.2.1 * w) (x.2.2 * w)
      | none => pure (rep (x.2.2 * w) 0))
  let b := bs.flatten
  return granules (b ++ rep (n * w - b.length) 0)

/-- Write a result chunk to its stretches. -/
def CollRun.writeChunk (r : CollRun) (f : CollFmt) (i : Nat) (data : List Byte) : Op Unit := do
  let w := f.outF.bytes
  let n := f.elems
  let _ ← (entSlices (i * n) (i * n + n) r.ents 0).foldlM (fun (k : Nat) x => do
    match x.1.dst with
    | some a => storeB (a + x.2.1 * w) ((data.drop (k * w)).take (x.2.2 * w))
    | none => pure ()
    return k + x.2.2) 0
  pure ()

/-- A value a node reduces: its preamble and its elements in the carry format. -/
abbrev Partial := Pre × List Nat

/-- Elements of a payload's data, converted exactly to the carry format (R332). -/
def laneData (lane f : Fmt) (n : Nat) (data : List Byte) : List Nat :=
  (upto n).map (fun k =>
    let v := pay data (k * f.bytes) f.bytes
    if lane.isFloat then encodeRounded lane (roundTo lane (decodeFloat f v)) else v)

/-- One operation of a reduction, on carry-format bits (R332). -/
def CollFmt.op (c : CollFmt) (a b : Nat) : Nat :=
  if c.red = 0 then laneAdd c.lane a b else if c.red = 1 then laneMax c.lane a b else laneMin c.lane a b

/-- The conversion of a node's result to the format it leaves in (R332, R334). -/
def convLanes (lane f : Fmt) (l : List Nat) : List Nat × Counts :=
  if lane.isFloat then
    let cs := l.map (fun v => convFloat f .rne (decodeFloat lane v))
    (cs.map (fun x => x.1), cs.foldl (fun (a : Counts) x => a.add x.2) {})
  else (l, {})

/-- A node in endpoint form: the checks of R338 and the fold of R332. `sizes` tells which inputs have their size. -/
def foldNode (c : CollFmt) (out : Fmt) (top : Bool) (ins : List Partial) (sizes : List Bool) (srcs : List Nat) : Partial :=
  let pres := ins.map (fun x => x.1)
  match checkInputs pres sizes srcs with
  | some (code, off) => ({ (outPre pres {} top) with status := code, offender := off }, rep c.elems 0)
  | none =>
    let sum := match ins with
      | [] => []
      | x :: l => l.foldl (fun (a : List Nat) y => (a.zip y.2).map (fun (p : Nat × Nat) => c.op p.1 p.2)) x.2
    let r := convLanes c.lane out sum
    (outPre pres r.2 top, r.1)

/-- The chain of an endpoint's nodes in a tree, deepest first, over the chunks staged for them: what leaves it, and in
which format. -/
def chainFold (c : CollFmt) (x : GHost) (own : Partial) (staged : Nat → Option Frame) : Partial × Fmt :=
  if x.nodes.isEmpty then (foldNode c c.outF true [own] [true] [], c.outF)
  else
    let n := x.nodes.length
    let r := x.nodes.zipIdx.foldl (fun (a : Partial) (q : GNode × Nat) =>
      let top := x.parent.isNone && q.2 + 1 = n
      let kids := q.1.kids.map (fun (k : Nat × Bool) =>
        let f := if k.2 then c.inF else c.lane
        match staged k.1 with
        | some fr => ((Pre.of fr.payload, laneData c.lane f c.elems (fr.payload.drop 64)),
            decide (fr.payload.length = 64 + 64 * ceilDiv (c.elems * f.bytes) 64))
        | none => (({}, []), false))
      let b := foldNode c (if top then c.outF else c.lane) top (a :: kids.map (fun z => z.1)) (true :: kids.map (fun z => z.2))
        (x.host :: q.1.kids.map (fun k => k.1))
      ({ b.1 with tree := x.tree, level := q.1.level }, b.2)) own
    (r, if x.parent.isNone then c.outF else c.lane)

/-- The bytes of a partial. -/
def Partial.bytes (x : Partial) (f : Fmt) : List Byte := Pre.bytes x.1 ++ granules (x.2.flatMap (fun v => toBytes f.bytes v))

/-- Where an agent sends its chunks of a tree in switch form: the SOURCE and CTX it learned at set-up (R349). -/
def GHost.feed (x : GHost) (h : Hw) : Option (Nat × Nat) :=
  match (x.nodes.filterMap (fun n => n.ctx)).head? with
  | some k => some (h.ctxCoord k, k.2.2)
  | none => x.down

/-- A run's chunk leaves in switch form. -/
def Group.switched (g : Group) (r : CollRun) (x : GHost) : Bool :=
  !g.move && g.form = some 0 && r.opseq ≠ 0 && (x.parent.isSome || x.nodes.any (fun n => n.ctx.isSome))

/-- Read the contribution to a chunk; an uncorrectable word is recorded and becomes the chunk's STATUS (R357). -/
def Hw.readContribution (h : Hw) (g : Group) (r : CollRun) (i : Nat) : Option (CollRun × Pre × List Byte × Hw) :=
  let f := g.fmts r.opseq
  let p := h.ownPre g r i roleContrib
  match runOp (r.contribution f i) h with
  | (.error .held, _) => none
  | (.error x, h) =>
    let d := h.failDone 0 (some g.part) (h.coord r.die 4) x
    some ({ r with ecc := some (r.ecc.getD d.1.value) }, { p with status := d.1.st.code },
      rep (64 * ceilDiv (f.elems * f.inF.bytes) 64) 0, d.2)
  | (.ok bs, h) => some (r, p, bs, h)

/-- Send or fold one chunk of a reduction, where everything it needs is there (R349, R350). -/
def Hw.collChunk (h : Hw) (g : Group) (r : CollRun) (i : Nat) : CollRun × Hw :=
  match g.hostAt r.die (i % 2) with
  | none => (r, h)
  | some x =>
    let no := g.chunkNo r.die i
    let staged (k : Nat) : Option Frame := (r.staged.find? (fun s => s.1 = i && s.2.1 = k)).map (fun s => s.2.2)
    let direct := g.switched r x
    if r.sent.contains i || (!direct && x.kids.any (fun k => (staged k.1).isNone)) then (r, h)
    else match h.readContribution g r i with
      | none => (r, h)
      | some (r, p, bs, h) =>
        let done := { r with sent := r.sent ++ [i] }
        if direct then
          match x.feed h with
          | some (dst, ctx) => (done, h.collSend g r 1 dst (collArg ctx r.gkey no) (p.bytes ++ bs))
          | none => (r, h)
        else
          let f := g.fmts r.opseq
          match x.nodes.isEmpty, x.parent with
          | true, some (_, up) => (done, h.collSend g r 1 up (collArg 0 r.gkey no) (p.bytes ++ bs))
          | _, par =>
            let b := chainFold f x (p, laneData f.lane f.inF f.elems bs) staged
            let bytes := Partial.bytes b.1 b.2
            (done, match par with
              | some (_, up) => h.collSend g r 1 up (collArg 0 r.gkey no) bytes
              | none => h.collDown g r x 1 no bytes)

/-! Moved bytes (R353, R354). -/

/-- Where byte `k` of a rank's stream lies at its source, and where it lands. -/
def CollRun.place (r : CollRun) (k : Nat) : Nat × Nat × Nat :=
  if r.band = 0 then (k / orElse r.rowBytes 1, 0, k % orElse r.rowBytes 1)
  else
    let piece := r.rows * r.band
    (k % orElse piece 1 / r.band, k / orElse piece 1, k % orElse piece 1 % r.band)
def CollRun.srcOf (r : CollRun) (k : Nat) : Nat :=
  let p := r.place k
  r.src + p.1 * r.srcStride + p.2.1 * r.band + p.2.2
def CollRun.dstOf (r : CollRun) (n rank k : Nat) : Nat :=
  let p := r.place k
  if r.from_.isSome then r.dst + k
  else if r.band = 0 then r.dst + p.1 * r.dstStride + rank * r.rowBytes + p.2.2
  else r.dst + p.1 * r.dstStride + (p.2.1 * n + rank) * r.band + p.2.2

/-- Runs of consecutive addresses: start and length. -/
def addrRuns : List Nat → List (Nat × Nat)
  | [] => []
  | a :: l => match addrRuns l with
    | (s, n) :: rest => if a + 1 = s then (a, n + 1) :: rest else (a, 1) :: (s, n) :: rest
    | [] => [(a, 1)]

/-- Bytes of chunk `i` of a stream. -/
def CollRun.chunkLen (r : CollRun) (i : Nat) : Nat := Nat.min 4032 (r.rows * r.rowBytes - 4032 * i)

/-- Read chunk `i` of an agent's own stream. -/
def CollRun.readMove (r : CollRun) (i : Nat) : Op (List Byte) := do
  let l ← (addrRuns ((upto (r.chunkLen i)).map (fun k => r.srcOf (4032 * i + k)))).mapM (fun x => loadB x.1 x.2)
  return l.flatten

/-- Place chunk `i` of a rank's stream. -/
def CollRun.writeMove (r : CollRun) (n rank i : Nat) (data : List Byte) : Op Unit := do
  let _ ← (addrRuns ((upto (r.chunkLen i)).map (fun k => r.dstOf n rank (4032 * i + k)))).foldlM (fun (o : Nat) x => do
    storeB x.1 ((data.drop o).take x.2)
    return o + x.2) 0
  pure ()

/-- Ranks that contribute to a moving collective. -/
def CollRun.senders (r : CollRun) (n : Nat) : List Nat := match r.from_ with | some k => [k] | none => upto n

/-- Every signature is held, and the lowest rank whose signature differs from rank 0's (R352, R357). -/
def CollRun.signed (r : CollRun) (n : Nat) : Bool := r.sigs.length = n
def CollRun.odd (r : CollRun) : Option Nat :=
  (List.find? (fun (p : Nat × Nat) => p.2 ≠ SMap.get r.sigs 0 0) r.sigs).map (fun p => p.1)

/-- Send the next chunk of an agent's own stream to the root of its tree (R353). -/
def Hw.moveChunk (h : Hw) (g : Group) (r : CollRun) (i : Nat) : CollRun × Hw :=
  if r.sent.contains i then (r, h)
  else match runOp (r.readMove i) h with
    | (.error .held, h) => (r, h)
    | (res, h) =>
      let p := h.ownPre g r i roleData
      let (st, bs, ecc, h) : Nat × List Byte × Option Nat × Hw := match res with
        | .ok bs => (0, bs, r.ecc, h)
        | .error x =>
          let d := h.failDone 0 (some g.part) (h.coord r.die 4) x
          (d.1.st.code, [], some (r.ecc.getD d.1.value), d.2)
      ({ r with sent := r.sent ++ [i], ecc := ecc },
        h.collSend g r 1 (g.tops.getD (i % 2) 0) (collArg 0 r.gkey i)
          (({ p with status := st } : Pre).bytes ++ bs ++ rep (4032 - bs.length) 0))

/-! Ends. -/

/-- Result chunks the flag of a run counts when all are written (R351, R485). -/
def CollRun.expect (r : CollRun) (g : Group) : Nat :=
  if g.move then r.chunks * (r.senders g.ends.length).length
  else if r.ents.any (fun x => x.dst.isSome) then r.chunks else 0

/-- The replay flag of a poster takes the events a result shows (R170, R334). -/
def Hw.noteReplay (h : Hw) (die : Nat) (o : Origin) (sat nonfin : Bool) : Hw :=
  match o with
  | .post d core _ =>
    let c := h.core d core
    h.setCore d core { c with satEv := c.satEv || sat, nonfinEv := c.nonfinEv || nonfin }
  | _ => match h.partOf die with
    | some p => { h with replayEv := SMap.put h.replayEv p ((SMap.get h.replayEv 0 p ||| (b2n sat + 2 * b2n nonfin)) % 8) }
    | none => h

/-- The set-up decision of a package is known once every agent of it has the result of OPSEQ 0 (R341). -/
def Hw.decide (h : Hw) (key : Nat) : Hw :=
  match h.group key with
  | none => h
  | some g =>
    if g.form.isSome || g.agents.any (fun a => a.vote.isNone) then h
    else
      let v := Nat.min 1 ((g.agents.filterMap (fun a => a.vote)).foldl Nat.max 0)
      let h := h.setGroup key { g with form := some v }
      let h := if v = 1 then h.groupFree g else h
      h.endSetup key ⟨if v = 1 then .okFallback else .ok, 0, 0⟩

/-- The result of a partition's replay reduction reaches an agent (R72, R120): once every agent of this package has it,
the decision reaches the replay point. A reduction that fails stops the waiting programs with its status (DESIGN CHOICE,
log entry 114). -/
def Hw.replayResult (h : Hw) (e : Env) (r : CollRun) (p : Nat) (st : Status) (value : Nat) : Hw :=
  if !st.good then (h.runningCores p).foldl (fun h x =>
    if (h.core x.1 x.2).st = .replayWait then h.stopAt x.1 x.2 st 0 else h) h
  else if h.colls.any (fun q => q.gkey = r.gkey && q.tag.isNone && q.opseq ≠ 0) || !(h.allAtReplay p) then h
  else h.replayDecision e p (value ≠ 0)

/-- A collective ends at its agent: its descriptor completes, the agent's sequence and chunk numbers advance, and a
failure marks the group failed there (R335, R351, R357). OPSEQ 0 decides the form, or fails the SETUP. -/
def Hw.endColl (h : Hw) (e : Env) (r : CollRun) (st : Status) (value : Nat) : Hw :=
  match h.group r.gkey with
  | none => h
  | some g =>
    let a := g.agent r.die
    let b := rkey r.die 4 0
    let n (t : Nat) : Nat := if r.opseq = 0 then 0 else (r.chunks + 1 - t) / 2
    let h := { (h.dropFailures r.owner) with colls := h.colls.filter (fun q => !q.same r) }
    let h := h.setAgent r.gkey { a with
      opseq := (r.opseq + 1) % 2 ^ 32, base := [a.base.getD 0 0 + n 0, a.base.getD 1 0 + n 1], failed := a.failed || !st.good
      vote := if r.opseq = 0 && st.good then some value else a.vote }
    match r.tag with
    | none => if r.opseq ≠ 0 then h.replayResult e r g.part st value
      else if st.good then h.decide r.gkey else h.endSetup r.gkey ⟨st, value, 0⟩
    | some t => match (h.queue r.die 4).find? (fun j => j.tag = t) with
      | none => h
      | some j =>
        let c := CollD.of j.body
        let st := if st = .ok && !g.move && g.form = some 1 then .okFallback else st
        let st := h.unitStatus e r.die j.part j.beat st
        let h := if st = .mismatch then h.incSat Reg.deCollFailMismatch b 0 1
          else if st = .timeout then h.incSat Reg.deCollFailTimeouts b 0 1
          else if st = .okFallback then h.inc Reg.deCollFailFallback b 0 1 else h
        let h := if c.flag && st.good then h.flag (spWin r.die + c.flagAddr) c.tag r.written else h
        let v := if st.good then (if c.flag then r.written else 0)
          else if st.ownValue then value else if c.flag then r.expect g else 0
        h.finishJob r.die 4 j ⟨st, v, 0⟩

/-- The VALUE of a failing status that reaches an agent: the offender of a mismatch, the record of an agent's own
uncorrectable word (R357, R485). -/
def CollRun.failValue (r : CollRun) (st : Status) (offender : Nat) : Nat :=
  if st = .mismatch then offender else if st = .eccUncorrected then r.ecc.getD 0 else 0

/-- The status chunk of a tree: the chunk of lowest index without a result goes up and down with a status (R357). -/
def Hw.statusChunk (h : Hw) (g : Group) (r : CollRun) (t i : Nat) (st : Status) : Hw :=
  match g.hostAt r.die t with
  | none => h
  | some x =>
    let f := g.fmts r.opseq
    let no := if g.move then i else g.chunkNo r.die i
    let zeros (k : Fmt) : List Byte := rep (if g.move then 4032 else 64 * ceilDiv (f.elems * k.bytes) 64) 0
    let role (d : Bool) : Nat := if g.move then roleData else if d then roleResult else roleContrib
    let pre (d : Bool) : Pre := { (h.ownPre g r i (role d)) with status := st.code, down := d }
    let h := h.collDown g r x 1 no ((pre true).bytes ++ zeros f.outF)
    let up := if g.switched r x then x.feed h else x.parent.map (fun p => (p.2, 0))
    match up with
    | some (dst, ctx) => h.collSend g r 1 dst (collArg ctx r.gkey no) ((pre false).bytes ++ zeros
        (if g.switched r x || x.nodes.isEmpty then f.inF else f.lane))
    | none => h

/-- Chunks of a tree without a result at this agent. -/
def CollRun.missing (r : CollRun) (g : Group) (t : Nat) : List Nat :=
  (upto r.chunks).filter (fun i => i % 2 = t && (if g.move
    then (r.senders g.ends.length).any (fun k => !(SMap.get r.landed [] k).contains i) else !r.got.contains i))

/-- An agent gives up: status chunks, then its own completion (R357). -/
def Hw.giveUp (h : Hw) (e : Env) (r : CollRun) (st : Status) : Hw :=
  match h.group r.gkey with
  | none => h
  | some g =>
    let h := [0, 1].foldl (fun h t => match (r.missing g t).head? with
      | some i => h.statusChunk g r t i st
      | none => h) h
    h.endColl e r st (r.failValue st 0)

/-! Progress. -/

/-- An ALLREDUCE or a bundle entry that is reduced in place. -/
def CollRun.inPlace (r : CollRun) : Bool := r.ents.any (fun x => x.src.isSome && x.src = x.dst)

/-- Write the result chunks that may be written, and end the run when the last is (R351). In place, a chunk waits until its
own contribution has been sent. -/
def Hw.writeResults (h : Hw) (e : Env) (g : Group) (r : CollRun) : Hw :=
  let f := g.fmts r.opseq
  let first := r.got.contains 0 && (r.chunks < 2 || r.got.contains 1)
  if !first then h.putRun r
  else
    let w := r.held.foldl (fun (a : Option Fail × CollRun × Hw) fr =>
      match a.1 with
      | some _ => a
      | none =>
        let r := a.2.1
        let i := (Pre.of fr.payload).idx
        if r.inPlace && !(r.sent.contains i) then a
        else match runOp (r.writeChunk f i (fr.payload.drop 64)) a.2.2 with
        | (.error x, h) => (some x, r, h)
        | (.ok _, h) =>
          let wrote := r.ents.any (fun x => x.dst.isSome)
          let r := { r with held := r.held.filter (fun q => q ≠ fr), written := r.written + b2n wrote
                            value := if r.tag.isNone then pay fr.payload 64 4 else r.value }
          (none, r, if wrote then h.inc Reg.deCollCntWritten (rkey r.die 4 0) 0 1 else h)) (none, r, h)
    let r := w.2.1
    let h := w.2.2
    match w.1 with
    | some .held => h.putRun r
    | some x =>
      let d := h.failDone 0 (some g.part) (h.coord r.die 4) x
      d.2.endColl e r d.1.st d.1.value
    | none => if r.got.length = r.chunks && r.held.isEmpty then h.endColl e r .ok r.value else h.putRun r

/-- Write the piece flags whose bytes have all landed (R353). -/
def Hw.pieceFlags (h : Hw) (r : CollRun) (n rank : Nat) : CollRun × Hw :=
  match r.pieces with
  | none => (r, h)
  | some (base, tag) =>
    let got := SMap.get r.landed [] rank
    let parts := if r.band = 0 then 1 else r.rowBytes / r.band
    let size := r.rows * (if r.band = 0 then r.rowBytes else r.band)
    (upto parts).foldl (fun (a : CollRun × Hw) j =>
      let k := j * n + rank
      let need_ := (upto r.chunks).filter (fun i => 4032 * i < (j + 1) * size && j * size < 4032 * i + r.chunkLen i)
      if a.1.flags.contains k || !(need_.all (fun i => got.contains i)) then a
      else ({ a.1 with flags := a.1.flags ++ [k] }, a.2.flag (base + 8 * k) tag r.rows)) (r, h)

/-- Place a DATA chunk (R353, R354). One whose window is being cleared waits until the clear has ended (R133). -/
def Hw.placeData (h : Hw) (g : Group) (r : CollRun) (f : Frame) : CollRun × Hw × Option Fail :=
  let p := Pre.of f.payload
  let n := g.ends.length
  if (SMap.get r.landed [] p.rank).contains p.idx then (r, h, none)
  else match runOp (r.writeMove n p.rank p.idx (f.payload.drop 64)) h with
    | (.error .held, h) => ({ r with held := r.held ++ [f] }, h, none)
    | (.error x, h) => (r, h, some x)
    | (.ok _, h) =>
      let h := h.inc Reg.deCollCntWritten (rkey r.die 4 0) 0 1
      let r := { r with landed := SMap.upd r.landed [] p.rank (fun l => l ++ [p.idx]), written := r.written + 1 }
      let b := h.pieceFlags r n p.rank
      (b.1, b.2, none)

/-- Place the DATA chunks that a clear held. -/
def Hw.placeHeld (h : Hw) (g : Group) (r : CollRun) : CollRun × Hw × Option Fail :=
  r.held.foldl (fun (a : CollRun × Hw × Option Fail) f =>
    if a.2.2.isSome then a else a.2.1.placeData g a.1 f) ({ r with held := [] }, h, none)

/-- A moving collective goes on once every signature is held: it ends where they differ, else sends its own chunks
and ends when every chunk has landed (R352, R353, R357). -/
def Hw.moveOn (h : Hw) (e : Env) (g : Group) (r : CollRun) : Hw :=
  let n := g.ends.length
  if !r.signed n then h.putRun r
  else match r.odd, h.placeHeld g r with
    | some k, _ => h.endColl e r .mismatch (g.ends.getD k 0)
    | none, (r, h, some x) =>
      let d := h.failDone 0 (some g.part) (h.coord r.die 4) x
      d.2.endColl e r d.1.st d.1.value
    | none, (r, h, none) =>
      let mine := (r.senders n).contains (g.agent r.die).rank
      let (r, h) := if mine then (upto r.chunks).foldl (fun (a : CollRun × Hw) i => a.2.moveChunk g a.1 i) (r, h) else (r, h)
      if (r.senders n).all (fun k => (SMap.get r.landed [] k).length = r.chunks) then h.endColl e r .ok 0 else h.putRun r

/-- What an agent can do now for a run. -/
def Hw.collGo (h : Hw) (e : Env) (r : CollRun) : Hw :=
  match h.group r.gkey with
  | none => h
  | some g =>
    if g.move then h.moveOn e g r
    else
      let a := (upto r.chunks).foldl (fun (a : CollRun × Hw) i => a.2.collChunk g a.1 i) (r, h)
      a.2.writeResults e g a.1

/-- A run begins: a moving one with its SIGNATURE chunk (R352). -/
def Hw.collBegin (h : Hw) (e : Env) (g : Group) (r : CollRun) : Hw :=
  let h := { h with colls := h.colls ++ [r] }
  let h := if g.move then h.collSend g r 0 (g.tops.getD 0 0) (collArg 0 r.gkey 0) (h.ownPre g r 0 roleSignature).bytes else h
  h.collGo e r

/-- A COLL of one operation at the head of an engine's queue. One whose group is not yet decided waits; a bundle whose
table cannot be read sends its first chunk with the status. -/
def collOp (op die : Nat) (e : Env) (h : Hw) : Hw :=
  match h.queue die 4 with
  | [] => h
  | j :: _ =>
    let c := CollD.of j.body
    if !(h.dieOn e die) || c.op ≠ op then h
    else match h.colls.find? (fun r => r.die = die && r.tag = some j.tag) with
      | some r => h.collGo e r
      | none =>
        match h.group c.gkey with
        | none => h.finishJob die 4 j ⟨.badDescriptor, 0, 0⟩
        | some g => match g.agents.find? (fun a => a.die = die) with
          | none => h.finishJob die 4 j ⟨.badDescriptor, 0, 0⟩
          | some a =>
            if g.form.isNone && !a.failed then h.awaitJob die 4 j
            else match runOp (decodeColl e g c die (h.coord die 4) a j.tag) h with
              | (.error .held, h) => h
              | (.error (.ecc w), h) =>
                if a.failed then h.finishJob die 4 j ⟨.aborted, 0, 0⟩ else
                let d := h.failDone j.origin.opid j.part (h.coord die 4) (.ecc w)
                let r : CollRun := { die := die, gkey := c.gkey, opseq := a.opseq, tag := some j.tag, sig := 0, chunks := 1
                                     ecc := some d.1.value, sent := [0], since := h.now }
                let h := { d.2 with colls := d.2.colls ++ [r] }
                h.statusChunk g r 0 0 .eccUncorrected
              | (.error (.st s), h) => h.finishJob die 4 j ⟨s, 0, 0⟩
              | (.error f, h) =>
                let d := h.failDone j.origin.opid j.part (h.coord die 4) f
                d.2.finishJob die 4 j d.1
              | (.ok r, h) =>
                if a.failed then h.finishJob die 4 j ⟨.aborted, if c.flag then r.expect g else 0, 0⟩
                else (h.awaitJob die 4 j).collBegin e g r

/-! Chunks that reach an agent. -/

/-- A COLL frame of a role for an agent. -/
def isChunk (f : Frame) (role : Nat) : Bool :=
  Frame.typ f = 9 && cDie (Frame.dst f) < 24 && cUnit (Frame.dst f) = 4 && (Pre.of f.payload).role = role

/-- How an agent stands to a chunk: its group and run, where it runs the chunk's sequence; a chunk of a sequence that is
over, or of a failed group, is taken and dropped. -/
inductive ChunkFor where
  | wait | drop
  | run (g : Group) (r : CollRun)
  deriving DecidableEq, Repr

def Hw.chunkFor (h : Hw) (f : Frame) : ChunkFor :=
  let die := cDie (Frame.dst f)
  match h.group (Frame.key f) with
  | none => .wait
  | some g => match g.agents.find? (fun a => a.die = die) with
    | none => .wait
    | some a =>
      let seq := (Pre.of f.payload).opseq
      match h.run? die (Frame.key f) seq with
      | some r => .run g r
      | none => if a.failed || seq < a.opseq then .drop else .wait

/-- Deliver a chunk of a role to its run, when `can` lets the agent take it. -/
def takeChunk (role : Nat) (can : Group → CollRun → Frame → Bool) (act : Env → Group → CollRun → Frame → Hw → Hw)
    (f : Frame) (e : Env) (h : Hw) : Hw :=
  if !isChunk f role then h
  else
    let ok (h : Hw) : Bool := match h.chunkFor f with | .wait => false | .drop => true | .run g r => can g r f
    match h.arrive f ok with
    | (false, h) => h
    | (true, h) => match h.chunkFor f with
      | .run g r => act e g { r with since := h.now } f h
      | _ => h

/-- CONTRIB: a chunk of a child is staged, and folded when its node has every input (R350). A second chunk of one child
is ignored. Where in STAGE it lies is not stated. -/
def contribAct (e : Env) (g : Group) (r : CollRun) (f : Frame) (h : Hw) : Hw :=
  let i := (Pre.of f.payload).idx
  let known := (g.hostAt r.die (i % 2)).any (fun x => x.kids.any (fun k => k.1 = Frame.src f))
  if !known || r.chunks ≤ i || r.staged.any (fun s => s.1 = i && s.2.1 = Frame.src f) then h.putRun r
  else
    let d := h.drawFree
    let h := d.2.poke (spWin r.die + g.stage + 4096 * (d.1.toNat % orElse (g.stageSize / 4096) 1)) f.payload
    h.collGo e { r with staged := r.staged ++ [(i, Frame.src f, f)] }

/-- RESULT may be taken: chunk 0 of tree 0 and chunk 1 of tree 1 first, unless it tells of a failure (R351). -/
def resultCan (_ : Group) (r : CollRun) (f : Frame) : Bool :=
  let p := Pre.of f.payload
  p.status ≠ 0 || p.idx < 2 || (r.got.contains 0 && r.got.contains 1)

/-- RESULT: the chunk is passed on and written; a failing one ends the collective (R349, R351, R357). -/
def resultAct (e : Env) (g : Group) (r : CollRun) (f : Frame) (h : Hw) : Hw :=
  let p := Pre.of f.payload
  if (p.status = 0 && r.got.contains p.idx) || r.chunks ≤ p.idx then h.putRun r
  else
    let h := h.collForward g r f (p.idx % 2)
    if p.status ≠ 0 then
      let st := (Status.ofCode p.status).getD .aborted
      h.endColl e r st (r.failValue st p.offender)
    else
      let o := match r.tag.bind (fun t => (h.queue r.die 4).find? (fun j => j.tag = t)) with
        | some j => j.origin
        | none => .internal
      let h := if p.sat ≠ 0 || p.nonfin ≠ 0 then h.noteReplay r.die o (p.sat ≠ 0) (p.nonfin ≠ 0) else h
      h.writeResults e g { r with got := r.got ++ [p.idx], held := r.held ++ [f] }

/-- The top root passes a chunk of a moving collective to its entry, now travelling down (R352, R353); an agent below it
passes a status up. -/
def Hw.turnDown (h : Hw) (g : Group) (r : CollRun) (f : Frame) (t : Nat) : Hw :=
  match g.hostAt r.die t with
  | none => h
  | some x =>
    let p := Pre.of f.payload
    match x.parent with
    | none => h.collDown g r x (Frame.cls f) (Frame.chunk f) (({ p with down := true } : Pre).bytes ++ f.payload.drop 64)
    | some (_, up) => h.collSend g r (Frame.cls f) up (Frame.arg f) f.payload

/-- SIGNATURE: held, and passed down tree 0 (R352). -/
def signatureAct (e : Env) (g : Group) (r : CollRun) (f : Frame) (h : Hw) : Hw :=
  let p := Pre.of f.payload
  if !p.down then (h.putRun r).turnDown g r f 0
  else
    let h := h.collForward g r f 0
    if g.ends.length ≤ p.rank then h.putRun r
    else h.moveOn e g { r with sigs := SMap.put r.sigs p.rank p.sig }

/-- DATA may be taken once every signature is held (R352), or when it tells of a failure. -/
def dataCan (g : Group) (r : CollRun) (f : Frame) : Bool :=
  r.signed g.ends.length || (Pre.of f.payload).status ≠ 0

/-- DATA: turned down at the root of its tree, passed on and placed elsewhere (R353, R354). -/
def dataAct (e : Env) (g : Group) (r : CollRun) (f : Frame) (h : Hw) : Hw :=
  let p := Pre.of f.payload
  let t := p.idx % 2
  let n := g.ends.length
  let h := if p.down then h.collForward g r f t else h.turnDown g r f t
  if p.status ≠ 0 then
    if !p.down && ((g.hostAt r.die t).any (fun x => x.parent.isNone)) then h.putRun r
    else
      let st := (Status.ofCode p.status).getD .aborted
      h.endColl e r st (r.failValue st p.offender)
  else if !p.down then h.putRun r
  else if r.chunks ≤ p.idx || !(r.senders n).contains p.rank || (SMap.get r.landed [] p.rank).contains p.idx then h.putRun r
  else if r.held.contains f then h.putRun r
  else match h.placeData g r f with
    | (r, h, some x) =>
      let d := h.failDone 0 (some g.part) (h.coord r.die 4) x
      d.2.endColl e r d.1.st d.1.value
    | (r, h, none) => h.moveOn e g r

/-! Failures (R357) and epochs. -/

/-- A record of a set-up was abandoned or could not be sent: its SETUP completes with that status (R30, R263). -/
def Hw.settleSetups (h : Hw) : Hw :=
  h.groups.foldl (fun h (p : Nat × Group) =>
    match p.2.job.bind (fun t => (h.failuresOf (.job 28 8 t)).head?) with
    | some s =>
      let g := { p.2 with agents := p.2.agents.map (fun a => { a with failed := true }) }
      (({ h with colls := h.colls.filter (fun r => r.gkey ≠ p.1) }).setGroup p.1 g).endSetup p.1 ⟨s, 0, 0⟩
    | none => h) h

/-- A frame of a run was abandoned, or could not be sent: its collective completes with that status (R263). -/
def Hw.settleColls (h : Hw) (e : Env) : Hw :=
  let h := h.settleSetups
  let h := h.colls.foldl (fun h (r : CollRun) => match r.tag, (h.failuresOf r.owner).head? with
    | some _, some s => h.endColl e r s 0
    | _, _ => h) h
  let live (o : Owner) : Bool := match o with
    | .job die 4 _ => h.colls.any (fun r => r.owner = o && r.die = die)
    | .job 28 8 t => (h.queue 28 8).any (fun j => j.tag = t)
    | _ => true
  { h with failures := h.failures.filter (fun f => live f.1) }

/-- A set-up that an agent still waits for fails with its own status at that agent's package, `t` ns after the set-up
began its wait. -/
def Hw.failSetups (h : Hw) (die : Nat) (st : Status) (t : Option Nat) : Hw :=
  h.groups.foldl (fun h (p : Nat × Group) =>
    if p.2.job.isSome && p.2.form.isNone && p.2.agents.any (fun a => a.die = die) then
      let h := match t, (h.queue 28 8).find? (fun j => some j.tag = p.2.job) with
        | some t, some j => h.reach (j.since + t)
        | _, _ => h
      let g := { p.2 with agents := p.2.agents.map (fun a => { a with failed := true }) }
      let h := { h with colls := h.colls.filter (fun r => r.gkey ≠ p.1) }
      (h.setGroup p.1 g).endSetup p.1 ⟨st, 0, 0⟩
    else h) h

/-- DE_COLL_TIMEOUT: the wait of the collective in hand has lasted TIMEOUT (R357); without one, that of a set-up. -/
def deCollTimeout (die : Nat) (e : Env) (h : Hw) : Hw :=
  let t := h.rf Reg.deCollTimeout (rkey die 4 0)
  if t = 0 || !(h.dieOn e die) then h
  else match List.find? (fun (r : CollRun) => r.die = die) h.colls with
    | some r => (h.reach (r.since + t * 1000)).giveUp e r .timeout
    | none => match h.queue die 4 with
      | j :: _ =>
        if j.started && 0x10 ≤ j.body.fld 0 7 0 && j.body.fld 0 7 0 ≤ 0x14 then
          let c := CollD.of j.body
          let h := h.reach (j.since + t * 1000)
          let h := h.incSat Reg.deCollFailTimeouts (rkey die 4 0) 0 1
          (h.finishJob die 4 j ⟨.timeout, 0, 0⟩).setAgent c.gkey
            { (match h.group c.gkey with | some g => g.agent die | none => ⟨die, 0, 0, [0, 0], true, none⟩) with failed := true }
        else h.failSetups die .timeout (some (t * 1000))
      | [] => h.failSetups die .timeout (some (t * 1000))

/-- An agent could act now: a contribution to send or fold, or a result or a DATA chunk to write (R328). -/
def Hw.collBusy (h : Hw) (r : CollRun) : Bool :=
  match h.group r.gkey with
  | none => false
  | some g =>
    if g.move then r.signed g.ends.length &&
      (!r.held.isEmpty || ((r.senders g.ends.length).contains (g.agent r.die).rank && r.sent.length < r.chunks))
    else
      (upto r.chunks).any (fun i => !(r.sent.contains i) && (g.hostAt r.die (i % 2)).any (fun x =>
        g.switched r x || x.kids.all (fun k => r.staged.any (fun s => s.1 = i && s.2.1 = k.1))))
      || (r.got.contains 0 && (r.chunks < 2 || r.got.contains 1)
        && r.held.any (fun f => !r.inPlace || r.sent.contains (Pre.of f.payload).idx))

/-- DE_CTRL_ABORT: the running operation and every queued descriptor end with ABORTED (R193, R357). -/
def deCtrlAbort (die : Nat) (e : Env) (h : Hw) : Hw :=
  if 24 ≤ die then h
  else
    let q := h.queue die 4
    let h := match q with
      | [] => h
      | j :: _ => match h.colls.find? (fun (r : CollRun) => r.die = die && r.tag = some j.tag) with
        | some r => h.giveUp e r .aborted
        | none =>
          let key := j.body.fld 4 15 0
          let h := match j.started && 0x10 ≤ j.body.fld 0 7 0 && j.body.fld 0 7 0 ≤ 0x14, h.group key with
            | true, some g => if g.agents.any (fun a => a.die = die)
                then h.setAgent key { g.agent die with failed := true } else h
            | _, _ => h
          h.endDispatch e die j (.error (.st .aborted))
    (q.filter (fun (j : Job) => (h.queue die 4).any (fun k => k.tag = j.tag))).foldl (fun h j =>
      h.finishJob die 4 j ⟨.aborted, h.deCount die j, 0⟩) h

/-- The collectives of a group end with ABORTED at every agent, and the group is gone (R345). -/
def Hw.releaseGroup (h : Hw) (e : Env) (key : Nat) : Hw :=
  let h := h.colls.foldl (fun h (r : CollRun) => if r.gkey = key && r.tag.isSome then h.endColl e r .aborted 0 else h) h
  ({ h with colls := h.colls.filter (fun r => r.gkey ≠ key) }).endGroup key

/-- The releases that are due at an epoch, before the commands of the stitch units apply (R345). -/
def Hw.groupReleases (h : Hw) (e : Env) : Hw :=
  (h.queue 28 8).foldl (fun h j =>
    if j.body.fld 0 7 0 = 0x41 && j.started && j.body.fld 0x10 63 0 ≤ h.now then
      let key := j.body.fld 4 15 0
      let mine := (h.group key).any (fun g => g.part = j.body.fld 0 10 8)
      (if mine then h.releaseGroup e key else h).finishJob 28 8 j ⟨.ok, 0, 0⟩
    else h) h

/-- After the claims of an epoch have applied: every agent of a group begins OPSEQ 0 (R341). -/
def Hw.groupDecisions (h : Hw) (e : Env) : Hw :=
  h.groups.foldl (fun h (p : Nat × Group) =>
    let g := p.2
    if g.move || !g.claimed || g.form.isSome || g.job.isNone
      || g.agents.any (fun a => a.opseq ≠ 0 || a.failed || (h.run? a.die p.1 0).isSome) then h
    else
      let full := g.ctxs.any (fun k => h.entGet k.1 k.2.1 k.2.2 0x1C 2 0 = 4)
      let h := h.setGroup p.1 { g with noSlots := full }
      g.agents.foldl (fun h a =>
        let r : CollRun := { die := a.die, gkey := p.1, opseq := 0, tag := none, chunks := 1, value := b2n full
                             sig := g.sig p.1 0 0x10 1 0 0, since := h.now }
        match h.group p.1 with
        | some g => h.collBegin e g r
        | none => h) h) h

/-- The part of groups in an epoch of the fabric timeline: releases, claims, the commands of the stitch units, and the
decisions (R303, R341, R345). -/
def Hw.groupEpoch (h : Hw) (e : Env) : Hw :=
  (((h.groupReleases e).groupClaims).stuEpoch e).groupDecisions e

/-- ALLREDUCE (R349). -/
def execAllreduce (die : Nat) (s : State) : Host.Outcome State Fault Refusal := onHw (collOp 0x10 die) s

/-- REDUCE (R351). -/
def execReduce (die : Nat) (s : State) : Host.Outcome State Fault Refusal := onHw (collOp 0x11 die) s

/-- ALLGATHER (R353). -/
def execAllgather (die : Nat) (s : State) : Host.Outcome State Fault Refusal := onHw (collOp 0x12 die) s

/-- BROADCAST (R354). -/
def execBroadcast (die : Nat) (s : State) : Host.Outcome State Fault Refusal := onHw (collOp 0x13 die) s

/-- BUNDLE (R355). -/
def execBundle (die : Nat) (s : State) : Host.Outcome State Fault Refusal := onHw (collOp 0x14 die) s

/-- CONTRIB (R350). -/
def execContrib (frame : Frame) (s : State) : Host.Outcome State Fault Refusal :=
  onHw (takeChunk roleContrib (fun _ _ _ => true) contribAct frame) s

/-- RESULT (R351). -/
def execResult (frame : Frame) (s : State) : Host.Outcome State Fault Refusal :=
  onHw (takeChunk roleResult resultCan resultAct frame) s

/-- SIGNATURE (R352). -/
def execSignature (frame : Frame) (s : State) : Host.Outcome State Fault Refusal :=
  onHw (takeChunk roleSignature (fun _ _ _ => true) signatureAct frame) s

/-- DATA (R353). -/
def execData (frame : Frame) (s : State) : Host.Outcome State Fault Refusal :=
  onHw (takeChunk roleData dataCan dataAct frame) s

/-- DE_COLL_TIMEOUT (R357). -/
def execDeCollTimeout (die : Nat) (s : State) : Host.Outcome State Fault Refusal := onHw (deCollTimeout die) s

/-- DE_CTRL_ABORT (R193). -/
def execDeCtrlAbort (die : Nat) (s : State) : Host.Outcome State Fault Refusal := onHw (deCtrlAbort die) s

end Sys2Proof.Machine
end

