-- ==== Sys2Proof/Machine/Time.lean ====
section
/-! DEFINITION. Time (15_beat_and_determinism.md): the counter's commands, the cinch, and the steps of the numerics watch
(R79 to R85). -/

namespace Sys2Proof.Machine

/-- A TIME event (R445). -/
def Hw.timeEvent (h : Hw) (kind port part ckey : Nat) : Hw :=
  h.raise 0x04 none (h.coord 28 10)
    (toBytes 1 kind ++ toBytes 1 port ++ toBytes 2 (part % 8) ++ toBytes 4 ckey ++ toBytes 8 h.now)

/-- TIME_SET: the grandmaster's counter, before it first sets SYNCED (R419). Boundaries that have passed are not
repeated. -/
def timeSet (v : Word) (e : Env) (h : Hw) : Hw :=
  if h.rf Reg.timeCtrlGrandmaster tmB = 1 && !h.sync.everSynced then
    { h with now := v.toNat, fabN := Nat.max h.fabN ((v.toNat - e.tl.fabOrigin) / e.tl.fabPeriod) }
  else h.regFault 4 (tmB + Reg.timeSet.off)

/-- SYNCED changes (R423, R424). -/
def Hw.setSynced (h : Hw) (v : Bool) (port : Nat) : Hw :=
  if (h.rf Reg.timeStatusSynced tmB = 1) = v then h
  else
    let h := h.wf Reg.timeStatusSynced tmB 0 (b2n v)
    let h := if v then { h with sync := { h.sync with everSynced := true } }
      else if h.rf Reg.timeStatusParentPort tmB = 0xFF then (h.wf Reg.timeStatusDepth tmB 0 0xFF).wf Reg.timeStatusBound tmB 0 0
      else h
    h.timeEvent (if v then 2 else 1) port 0 0

/-- SYNC_LOST_TIMEOUT: 10 ms without a synchronised parent (R424). -/
def syncLostTimeout (_ : Env) (h : Hw) : Hw :=
  match h.sync.lostAt with
  | some t =>
    if h.rf Reg.timeStatusSynced tmB = 1 && h.rf Reg.timeStatusGm tmB = 0 then (h.reach (t + 10000000)).setSynced false 0xFF
    else h
  | none => h

/-! The cinch (R430 to R435). -/

/-- The timeline of a partition replaced. -/
def Timelines.setPart (t : Timelines) (p : Nat) (x : PartTl) : Timelines := { t with parts := listSet t.parts p x }

/-- A CINCH in itself (R15, R431). -/
def cinchOk (d : Desc) : Bool :=
  d.fld 0 7 0 = 0x60 && d.fld 0 31 11 = 0 && d.fld 4 31 12 = 0 && 1000 ≤ d.fld 8 31 0 && d.fld 0x0C 31 0 ≠ 0
    && (d.fld 0x14 31 0 = 0 || 100 ≤ d.fld 0x14 31 0) && d.fld 0x20 255 0 = 0

/-- A cinch record (R433). -/
def cinchRecord (kind part span ckey period status time sig offender : Nat) : List Byte :=
  toBytes 1 kind ++ toBytes 1 (part % 8) ++ toBytes 2 (span % 4096) ++ toBytes 4 ckey ++ toBytes 4 period
    ++ toBytes 1 status ++ rep 3 0 ++ toBytes 8 time ++ toBytes 8 sig ++ toBytes 4 offender ++ rep 28 0

/-- Send a record to the time master of a node (R433, R464). -/
def Hw.timeSend (h : Hw) (node : Nat) (record : List Byte) : Hw :=
  h.send { typ := 9, cls := 0, src := h.coord 28 10, dst := coordOf node 28 10, payload := granules record }

/-- A record of the leader to every member. -/
def Hw.cinchTell (h : Hw) (p : Nat) (c : Cinch) (kind status time offender : Nat) : Hw :=
  c.members.foldl (fun h n => h.timeSend n (cinchRecord kind p c.span c.ckey c.period status time c.sig offender))
    { h with cinches := SMap.put h.cinches p { c with decided := true } }

/-- CINCH (R430 to R432, R452): the oldest that has not begun. -/
def cinch (_ : Fuses) (tl : Timelines) (e : Env) (h : Hw) : Timelines × Hw :=
  match (h.queue 28 10).find? (fun j => !j.started) with
  | none => (tl, h)
  | some j =>
    let d := j.body
    let p := d.fld 0 10 8
    let fin (s : Status) : Timelines × Hw := (tl, h.finishJob 28 10 j ⟨s, 0, 0⟩)
    if !cinchOk d then fin .badDescriptor
    else if !(h.loaded p) then fin .partitionDown
    else if (tl.part p).st ≠ .idle || h.rf Reg.timeStatusSynced tmB = 0 || h.node?.isNone || h.rf Reg.spanTblEnable pkgB p = 0 then
      fin .refused
    else match runOp (readSpan e (h.rf Reg.spanTblBase pkgB p * 2 ^ 17) spanCount (d.fld 4 11 0) 0) h with
      | (.error .held, _) => (tl, h)
      | (.error f, h) =>
        let r := h.failDone j.origin.opid (some p) (h.coord 28 10) f
        (tl, r.2.finishJob 28 10 j r.1)
      | (.ok x, h) =>
        if !(noDup x.ends) then (tl, h.finishJob 28 10 j ⟨.refused, 0, 0⟩)
        else
          let j := { j with started := true, since := h.now }
          let c : Cinch := {
            job := j, ckey := d.fld 0x0C 31 0, period := d.fld 8 31 0, lead := orElse (d.fld 0x10 31 0) 10000
            timeout := orElse (d.fld 0x14 31 0) 1000000, notBefore := d.fld 0x18 63 0, span := d.fld 4 11 0
            sig := crc64 x.bytes, leader := cNode (x.ends.headD 0)
            members := (x.ends.map cNode).eraseDups, accepted := h.now }
          let h := h.putJob 28 10 j
          let h := { h with cinches := SMap.put h.cinches p c }
          let h := h.timeSend c.leader (cinchRecord 1 p c.span c.ckey c.period 0 h.now c.sig 0)
          (tl.setPart p { st := .armed, period := d.fld 8 31 0 }, h)

/-- A record of a kind for this package's time master (R433). -/
def isTimeRec (f : Frame) (kind : Nat) : Bool :=
  Frame.typ f = 9 && cDie (Frame.dst f) = 28 && cUnit (Frame.dst f) = 10 && pay f.payload 0 1 = kind

/-- PART and CKEY of a record. -/
def recPart (f : Frame) : Nat := pay f.payload 1 1 % 8
def recKey (f : Frame) : Nat := pay f.payload 4 4

/-- READY at the leader (R432): a member that differs fails the cinch; with all members ready, GO. One that comes before
the leader's own CINCH waits for it. -/
def ready (f : Frame) (_ : Env) (h : Hw) : Hw :=
  if !isTimeRec f 1 then h
  else
    let p := recPart f
    let can (h : Hw) : Bool := match SMap.find? h.cinches p with | some c => c.leader = h.node | none => false
    match h.arrive f can with
    | (false, h) => h
    | (true, h) => match SMap.find? h.cinches p with
      | none => h
      | some c =>
        let n := cNode (Frame.src f)
        if c.decided then h
        else if recKey f ≠ c.ckey || pay f.payload 8 4 ≠ c.period || pay f.payload 0x18 8 ≠ c.sig then
          h.cinchTell p c 3 Status.mismatch.code 0 (n * 512)
        else if !(c.members.contains n) then h
        else
          let c := { c with ready := natInsert c.ready n }
          if c.ready.length = c.members.length then
            h.cinchTell p c 2 0 (alignUp (Nat.max c.notBefore (h.now + c.lead)) 10) 0
          else { h with cinches := SMap.put h.cinches p c }

/-- Held launches of a partition complete with ABORTED (R432). -/
def Hw.dropLaunches (h : Hw) (p : Nat) : Hw :=
  (h.diesOf p).foldl (fun h d => (upto 4).foldl (fun h k =>
    let c := h.core d k
    if c.launches.isEmpty then h
    else c.launches.foldl (fun h l => h.completeBase l.origin ⟨.aborted, 0, 0⟩) (h.setCore d k { c with launches := [] })) h) h

/-- A member's cinch fails (R432). -/
def Hw.cinchFail (h : Hw) (tl : Timelines) (p : Nat) (s : Status) (v : Nat) : Timelines × Hw :=
  match SMap.find? h.cinches p with
  | none => (tl, h)
  | some c =>
    let h := { h with cinches := SMap.del h.cinches p }
    let h := h.finishJob 28 10 c.job ⟨s, v, 0⟩
    (tl.setPart p {}, h.dropLaunches p)

/-- Write the plan word in the scratchpad of every C-die of a partition (R461). -/
def Hw.planWord (h : Hw) (p tag plan : Nat) : Hw :=
  (h.diesOf p).foldl (fun h d =>
    h.flag (spWin d + h.rf Reg.dlmPlanAddr tmB p / 8 * 8 % 0x10000000) tag plan) h

/-- The timeline of a partition begins (R432, R435, R436, R461): the plan word is written, the CINCH completes, and held
launches begin with beat 0 in hand. -/
def Hw.cinchStart (h : Hw) (p : Nat) (late : Bool) : Hw :=
  match SMap.find? h.cinches p with
  | none => h
  | some c =>
    let h := { h with cinches := SMap.del h.cinches p }
    let late0 := h.rf Reg.dlmStatusLatePlan tmB p
    let h := ((h.setReg Reg.dlmStatus tmB p 0).wf Reg.dlmStatusLatePlan tmB p late0).planWord p 0 0
    let h := h.finishJob 28 10 c.job ⟨if late then .okLate else .ok, 0, 0⟩
    (h.diesOf p).foldl (fun h d => (upto 4).foldl (fun h k =>
      if (SMap.find? h.clears d).isSome then h else h.startLaunch d k 0) h) h

/-- GO at a member (R432, R435). -/
def go (f : Frame) (_ : Fuses) (tl : Timelines) (h : Hw) : Timelines × Hw :=
  if !isTimeRec f 2 then (tl, h)
  else match h.arrive f (fun _ => true) with
    | (false, h) => (tl, h)
    | (true, h) =>
      let p := recPart f
      let x := tl.part p
      match SMap.find? h.cinches p with
      | some c =>
        if x.st = .armed && !x.go && recKey f = c.ckey then
          let t0 := pay f.payload 0x10 8
          let h := h.wf Reg.dlmCtrlLeader tmB p (b2n (c.leader = h.node))
          let h := { h with dlm := SMap.put h.dlm p { ckey := c.ckey, span := c.span, members := c.members, leader := c.leader } }
          if h.now < t0 then (tl.setPart p { x with origin := t0, go := true }, h)
          else
            let h := { h with partN := SMap.put h.partN p ((h.now - t0) / x.period) }
            (tl.setPart p { x with origin := t0, go := true, st := .running }, h.cinchStart p true)
        else (tl, h)
      | none => (tl, if x.st = .idle then h.timeEvent 4 0xFF p (recKey f) else h)

/-- FAIL at a member (R432). -/
def fail (f : Frame) (_ : Fuses) (tl : Timelines) (h : Hw) : Timelines × Hw :=
  if !isTimeRec f 3 then (tl, h)
  else match h.arrive f (fun _ => true) with
    | (false, h) => (tl, h)
    | (true, h) =>
      let p := recPart f
      match SMap.find? h.cinches p with
      | some c =>
        if recKey f = c.ckey then
          let s := (Status.ofCode (pay f.payload 0x0C 1)).getD .aborted
          h.cinchFail tl p s (if s = .mismatch then pay f.payload 0x20 4 else 0)
        else (tl, h)
      | none => (tl, if (tl.part p).st = .idle then h.timeEvent 4 0xFF p (recKey f) else h)

/-- CINCH_TIMEOUT: the leader's wait for READY has lasted TIMEOUT (R432). -/
def cinchTimeout (p : Nat) (_ : Fuses) (tl : Timelines) (h : Hw) : Timelines × Hw :=
  match SMap.find? h.cinches p with
  | some c =>
    if c.leader = h.node && !c.decided then
      (tl, (h.reach (c.accepted + c.timeout * 1000)).cinchTell p c 3 Status.timeout.code 0 0)
    else (tl, h)
  | none => (tl, h)

/-- CINCH_MEMBER_TIMEOUT: a member has had neither GO nor FAIL for 3 × TIMEOUT (R432). -/
def cinchMemberTimeout (p : Nat) (_ : Fuses) (tl : Timelines) (h : Hw) : Timelines × Hw :=
  match SMap.find? h.cinches p with
  | some c =>
    if c.leader ≠ h.node && !(tl.part p).go then
      (h.reach (c.accepted + 3 * c.timeout * 1000)).cinchFail tl p .timeout 0
    else (tl, h)
  | none => (tl, h)

/-! The numerics watch (R79 to R85). -/

/-- NUM_WATCH_STEP.STEP (R81). -/
def numWatchStep (_ : Env) (h : Hw) : Hw := { h with watchStep := true }

/-- A counter of a watch entry after a step. -/
def watchAdd (m : Mem) (a n v : Nat) : List Byte := toBytes n (satAdd (8 * n) (Mem.num m a n) v)

/-- One entry at a step boundary: its counts are added, and it is judged (R80, R82). A step is idle when nothing was
converted to the tensor or, for an entry with EXPERT, when the expert received no token; the spec gives the watch no source
of that number, which is free (log entry 117). -/
def Hw.watchEntry (h : Hw) (i t starve : Nat) (c : Counts) : Hw :=
  let a := h.rf Reg.numWatchBaseBase pkgB * 2 ^ 18 + 64 * i
  let expert := bit (Mem.num h.mem (a + 4) 4) 30
  let idle := if expert then Config.expertTokens (h.rf Reg.numWatchStepStepCount pkgB) i = 0 else c.elements = 0
  if idle && c.elements = 0 then h
  else
    let id := Mem.num h.mem a 4
    let run0 := Mem.num h.mem (a + 0x30) 4
    let was := bit (Mem.num h.mem (a + 0x38) 8) 0
    let live := c.zeros < c.elements
    let run := if idle then run0 else if live then 0 else satAdd 32 run0 1
    let raise_ := !idle && !live && starve ≠ 0 && run = starve && !was
    let starved := if idle then was else if live then false else was || raise_
    let bs := watchAdd h.mem (a + 8) 8 c.elements ++ watchAdd h.mem (a + 0x10) 8 c.zeros
      ++ watchAdd h.mem (a + 0x18) 8 c.underflows ++ watchAdd h.mem (a + 0x20) 8 c.saturations
      ++ watchAdd h.mem (a + 0x28) 8 c.nonfinite ++ toBytes 4 run ++ watchAdd h.mem (a + 0x34) 4 (b2n !idle)
      ++ toBytes 1 ((Mem.get h.mem (a + 0x38)).toNat / 2 * 2 + b2n starved)
    let h := h.poke (a + 8) bs
    if raise_ then h.raise 0x02 none (h.coord 28 8) (toBytes 4 id ++ toBytes 4 i ++ toBytes 8 t) else h

/-- The step boundary of the watch at an epoch at time `t` (R79 to R82, R85). An entry that holds an uncorrectable word is
recorded, and is neither judged nor written (DESIGN CHOICE, log entry 116). -/
def Hw.watchBoundary (h : Hw) (t : Nat) : Hw :=
  if !h.watchStep then h
  else
    let base := h.rf Reg.numWatchBaseBase pkgB * 2 ^ 18
    let idle := !h.watchOn
    let counts := h.watch
    let h := { h with watchStep := false, watch := [] }
    let h := if idle then h else
      ((upto 4096).foldl (fun (a : List Nat × Hw) i =>
        let h := a.2
        let at_ := base + 64 * i
        if !(bit (Mem.num h.mem (at_ + 4) 4) 31) then a
        else if h.failing at_ 64 then (a.1, h.readTable at_ 64 (h.coord 28 8))
        else
          let id := Mem.num h.mem at_ 4
          if a.1.contains id then a
          else (id :: a.1, h.watchEntry i t (h.rf Reg.numWatchCtrlStarveSteps pkgB) ((SMap.find? counts id).getD {}))) ([], h)).2
    h.inc Reg.numWatchStepStepCount pkgB 0 1

/-- TIME_SET (R419). -/
def execTimeSet (value : Word) (s : State) : Host.Outcome State Fault Refusal := onHw (timeSet value) s

/-- SYNC_LOST_TIMEOUT (R424). -/
def execSyncLostTimeout (s : State) : Host.Outcome State Fault Refusal := onHw syncLostTimeout s

/-- CINCH (R430). -/
def execCinch (s : State) : Host.Outcome State Fault Refusal := onTl (fun f tl h => cinch f tl s.env h) s

/-- READY (R432). -/
def execReady (frame : Frame) (s : State) : Host.Outcome State Fault Refusal := onHw (ready frame) s

/-- GO (R432). -/
def execGo (frame : Frame) (s : State) : Host.Outcome State Fault Refusal := onTl (go frame) s

/-- FAIL (R432). -/
def execFail (frame : Frame) (s : State) : Host.Outcome State Fault Refusal := onTl (fail frame) s

/-- CINCH_TIMEOUT (R432). -/
def execCinchTimeout (part : Nat) (s : State) : Host.Outcome State Fault Refusal := onTl (cinchTimeout part) s

/-- CINCH_MEMBER_TIMEOUT (R432). -/
def execCinchMemberTimeout (part : Nat) (s : State) : Host.Outcome State Fault Refusal := onTl (cinchMemberTimeout part) s

/-- NUM_WATCH_STEP (R81). -/
def execNumWatchStep (s : State) : Host.Outcome State Fault Refusal := onHw numWatchStep s

end Sys2Proof.Machine
end

