-- ==== Sys2Proof/Machine/Deadline.lean ====
section
/-! DEFINITION. Accounting (R457, R458) and the deadline monitor (R459 to R465). -/

namespace Sys2Proof.Machine

/-- A partition's monitor. -/
def Hw.dlmOf (h : Hw) (p : Nat) : Dlm := SMap.get h.dlm {} p
def Hw.setDlm (h : Hw) (p : Nat) (x : Dlm) : Hw := { h with dlm := SMap.put h.dlm p x }

/-- A DEADLINE event (R465). -/
def Hw.dlmEvent (h : Hw) (kind p plan lag switches beat : Nat) : Hw :=
  h.raise 0x05 (some p) (h.coord 28 10)
    (toBytes 1 kind ++ toBytes 1 (p % 8 + 8 * (plan % 2)) ++ toBytes 2 (Nat.min lag 0xFFFF) ++ toBytes 4 switches
      ++ toBytes 8 beat)

/-- A LAG or PLAN record (R464). -/
def dlmRecord (kind p span ckey lag plan switches target : Nat) : List Byte :=
  toBytes 1 kind ++ toBytes 1 (p % 8) ++ toBytes 2 (span % 4096) ++ toBytes 4 ckey ++ toBytes 2 (Nat.min lag 0xFFFF)
    ++ toBytes 2 (plan % 2) ++ toBytes 4 switches ++ toBytes 8 target ++ rep 40 0

/-- LAG at the leader (R459, R464). -/
def lag (f : Frame) (_ : Env) (h : Hw) : Hw :=
  if !isTimeRec f 5 then h
  else match h.arrive f (fun _ => true) with
    | (false, h) => h
    | (true, h) =>
      let p := recPart f
      let x := h.dlmOf p
      if h.rf Reg.dlmCtrlLeader tmB p = 1 && recKey f = x.ckey then
        h.setDlm p { x with lags := SMap.put x.lags (cNode (Frame.src f)) (pay f.payload 8 2) }
      else h

/-- PLAN at a member (R461, R463, R464). -/
def plan (f : Frame) (e : Env) (h : Hw) : Hw :=
  if !isTimeRec f 6 then h
  else match h.arrive f (fun _ => true) with
    | (false, h) => h
    | (true, h) =>
      let p := recPart f
      let x := h.dlmOf p
      if (e.tl.part p).st = .running && recKey f = x.ckey && h.rf Reg.dlmStatusSwitches tmB p < pay f.payload 0x0C 4 then
        (h.setDlm p { x with pending := some (pay f.payload 0x0A 2 % 2, pay f.payload 0x10 8, pay f.payload 0x0C 4) }).wf
          Reg.dlmStatusPending tmB p 1
      else h

/-- The leader requests a plan at boundary `n` (R460). -/
def Hw.requestPlan (h : Hw) (p pl n l : Nat) : Hw :=
  let x := h.dlmOf p
  let target := n + orElse (h.rf Reg.dlmCtrlLead tmB p) 1
  let sw := h.rf Reg.dlmStatusSwitches tmB p + 1
  let h := h.setDlm p { x with request := some (pl, target) }
  let h := h.wf Reg.dlmStatusPending tmB p 1
  let h := h.dlmEvent (if pl = 1 then 1 else 2) p pl l sw n
  x.members.foldl (fun h k => h.timeSend k (dlmRecord 6 p x.span x.ckey 0 pl sw target)) h

/-- DLM_CMD_p.FORCE (R460). -/
def dlmForce (p pl : Nat) (e : Env) (h : Hw) : Hw :=
  if p < 8 then
    if h.rf Reg.dlmCtrlLeader tmB p = 1 then
      h.requestPlan p (pl % 2) (if (e.tl.part p).st = .running then SMap.get h.partN 0 p else 0)
        (h.rf Reg.dlmStatusMaxlag tmB p)
    else h.regFault 4 (tmB + Reg.dlmCmd.off + Reg.dlmCmd.stride * p)
  else h

/-- At boundary `n`, before BEAT releases: a plan whose target has come is applied (R460, R461). -/
def Hw.dlmApply (h : Hw) (p n : Nat) : Hw :=
  let x := h.dlmOf p
  let x := match x.request with
    | some (_, t) => if t ≤ n then { x with request := none } else x
    | none => x
  match x.pending with
  | some (pl, t, sw) =>
    if n < t then h.setDlm p x
    else
      let h := h.setDlm p { x with pending := none }
      let h := h.wf Reg.dlmStatusPlan tmB p pl
      let h := h.wf Reg.dlmStatusSwitches tmB p sw
      let h := h.wf Reg.dlmStatusPending tmB p (b2n x.request.isSome)
      let h := h.wf Reg.dlmStatusCount tmB p (Nat.min 0xFF (if pl = 0 then x.overCount else x.cleanCount))
      let h := h.planWord p sw pl
      let l := h.rf Reg.beatLagLag tmB p
      let h := h.dlmEvent 3 p pl l sw n
      if t < n then (h.wf Reg.dlmStatusLatePlan tmB p 1).dlmEvent 4 p pl l sw n else h
  | none => (h.setDlm p x).wf Reg.dlmStatusPending tmB p (b2n x.request.isSome)

/-- The leader requests, or where the mode forbids it says that it would have (R462). -/
def Hw.wantPlan (h : Hw) (e : Env) (p pl n l : Nat) : Hw :=
  if e.tl.det && h.rf Reg.dlmCtrlDetAllow tmB p = 0 then h.dlmEvent 5 p pl l (h.rf Reg.dlmStatusSwitches tmB p) n
  else h.requestPlan p pl n l

/-- The leader's judgement at boundary `n` with its own lag (R460, R462). -/
def Hw.dlmJudge (h : Hw) (e : Env) (p n own : Nat) : Hw :=
  let x := h.dlmOf p
  let l := x.lags.foldl (fun a (y : Nat × Nat) => Nat.max a y.2) own
  let h := h.wf Reg.dlmStatusMaxlag tmB p (Nat.min l 0xFFFF)
  if x.request.isSome then h
  else if h.rf Reg.dlmStatusPlan tmB p = 0 then
    let c := if h.rf Reg.dlmCtrlLagLimit tmB p < l then x.overCount + 1 else 0
    let hit := orElse (h.rf Reg.dlmCtrlLagBeats tmB p) 1 ≤ c
    let h := h.setDlm p { x with overCount := if hit then 0 else c }
    let h := h.wf Reg.dlmStatusCount tmB p (if hit then 0 else Nat.min c 0xFF)
    if hit then h.wantPlan e p 1 n l else h
  else
    let r := h.rf Reg.dlmCtrlRecoverBeats tmB p
    let c := if l = 0 then x.cleanCount + 1 else 0
    let hit := r ≠ 0 && r ≤ c
    let h := h.setDlm p { x with cleanCount := if hit then 0 else c }
    let h := h.wf Reg.dlmStatusCount tmB p (if hit then 0 else Nat.min c 0xFF)
    if hit then h.wantPlan e p 0 n l else h

/-- The monitor's part of boundary `n`, after BEAT releases: the leader judges, another member reports a changed lag
(R459, R460). -/
def Hw.dlmBoundary (h : Hw) (e : Env) (p n own : Nat) : Hw :=
  if h.rf Reg.dlmCtrlEnable tmB p = 0 then h
  else if h.rf Reg.dlmCtrlLeader tmB p = 1 then h.dlmJudge e p n own
  else
    let x := h.dlmOf p
    if x.lastSent = own then h
    else (h.setDlm p { x with lastSent := own }).timeSend x.leader (dlmRecord 5 p x.span x.ckey own 0 0 n)

/-- The partition's lag at boundary `n` of its running timeline (R438). -/
def Hw.lagAt (h : Hw) (p n : Nat) : Nat :=
  (h.runningCores p).foldl (fun a x => Nat.max a (n - (h.core x.1 x.2).beat)) 0

/-- BEAT_LAG_p at a boundary (R438). -/
def Hw.noteLag (h : Hw) (p l : Nat) : Hw :=
  let h := h.wf Reg.beatLagLag tmB p (Nat.min l 0xFFFF)
  let h := h.wf Reg.beatLagLateNs tmB p (Nat.min (SMap.get h.acct {} p).lateNs 0xFFFFFFFF)
  if l = 0 then h else h.incSat Reg.beatLagLateBeats tmB p 1

/-- The accounting record of the beat just ended (R457, R458). The vector cycles of engines are timing that the model
does not count: their sum is a free value. -/
def Hw.acctRecord (h : Hw) (p beat plan : Nat) : Hw :=
  let a := SMap.get h.acct {} p
  let h := { h with acct := SMap.put h.acct p {} }
  let base := h.rf Reg.acctRingBase pkgB p * 4096
  if h.rf Reg.acctRingEnable pkgB p = 0 || !(h.loaded p) || h.rf Reg.pkgMemTopTop pkgB * 2 ^ 21 ≤ base then h
  else
    let n := h.rf Reg.acctIdxProd pkgB p
    let (eng, h) := h.drawFree
    let bs := toBytes 8 beat ++ toBytes 8 a.array ++ toBytes 8 a.vector ++ toBytes 8 eng.toNat ++ toBytes 8 a.tx
      ++ toBytes 8 a.rx ++ toBytes 8 a.memory ++ toBytes 6 a.host
      ++ toBytes 1 (Nat.min (h.rf Reg.beatLagLag tmB p) 255) ++ toBytes 1 plan
    let at_ := base + 64 * (n % 2 ^ (h.rf Reg.acctRingLog2n pkgB p + 4))
    let h := if at_ + 64 ≤ h.rf Reg.pkgMemTopTop pkgB * 2 ^ 21 then h.poke at_ bs else h
    h.wf Reg.acctIdxProd pkgB p (n + 1)

/-- LAG (R459). -/
def execLag (frame : Frame) (s : State) : Host.Outcome State Fault Refusal := onHw (lag frame) s

/-- PLAN (R461). -/
def execPlan (frame : Frame) (s : State) : Host.Outcome State Fault Refusal := onHw (plan frame) s

/-- DLM_CMD_FORCE (R460). -/
def execDlmCmdForce (part plan : Nat) (s : State) : Host.Outcome State Fault Refusal := onHw (dlmForce part plan) s

end Sys2Proof.Machine
end

