-- ==== Sys2Proof/Machine/Regs.lean ====
section
/-! DEFINITION. The register range and the function pages as software addresses them (R11 to R15, R39, R473): what a
place names, staging copies, and the timelines on which staged fields take force (R493, R494). -/

namespace Sys2Proof.Machine

/-- The function a place belongs to; none in the register range. -/
def fnOf (key : Nat) : Option Nat := if 2 ^ 40 ≤ key then some ((key - 2 ^ 40) / 0x10000) else none

/-- The offset of a place within its unit or function page, and the block it belongs to. -/
def offOf (key : Nat) : Nat := if 2 ^ 40 ≤ key then (key - 2 ^ 40) % 0x10000 else key % 0x100000
def blockOf (key : Nat) : Nat := key - offOf key

/-- The die and the unit of a place in the register range. -/
def dieOf (key : Nat) : Nat := key / 0x1000000
def unitOf (key : Nat) : Nat := key / 0x100000 % 16

/-- The kind of block a place lies in (R28, R473). -/
def kindOf (key : Nat) : Option UnitKind :=
  match fnOf key with
  | some fn => if fn ≤ 8 then some .fn else none
  | none => unitKind (dieOf key) (unitOf key)

/-- The index of the register of a table that lies at an offset. -/
def RegRow.index? (r : RegRow) (off : Nat) : Option Nat :=
  if off < r.off then none
  else if r.stride = 0 then (if off = r.off then some 0 else none)
  else if (off - r.off) % r.stride = 0 && (off - r.off) / r.stride < r.count then some ((off - r.off) / r.stride)
  else none

/-- A register a function page has: rings beyond its own are absent (R473). -/
def fnHas (fn : Nat) (r : RegRow) (i : Nat) : Bool :=
  if r.off = 0xC000 || r.off = 0xC008 || r.off = 0xC010 then fn = 0
  else if r.off < 0x400 || (0x1000 ≤ r.off && r.off < 0x2000) then i < nSq fn
  else if r.off < 0x3000 then i < nEq fn
  else true

/-- The register table and the index that a place names. -/
def regAt (key : Nat) : Option (RegRow × Nat) :=
  match kindOf key with
  | none => none
  | some k => regTable.findSome? (fun r =>
      if r.unit = k then
        match r.index? (offOf key) with
        | some i => if (match fnOf key with | some fn => fnHas fn r i | none => true) then some (r, i) else none
        | none => none
      else none)

/-- Places of CFG_COMMIT and FN_COMMIT (R493). -/
def isCommit (key : Nat) : Bool := offOf key = (if (fnOf key).isSome then 0x3FF0 else 0xFF000)
def commitKey (block : Nat) : Nat := block + (if (fnOf block).isSome then 0x3FF0 else 0xFF000)

/-! Timelines of staged fields (R493). The fabric's is 0, partition p's p + 1; 9 is the wait of deterministic mode
(R444). -/

/-- The timeline of a register, none where its fields take force at once. -/
def Hw.timelineOf (h : Hw) (e : Env) (r : RegRow) (key i : Nat) : Option Nat :=
  let ofPart (p : Nat) : Option Nat := if (e.tl.part p).st = .running then some (p + 1) else none
  if (fnOf key).isSome then none
  else if dieOf key < 24 then (h.partOf (dieOf key)).bind ofPart
  else if r.perPart then ofPart i
  else if h.node?.isSome then some 0 else none

/-- The timelines of a block's fields. -/
def Hw.timelines (h : Hw) (e : Env) (block : Nat) : List Nat :=
  let running := (upto 8).filter (fun p => (e.tl.part p).st = .running)
  if (fnOf block).isSome then []
  else if dieOf block < 24 then
    match h.partOf (dieOf block) with
    | some p => if running.contains p then [p + 1] else []
    | none => []
  else
    let fabric := if h.node?.isSome then [0] else []
    let per := dieOf block = 28 && (unitOf block = 8 || unitOf block = 10)
    if per then fabric ++ running.map (· + 1) else fabric

/-- Set the staging copy of the RS fields of a register under a mask of written bits (R12, R13). -/
def Hw.stage1 (h : Hw) (r : RegRow) (key mask v : Nat) : Hw :=
  let m := mask &&& r.mask .rs
  if m = 0 then h
  else
    let cur := match SMap.find? h.staged key with
      | some w => w.toNat
      | none => (match SMap.find? h.regs key with | some w => w.toNat | none => r.resetWord) &&& r.mask .rs
    { h with staged := SMap.put h.staged key (BitVec.ofNat 64 ((cur &&& (2 ^ 64 - 1 - m)) ||| (v &&& m))) }

/-- The value a register takes when its staging copy takes force. -/
def Hw.forceWord (h : Hw) (r : RegRow) (key : Nat) (w : Word) : Word :=
  let old := match SMap.find? h.regs key with | some x => x.toNat | none => r.resetWord
  BitVec.ofNat 64 ((old &&& (2 ^ 64 - 1 - r.mask .rs)) ||| (w.toNat &&& r.mask .rs))

/-- The staging copies of a block that a test on the table and the index picks, in ascending place. -/
def Hw.stagedIn (h : Hw) (block : Nat) (pick : RegRow → Nat → Nat → Bool) : List (Nat × RegRow × Nat × Word) :=
  h.staged.filterMap (fun (x : Nat × Word) =>
    if blockOf x.1 = block then
      match regAt x.1 with
      | some (r, i) => if pick r x.1 i then some (x.1, r, i, x.2) else none
      | none => none
    else none)

/-- Staging copies take force together (R493). -/
def Hw.applyStaged (h : Hw) (l : List (Nat × RegRow × Nat × Word)) : Hw :=
  l.foldl (fun (h : Hw) (x : Nat × RegRow × Nat × Word) =>
    { h with regs := SMap.put h.regs x.1 (h.forceWord x.2.1 x.1 x.2.2.2), staged := SMap.del h.staged x.1 }) h

/-- A commit is over: COMMITS advances (R494). -/
def Hw.countCommit (h : Hw) (block : Nat) : Hw :=
  let k := commitKey block
  let c := bits (SMap.get h.regs 0 k).toNat 63 32
  { h with regs := SMap.put h.regs k (BitVec.ofNat 64 ((c + 1) % 2 ^ 32 * 2 ^ 32)), commits := SMap.del h.commits block }

/-- A timeline of a pending commit has taken force; after the last one the commit is over (R494). -/
def Hw.endTimeline (h : Hw) (block t : Nat) : Hw :=
  match SMap.find? h.commits block with
  | none => h
  | some l =>
    if (l.filter (· ≠ t)).isEmpty then h.countCommit block
    else { h with commits := SMap.put h.commits block (l.filter (· ≠ t)) }

/-- CFG_COMMIT or FN_COMMIT as read: COMMITS and PENDING (R494). -/
def Hw.commitWord (h : Hw) (block : Nat) : Nat :=
  bits (SMap.get h.regs 0 (commitKey block)).toNat 63 32 * 2 ^ 32 + (if (SMap.find? h.commits block).isSome then 2 else 0)

end Sys2Proof.Machine
end

