-- ==== Sys2Proof/Machine/HostIf.lean ====
section
/-! DEFINITION. The host interface (17_host_interface.md): doorbells, posting of ring entries, ring commits, host DMA,
interrupts, and loss of the link. -/

namespace Sys2Proof.Machine

/-- BAR0 and the function pages are served (R501). -/
def Hw.served (h : Hw) : Bool := 3 ≤ h.stage

/-- The partition a function stands for: none for the PF (R467). -/
def fnPart (fn : Nat) : Option Nat := if fn = 0 then none else some (fn - 1)

/-- An ERROR record about a ring of a function. A function page has no place in the local map, so ADDR is a value that
the manual leaves open. -/
def Hw.ringError (h : Hw) (kind fn : Nat) : Hw :=
  let (w, h) := h.drawFree
  h.error kind 0 0 0 w.toNat (fnPart fn) (h.coord 28 11)

/-! Doorbells (R474, R479, R480, R490). -/

/-- A write to SQ_DB. -/
def sqDb (fn ring value : Nat) (_ : Env) (h : Hw) : Hw :=
  let b := fkey fn 0
  let v := value % 65536
  if !h.served || 9 ≤ fn || nSq fn ≤ ring || h.rf Reg.sqStatusState b ring ≠ 1 then h
  else if h.rf Reg.sqCfgSize b ring ≤ v then h.ringError 5 fn
  else h.wf Reg.sqStatusTail b ring v

/-- A new HEAD lies in the ring and does not pass TAIL (R480). -/
def headOk (size head tail v : Nat) : Bool := v < size && (v + size - head) % size ≤ (tail + size - head) % size

/-- A write to CQ_DB. -/
def cqDb (fn ring value : Nat) (_ : Env) (h : Hw) : Hw :=
  let b := fkey fn 0
  let v := value % 65536
  if !h.served || 9 ≤ fn || nSq fn ≤ ring || h.rf Reg.cqStatusState b ring ≠ 1 then h
  else if headOk (h.rf Reg.cqCfgSize b ring) (h.rf Reg.cqStatusHead b ring) (h.rf Reg.cqStatusTail b ring) v
  then h.wf Reg.cqStatusHead b ring v
  else h.ringError 5 fn

/-- A write to EQ_DB: with room again, the OVERFLOW record goes first (R490). -/
def eqDb (fn ring value : Nat) (_ : Env) (h : Hw) : Hw :=
  let b := fkey fn 0
  let v := value % 65536
  if !h.served || 9 ≤ fn || nEq fn ≤ ring || h.rf Reg.eqStatusState b ring ≠ 1 then h
  else if headOk (h.rf Reg.eqCfgSize b ring) (h.rf Reg.eqStatusHead b ring) (h.rf Reg.eqStatusTail b ring) v
  then
    let h := h.wf Reg.eqStatusHead b ring v
    if ringFree (h.rf Reg.eqCfgSize b ring) v (h.rf Reg.eqStatusTail b ring) = 0 || !h.io.linkUp then h
    else h.pushOverflow fn ring
  else h.ringError 5 fn

/-! Posting (R475 to R478). -/

/-- The header of a submission entry. -/
structure SqHead where
  opid : Nat
  unit : Nat
  die : Nat
  len : Nat
  fence : Bool
  nocomp : Bool
  int : Bool
  reserved : Nat

/-- The header and body of a 256-byte entry in host memory (R474). -/
def SqHead.of (v : Nat) : SqHead :=
  { opid := fld v 0 31 0, unit := fld v 4 7 0, die := fld v 5 7 0, len := fld v 6 15 0, fence := bit v 64
    nocomp := bit v 65, int := bit v 66, reserved := fld v 8 31 3 + fld v 0xC 159 0 }

/-- The body bytes that a target takes (R475). -/
def targetLen (die unit op : Nat) : Option Nat :=
  if die < 24 then (if unit ≤ 6 then some 128 else none)
  else if die < 28 then (if unit = 8 then some (if op = 0x11 then 128 else 64) else none)
  else if unit = 0 && die < 32 then some 64
  else if die = 28 && (unit = 1 || unit = 8 || unit = 10 || unit = 11) then some 64
  else none

/-- The PART field of a body, where its descriptor has one (R267, R269, R477). -/
def bodyPart (die unit : Nat) (d : Desc) : Option Nat :=
  if 24 ≤ die && die < 28 then
    (if d.fld 0 7 0 = 0x11 then some (d.fld 0 16 14) else if d.fld 0 7 0 = 0x12 then some (d.fld 0 10 8) else none)
  else if 28 ≤ die && unit ≠ 11 then some (d.fld 0 10 8)
  else none

/-- The failing causes of an entry at fetch (R477). -/
def Hw.postCauses (h : Hw) (e : Env) (fn : Nat) (x : SqHead) (d : Desc) : List Status :=
  let part := fnPart fn
  let vf := fn ≠ 0
  (if x.reserved ≠ 0 || targetLen x.die x.unit (d.fld 0 7 0) ≠ some x.len then [Status.badDescriptor] else [])
    ++ (if x.die < 32 && x.unit < 16 && (!(unitExists x.die x.unit) || (x.die < 24 && !(e.cdie x.die)))
        then [Status.destUnreachable] else [])
    ++ (if x.die < 24 && (if vf then h.partOf x.die ≠ part else (h.partOf x.die).isNone) then [Status.refused] else [])
    ++ (if vf && ((bodyPart x.die x.unit d).any (fun p => some p ≠ part)
          || (x.die = 28 && x.unit = 8 && (d.fld 0 7 0 = 0x70 || d.fld 0 7 0 = 0x71))) then [Status.refused] else [])
    ++ (if vf && !(part.any (fun p => h.loaded p)) then [Status.partitionDown] else [])

/-- Of several causes, the one of lowest code is the status (R483). -/
def leastStatus : List Status → Option Status
  | [] => none
  | s :: l => match leastStatus l with
    | some t => some (if s.code ≤ t.code then s else t)
    | none => some s

/-- The WIN_RUNs that wait at M0's engine (R373). -/
def Hw.winWaiting (h : Hw) : Nat := ((h.queue 28 1).filter (fun j => j.body.fld 0 7 0 = 0x10 && !j.started)).length

/-- The target has room in its queue for a descriptor with an OP (R118, R476, R478); M0's engine holds 16 waiting WIN_RUNs
(R373). -/
def Hw.targetRoom (h : Hw) (die unit op : Nat) : Bool :=
  if die < 24 && unit < 4 then (h.core die unit).launches.length < 16
  else (h.queue die unit).length < queueCap die && !(die = 28 && unit = 1 && op = 0x10 && 16 ≤ h.winWaiting)

/-- Completions owed to a completion ring: entries posted from the rings that name it (R478). -/
def Hw.owed (h : Hw) (fn cq : Nat) : Nat :=
  (upto (nSq fn)).foldl (fun n i =>
    if h.rf Reg.sqCfgCq (fkey fn 0) i = cq then n + h.rf Reg.sqStatusOutstanding (fkey fn 0) i else n) 0

/-- A completion ring has a free entry beyond what it is owed. -/
def Hw.cqRoom (h : Hw) (fn cq : Nat) : Bool :=
  let b := fkey fn 0
  cq < nSq fn && h.rf Reg.cqStatusState b cq = 1
    && h.owed fn cq < ringFree (h.rf Reg.cqCfgSize b cq) (h.rf Reg.cqStatusHead b cq) (h.rf Reg.cqStatusTail b cq)

/-- The entry at the head of a ring leaves it, and the next ring of its function has the next turn (R478). -/
def Hw.takeEntry (h : Hw) (fn ring : Nat) : Hw :=
  let b := fkey fn 0
  let h := h.wf Reg.sqStatusHead b ring ((h.rf Reg.sqStatusHead b ring + 1) % orElse (h.rf Reg.sqCfgSize b ring) 1)
  let h := h.wf Reg.sqStatusOutstanding b ring (h.rf Reg.sqStatusOutstanding b ring + 1)
  { h with io := { h.io with sqTurn := SMap.putD 0 h.io.sqTurn fn ((ring + 1) % nSq fn) } }

/-- The entry at the head of a running ring whose completion ring has room for it (R474, R478). -/
def Hw.sqEntry? (h : Hw) (fn ring : Nat) : Option (SqHead × Desc) :=
  let b := fkey fn 0
  let head := h.rf Reg.sqStatusHead b ring
  if h.rf Reg.sqStatusState b ring ≠ 1 || head = h.rf Reg.sqStatusTail b ring || !(h.cqRoom fn (h.rf Reg.sqCfgCq b ring)) then none
  else
    let a := h.rf Reg.sqBaseBase b ring * 256 + 256 * head
    let x := SqHead.of (h.hostNum a 32)
    some (x, BitVec.ofNat 1024 (h.hostNum (a + 32) (if x.len = 64 then 64 else 128)))

/-- An entry that passes its checks waits: for FENCE, or for room at its target (R478). -/
def Hw.sqWaits (h : Hw) (fn ring : Nat) (x : SqHead) (d : Desc) : Bool :=
  (x.fence && h.rf Reg.sqStatusOutstanding (fkey fn 0) ring ≠ 0) || !(h.targetRoom x.die x.unit (d.fld 0 7 0))

/-- A ring has an entry that does not wait. -/
def Hw.sqGoes (h : Hw) (e : Env) (fn ring : Nat) : Bool :=
  match h.sqEntry? fn ring with
  | none => false
  | some (x, d) => (leastStatus (h.postCauses e fn x d)).isSome || !(h.sqWaits fn ring x d)

/-- A ring has its turn: the rings of its function are served in ascending index from the one after the last served, and
none before it has an entry that does not wait (R478). -/
def Hw.sqTurn (h : Hw) (e : Env) (fn ring : Nat) : Bool :=
  let n := nSq fn
  let first := SMap.get h.io.sqTurn 0 fn
  (upto ((ring + n - first) % n)).all (fun i => !(h.sqGoes e fn ((first + i) % n)))

/-- A descriptor goes to its target: a launch to its core, any other to the unit's queue (R475, R476). -/
def Hw.postTo (h : Hw) (die unit : Nat) (d : Desc) (o : Origin) (part : Option Nat) : Hw :=
  if die < 24 && unit < 4 then h.acceptLaunch die unit d o part
  else h.enqueue die unit { body := d, origin := o, part := part, beat := none }

/-- The endpoint takes the next entry of a ring at its turn: it fails its checks, or is posted once FENCE, the target and
the completion ring allow (R477, R478). -/
def sqEntryPost (fn ring : Nat) (e : Env) (h : Hw) : Hw :=
  if !h.io.linkUp || 9 ≤ fn || nSq fn ≤ ring || !(h.sqTurn e fn ring) then h
  else match h.sqEntry? fn ring with
    | none => h
    | some (x, d) =>
      let o : Origin := .ring fn ring x.opid x.nocomp x.int
      match leastStatus (h.postCauses e fn x d) with
      | some s => (h.takeEntry fn ring).complete o ⟨s, 0, 0⟩
      | none =>
        if h.sqWaits fn ring x d then h
        else (h.takeEntry fn ring).postTo x.die x.unit d o (if x.die < 24 then h.partOf x.die else fnPart fn)

/-! Ring commits (R491). -/

/-- A ring's registers: BASE, CFG and STATUS, where HEAD and TAIL lie, and its key among the rings. -/
structure RingRegs where
  base : FieldRef
  size : FieldRef
  enable : FieldRef
  state : FieldRef
  head : FieldRef
  tail : FieldRef
  key : Option (Nat → Nat → Nat)

def sqRegs : RingRegs :=
  ⟨Reg.sqBaseBase, Reg.sqCfgSize, Reg.sqCfgEnable, Reg.sqStatusState, Reg.sqStatusHead, Reg.sqStatusTail, none⟩
def cqRegs : RingRegs :=
  ⟨Reg.cqBaseBase, Reg.cqCfgSize, Reg.cqCfgEnable, Reg.cqStatusState, Reg.cqStatusHead, Reg.cqStatusTail, some cqKey⟩
def eqRegs : RingRegs :=
  ⟨Reg.eqBaseBase, Reg.eqCfgSize, Reg.eqCfgEnable, Reg.eqStatusState, Reg.eqStatusHead, Reg.eqStatusTail, some eqKey⟩

/-- SIZE is a power of two from 16 to 65,536. -/
def ringSizeOk (n : Nat) : Bool := isPow2 n && 16 ≤ n && n ≤ 65536

/-- One ring at a commit: `old` is the hardware before it, `ok` says what else it needs to run. -/
def Hw.commitRing (old h : Hw) (fn : Nat) (r : RingRegs) (i : Nat) (ok : Bool) : Hw :=
  let b := fkey fn 0
  let was := old.rf r.enable b i = 1
  let is := h.rf r.enable b i = 1
  if !is then (if was then h.wf r.state b i 0 else h)
  else if was then
    if old.rf r.base b i = h.rf r.base b i && old.rf r.size b i = h.rf r.size b i then h
    else ((h.setReg r.base.row b i (old.reg r.base.row b i)).setReg r.size.row b i (old.reg r.size.row b i)).ringError 6 fn
  else if ok && ringSizeOk (h.rf r.size b i) then
    let h := ((h.wf r.state b i 1).wf r.head b i 0).wf r.tail b i 0
    match r.key with
    | some k => h.setRing (k fn i) {}
    | none => h
  else h.wf r.state b i 2

/-- A route of the function names an event ring that it lacks (R491). -/
def Hw.routeBad (h : Hw) (fn : Nat) : Bool :=
  (upto 32).any (fun c => h.rf Reg.evtRouteEnable (fkey fn 0) c = 1 && nEq fn ≤ h.rf Reg.evtRouteEq (fkey fn 0) c)

/-- The staged fields of a function page take force together: completion and event rings first, since a submission ring
needs its completion ring RUNNING after the same commit (R491, R493). -/
def Hw.fnApply (h : Hw) (fn : Nat) : Hw :=
  let block := fkey fn 0
  let old := h
  let h := h.applyStaged (h.stagedIn block (fun _ _ _ => true))
  let route := !(h.routeBad fn)
  let h := (upto (nSq fn)).foldl (fun h i =>
    old.commitRing h fn cqRegs i (route && h.rf Reg.cqCfgVector block i < nVec fn)) h
  let h := (upto (nEq fn)).foldl (fun h i =>
    old.commitRing h fn eqRegs i (route && h.rf Reg.eqCfgVector block i < nVec fn)) h
  let h := (upto (nSq fn)).foldl (fun h i =>
    let cq := h.rf Reg.sqCfgCq block i
    old.commitRing h fn sqRegs i (route && cq < nSq fn && h.rf Reg.cqStatusState block cq = 1)) h
  h.countCommit block

/-- FN_COMMIT: at once, but before stage LINKS it stays pending until that stage begins (R493, R501). -/
def fnCommit (fn : Nat) (_ : Env) (h : Hw) : Hw :=
  if !h.served || 9 ≤ fn || (SMap.find? h.commits (fkey fn 0)).isSome then h
  else if h.stage < 5 then { h with commits := SMap.put h.commits (fkey fn 0) [10] }
  else h.fnApply fn

/-- Stage LINKS begins: the ring commits that wait take force (R501). -/
def Hw.ringCommits (h : Hw) : Hw :=
  (upto 9).foldl (fun h fn => if (SMap.find? h.commits (fkey fn 0)).isSome then h.fnApply fn else h) h

/-! Interrupts (R492). -/

/-- DELAY µs after the first entry that no message has reported. -/
def msixModerationDelay (fn : Nat) (isEq : Bool) (ring : Nat) (_ : Env) (h : Hw) : Hw :=
  let b := fkey fn 0
  let key := if isEq then eqKey fn ring else cqKey fn ring
  let delay := if isEq then h.rf Reg.eqModDelay b ring else h.rf Reg.cqModDelay b ring
  let inten := if isEq then h.rf Reg.eqModInten b ring else h.rf Reg.cqModInten b ring
  let vec := if isEq then h.rf Reg.eqCfgVector b ring else h.rf Reg.cqCfgVector b ring
  let x := SMap.get h.io.rings {} key
  if 9 ≤ fn || inten = 0 || delay = 0 || x.unsignalled = 0 || (if isEq then nEq fn else nSq fn) ≤ ring then h
  else
    let h := h.reach (x.first + 1000 * delay)
    (h.setRing key { x with unsignalled := 0 }).sendMsi fn vec

/-- A vector is unmasked; a message held for it goes. -/
def Hw.unmask (h : Hw) (fn v : Nat) : Hw :=
  let k := 0x4000 + 16 * v + 8
  let h := { h with regs := SMap.put h.regs (fkey fn k) (BitVec.ofNat 64 (setBits (h.msixWord fn k) 32 32 0)) }
  if h.pba fn v then (h.setPba fn v false).sendMsi fn v else h

/-- VECTOR_UNMASKED. -/
def vectorUnmasked (fn v : Nat) (_ : Env) (h : Hw) : Hw :=
  if h.served && fn ≤ 8 && v < nVec fn then h.unmask fn v else h

/-! Host DMA (R481, R482). -/

/-- A host DMA descriptor. -/
structure HdmaD where
  op : Nat
  flag : Bool
  bytes : Nat
  host : Nat
  dev : Nat
  flagAddr : Nat
  tag : Nat
  reserved : Nat

def HdmaD.of (d : Desc) : HdmaD :=
  { op := d.fld 0 7 0, flag := d.fld 0 8 8 = 1, bytes := d.fld 4 31 0, host := d.fld 8 63 0, dev := d.fld 0x10 63 0
    flagAddr := d.fld 0x18 63 0, tag := d.fld 0x20 31 0, reserved := d.fld 0 31 9 + d.fld 0x24 223 0 }

/-- An extent of this package's memory lies in what a partition may move: the windows of its C-dies, and the regions its
Keepers hold for it (R482). -/
def Hw.vfMay (h : Hw) (p off n : Nat) : Bool :=
  match spDie off with
  | some d => h.partOf d = some p && off + n ≤ spWin d + 0x10000000
      || h.keepers.any (fun (k : Nat × Keeper) => k.2.resv.any (fun (r : Nat × Resv) => r.1 = p && r.2.base ≤ off && off + n ≤ r.2.base + r.2.size))
  | none => h.keepers.any (fun (k : Nat × Keeper) => k.2.resv.any (fun (r : Nat × Resv) => r.1 = p && r.2.base ≤ off && off + n ≤ r.2.base + r.2.size))

/-- The function that posted an operation. -/
def Origin.fn (o : Origin) : Nat := match o with | .ring fn _ _ _ _ => fn | _ => 0

/-- The check of a host DMA at its decode: the local offset it moves at (R38, R40, R41, R482). -/
def Hw.hdmaDecode (h : Hw) (e : Env) (j : Job) (x : HdmaD) : Except Status Nat :=
  let flagOk := if x.flag then h.flagOk e x.flagAddr else x.flagAddr = 0 && x.tag = 0
  let reach : Except Status Nat := if x.flag then h.flagLoc e x.flagAddr else .ok 0
  let form := (x.op = 1 || x.op = 2) && x.reserved = 0 && flagOk
  if x.bytes = 0 then
    if !form || (!(bit x.dev 63) && bits x.dev 62 48 ≠ 0) || (bit x.dev 63 && h.node?.any (fun n => bits x.dev 62 48 ≠ n))
    then .error .badDescriptor
    else reach
  else
    let l := h.resolve e true x.dev x.bytes
    let vf := j.origin.fn
    let outside := vf ≠ 0 && (match l with | .ok (.here off) => !(h.vfMay (vf - 1) off x.bytes) | _ => true)
    if outside then .error .refused
    else if !form then .error .badDescriptor
    else match l with
      | .ok (.here off) => reach.map (fun _ => off)
      | .ok (.there _ _) => .error .badDescriptor
      | .ok (.regs _) => .error .destUnreachable
      | .error s => .error s

/-- The flag of a transfer, whose window can be reached (R481). -/
def Hw.hdmaFlag (h : Hw) (e : Env) (x : HdmaD) : Option (Nat × Nat × Nat) :=
  match x.flag, h.flagLoc e x.flagAddr with
  | true, .ok a => some (a, x.tag, x.bytes)
  | _, _ => none

/-- A clear holds the window of a transfer's flag (R133). -/
def Hw.hdmaHeld (h : Hw) (e : Env) (x : HdmaD) : Bool := (h.hdmaFlag e x).any (fun f => h.clearing f.1 8)

/-- Bytes of an extent before its first failing word. -/
def Hw.goodBytes (h : Hw) (a n : Nat) : Nat :=
  match (wordsOf a n).find? (fun w => h.badWords.contains w || h.lineBad w) with
  | some w => Nat.min n (w - a)
  | none => n

/-- Bytes moved by a transfer are charged to its function's partition (R453, R457), and its pages stay in the address
translation cache (R466). -/
def Hw.hostMoved (h : Hw) (j : Job) (x : HdmaD) (n : Nat) : Hw :=
  let pages := if n = 0 then [] else (upto ((x.host + n - 1) / 4096 - x.host / 4096 + 1)).map (fun i => x.host / 4096 + i)
  let atc := (pages.foldl (fun (l : List Nat) p => if l.contains p then l else l ++ [p]) h.io.atc)
  let h := { h with io := { h.io with atc := atc.drop (atc.length - 4096) } }
  match fnPart j.origin.fn with
  | some p => { h with acct := SMap.upd h.acct {} p (fun a => { a with host := a.host + n }) }
  | none => h

/-- A transfer ends: its flag is written, or its status and the COUNT the flag would have carried. -/
def Hw.hdmaEnd (h : Hw) (e : Env) (j : Job) (x : HdmaD) (r : Except Fail Unit) : Hw :=
  let flag := (h.hdmaFlag e x).map (fun f => (Loc.here f.1, f.2))
  match r with
  | .ok _ => h.finishJob 28 11 j ⟨.ok, if x.flag then x.bytes else 0, 0⟩ (h.hdmaFlag e x)
  | .error .held => h
  | .error f =>
    let (d, h) := h.failDone j.origin.opid j.part (h.coord 28 11) f
    h.failJob 28 11 j flag d.st d.value

/-- A transfer that the link failed: the bytes before stay moved (R468). The record that DETAIL would name for a poisoned
TLP does not exist, so VALUE is a free value. -/
def Hw.linkFail (h : Hw) (e : Env) (j : Job) (x : HdmaD) (poisoned : Bool) : Hw :=
  let flag := (h.hdmaFlag e x).map (fun f => (Loc.here f.1, f.2))
  if poisoned then
    let (w, h) := h.drawFree
    h.failJob 28 11 j flag .eccUncorrected (bits w.toNat 31 0)
  else h.failJob 28 11 j flag .destUnreachable 0

/-- Bytes a link serves of a transfer before it fails; none when it serves them all. -/
def linkGood (l : HostTransfer) (n : Nat) : Option (Nat × Bool) :=
  match l with
  | .good => none
  | .poisoned k => if k < n then some (k, true) else none
  | .failed k => if k < n then some (k, false) else none

/-- TO_DEVICE. An operation code that is neither of the two is decoded here and fails. -/
def toDevice (link : HostTransfer) (e : Env) (h : Hw) : Hw :=
  match h.queue 28 11 with
  | [] => h
  | j :: _ =>
    let x := HdmaD.of j.body
    if x.op = 2 || h.hdmaHeld e x then h
    else match h.hdmaDecode e j x with
      | .error s => h.failJob 28 11 j none s (if x.flag && !s.ownValue then x.bytes else 0)
      | .ok off =>
        let cut := linkGood link x.bytes
        let n := match cut with | some (k, _) => k | none => x.bytes
        let r := runOp (storeB off (h.hostRead x.host n)) { h with moved := 0 }
        let h := (r.2.chargeMem (fnPart j.origin.fn)).hostMoved j x n
        match r.1, cut with
        | .ok _, some (_, poisoned) => h.linkFail e j x poisoned
        | o, _ => h.hdmaEnd e j x o

/-- TO_HOST. -/
def toHost (link : HostTransfer) (e : Env) (h : Hw) : Hw :=
  match h.queue 28 11 with
  | [] => h
  | j :: _ =>
    let x := HdmaD.of j.body
    if x.op ≠ 2 || h.hdmaHeld e x then h
    else match h.hdmaDecode e j x with
      | .error s => h.failJob 28 11 j none s (if x.flag && !s.ownValue then x.bytes else 0)
      | .ok off =>
        let cut := linkGood link x.bytes
        let n := match cut with | some (k, _) => k | none => x.bytes
        let good := h.goodBytes off n
        let r := runOp (loadB off n) { h with moved := 0 }
        let h := (r.2.chargeMem (fnPart j.origin.fn))
        match r.1, cut with
        | .ok bs, some (_, poisoned) => ((h.hostWrite x.host bs).hostMoved j x n).linkFail e j x poisoned
        | .ok bs, none => ((h.hostWrite x.host bs).hostMoved j x n).hdmaEnd e j x (.ok ())
        | .error .held, _ => h
        | .error f, _ => ((h.hostWrite x.host (Mem.read h.mem off good)).hostMoved j x good).hdmaEnd e j x (.error f)

/-- An ATS invalidation: no transfer is between two of its TLPs, so it completes at once (R470). -/
def atsInvalidation (page : Nat) (_ : Env) (h : Hw) : Hw :=
  { h with io := { h.io with atc := h.io.atc.filter (· ≠ page) } }

/-! Loss of the link, and resets of functions (R495, R496). -/

/-- Every ring of a function is OFF, and its staging copies are at their reset values. -/
def Hw.ringsOff (h : Hw) (fn : Nat) : Hw :=
  let b := fkey fn 0
  let off (h : Hw) (r : RingRegs) (i : Nat) : Hw :=
    if h.rf r.enable b i = 0 && h.rf r.state b i = 0 then h else (h.wf r.enable b i 0).wf r.state b i 0
  let h := (upto (nSq fn)).foldl (fun h i => off (off h sqRegs i) cqRegs i) h
  let h := (upto (nEq fn)).foldl (fun h i => off h eqRegs i) h
  let staged := h.staged.filter (fun (x : Nat × Word) => fnOf x.1 ≠ some fn)
  let back := h.regs.filterMap (fun (x : Nat × Word) =>
    if fnOf x.1 = some fn then
      match regAt x.1 with
      | some (r, _) => if r.mask .rs = 0 then none else some (x.1, BitVec.ofNat 64 (r.resetWord &&& r.mask .rs))
      | none => none
    else none)
  { h with staged := back.foldl (fun (m : SMap Word) x => SMap.put m x.1 x.2) staged }

/-- Host DMA operations of some functions complete with ABORTED. -/
def Hw.abortHdma (h : Hw) (e : Env) (of : Nat → Bool) : Hw :=
  ((h.queue 28 11).filter (fun j => of j.origin.fn)).foldl (fun h j =>
    let x := HdmaD.of j.body
    h.failJob 28 11 j ((h.hdmaFlag e x).map (fun f => (Loc.here f.1, f.2))) .aborted 0) h

/-- The steps of R495 for some functions. -/
def Hw.dropFns (h : Hw) (e : Env) (of : Nat → Bool) : Hw :=
  let h := (upto 9).foldl (fun h fn => if of fn then h.ringsOff fn else h) h
  let h := h.abortHdma e of
  { h with io := { h.io with atc := [] } }

/-- DL_DOWN (R495). -/
def Hw.linkLost (h : Hw) (e : Env) : Hw :=
  let h := { h with io := { h.io with linkUp := false, ideGo := [] } }
  let h := h.dropFns e (fun _ => true)
  let h := h.incSat Reg.hifStatusLinkLosses hifB 0 1
  (h.wf Reg.hifStatusRate hifB 0 0).wf Reg.hifStatusWidth hifB 0 0

def dlDown (e : Env) (h : Hw) : Hw := if h.io.linkUp then h.linkLost e else h

/-- A reset of a function: the PF's takes every function along (R496). -/
def Hw.resetFn (h : Hw) (e : Env) (fn : Nat) : Hw :=
  if 9 ≤ fn || !h.io.linkUp then h else h.dropFns e (fun k => fn = 0 || k = fn)

/-- A rate and a width that HIF_STATUS reports (R466). -/
def linkForm (rate width : Nat) : Bool := (rate = 5 || rate = 6 || rate = 7) && (width = 4 || width = 8 || width = 16)

/-- The link is at L0 (R466, R495). -/
def Hw.linkBack (h : Hw) (rate width : Nat) : Hw :=
  let h := { h with io := { h.io with linkUp := true } }
  (h.wf Reg.hifStatusRate hifB 0 rate).wf Reg.hifStatusWidth hifB 0 width

def dlUp (rate width : Nat) (_ : Env) (h : Hw) : Hw :=
  if h.io.linkUp || !(linkForm rate width) then h else h.linkBack rate width

/-! The commands. -/

/-- SQ_DB (R474). -/
def execSqDb (fn ring value : Nat) (s : State) : Host.Outcome State Fault Refusal := onHw (sqDb fn ring value) s

/-- SQ_ENTRY_POST (R478). -/
def execSqEntryPost (fn ring : Nat) (s : State) : Host.Outcome State Fault Refusal := onHw (sqEntryPost fn ring) s

/-- CQ_DB (R479). -/
def execCqDb (fn ring value : Nat) (s : State) : Host.Outcome State Fault Refusal := onHw (cqDb fn ring value) s

/-- EQ_DB (R490). -/
def execEqDb (fn ring value : Nat) (s : State) : Host.Outcome State Fault Refusal := onHw (eqDb fn ring value) s

/-- FN_COMMIT (R493). -/
def execFnCommit (fn : Nat) (s : State) : Host.Outcome State Fault Refusal := onHw (fnCommit fn) s

/-- MSIX_MODERATION_DELAY (R492). -/
def execMsixModerationDelay (fn : Nat) (isEq : Bool) (ring : Nat) (s : State) : Host.Outcome State Fault Refusal :=
  onHw (msixModerationDelay fn isEq ring) s

/-- VECTOR_UNMASKED (R492). -/
def execVectorUnmasked (fn vector : Nat) (s : State) : Host.Outcome State Fault Refusal := onHw (vectorUnmasked fn vector) s

/-- TO_DEVICE (R482). -/
def execToDevice (link : HostTransfer) (s : State) : Host.Outcome State Fault Refusal := onHw (toDevice link) s

/-- TO_HOST (R482). -/
def execToHost (link : HostTransfer) (s : State) : Host.Outcome State Fault Refusal := onHw (toHost link) s

/-- ATS_INVALIDATION (R470). -/
def execAtsInvalidation (page : Nat) (s : State) : Host.Outcome State Fault Refusal := onHw (atsInvalidation page) s

/-- DL_DOWN (R495). -/
def execDlDown (s : State) : Host.Outcome State Fault Refusal := onHw dlDown s

/-- FLR (R496). -/
def execFlr (fn : Nat) (s : State) : Host.Outcome State Fault Refusal := onHw (fun e h => h.resetFn e fn) s

/-- D3HOT (R496). -/
def execD3hot (fn : Nat) (s : State) : Host.Outcome State Fault Refusal := onHw (fun e h => h.resetFn e fn) s

/-- DL_UP (R495). -/
def execDlUp (rate width : Nat) (s : State) : Host.Outcome State Fault Refusal := onHw (dlUp rate width) s

end Sys2Proof.Machine
end

