-- ==== Sys2Proof/Machine/Threads.lean ====
section
/-! DEFINITION. Threads of control processors as the rest of the package sees them: their state, the answers to their
requests, and their end (R408 to R412). -/

namespace Sys2Proof.Machine

/-- A control processor, and a thread of it. -/
def Hw.cp (h : Hw) (die unit : Nat) : Cp := SMap.get h.cps {} (ukey die unit)
def Hw.setCp (h : Hw) (die unit : Nat) (c : Cp) : Hw := { h with cps := SMap.put h.cps (ukey die unit) c }
def Hw.thread (h : Hw) (die unit t : Nat) : CpThread := SMap.get (h.cp die unit).threads {} t
def Hw.setThread (h : Hw) (die unit t : Nat) (x : CpThread) : Hw :=
  let c := h.cp die unit
  h.setCp die unit { c with threads := SMap.put c.threads t x }

/-- Registers of a control processor. -/
def cpB (die unit : Nat) : Nat := rkey die unit 0

/-- STATE of a thread: 0 IDLE, 1 READY, 2 WAITING, 3 STOPPED. -/
def Hw.threadState (h : Hw) (die unit t : Nat) : Nat := h.rf Reg.cpTstatState (cpB die unit) t
def Hw.setThreadState (h : Hw) (die unit t v : Nat) : Hw := h.wf Reg.cpTstatState (cpB die unit) t v

/-- Key of a thread among those of the package. -/
def threadKey (die unit t : Nat) : Nat := ukey die unit * 16 + t

/-- A request is this thread's. -/
def ofThread (die unit t : Nat) (o : Owner) : Bool :=
  match o with
  | .thread d u k _ _ _ => d = die && u = unit && k = t
  | _ => false

/-- A request is posted: its thread does not wait for it (R409). -/
def isPosted (o : Owner) : Bool := match o with | .thread _ _ _ _ k _ => k = 0 | _ => false

/-- Outstanding requests of a thread. -/
def Hw.outstanding (h : Hw) (die unit t : Nat) : List Req := h.reqs.filter (fun r => ofThread die unit t r.owner)

/-- Outstanding posted requests of a thread, each taking a slot (R409). -/
def Hw.postedOf (h : Hw) (die unit t : Nat) : List Req := (h.outstanding die unit t).filter (fun r => isPosted r.owner)

/-- A posted request overlaps a line (R409). -/
def onLine (node line : Nat) (r : Req) : Bool :=
  r.node = node && r.off / 64 ≤ line && line ≤ (r.off + Nat.max r.bytes 1 - 1) / 64

/-- The integer registers; x0 is not held. -/
def CpThread.rx (x : CpThread) (i : Nat) : Nat := if i = 0 then 0 else (SMap.get x.x 0 i).toNat
def CpThread.wx (x : CpThread) (i v : Nat) : CpThread :=
  if i = 0 then x else { x with x := SMap.put x.x i (BitVec.ofNat 64 v) }

/-- The floating-point registers. -/
def CpThread.rf (x : CpThread) (i : Nat) : Nat := (SMap.get x.f 0 i).toNat
def CpThread.wf (x : CpThread) (i v : Nat) : CpThread := { x with f := SMap.put x.f i (BitVec.ofNat 64 v) }

/-- A single-precision value in a 64-bit register is NaN-boxed. -/
def nanBox (v : Nat) : Nat := v % 2 ^ 32 + (2 ^ 64 - 2 ^ 32)

/-- What a load or an atomic brings to its register, by the kind of the request: 1 to 7 LB, LH, LW, LD, LBU, LHU, LWU;
8 and 9 FLW, FLD; 10 and 11 AMO.W, AMO.D; 12 nothing. -/
def CpThread.take (x : CpThread) (kind rd v : Nat) : CpThread :=
  match kind with
  | 1 => x.wx rd (sext64 8 v)
  | 2 => x.wx rd (sext64 16 v)
  | 3 => x.wx rd (sext64 32 v)
  | 4 => x.wx rd (v % 2 ^ 64)
  | 5 => x.wx rd (v % 2 ^ 8)
  | 6 => x.wx rd (v % 2 ^ 16)
  | 7 => x.wx rd (v % 2 ^ 32)
  | 8 => x.wf rd (nanBox v)
  | 9 => x.wf rd v
  | 10 => x.wx rd (sext64 32 v)
  | 11 => x.wx rd (v % 2 ^ 64)
  | _ => x

/-- A thread stops with a CAUSE (R411): CP_PC names the instruction at which it stopped; what it has outstanding runs to
its end. -/
def Hw.stopThread (h : Hw) (die unit t cause status tval : Nat) : Hw :=
  let b := cpB die unit
  let x := h.thread die unit t
  let h := match x.wait with
    | some (.answer pc) => h.wf Reg.cpPcPc b t pc
    | some (.flag _ _ _ _ pc) => h.wf Reg.cpPcPc b t pc
    | _ => h
  let h := { h with reqs := h.reqs.map (fun (r : Req) => if ofThread die unit t r.owner then { r with owner := .free } else r) }
  let h := h.setThread die unit t { x with wait := none, failed := none }
  let h := h.wf Reg.cpTstatStatus b t status
  let h := h.wf Reg.cpTstatCause b t cause
  let h := h.wf Reg.cpTvalValue b t tval
  h.setThreadState die unit t 3

/-- A thread runs or waits. -/
def Hw.threadLive (h : Hw) (die unit t : Nat) : Bool := h.threadState die unit t = 1 || h.threadState die unit t = 2

/-- Stop every thread of a control processor with CAUSE 7 (R411, R412). -/
def Hw.abortThreads (h : Hw) (die unit : Nat) : Hw :=
  (upto 16).foldl (fun h t => if h.threadLive die unit t then h.stopThread die unit t 7 0 0 else h) h

/-- A waiting thread becomes ready when its wait has ended. -/
def Hw.wakeThread (h : Hw) (die unit t : Nat) : Hw :=
  let x := h.thread die unit t
  let ok := match x.wait with
    | some .slot => (h.postedOf die unit t).length < 8
    | some .fence => (h.outstanding die unit t).isEmpty
    | some (.line n l) => !((h.postedOf die unit t).any (onLine n l))
    | some (.answer _) => (h.outstanding die unit t).all (fun r => isPosted r.owner)
    | _ => false
  if ok && h.threadState die unit t = 2 then (h.setThread die unit t { x with wait := none }).setThreadState die unit t 1
  else h

/-- One answered request of a thread (R409, R411). -/
def Hw.threadAnswer (h : Hw) (r : Req) (x : Resp) : Hw :=
  match r.owner with
  | .thread die unit t rd kind addr =>
    let th := h.thread die unit t
    if kind = 0 then
      let h := if x.code = 0 then h else h.setThread die unit t { th with failed := some (th.failed.getD (x.code, addr)) }
      h.wakeThread die unit t
    else if x.code = 0 then
      (h.setThread die unit t (th.take kind rd (if kind = 10 || kind = 11 then x.old else ofBytes x.data))).wakeThread
        die unit t
    else h.stopThread die unit t 5 x.code addr
  | _ => h

/-- Take up the answers to requests of threads, and forget those nobody waits for. -/
def Hw.settleThreads (h : Hw) : Hw :=
  let mine (r : Req) : Bool := r.resp.isSome && (match r.owner with
    | .thread _ _ _ _ _ _ => true
    | .free => true
    | _ => false)
  let l := h.reqs.filter mine
  l.foldl (fun h r => match r.resp with
    | some x => h.threadAnswer r x
    | none => h) { h with reqs := h.reqs.filter (fun r => !(mine r)) }

end Sys2Proof.Machine
end

