-- ==== Sys2Proof/Machine/Shared.lean ====
section
/-! DEFINITION. The shared address space at its target and at its issuer (R388 to R405): requests of other nodes, their
answers, atomics, the deferral of floating-point ones, and the region table. -/

namespace Sys2Proof.Machine

/-! Atomics (R399). -/

/-- Bytes of an element of an ATOMIC, by AFMT. -/
def afmtBytes (afmt : Nat) : Nat := if afmt % 2 = 0 then 4 else 8

/-- AOP, AFMT and the count of elements fit (R390, R399). -/
def atomicForm (aop afmt n : Nat) : Bool :=
  let most := if afmt % 2 = 0 then 1008 else 504
  if aop = 0x10 then (afmt = 2 || afmt = 3) && 1 ≤ n && n ≤ most
  else if aop = 1 then afmt < 2 && 1 ≤ n && n ≤ most
  else 2 ≤ aop && aop ≤ 0x0A && afmt < 2 && n = 1

/-- The sum of a floating-point element (R44, R45, R50, R399). -/
def faddBits (afmt old a : Nat) : Nat :=
  if afmt = 2 then encodeRounded .fp32 (add32 (decodeElem .fp32 old) (decodeElem .fp32 a))
  else encodeRounded .fp64 (add64 (decodeElem .fp64 old) (decodeElem .fp64 a))

/-- The new value of an element (R399). -/
def atomicNew (aop afmt old a b : Nat) : Nat :=
  let w := 8 * afmtBytes afmt
  match aop with
  | 0x01 => (old + a) % 2 ^ w
  | 0x02 => old &&& a
  | 0x03 => old ||| a
  | 0x04 => old ^^^ a
  | 0x05 => if toSigned w a < toSigned w old then a else old
  | 0x06 => if toSigned w old < toSigned w a then a else old
  | 0x07 => Nat.min old a
  | 0x08 => Nat.max old a
  | 0x09 => a
  | 0x0A => if old = b then a else old
  | _ => faddBits afmt old a

/-- An ATOMIC at the memory that holds its elements (R392, R400): nothing is written where a word, or a line that would be
written in part, fails. Answers OLD of its first element. -/
def atomicApply (aop afmt off : Nat) (ops : List Nat) (b : Nat) : Op Nat := do
  let k := afmtBytes afmt
  let n := k * ops.length
  let bs ← loadB off n
  let h ← get
  let g := grainOf off
  let gs := (upto ((off + n - 1) / g - off / g + 1)).map (fun i => (off / g + i) * g)
  match gs.findSome? (fun x => if off ≤ x && x + g ≤ off + n then none else h.grainBad x g) with
  | some w => do
    set (h.countUncorrected w)
    throw (.ecc w)
  | none =>
    let olds := (upto ops.length).map (fun i => ofBytes ((bs.drop (k * i)).take k))
    storeB off ((olds.zip ops).flatMap (fun (x : Nat × Nat) => toBytes k (atomicNew aop afmt x.1 (x.2 % 2 ^ (8 * k)) (b % 2 ^ (8 * k)))))
    return olds.headD 0

/-! Answers. -/

/-- Send a READ_RESP (R391). -/
def Hw.respond (h : Hw) (src dst tag cls opid status old : Nat) (data : List Byte) : Hw :=
  h.send { typ := 7, cls := cls, tag := tag, src := src, dst := dst, arg := opid % 2 ^ 32 + status % 256 * 2 ^ 32
           payload := granules (toBytes 2 data.length ++ rep 6 0 ++ toBytes 8 old ++ rep 48 0 ++ data) }

/-- What waited for the partner's answers goes on (R538): a failing answer becomes the issuer's status. -/
def Hw.settleMirrors (h : Hw) : Hw :=
  h.mirHold.foldl (fun (h : Hw) (x : Nat × MirHold) =>
    let o : Owner := .mirror x.1
    if !(h.answered o) then h
    else
      let bad := firstFail (h.reqsOf o)
      let h := { h with reqs := h.reqs.filter (fun r => r.owner ≠ o), mirHold := SMap.del h.mirHold x.1 }
      match x.2 with
      | .job die _ j d flag => h.tellPoster die j (d.mirrored bad) flag
      | .reply dst tag cls opid src old =>
        match bad with
        | some s => h.respond src dst tag cls opid s.code 0 []
        | none => h.respond src dst tag cls opid 0 old []) h

/-- A request of another node: the frame's fields and its preamble (R390). -/
structure ReqD where
  opid : Nat
  bytes : Nat
  aop : Nat
  afmt : Nat
  thread : Nat
  tseq : Nat
  issue : Nat
  opa : Nat
  opb : Nat
  res : Bool
  deriving DecidableEq, Repr

/-- Fields of a request preamble (R390). -/
def ReqD.of (p : List Byte) : ReqD :=
  { opid := pay p 0 4, bytes := pay p 4 2, aop := pay p 6 1, afmt := pay p 7 1 % 4, thread := pay p 7 1 / 16
    tseq := pay p 8 4, issue := pay p 0x10 8, opa := pay p 0x18 8, opb := pay p 0x20 8
    res := pay p 7 1 / 4 % 4 = 0 && pay p 0x0C 4 = 0 && pay p 0x28 24 = 0 }

/-- The bytes a request touches at its target. -/
def ReqD.extent (r : ReqD) (typ : Nat) : Nat := if typ = 8 then r.bytes * afmtBytes r.afmt else r.bytes

/-- The form of a request (R390, R392, R399). -/
def ReqD.ok (r : ReqD) (f : Frame) : Bool :=
  let plain := r.aop = 0 && r.afmt = 0 && r.thread = 0 && r.tseq = 0 && r.issue = 0 && r.opa = 0 && r.opb = 0
  let data := Frame.len f = 1 + ceilDiv (r.extent (Frame.typ f)) 64
  r.res && (match Frame.typ f with
    | 1 => plain && 1 ≤ r.bytes && r.bytes ≤ 4032 && data
    | 6 => plain && 1 ≤ r.bytes && r.bytes ≤ 4032 && Frame.len f = 1
    | _ => atomicForm r.aop r.afmt r.bytes && Frame.arg f % afmtBytes r.afmt = 0
        && (if r.bytes = 1 then Frame.len f = 1 else data && r.opa = 0)
        && (r.aop = 0x0A || r.opb = 0) && (r.aop = 0x10 || (r.tseq = 0 && r.issue = 0)))

/-- Operands of an ATOMIC (R399). -/
def ReqD.operands (r : ReqD) (f : Frame) : List Nat :=
  let k := afmtBytes r.afmt
  if r.bytes = 1 then [r.opa % 2 ^ (8 * k)]
  else (upto r.bytes).map (fun i => pay f.payload (64 + k * i) k)

/-- A request is a FADD to be held (R403). -/
def ReqD.deferred (r : ReqD) (e : Env) (typ : Nat) : Bool := typ = 8 && r.aop = 0x10 && e.tl.det

/-- The boundary at which a FADD is due (R403). -/
def Hw.faddDue (h : Hw) (issue : Nat) : Nat := issue + orElse (h.rf Reg.fatomCtrlDefer pkgB) 1

/-- The deferral buffer that holds FADDs for an offset is full (R403). -/
def Hw.deferFull (h : Hw) (off : Nat) : Bool :=
  match spDie off with
  | some d => 2048 ≤ (h.defer.filter (fun x => spDie x.off = some d)).length
  | none => 8192 ≤ (h.defer.filter (fun x => isDev x.off && homeDie x.off = homeDie off)).length

/-- Status of the cases of R392 that need no access. -/
def Hw.reqStatus (h : Hw) (e : Env) (own : Nat) (f : Frame) (r : ReqD) : Status :=
  let n := r.extent (Frame.typ f)
  if !(r.ok f) then .badDescriptor
  else match h.localLoc e .destUnreachable (Frame.arg f) n with
    | .ok (.here _) =>
      if Frame.typ f ≠ 6 && !((h.region own).permits (cNode (Frame.src f)) h.node (Frame.arg f) n) then .writeDenied
      else .ok
    | _ => .destUnreachable

/-- Answer a request; one that wrote a mirrored region is answered once the partner has answered (R391, R538). -/
def Hw.replyTo (h : Hw) (f : Frame) (r : ReqD) (status old : Nat) (data : List Byte) : Hw :=
  if h.mirq.isEmpty || status ≠ 0 then
    h.respond (Frame.dst f) (Frame.src f) (Frame.ptag f) (Frame.cls f) r.opid status old data
  else
    let id := h.nextMir
    let h := h.mirrorOut (.mirror id)
    let x : MirHold := .reply (Frame.src f) (Frame.ptag f) (Frame.cls f) r.opid (Frame.dst f) old
    Hw.settleMirrors { h with nextMir := id + 1, mirHold := SMap.put h.mirHold id x }

/-- The access of a request: OLD and the bytes read. -/
def reqAccess (f : Frame) (r : ReqD) : Op (Nat × List Byte) :=
  match Frame.typ f with
  | 1 => do
    storeB (Frame.arg f) ((f.payload.drop 64).take r.bytes)
    return (0, [])
  | 6 => do return (0, ← loadB (Frame.arg f) r.bytes)
  | _ => do
    let old ← atomicApply r.aop r.afmt (Frame.arg f) (r.operands f) r.opb
    return (if r.aop ≠ 0x10 && r.bytes = 1 then old else 0, [])

/-- A request at its target (R391, R392, R403). -/
def Hw.serveReq (h : Hw) (e : Env) (f : Frame) : Hw :=
  let r := ReqD.of f.payload
  let own := ownerFdie (cDie (Frame.src f))
  let part := h.tagPart own (Frame.ptag f)
  let s := h.reqStatus e own f r
  if s = .writeDenied then (h.incSat Reg.rgnStatusDeniedRx pkgB 0 1).replyTo f r s.code 0 []
  else if s ≠ .ok then h.replyTo f r s.code 0 []
  else if r.deferred e (Frame.typ f) then
    if h.faddDue r.issue ≤ h.fabN then (h.incSat Reg.fatomCntLate pkgB 0 1).replyTo f r Status.timeout.code 0 []
    else
      let d : Deferred := { due := h.faddDue r.issue, src := Frame.src f, thread := r.thread, tseq := r.tseq, off := Frame.arg f
                            afmt := r.afmt, operands := r.operands f, local_ := none, opid := r.opid
                            tag := Frame.ptag f, cls := Frame.cls f }
      { h with defer := h.defer ++ [d] }
  else
    let x := runOp (reqAccess f r) { h with moved := 0 }
    let h := x.2.chargeMem part
    match x.1 with
    | .ok (old, data) => h.replyTo f r 0 old data
    | .error q =>
      let (d, h) := h.failDone 0 part (Frame.dst f) q
      h.replyTo f r d.st.code 0 []

/-- A target can take a request: the window is not being cleared, and a deferral buffer has room (R133, R403). -/
def reqRoom (e : Env) (f : Frame) (h : Hw) : Bool :=
  let r := ReqD.of f.payload
  let own := ownerFdie (cDie (Frame.src f))
  !(h.clearing (Frame.arg f) (Nat.max 1 (r.extent (Frame.typ f))))
    && !(r.deferred e (Frame.typ f) && h.reqStatus e own f r = .ok && h.fabN < h.faddDue r.issue && h.deferFull (Frame.arg f))

/-- A request frame: WRITE, READ_REQ, or an ATOMIC whose AOP is one of `aops`. -/
def reqFrame (typ : Nat) (aops : List Nat) (f : Frame) (e : Env) (h : Hw) : Hw :=
  if Frame.typ f ≠ typ || (typ = 8 && !(aops.contains (ReqD.of f.payload).aop)) then h
  else match h.arrive f (reqRoom e f) with
    | (true, h) => h.serveReq e f
    | (false, g) =>
      if (ReqD.of f.payload).deferred e typ && h.deferFull (Frame.arg f) && !(h.arrived.any (fun b => b.frame = f))
          && g.arrived.any (fun b => b.frame = f) then g.incSat Reg.fatomCntFull pkgB 0 1
      else g

/-! Deferred FADDs (R403). -/

/-- The order in which FADDs due at one boundary are applied. -/
def Deferred.before (a b : Deferred) : Bool :=
  a.src < b.src || (a.src = b.src && (a.thread < b.thread || (a.thread = b.thread && a.tseq < b.tseq)))

/-- Apply one deferred FADD and answer it. -/
def Hw.applyFadd (h : Hw) (d : Deferred) : Hw :=
  let own := ownerFdie (cDie d.src)
  let part := match d.local_ with | some _ => h.partOf (cDie d.src) | none => h.tagPart own d.tag
  let x := runOp (atomicApply 0x10 d.afmt d.off d.operands 0) { h with moved := 0 }
  let h := (x.2.chargeMem part).inc Reg.fatomCntApplied pkgB 0 1
  let (s, h) := match x.1 with
    | .ok _ => (0, h)
    | .error q =>
      let (y, h) := h.failDone 0 part (targetUnit h.node d.off) q
      (y.st.code, h)
  match d.local_ with
  | some id =>
    let h := if h.mirq.isEmpty then h
      else h.mirrorOut (((h.reqs.find? (fun r => r.id = id)).map (fun r => r.owner)).getD .free)
    h.answer id { code := s }
  | none =>
    if h.mirq.isEmpty || s ≠ 0 then h.respond (targetUnit h.node d.off) d.src d.tag d.cls d.opid s 0 []
    else
      let id := h.nextMir
      let h := h.mirrorOut (.mirror id)
      let x : MirHold := .reply d.src d.tag d.cls d.opid (targetUnit h.node d.off) 0
      Hw.settleMirrors { h with nextMir := id + 1, mirHold := SMap.put h.mirHold id x }

/-- Apply the FADDs due at fabric boundary `n` or before; one whose window a clear holds waits for its end (R133,
R404). -/
def Hw.faddReady (h : Hw) (n : Nat) : Hw :=
  let ready (d : Deferred) : Bool := d.due ≤ n && !h.clearing d.off (4 * Nat.max 1 d.operands.length)
  (sortBy Deferred.before (h.defer.filter ready)).foldl Hw.applyFadd
    { h with defer := h.defer.filter (fun d => !(ready d)) }

/-- At fabric boundary `n`: the FADDs due are applied, and TSEQ starts again (R403, R404). -/
def Hw.faddBoundary (h : Hw) (n : Nat) : Hw :=
  { h.faddReady n with tseq := [] }

/-! The issuer. -/

/-- Count failing copies of mirrored writes, once each (MIR_CNT_p.FAILED). -/
def Hw.countMirrors (h : Hw) : Hw :=
  let l := h.reqs.filter (fun r => r.typ = 257 && r.resp.any (fun x => x.code ≠ 0))
  let h := { h with reqs := h.reqs.map (fun (r : Req) =>
    if r.typ = 257 && r.resp.any (fun x => x.code ≠ 0) then { r with typ := 1 } else r) }
  l.foldl (fun h r =>
    match (upto 8).find? (fun p => h.rf Reg.mirPartner pkgB p = r.node && (SMap.get h.mirrors {} p).regions.any (fun m =>
        m.pbase ≤ r.off && r.off < m.pbase + 2 ^ m.log2)) with
    | some p => h.incSat Reg.mirCntFailed pkgB p 1
    | none => h) h

/-- Copies whose requests are answered complete. -/
def Hw.settleCopies (h : Hw) (e : Env) : Hw :=
  h.jobs.foldl (fun (h : Hw) (x : Nat × List Job) =>
    let die := x.1 / 16
    let unit := x.1 % 16
    if die < 24 && (unit = 5 || unit = 6) then
      match h.queue die unit with
      | j :: _ => if j.result.isSome then h.settleJob e die unit j (copyFlag e die unit h j) else h
      | [] => h
    else h) h

/-- Take up every answer that has come to a request of this package. -/
def Hw.settleReqs (h : Hw) (e : Env) : Hw :=
  if h.reqs.isEmpty && h.mirHold.isEmpty then h.settleLandings
  else
    let h := (h.countMirrors.settleThreads.settleMirrors).settleCopies e
    ((upto 4).foldl (fun (h : Hw) i => h.settleKeeper (28 + i)) h).settleLandings

/-- READ_RESP (R391). -/
def readResp (f : Frame) (e : Env) (h : Hw) : Hw :=
  if Frame.typ f ≠ 7 then h
  else match h.arrive f (fun _ => true) with
    | (true, h) =>
      let r : Resp := { code := bits (Frame.arg f) 39 32, old := pay f.payload 8 8
                        data := (f.payload.drop 64).take (pay f.payload 0 2) }
      (h.answer (bits (Frame.arg f) 31 0) r).settleReqs e
    | (false, h) => h

/-! The region table (R394 to R397). -/

/-- Read a region table: the entries in use and well formed, and how many are ignored (R394). -/
def Hw.readRegions (h : Hw) (base : Nat) : List Region × Nat :=
  (upto 4096).foldl (fun (a : List Region × Nat) i =>
    let lo := Mem.num h.mem (base + 16 * i) 8
    let hi := Mem.num h.mem (base + 16 * i + 8) 8
    if !(bit lo 63) then a
    else
      let log2 := bits lo 53 48
      let r : Region := { base := bits lo 47 0, log2 := log2, node := bits hi 14 0, owner := bits hi 30 16, any := bit hi 31 }
      if log2 < 21 || 40 < log2 || r.base % 2 ^ log2 ≠ 0 || 16416 ≤ r.node || bits lo 62 54 ≠ 0 || bit hi 15
        || bits hi 63 32 ≠ 0 then (a.1, a.2 + 1)
      else (a.1 ++ [r], a.2)) ([], 0)

/-- RGN_TBL as the commit that is read for gives it: its staging copy while the commit has not taken force on the fabric
timeline. -/
def Hw.rgnTblWord (h : Hw) : Nat :=
  let k := pkgB + Reg.rgnTbl.off
  if (SMap.get h.commits [] pkgB).contains 0 then
    match SMap.find? h.staged k with
    | some w => w.toNat
    | none => h.reg Reg.rgnTbl pkgB 0
  else h.reg Reg.rgnTbl pkgB 0

/-- REGION_TABLE_LOADED: a transport engine has read its table (R397). -/
def regionTableLoaded (die : Nat) (_ : Env) (h : Hw) : Hw :=
  if die < 24 || 28 ≤ die || h.rf Reg.rgnStatusLoading pkgB = 0 || (SMap.find? h.rgnNext die).isSome then h
  else
    let w := h.rgnTblWord
    let h := h.readTable (bits w 47 16 * 65536) 65536 (h.coord die 8)
    let (l, bad) := h.readRegions (bits w 47 16 * 65536)
    let t : RegionTable := { enable := bit w 0, entries := l, bad := bad }
    let h := { h with rgnNext := SMap.put h.rgnNext die t }
    if (upto 4).all (fun i => (SMap.find? h.rgnNext (24 + i)).isSome) then h.wf Reg.rgnStatusLoading pkgB 0 0 else h

/-- A fabric epoch: tables that have been read take force, LATE if an epoch has fallen since their commit; the epoch is
noted for a read that still runs (R397). -/
def Hw.regionEpoch (h : Hw) : Hw :=
  let h := match h.rgnNext with
    | [] => h
    | (_, t) :: _ =>
      let h := { h with rgn := h.rgnNext.foldl (fun m (x : Nat × RegionTable) => SMap.put m x.1 x.2) h.rgn, rgnNext := [] }
      let h := h.wf Reg.rgnStatusBad pkgB 0 t.bad
      let h := h.wf Reg.rgnStatusInForce pkgB 0 (b2n t.enable)
      if h.rgnLate then h.wf Reg.rgnStatusLate pkgB 0 1 else h
  if h.rf Reg.rgnStatusLoading pkgB = 1 then { h with rgnLate := true } else h

/-- A commit of the package block: each transport engine reads the region table (R397). -/
def Hw.startRegions (h : Hw) : Hw :=
  ({ h with rgnNext := [], rgnLate := false }).wf Reg.rgnStatusLoading pkgB 0 1

/-- WRITE (R391). -/
def execWrite (frame : Frame) (s : State) : Host.Outcome State Fault Refusal := onHw (reqFrame 1 [] frame) s

/-- READ_REQ (R391). -/
def execReadReq (frame : Frame) (s : State) : Host.Outcome State Fault Refusal := onHw (reqFrame 6 [] frame) s

/-- READ_RESP (R391). -/
def execReadResp (frame : Frame) (s : State) : Host.Outcome State Fault Refusal := onHw (readResp frame) s

/-- ATOMIC ADD (R399); an AOP that R399 does not name is answered here. -/
def execAtomicAdd (frame : Frame) (s : State) : Host.Outcome State Fault Refusal :=
  onHw (reqFrame 8 ((upto 256).filter (fun n => n < 2 || (0x0A < n && n ≠ 0x10))) frame) s

/-- ATOMIC AND (R399). -/
def execAtomicAnd (frame : Frame) (s : State) : Host.Outcome State Fault Refusal := onHw (reqFrame 8 [2] frame) s

/-- ATOMIC OR (R399). -/
def execAtomicOr (frame : Frame) (s : State) : Host.Outcome State Fault Refusal := onHw (reqFrame 8 [3] frame) s

/-- ATOMIC XOR (R399). -/
def execAtomicXor (frame : Frame) (s : State) : Host.Outcome State Fault Refusal := onHw (reqFrame 8 [4] frame) s

/-- ATOMIC MIN (R399). -/
def execAtomicMin (frame : Frame) (s : State) : Host.Outcome State Fault Refusal := onHw (reqFrame 8 [5] frame) s

/-- ATOMIC MAX (R399). -/
def execAtomicMax (frame : Frame) (s : State) : Host.Outcome State Fault Refusal := onHw (reqFrame 8 [6] frame) s

/-- ATOMIC MINU (R399). -/
def execAtomicMinu (frame : Frame) (s : State) : Host.Outcome State Fault Refusal := onHw (reqFrame 8 [7] frame) s

/-- ATOMIC MAXU (R399). -/
def execAtomicMaxu (frame : Frame) (s : State) : Host.Outcome State Fault Refusal := onHw (reqFrame 8 [8] frame) s

/-- ATOMIC SWAP (R399). -/
def execAtomicSwap (frame : Frame) (s : State) : Host.Outcome State Fault Refusal := onHw (reqFrame 8 [9] frame) s

/-- ATOMIC CAS (R399). -/
def execAtomicCas (frame : Frame) (s : State) : Host.Outcome State Fault Refusal := onHw (reqFrame 8 [0x0A] frame) s

/-- ATOMIC FADD (R402, R403). -/
def execAtomicFadd (frame : Frame) (s : State) : Host.Outcome State Fault Refusal := onHw (reqFrame 8 [0x10] frame) s

/-- REGION_TABLE_LOADED (R397). -/
def execRegionTableLoaded (die : Nat) (s : State) : Host.Outcome State Fault Refusal := onHw (regionTableLoaded die) s

end Sys2Proof.Machine
end

