-- ==== Sys2Proof/Machine/Tiers.lean ====
section
/-! DEFINITION. Memory tiers (13_memory_tiers.md): the page commands, swaps, the counter policy, patrol scrub and
refresh. -/

namespace Sys2Proof.Machine

/-- Pages of each home (R362). -/
def Hw.homePages (h : Hw) : Nat := h.rf Reg.pkgMemTopTop pkgB / 4

/-- The page of a home by its home index (R362). -/
def pageNo (die q : Nat) : Nat := 4 * q + (die - 28)

/-- The tier of a page: 0 HBM, 1 DDR (R363). -/
def Page.tier (x : Page) : Nat := if x.frame < hbmFrames then 0 else 1

/-- Registers of a migration unit. -/
def migB (die : Nat) : Nat := rkey die 1 0

/-- A page is never moved: its PIN, or a region at a Keeper (R368). -/
def Hw.pageHeld (h : Hw) (p : Nat) : Bool :=
  (h.page p).pin ≠ 0 || h.regions.any (fun r => extOverlap (p * 2 ^ 21) (2 ^ 21) r.1 r.2)

/-- A page command (R369). -/
structure PageD where
  op : Nat
  part : Nat
  first : Nat
  length : Nat
  at_ : Nat
  reserved : Bool
  deriving DecidableEq, Repr

/-- Fields of a page command (R369). -/
def PageD.of (d : Desc) : PageD :=
  { op := d.fld 0 7 0, part := d.fld 0 10 8, first := d.fld 8 63 0, length := d.fld 0x10 63 0, at_ := d.fld 0x18 63 0
    reserved := d.fld 0 31 11 = 0 && d.fld 4 31 0 = 0 && d.fld 0x20 255 0 = 0 }

/-- The format checks of R370. -/
def PageD.ok (c : PageD) (h : Hw) : Bool :=
  c.reserved && 1 ≤ c.op && c.op ≤ 5 && c.first % 2 ^ 21 = 0 && c.length % 2 ^ 21 = 0
    && c.first + c.length ≤ h.rf Reg.pkgMemTopTop pkgB * 2 ^ 21

/-- The pages of a command. -/
def PageD.pages (c : PageD) : List Nat := (upto (c.length / 2 ^ 21)).map (fun i => c.first / 2 ^ 21 + i)

/-- The tier a command names. -/
def PageD.tier (c : PageD) : Nat := if c.op = 1 || c.op = 4 then 0 else 1

/-- The PIN a command gives; none for a move. -/
def PageD.pin (c : PageD) : Option Nat :=
  if c.op = 1 then some 1 else if c.op = 2 then some 2 else if c.op = 3 then some 0 else none

/-- A completion of a page command or of a window program. -/
def Hw.migDone (h : Hw) (j : Job) (s : Status) (v i : Nat) : Hw := h.finishJob 28 1 j ⟨s, v, i⟩

/-- A page command is checked (R370): its checks, then the partition it names (R416, R450); it then waits for its
epoch. -/
def Hw.pageAccept (h : Hw) (j : Job) (c : PageD) : Hw :=
  if h.kpostForeign j.origin c.part then h.migDone j .refused 0 0
  else if !(c.ok h) then h.migDone j .badDescriptor 0 0
  else if !(h.loaded c.part) then h.migDone j .partitionDown 0 0
  else if c.length = 0 then h.migDone j .ok 0 0
  else h.putJob 28 1 { j with started := true, since := h.now }

/-- The oldest page command not yet accepted, when its OP is one of `ops`. -/
def pageCmd (ops : List Nat) (_ : Env) (h : Hw) : Hw :=
  match (h.queue 28 1).find? (fun j => j.body.fld 0 7 0 ≠ 0x10 && !j.started) with
  | some j => if ops.contains (j.body.fld 0 7 0) then h.pageAccept j (PageD.of j.body) else h
  | none => h

/-- The least of a list under an order, the first of equals. -/
def leastBy {α : Type} (lt : α → α → Bool) : List α → Option α
  | [] => none
  | x :: l => some (l.foldl (fun b y => if lt y b then y else b) x)

/-- The `n` least of a list of page indices, in order (R370). -/
def leasts (lt : Nat → Nat → Bool) : Nat → List Nat → List Nat
  | 0, _ => []
  | n + 1, l => match leastBy lt l with
    | none => []
    | some x => x :: leasts lt n (l.filter (fun y => y ≠ x))

/-- The eligible partners in a tier of a home, in the order they are taken (R368, R370). -/
def Hw.partners (h : Hw) (e : Env) (c : PageD) (die n : Nat) : List Nat :=
  let cand := (upto h.homePages).filter (fun q =>
    let p := pageNo die q
    (h.page p).tier = c.tier && !(h.pageHeld p) && !(c.first ≤ p * 2 ^ 21 && p * 2 ^ 21 < c.first + c.length))
  let cnt (q : Nat) : Nat := if e.tl.det then 0 else (h.page (pageNo die q)).count
  leasts (fun a b => cnt a < cnt b || (cnt a = cnt b && a < b)) n cand

/-- Every swap of a command has ended: it completes (R370). -/
def Hw.pageEnded (h : Hw) (tag : Nat) : Hw :=
  if h.swaps.any (fun s => s.2.any (fun w => w.tag = some tag)) then h
  else match (h.queue 28 1).find? (fun j => j.tag = tag) with
    | some j => match j.result with
      | some (s, v) => h.migDone j s v 0
      | none => h.migDone j .ok 0 0
    | none => h

/-- The entries of a page command's pages, and of the homes where partners are sought, are looked up (R365). -/
def Hw.lookUpPages (h : Hw) (c : PageD) : Hw :=
  let h := h.lookUp c.first c.length
  if c.op = 3 || c.pages.all (fun p => (h.page p).tier = c.tier) then h
  else h.badSites.foldl (fun h s => match s with
    | .pageMap p => if c.pages.any (fun q => q % 4 = p % 4) then h.lookUp (p * 2 ^ 21) 1 else h
    | _ => h) h

/-- A page command applies (R370); one that meets a failing entry ends with ABORTED (R24, R365). -/
def Hw.pageApply (h : Hw) (e : Env) (j : Job) : Hw :=
  let c := PageD.of j.body
  let h := h.lookUpPages c
  if h.mapFault.isSome then h.migDone j .aborted 0 0
  else if c.op = 3 then
    let h := c.pages.foldl (fun (h : Hw) p => h.setPage p { h.page p with pin := 0 }) h
    h.migDone j .ok 0 0
  else
    let out := c.pages.filter (fun p => (h.page p).tier ≠ c.tier)
    let homes := (upto 4).map (fun i =>
      let die := 28 + i
      let mine := (out.filter (fun p => p % 4 = i)).map (fun p => p / 4)
      (die, mine, h.partners e c die mine.length))
    if out.any h.pageHeld || homes.any (fun (x : Nat × List Nat × List Nat) => x.2.2.length < x.2.1.length) then
      h.migDone j .refused 0 0
    else
      let h := match c.pin with
        | some v => (c.pages.filter (fun p => (h.page p).tier = c.tier)).foldl (fun (h : Hw) p =>
            h.setPage p { h.page p with pin := v }) h
        | none => h
      let h := homes.foldl (fun h (x : Nat × List Nat × List Nat) =>
        let l := (x.2.1.zip x.2.2).map (fun (y : Nat × Nat) =>
          (if c.tier = 0 then ⟨y.1, y.2, some j.tag⟩ else ⟨y.2, y.1, some j.tag⟩ : Swap))
        if l.isEmpty then h else { h with swaps := SMap.upd h.swaps [] x.1 (fun q => q ++ l) }) h
      h.pageEnded j.tag

/-- Commands whose epoch has come apply in their turn, one at a time, and not while a swap is under way (R370, R371). -/
def Hw.applyPages (h : Hw) (e : Env) : Nat → Hw
  | 0 => h
  | n + 1 =>
    if h.swaps.any (fun s => !s.2.isEmpty) then h
    else match (h.queue 28 1).find? (fun j => j.body.fld 0 7 0 ≠ 0x10 && j.flagged) with
      | some j => Hw.applyPages (h.pageApply e j) e n
      | none => h

/-- At an epoch of the fabric timeline, at counter value `t`, the commands at or past their AT become due (R370). -/
def Hw.pageEpoch (h : Hw) (e : Env) (t : Nat) : Hw :=
  let q := (h.queue 28 1).map (fun j =>
    if j.body.fld 0 7 0 ≠ 0x10 && j.started && j.body.fld 0x18 63 0 ≤ t then { j with flagged := true } else j)
  let h := if q.isEmpty then h else h.setQueue 28 1 q
  h.applyPages e (q.length + 1)

/-! Swaps. -/

/-- The first word of a page that fails its check, or whose line does (R367). -/
def Hw.pageBad (h : Hw) (p : Nat) : Option Nat :=
  let lo := p * 2 ^ 21
  let mine (w : Nat) : Bool := lo ≤ w && w < lo + 2 ^ 21
  leastBy (fun a b => a < b) (h.badWords.filter mine ++ h.badLines.filter mine)

/-- Traffic charged to a partition (R369, R453). -/
def Hw.chargeBytes (h : Hw) (p n : Nat) : Hw :=
  { h with acct := SMap.upd h.acct {} p (fun a => { a with memory := a.memory + n }) }

/-- A read of a swap fails on page `p` at `w` (R367, R521, R522). -/
def Hw.abandon (h : Hw) (die : Nat) (sw : Swap) (p w : Nat) : Hw :=
  let word := h.badWords.contains w
  let h := h.countUncorrected w
  let st := if sw.tag.isSome then Status.eccUncorrected.code else 0
  let job := (h.queue 28 1).find? (fun j => some j.tag = sw.tag)
  let opid := match job with | some j => j.origin.opid | none => 0
  let part := job.map (fun j => j.body.fld 0 10 8)
  let seq := h.io.evSeq
  let h := h.error (if word then 1 else 2) 2 st opid (h.globalAddr w) part (h.coord die 1)
  let h := h.error 8 0 st opid (h.globalAddr w) part (h.coord die 1)
  let h := h.setPage p { h.page p with pin := 3 }
  let h := h.incSat Reg.migStatusAbandoned (migB die) 0 1
  match job with
  | some j => h.putJob 28 1 { j with result := some (j.result.getD (.eccUncorrected, seq)) }
  | none => h

/-- A word lies in one of the two pages of a swap. -/
def Swap.has (sw : Swap) (die w : Nat) : Bool := w / 2 ^ 21 = pageNo die sw.up || w / 2 ^ 21 = pageNo die sw.down

/-- A swap carried out (R366, R367): the pages exchange frames, corrected words are written corrected, and the pages of
a PIN command take their pin. -/
def Hw.exchangePages (h : Hw) (die : Nat) (sw : Swap) : Hw :=
  let u := pageNo die sw.up
  let d := pageNo die sw.down
  let mine (w : Nat) : Bool := sw.has die w
  let h := { h with corrWords := h.corrWords.filter (fun w => !(mine w)) }
  let fu := (h.page u).frame
  let fd := (h.page d).frame
  let h := (h.setPage u { h.page u with frame := fd }).setPage d { h.page d with frame := fu }
  let h := h.inc Reg.migStatusSwaps (migB die) 0 1
  match (h.queue 28 1).find? (fun j => some j.tag = sw.tag) with
  | some j =>
    let c := PageD.of j.body
    let h := h.chargeBytes c.part (2 ^ 23)
    match c.pin with
    | some v => let p := if c.tier = 0 then u else d
                h.setPage p { h.page p with pin := v }
    | none => h
  | none => h

/-- A swap that no longer may be done, since a region reserved after it was chosen overlaps a page of it, is not done
(R224, R368); its command, where it has one, ends with REFUSED as it would have had the region been there (DESIGN CHOICE,
log entry 120). -/
def Hw.dropSwap (h : Hw) (sw : Swap) : Hw :=
  match (h.queue 28 1).find? (fun j => some j.tag = sw.tag) with
  | some j => h.putJob 28 1 { j with result := some (j.result.getD (.refused, 0)) }
  | none => h

/-- A swap that waits at a home is done or not: not when a Keeper region overlaps a page (R224) or the page map fails
(R365). Step 1 decodes both pages whole and counts their corrected words, then a failing one ends the swap (R367). Which
of two pages is found failing first, where both are, the manual leaves open. -/
def Hw.trySwap (h : Hw) (die : Nat) (sw : Swap) : Hw :=
  let u := pageNo die sw.up
  let d := pageNo die sw.down
  let over_ (p : Nat) : Bool := h.regions.any (fun r => extOverlap (p * 2 ^ 21) (2 ^ 21) r.1 r.2)
  if over_ u || over_ d then h.dropSwap sw
  else
    let h := (h.lookUp (u * 2 ^ 21) 1).lookUp (d * 2 ^ 21) 1
    if h.mapFault.isSome then h
    else
      let h := (h.corrWords.filter (sw.has die)).foldl Hw.countCorrected h
      match h.pageBad u, h.pageBad d with
      | some a, some b =>
        let (v, h) := h.drawFree
        if v.toNat % 2 = 0 then h.abandon die sw u a else h.abandon die sw d b
      | some a, none => h.abandon die sw u a
      | none, some b => h.abandon die sw d b
      | none, none => h.exchangePages die sw

/-- PAGE_SWAP (R366, R367): the first swap that waits at a home. -/
def pageSwap (die : Nat) (e : Env) (h : Hw) : Hw :=
  match SMap.get h.swaps [] die with
  | [] => h
  | sw :: rest =>
    let h := ({ h with swaps := SMap.put h.swaps die rest } : Hw).trySwap die sw
    let h := match sw.tag with
      | some t => h.pageEnded t
      | none => h
    h.applyPages e ((h.queue 28 1).length + 1)

/-- MIG_CTRL of a home: MAX_SWAPS pairs at most (R371). -/
def Hw.policyPairs (h : Hw) (die : Nat) : Nat → List (Nat × Nat) → List (Nat × Nat)
  | 0, acc => acc
  | n + 1, acc =>
    let cnt (q : Nat) : Nat := (h.page (pageNo die q)).count
    let free (t q : Nat) : Bool :=
      (h.page (pageNo die q)).tier = t && !(h.pageHeld (pageNo die q)) && acc.all (fun x => x.1 ≠ q && x.2 ≠ q)
    let d := leastBy (fun a b => cnt b < cnt a) ((upto h.homePages).filter (fun q =>
      free 1 q && h.rf Reg.migCtrlPromoteMin (migB die) ≤ cnt q))
    let b := leastBy (fun a b => cnt a < cnt b) ((upto h.homePages).filter (free 0))
    match d, b with
    | some d, some b =>
      if cnt d < cnt b + h.rf Reg.migCtrlHyst (migB die) then acc
      else Hw.policyPairs h die n (acc ++ [(d, b)])
    | _, _ => acc

/-- The end of the interval in hand at a home: INTERVAL µs after its beginning, 0 taken as 1 (R371). -/
def Hw.migEnd (h : Hw) (die : Nat) : Nat :=
  SMap.get h.migSince 0 die + orElse (h.rf Reg.migCtrlInterval (migB die)) 1 * 1000

/-- COUNTER_POLICY (R371, R372): the end of an interval at a home, which a policy swap still running delays. The interval
after it begins at that moment (DEDUCED, log entry 121). -/
def counterPolicy (die : Nat) (e : Env) (h : Hw) : Hw :=
  if die < 28 || 31 < die || h.rf Reg.migCtrlAuto (migB die) = 0 || e.tl.det || !(SMap.get h.swaps [] die).isEmpty then h
  else
    let h := h.reach (h.migEnd die)
    let h := { h with migSince := SMap.put h.migSince die h.now }
    let pairs := h.policyPairs die (h.rf Reg.migCtrlMaxSwaps (migB die)) []
    let h := { h with pages := h.pages.map (fun (x : Nat × Page) =>
      if x.1 % 4 = die - 28 then (x.1, { x.2 with count := x.2.count / 2 }) else x) }
    if pairs.isEmpty then h
    else { h with swaps := SMap.put h.swaps die (pairs.map (fun (x : Nat × Nat) => (⟨x.1, x.2, none⟩ : Swap))) }

/-! Scrub and refresh. -/

/-- The stack or channel of a unit reads and writes: a trained stack, or a channel in use (R360, R361). -/
def Hw.memUp (h : Hw) (die unit : Nat) : Bool :=
  if unit = 2 || unit = 3 then h.rf Reg.hbmStatusState (rkey die unit 0) = 2
  else 4 ≤ unit && unit ≤ 7 && h.rf Reg.ddrStatusInUse (rkey die unit 0) = 1

/-- Place of a line among the lines of a home: frames in order, then the offset in the frame. -/
def Hw.linePlace (h : Hw) (a : Nat) : Nat := (h.page (pageOf a)).frame * 2 ^ 21 + a % 2 ^ 21 / 64 * 64

/-- The line that holds a byte place of a home's frames, by its offset. -/
def Hw.lineAt (h : Hw) (die place : Nat) : Option Nat :=
  let f := place / 2 ^ 21
  let q := match List.find? (fun (x : Nat × Page) => x.1 % 4 = die - 28 && x.2.frame = f) h.pages with
    | some x => some (x.1 / 4)
    | none => if (h.page (pageNo die f)).frame = f then some f else none
  match q with
  | some q => if q < h.homePages then some (pageNo die q * 2 ^ 21 + place % 2 ^ 21) else none
  | none => none

/-- A unit holds the 4 KiB block at a place of its home's frames (R364). -/
def Hw.holdsPlace (h : Hw) (die unit place : Nat) : Bool :=
  let hbm := place / 2 ^ 21 < hbmFrames
  if unit < 4 then hbm && 2 + place / 4096 % 2 = unit
  else !hbm && 4 + (if h.ddrUsed die = 4 then place / 4096 % 4 else place / 4096 % 2) = unit

/-- The next line of a unit at or after a place (R387): lines in ascending order of frame and offset, wrapping. The
blocks of a unit recur every 16 KiB at most within its tier. -/
def Hw.nextLine (h : Hw) (die unit place : Nat) : Nat :=
  let lo := if unit < 4 then 0 else hbmFrames * 2 ^ 21
  let hi := if unit < 4 then hbmFrames * 2 ^ 21 else h.homePages * 2 ^ 21
  let start := if place < lo || hi ≤ place then lo else place
  let try_ (p : Nat) : Option Nat :=
    (upto 5).findSome? (fun i =>
      let x := if i = 0 then p else (p / 4096 + i) * 4096
      if x < hi && h.holdsPlace die unit x then some x else none)
  match try_ start with
  | some x => x
  | none => (try_ lo).getD lo

/-- PATROL_SCRUB (R387): the next line of a stack or channel is read; corrected words are written back, an uncorrectable
line is recorded and left. -/
def patrolScrub (die unit : Nat) (_ : Env) (h : Hw) : Hw :=
  if die < 28 || 31 < die || !(h.memUp die unit) || h.rf Reg.migCtrlScrub (migB die) = 0 then h
  else
    let place := h.nextLine die unit (SMap.get h.scrubs 0 (ukey die unit))
    let h := { h with scrubs := SMap.put h.scrubs (ukey die unit) (place + 64) }
    match h.lineAt die place with
    | none => h
    | some a =>
      match h.grainBad a 64 with
      | some w =>
        let h := h.countUncorrected w
        h.error (if h.badWords.contains w then 1 else 2) 1 0 0 (h.globalAddr w) none (h.coord die unit)
      | none =>
        let mine := h.corrWords.filter (fun w => w / 64 * 64 = a)
        let h := mine.foldl Hw.countCorrected h
        { h with corrWords := h.corrWords.filter (fun w => w / 64 * 64 ≠ a) }

/-- PIN_HBM (R370); a page command whose OP is reserved fails here. -/
def execPinHbm (s : State) : Host.Outcome State Fault Refusal :=
  onHw (pageCmd ((upto 256).filter (fun n => n = 1 || ((n = 0 || 5 < n) && n ≠ 0x10)))) s

/-- PIN_DDR (R370). -/
def execPinDdr (s : State) : Host.Outcome State Fault Refusal := onHw (pageCmd [2]) s

/-- UNPIN (R370). -/
def execUnpin (s : State) : Host.Outcome State Fault Refusal := onHw (pageCmd [3]) s

/-- MOVE_HBM (R370). -/
def execMoveHbm (s : State) : Host.Outcome State Fault Refusal := onHw (pageCmd [4]) s

/-- MOVE_DDR (R370). -/
def execMoveDdr (s : State) : Host.Outcome State Fault Refusal := onHw (pageCmd [5]) s

/-- PAGE_SWAP (R366). -/
def execPageSwap (die : Nat) (s : State) : Host.Outcome State Fault Refusal := onHw (pageSwap die) s

/-- COUNTER_POLICY (R371). -/
def execCounterPolicy (die : Nat) (s : State) : Host.Outcome State Fault Refusal := onHw (counterPolicy die) s

/-- PATROL_SCRUB (R387). -/
def execPatrolScrub (die unit : Nat) (s : State) : Host.Outcome State Fault Refusal := onHw (patrolScrub die unit) s

/-- REFRESH (R386): it changes timing only; REFRESH_2X tells whether the device's standard doubles the rate, which the
manual leaves to that standard, a free value. -/
def refresh (die unit : Nat) (_ : Env) (h : Hw) : Hw :=
  if 28 ≤ die && die < 32 && h.memUp die unit then
    let (w, h) := h.drawFree
    h.wf (if unit < 4 then Reg.hbmStatusRefresh2x else Reg.ddrStatusRefresh2x) (rkey die unit 0) 0 (w.toNat % 2)
  else h

/-- REFRESH (R386). -/
def execRefresh (die unit : Nat) (s : State) : Host.Outcome State Fault Refusal := onHw (refresh die unit) s

end Sys2Proof.Machine
end

