-- ==== Sys2Proof/Machine/Window.lean ====
section
/-! DEFINITION. Window programs (R373 to R383): WIN_RUN, the six steps, timeouts and the abort. -/

namespace Sys2Proof.Machine

/-- Replace the program of a partition. -/
def Hw.putWin (h : Hw) (part : Nat) (r : WinRun) : Hw := { h with wins := SMap.put h.wins part r }

/-- A window program of a partition ends (R383, R485). -/
def Hw.winStop (h : Hw) (part : Nat) (s : Status) (v : Nat) : Hw :=
  match SMap.find? h.wins part with
  | none => h
  | some r =>
    let h := { h with wins := SMap.del h.wins part }
    match (h.queue 28 1).find? (fun j => j.tag = r.tag) with
    | some j => h.migDone j s v r.index
    | none => h

/-- A window program ends by a failure of an access (R383, R522). -/
def Hw.winFail (h : Hw) (part : Nat) (f : Fail) : Hw :=
  match SMap.find? h.wins part with
  | none => h
  | some r =>
    let opid := match (h.queue 28 1).find? (fun j => j.tag = r.tag) with | some j => j.origin.opid | none => 0
    let (d, h) := h.failDone opid (some part) (h.coord 28 1) f
    h.winStop part d.st d.value

/-- A flag address: 8-byte aligned in a scratchpad window; the status of one that is not there (R376). -/
def Hw.winFlag (h : Hw) (e : Env) (a n : Nat) : Except Status Nat :=
  match h.resolveMem e true a n with
  | .ok (.here off) => if off % 8 = 0 && (spDie off).isSome then .ok off else .error .badDescriptor
  | .ok _ => .error .badDescriptor
  | .error s => .error s

/-- Flags of a program lie in the scratchpad of an enabled C-die of its partition (R374). -/
def Hw.winFlags (h : Hw) (e : Env) (part a n : Nat) : Option Nat :=
  match h.winFlag e a n with
  | .ok off => if (spDie off).any (fun d => h.partOf d = some part) then some off else none
  | .error _ => none

/-- The window: device memory below PKG_MEM_TOP; registers answer when first written (R41, R374). -/
def Hw.windowOk (h : Hw) (e : Env) (a n : Nat) : Bool :=
  match h.resolve e true a n with
  | .ok (.here off) => isDev off
  | .ok (.regs _) => true
  | _ => false

/-- The header of a program (R374), read whole. -/
def Hw.winHeader (h : Hw) (e : Env) (part tag runid prog : Nat) (bs : List Byte) : Option WinRun :=
  let v := ofBytes bs
  let nsteps := fld v 4 31 0
  let window := fld v 8 63 0
  let slotBytes := fld v 0x10 31 0
  let nslots := fld v 0x14 15 0
  if fld v 0 7 0 ≠ 0x50 || fld v 0 31 8 ≠ 0 || nsteps = 0 || 65536 < nsteps || window % 4096 ≠ 0 || slotBytes = 0
    || slotBytes % 4096 ≠ 0 || nslots = 0 || 256 < nslots || fld v 0x14 31 16 ≠ 0 || fld v 0x28 191 0 ≠ 0
    || !(h.windowOk e window (nslots * slotBytes)) then none
  else match h.winFlags e part (fld v 0x18 63 0) (8 * nslots), h.winFlags e part (fld v 0x20 63 0) (8 * (nslots + 1)) with
    | some rel, some arr =>
      some { tag := tag, runid := runid, prog := bits prog 47 0, nsteps := nsteps, window := window
             slotBytes := slotBytes, nslots := nslots, release := rel, arrive := arr }
    | _, _ => none

/-- Start a window program (R373, R374). -/
def Hw.winStart (h : Hw) (e : Env) (j : Job) : Hw :=
  let d := j.body
  let part := d.fld 0 10 8
  let prog := d.fld 8 63 0
  if h.kpostForeign j.origin part then h.migDone j .refused 0 0
  else if d.fld 0 31 11 ≠ 0 || d.fld 4 31 16 ≠ 0 || d.fld 0x10 383 0 ≠ 0 || prog % 64 ≠ 0 then h.migDone j .badDescriptor 0 0
  else if !(h.loaded part) then h.migDone j .partitionDown 0 0
  else match h.resolve e true prog 64 with
    | .error s => h.migDone j s 0 0
    | .ok (.here off) =>
      if !(isDev off) then h.migDone j .badDescriptor 0 0
      else
        let r := runOp (loadB off 64) { h with moved := 0 }
        let h := r.2.chargeMem (some part)
        match r.1 with
        | .error f =>
          let (d, h) := h.failDone j.origin.opid (some part) (h.coord 28 1) f
          h.migDone j d.st d.value 0
        | .ok bs => match h.winHeader e part j.tag (d.fld 4 15 0) prog bs with
          | none => h.migDone j .badDescriptor 0 0
          | some r => (h.putJob 28 1 { j with started := true }).putWin part r
    | .ok _ => h.migDone j .destUnreachable 0 0

/-- WIN_RUN (R373): the oldest that waits and whose partition runs no program. -/
def winRun (e : Env) (h : Hw) : Hw :=
  match (h.queue 28 1).find? (fun j =>
      j.body.fld 0 7 0 = 0x10 && !j.started && (SMap.find? h.wins (j.body.fld 0 10 8)).isNone) with
  | some j => h.winStart e j
  | none => h

/-! Steps. -/

/-- A step (R375). -/
structure StepD where
  op : Nat
  xform : Nat
  fmt : Nat
  slot : Nat
  a : Nat
  b : Nat
  c : Nat
  d : Nat
  nslot : Nat
  src : Nat
  totals : Nat
  tflag : Nat
  ttag : Nat
  gen : Nat
  records : Nat
  reserved : Bool
  deriving DecidableEq, Repr

/-- Fields of a step (R375). -/
def StepD.of (s : BitVec 512) : StepD :=
  let v := s.toNat
  { op := fld v 0 7 0, xform := fld v 0 9 8, fmt := fld v 0 15 12, slot := fld v 0 31 16, a := fld v 4 31 0
    b := fld v 8 31 0, c := fld v 0x0C 31 0, d := fld v 0x10 31 0, nslot := fld v 0x14 15 0, src := fld v 0x18 63 0
    totals := fld v 0x20 63 0, tflag := fld v 0x28 63 0, ttag := fld v 0x30 31 0, gen := fld v 0x34 31 0
    records := fld v 0x38 63 0, reserved := fld v 0 11 10 = 0 && fld v 0x14 31 16 = 0 }

/-- Fields that an OP does not use are zero (R375). -/
def StepD.unusedOk (s : StepD) : Bool :=
  let ex := s.nslot = 0 && s.totals = 0 && s.tflag = 0 && s.ttag = 0 && s.gen = 0 && s.records = 0
  let mv := s.xform = 0 && s.fmt = 0 && s.slot = 0 && s.c = 0 && s.d = 0
  match s.op with
  | 1 => ex && (s.xform ≠ 0 || s.fmt = 0)
  | 2 => s.xform ≠ 0 || s.fmt = 0
  | 3 => ex && mv && s.b = 0
  | 4 => ex && mv && s.src = 0
  | _ => ex && mv && s.a = 0 && s.b = 0 && s.src = 0

/-- The element format of a step's tiles. -/
def StepD.tileFmt (s : StepD) : Fmt := (Fmt.ofCode s.fmt).getD .e4m3

/-- The worst-case output of a FETCH or of a replica's fetch (R376). -/
def StepD.worst (s : StepD) : Nat :=
  if s.xform = 2 then 32 + 4 * s.a * ceilDiv s.b 256 + s.a * rowBound s.tileFmt s.b else s.a * s.d

/-- Strides, formats and sizes of a FETCH or EXPERTS (R376). -/
def StepD.moveOk (s : StepD) (r : WinRun) : Bool :=
  s.xform ≠ 3
    && (s.xform = 0 || (match Fmt.ofCode s.fmt with | some f => f.tileOk | none => false))
    && (if s.op = 1 then s.slot < r.nslots else 1 ≤ s.nslot && s.slot + s.nslot ≤ r.nslots)
    && (if s.xform = 0 then s.b ≤ s.c && s.b ≤ s.d
        else rowBound s.tileFmt s.b ≤ s.c && (if s.xform = 1 then s.tileFmt.rowBytes s.b ≤ s.d else s.d = 0))
    && s.worst ≤ r.slotBytes

/-- The checks of a step before it accesses memory (R376). -/
def StepD.ok (s : StepD) (h : Hw) (e : Env) (r : WinRun) : Bool :=
  let flagOk (a : Nat) : Bool := match h.winFlag e a 8 with | .error .badDescriptor => false | _ => true
  s.reserved && 1 ≤ s.op && s.op ≤ 6 && s.unusedOk
    && (match s.op with
      | 1 => s.moveOk r && (match h.resolve e true s.src 1 with
        | .ok (.here off) => isDev off
        | .error .badDescriptor => false
        | _ => true)
        && (s.xform ≠ 0 || s.a = 0 || s.b = 0 || (match h.resolve e true s.src ((s.a - 1) * s.c + s.b) with
          | .error .badDescriptor => false
          | _ => true))
      | 2 => s.moveOk r && flagOk s.tflag && h.addrOk e s.totals && h.addrOk e s.records
      | 3 => flagOk s.src
      | 4 => s.a < r.index && 1 ≤ s.b
      | _ => true)

/-- Continue at a step. -/
def Hw.winGo (h : Hw) (part : Nat) (r : WinRun) (i : Nat) : Hw :=
  h.putWin part { r with index := i, step := none, todo := none, since := none }

/-- A wait of a program, begun now if it has not begun (R377). -/
def Hw.winWait (h : Hw) (part : Nat) (r : WinRun) : Hw :=
  h.putWin part { r with since := some (r.since.getD h.now) }

/-- The outcome of an access of a step: `none` once the program has ended. -/
def Hw.winRunOp {α : Type} (h : Hw) (part : Nat) (m : Op α) : Option α × Hw :=
  let r := runOp m { h with moved := 0 }
  let h := r.2.chargeMem (some part)
  match r.1 with
  | .ok x => (some x, h)
  | .error .held => (none, h)
  | .error f => (none, h.winFail part f)

/-- A place where a program is read, or a step reads or writes, in memory of this package (R39, R41). -/
def winPlace (e : Env) (a n : Nat) : Op Nat := do
  let h ← get
  match h.localMem e a n with
  | .ok off => pure off
  | .error s => failSt s

/-- Take the step a program stands at, read once (R373), when its OP is one of `ops`: it is checked, then carried out.
A program past its last step ends with BAD_DESCRIPTOR (R381). -/
def Hw.winStep (h : Hw) (e : Env) (part : Nat) (ops : List Nat) (act : Hw → WinRun → StepD → Hw) : Hw :=
  match SMap.find? h.wins part with
  | none => h
  | some r =>
    if r.nsteps ≤ r.index then h.winStop part .badDescriptor 0
    else match r.step with
      | some s => if ops.contains (StepD.of s).op then act h r (StepD.of s) else h
      | none =>
        let a := r.prog + 64 * (r.index + 1)
        if !(ops.contains (Mem.get h.mem a).toNat) then h
        else match h.winRunOp part (do loadB (← winPlace e a 64) 64) with
          | (none, h) => h
          | (some bs, h) =>
            let sv : BitVec 512 := BitVec.ofNat 512 (ofBytes bs)
            let s := StepD.of sv
            if !(s.ok h e r) then h.winStop part .badDescriptor 0
            else
              let r := { r with step := some sv, beat := h.beatOf e part }
              act (h.putWin part r) r s

/-- The tag of use `n` of a run (R377). -/
def WinRun.tagOf (r : WinRun) (n : Nat) : Nat := r.runid * 65536 + n

/-- What a program reads of a flag, as WAITF does: whether it is set for the tag; `none` once a word that cannot be read
has ended the run. A read that a clear holds finds nothing yet (R107, R133, R377, R383). -/
def Hw.winReadFlag (h : Hw) (part a tag : Nat) : Option Bool × Hw :=
  match runOp (loadFlag a tag) h with
  | (.ok x, h) => (some x.isSome, h)
  | (.error .held, h) => (some false, h)
  | (.error f, h) => (none, h.winFail part f)

/-- Whether use `n` of a slot may be written: its first use, or the release of the one before (R377). -/
def Hw.winFree (h : Hw) (part : Nat) (r : WinRun) (slot n : Nat) : Option Bool × Hw :=
  if n < 2 then (some true, h) else h.winReadFlag part (r.release + 8 * slot) (r.tagOf (n - 1))

/-- A tile of a 2:4 image made of a tile of either form: FORM 2, and CHECK anew (R155, R158, R378). -/
def asTwoFour (bs : List Byte) : List Byte :=
  let hdr := toBytes 1 2 ++ (bs.drop 1).take 7
  let n := pay bs 2 2
  let bm := if bit (pay bs 0 2) 12 then [] else (bs.drop 16).take (ceilDiv n 8)
  hdr ++ toBytes 4 (tileCheck hdr bm) ++ bs.drop 12

/-- Read a tile at an address under R165, its header checked before its length is believed: FORM 1, or with `two` a 2:4 tile or one whose groups meet R157. -/
def winTile (e : Env) (two : Bool) (f : Fmt) (n a : Nat) : Op (List Byte × TileRead) := do
  let o ← winPlace e a 16
  let hdr ← loadB o 16
  let len ← match tileHead 1 f n hdr, two, tileHead 2 f n hdr with
    | some l, _, _ => pure l
    | none, true, some l => pure l
    | none, _, _ => failSt .sparseFormat
  let o ← winPlace e a len
  let bs ← loadB o len
  let r1 := readTile 1 f n bs
  if two then
    match readTile 2 f n bs, r1 with
    | some t, _ => return (bs, t)
    | none, some t => if twoOfFour t.bitmap then return (bs, t) else failSt .sparseFormat
    | none, none => failSt .sparseFormat
  else match r1 with
    | some t => return (bs, t)
    | none => failSt .sparseFormat

/-- XFORM 0 and 1: rows of a source into a slot (R378). -/
def winRows (e : Env) (s : StepD) (src dst : Nat) : Op Unit := do
  for i in upto s.a do
    let from_ := src + i * s.c
    if s.xform = 0 then
      let o ← winPlace e from_ s.b
      let bs ← loadB o s.b
      let t ← winPlace e (dst + i * s.d) s.b
      storeB t bs
    else
      let f := s.tileFmt
      let _ ← (segLens s.b).foldlM (fun (p : Nat × Nat) n => do
        let (bs, x) ← winTile e false f n p.1
        let body := x.seg.dense f
        let t ← winPlace e p.2 body.length
        storeB t body
        return (p.1 + bs.length, p.2 + body.length)) (from_, dst + i * s.d)

/-- XFORM 2: a 2:4 weight image, its tiles packed in row and segment order, its index and header after them (R378,
R379). -/
def winImage (e : Env) (s : StepD) (src dst : Nat) : Op Unit := do
  let f := s.tileFmt
  let base := 32 + 4 * s.a * ceilDiv s.b 256
  let st ← (upto s.a).foldlM (fun (st : Nat × Nat × List Nat) i => do
    let q ← (segLens s.b).foldlM (fun (p : Nat × Nat × Nat × List Nat) n => do
      let (bs, x) ← winTile e true f n p.1
      let o ← winPlace e (dst + p.2.1) bs.length
      storeB o (asTwoFour bs)
      return (p.1 + bs.length, p.2.1 + bs.length, p.2.2.1 + x.nnz, p.2.2.2 ++ [p.2.1])) (src + i * s.c, st)
    return q.2) (base, 0, [])
  let hdr := toBytes 4 (3 + f.code * 256) ++ toBytes 4 s.a ++ toBytes 4 s.b ++ toBytes 4 st.1 ++ toBytes 8 st.2.1
    ++ rep 8 0 ++ (st.2.2.map (toBytes 4)).flatten
  let o ← winPlace e dst hdr.length
  storeB o hdr

/-- Write use `n` of a slot from a source; answers the COUNT of its flag (R377, R378, R382). -/
def winWrite (e : Env) (r : WinRun) (s : StepD) (slot src : Nat) : Op Nat := do
  if s.a = 0 || s.b = 0 then return 0
  let dst := r.window + slot * r.slotBytes
  if s.xform = 2 then winImage e s src dst else winRows e s src dst
  return s.a

/-- Write use `n` of a slot and its arrival flag. -/
def Hw.winUse (h : Hw) (e : Env) (part : Nat) (r : WinRun) (s : StepD) (slot n src : Nat) : Option WinRun × Hw :=
  match h.winRunOp part (winWrite e r s slot src) with
  | (none, h) => (none, h)
  | (some count, h) =>
    let r := { r with uses := SMap.put r.uses slot n, since := none }
    (some r, (h.flag (r.arrive + 8 * slot) (r.tagOf n) count).putWin part r)

/-- FETCH (R378). -/
def winFetch (part : Nat) (e : Env) (h : Hw) (r : WinRun) (s : StepD) : Hw :=
  let n := SMap.get r.uses 0 s.slot + 1
  if n = 65536 then h.winStop part .badDescriptor 0
  else match h.winFree part r s.slot n with
    | (none, h) => h
    | (some false, h) => h.winWait part r
    | (some true, h) => match h.winUse e part r s s.slot n s.src with
      | (none, h) => h
      | (some r, h) => h.winGo part r (r.index + 1)

/-- The local replicas of a bank in list order with their totals' places and WADDR: DEST, expert, replica, WADDR (R181,
R380). -/
def winReplicas (e : Env) (base node : Nat) : Op (List (Nat × Nat × Nat × Nat)) := do
  let o ← winPlace e base 128
  let hdr ← loadB o 128
  let n := pay hdr 4 4
  let l ← (upto n).foldlM (fun (acc : List (Nat × Nat × Nat × Nat)) i => do
    let o ← winPlace e (base + 0x80 + 0x80 * i) 128
    let bs ← loadB o 128
    return acc ++ (upto 8).filterMap (fun q =>
      if bit (pay bs (16 * q + 4) 4) 31 then some (pay bs (16 * q) 4, i, q, pay bs (16 * q + 8) 8) else none)) []
  return (sortBy (fun (a b : Nat × Nat × Nat × Nat) => a.1 < b.1) l).filter (fun x => cNode x.1 = node)

/-- The records of an EXPERTS step: the replicas whose total is not zero, each with its slot and use, and what to
fetch (R380). -/
def winRecords (e : Env) (r : WinRun) (s : StepD) (base : Nat) : Op (List Byte × List (Nat × Nat × Nat)) := do
  let h ← get
  let l ← winReplicas e base h.node
  let live ← l.filterM (fun x => do
    let o ← winPlace e (s.totals + 4 * (8 * x.2.1 + x.2.2.1)) 4
    return (← loadN o 4) ≠ 0)
  let todo := live.zipIdx.map (fun (x : (Nat × Nat × Nat × Nat) × Nat) =>
    let slot := s.slot + x.2 % s.nslot
    (slot, SMap.get r.uses 0 slot + x.2 / s.nslot + 1, (x.1.2.2.2 + s.src) % 2 ^ 64))
  need (todo.all (fun t => t.2.1 < 65536)) .badDescriptor
  let recs := (live.zip todo).flatMap (fun (x : (Nat × Nat × Nat × Nat) × (Nat × Nat × Nat)) =>
    toBytes 2 x.1.2.1 ++ toBytes 2 x.1.2.2.1 ++ toBytes 2 x.2.1 ++ toBytes 2 x.2.2.1 ++ toBytes 4 x.1.1 ++ rep 4 0)
  return (recs, todo)

/-- Write the records of an EXPERTS step (R380). -/
def winPutRecords (e : Env) (s : StepD) (recs : List Byte) : Op Unit := do
  let o ← winPlace e s.records (16 + recs.length)
  storeB o (toBytes 4 (recs.length / 16))
  storeB (o + 16) recs

/-- Fetch what an EXPERTS step has still to fetch, in record order, as far as releases allow (R377, R380). -/
def winDrain (part : Nat) (e : Env) (s : StepD) : Nat → WinRun → Hw → Hw
  | 0, _, h => h
  | k + 1, r, h =>
    match r.todo with
    | some ((slot, n, src) :: rest) =>
      match h.winFree part r slot n with
      | (none, h) => h
      | (some false, h) => h.winWait part r
      | (some true, h) => match h.winUse e part r s slot n src with
        | (none, h) => h
        | (some r, h) =>
          let r := { r with todo := some rest }
          winDrain part e s k r (h.putWin part r)
    | _ => h.winGo part r (r.index + 1)

/-- EXPERTS (R380, R382). -/
def winExperts (part : Nat) (e : Env) (h : Hw) (r : WinRun) (s : StepD) : Hw :=
  match r.todo with
  | some l => winDrain part e s (l.length + 1) r h
  | none =>
    match h.winFlag e s.tflag 8 with
    | .error st => h.winStop part st 0
    | .ok off => match h.winReadFlag part off s.ttag with
    | (none, h) => h
    | (some false, h) => h.winWait part r
    | (some true, h) =>
      if h.rf Reg.plcStatusInForce pkgB part = 0 || h.rf Reg.plcStatusGen pkgB part ≠ s.gen then
        h.winStop part .aborted 0
      else
        let base := h.plcBank part (h.rf Reg.plcStatusInForceBank pkgB part)
        match h.winRunOp part (do
            let x ← winRecords e r s base
            winPutRecords e s x.1
            pure x) with
        | (none, h) => h
        | (some (recs, todo), h) =>
          let r := { r with experts := r.experts + 1, todo := some todo, since := none }
          let h := h.flag (r.arrive + 8 * r.nslots) (r.tagOf r.experts) (recs.length / 16)
          winDrain part e s (todo.length + 1) r (h.putWin part r)

/-- WAIT (R381). -/
def winWaitStep (part : Nat) (e : Env) (h : Hw) (r : WinRun) (s : StepD) : Hw :=
  match h.winFlag e s.src 8 with
  | .error st => h.winStop part st 0
  | .ok off => match h.winReadFlag part off s.a with
    | (none, h) => h
    | (some true, h) => h.winGo part r (r.index + 1)
    | (some false, h) => h.winWait part r

/-- LOOP (R381). -/
def winLoop (part : Nat) (h : Hw) (r : WinRun) (s : StepD) : Hw :=
  let c := SMap.get r.loops 0 r.index
  if c + 1 < s.b then h.winGo part { r with loops := SMap.put r.loops r.index (c + 1) } s.a
  else h.winGo part { r with loops := SMap.del r.loops r.index } (r.index + 1)

/-- BEAT (R381). -/
def winBeatStep (part : Nat) (e : Env) (h : Hw) (r : WinRun) : Hw :=
  if h.beatOf e part ≠ r.beat then h.winGo part r (r.index + 1) else h

/-- MIG_FLAG_TIMEOUT (R377): a wait for a flag has lasted longer than FLAG_TIMEOUT. -/
def migFlagTimeout (part : Nat) (_ : Env) (h : Hw) : Hw :=
  match SMap.find? h.wins part with
  | none => h
  | some r => match r.since with
    | none => h
    | some t =>
      let lim := h.rf Reg.migWinFlagTimeout (migB 28)
      if lim = 0 then h else (h.reach (t + lim * 1000)).winStop part .timeout 0

/-- MIG_CTRL.ABORT on M0 (R383). -/
def migCtrlAbort (_ : Env) (h : Hw) : Hw :=
  let h := h.wins.foldl (fun (h : Hw) (x : Nat × WinRun) => h.winStop x.1 .aborted 0) h
  ((h.queue 28 1).filter (fun j => j.body.fld 0 7 0 = 0x10)).foldl (fun (h : Hw) j => h.migDone j .aborted 0 0) h

/-- WIN_RUN (R373). -/
def execWinRun (s : State) : Host.Outcome State Fault Refusal := onHw winRun s

/-- FETCH (R378); a step whose OP is reserved fails here. -/
def execFetch (part : Nat) (s : State) : Host.Outcome State Fault Refusal :=
  onHw (fun e h => h.winStep e part ((upto 256).filter (fun n => n < 2 || 6 < n)) (winFetch part e)) s

/-- EXPERTS (R380). -/
def execExperts (part : Nat) (s : State) : Host.Outcome State Fault Refusal :=
  onHw (fun e h => h.winStep e part [2] (winExperts part e)) s

/-- WAIT (R381). -/
def execWait (part : Nat) (s : State) : Host.Outcome State Fault Refusal :=
  onHw (fun e h => h.winStep e part [3] (winWaitStep part e)) s

/-- LOOP (R381). -/
def execLoop (part : Nat) (s : State) : Host.Outcome State Fault Refusal :=
  onHw (fun e h => h.winStep e part [4] (winLoop part)) s

/-- BEAT of a window program (R381). -/
def execWinBeat (part : Nat) (s : State) : Host.Outcome State Fault Refusal :=
  onHw (fun e h => h.winStep e part [5] (fun h r _ => winBeatStep part e h r)) s

/-- END (R381). -/
def execWinEnd (part : Nat) (s : State) : Host.Outcome State Fault Refusal :=
  onHw (fun e h => h.winStep e part [6] (fun h _ _ => h.winStop part .ok 0)) s

/-- MIG_FLAG_TIMEOUT (R377). -/
def execMigFlagTimeout (part : Nat) (s : State) : Host.Outcome State Fault Refusal := onHw (migFlagTimeout part) s

/-- MIG_CTRL_ABORT (R383). -/
def execMigCtrlAbort (s : State) : Host.Outcome State Fault Refusal := onHw migCtrlAbort s

end Sys2Proof.Machine
end

