-- ==== Sys2Proof/Machine/Partition.lean ====
section
/-! DEFINITION. Partitions: LOAD, RELEASE and what their epochs do (R446 to R452). -/

namespace Sys2Proof.Machine

/-- A partition descriptor (R446). -/
structure PartD where
  op : Nat
  part : Nat
  dies : Nat
  spBytes : Nat
  prog : Nat
  cores : Nat
  resv : Nat
  at_ : Nat
  reserved : Bool
  deriving DecidableEq, Repr

/-- Fields of a partition descriptor (R446). -/
def PartD.of (d : Desc) : PartD :=
  { op := d.fld 0 7 0, part := d.fld 0 10 8, dies := d.fld 4 23 0, spBytes := d.fld 8 31 0, prog := d.fld 0x0C 15 0
    cores := d.fld 0x0C 31 16, resv := d.fld 0x10 63 0, at_ := d.fld 0x18 63 0
    reserved := d.fld 0 31 11 = 0 && d.fld 4 31 24 = 0 && d.fld 0x20 255 0 = 0 }

/-- A partition descriptor completes. -/
def Hw.partDone (h : Hw) (j : Job) (s : Status) (v : Nat) : Hw := h.finishJob 28 8 j ⟨s, v, 0⟩

/-- The RESERVE descriptors of a LOAD (R446, R447): those in use with their M-dies. -/
def readResv (e : Env) (c : PartD) : Op (List (Nat × Desc)) := do
  if c.resv = 0 then return []
  let bs ← readExt e c.resv 256
  let l := (upto 4).map (fun i => (28 + i, (BitVec.ofNat 1024 (ofBytes ((bs.drop (64 * i)).take 64)) : Desc)))
  need (l.all (fun (x : Nat × Desc) => Desc.fld x.2 0 7 0 = 0 || (Desc.fld x.2 0 7 0 = 1 && Desc.fld x.2 0 10 8 = c.part))) .badDescriptor
  return l.filter (fun (x : Nat × Desc) => Desc.fld x.2 0 7 0 = 1)

/-- Numbers of the C-dies a mask names. -/
def diesIn (m : Nat) : List Nat := (upto 24).filter (fun d => bit m d)

/-- A LOAD is refused at decode (R447). -/
def Hw.loadRefused (h : Hw) (e : Env) (c : PartD) : Bool :=
  let ds := diesIn c.dies
  h.rf Reg.partState pkgB c.part ≠ 0 || ds.isEmpty || ds.any (fun d => !(h.dieOn e d))
    || ds.any (fun d => (h.partOf d).isSome || h.partJobs.any (fun p => p.isLoad && bit p.dies d) || (SMap.find? h.clears d).isSome)
    || 0x10000000 < c.spBytes || 4096 < c.prog || 4 * ds.length < c.cores

/-- A descriptor comes from a control processor. -/
def Origin.byKpost (o : Origin) : Bool := match o with | .kpost _ _ _ _ => true | _ => false

/-- LOAD at decode (R416, R447, R448): its checks, the lower status code first (R483); then its dies are held, and its
RESERVEs go to their Keepers. -/
def Hw.loadAccept (h : Hw) (e : Env) (j : Job) (c : PartD) : Hw :=
  if j.origin.byKpost || h.loadRefused e c then h.partDone j .refused 0
  else if !c.reserved then h.partDone j .badDescriptor 0
  else match runOp (readResv e c) h with
    | (.error .held, h) => h
    | (.error f, h) =>
      let (d, h) := h.failDone j.origin.opid (some c.part) (h.coord 28 8) f
      h.partDone j d.st d.value
    | (.ok l, h) =>
      let j := { j with started := true, since := h.now }
      let x : PartJob := { job := j, part := c.part, isLoad := true, dies := c.dies, at_ := c.at_, waiting := l.map (fun y => y.1) }
      let h := { h.putJob 28 8 j with partJobs := h.partJobs ++ [x] }
      let h := h.wf Reg.partState pkgB c.part 1
      l.foldl (fun h y => h.enqueue y.1 0 { body := y.2, origin := .load c.part y.1, part := some c.part, beat := none }) h

/-- A LOAD whose RESERVEs have all been answered, one of them not with OK, undoes the others and fails (R448). -/
def Hw.settleLoads (h : Hw) : Hw :=
  h.partJobs.foldl (fun h x =>
    match x.failed with
    | some s =>
      if x.waiting.isEmpty then
        let h := x.reserved.foldl (fun h k => h.kprUnreserve k x.part) h
        let h := { h with partJobs := h.partJobs.filter (fun y => y.job.tag ≠ x.job.tag) }
        (h.wf Reg.partState pkgB x.part 0).partDone x.job s 0
      else h
    | none => h) h

/-- LOAD (R447, R448); a reserved OP at the management processor fails here. -/
def load (e : Env) (h : Hw) : Hw :=
  match (h.queue 28 8).find? (fun j => !j.started && !(([0x40, 0x41, 0x71] : List Nat).contains (j.body.fld 0 7 0))) with
  | some j => if j.body.fld 0 7 0 = 0x70 then h.loadAccept e j (PartD.of j.body) else h.partDone j .badDescriptor 0
  | none => h

/-- RELEASE at decode (R447, R450, R451); it then waits for its epoch. -/
def release (_ : Env) (h : Hw) : Hw :=
  match h.mgmtJob 0x71 with
  | none => h
  | some j =>
    let c := PartD.of j.body
    if j.origin.byKpost then h.partDone j .refused 0
    else if !c.reserved || c.dies ≠ 0 || c.spBytes ≠ 0 || c.prog ≠ 0 || c.cores ≠ 0 || c.resv ≠ 0 then
      h.partDone j .badDescriptor 0
    else
      let st := h.rf Reg.partState pkgB c.part
      if st = 0 then h.partDone j .ok 0
      else if st ≠ 2 then h.partDone j .partitionDown 0
      else
        let j := { j with started := true, since := h.now }
        let x : PartJob := { job := j, part := c.part, isLoad := false, dies := 0, at_ := c.at_ }
        { h.putJob 28 8 j with partJobs := h.partJobs ++ [x] }

/-- The dies of a LOAD join the partition (R448). -/
def Hw.joinDies (h : Hw) (x : PartJob) : Hw :=
  let h := { h with partJobs := h.partJobs.filter (fun y => y.job.tag ≠ x.job.tag) }
  let h := (h.wf Reg.partDies pkgB x.part x.dies).wf Reg.partState pkgB x.part 2
  let h := h.wf Reg.acctIdxProd pkgB x.part 0
  let h := (diesIn x.dies).foldl (fun h d => (upto 4).foldl (fun h k => (upto 16).foldl (fun h t =>
    (h.setReg Reg.cpTstat (cpB d (7 + k)) t 0).setReg Reg.cpTval (cpB d (7 + k)) t 0) h) h) h
  h.partDone x.job .ok 0

/-- Everything of a partition that runs or waits on its dies completes with ABORTED (R451, steps 1 and 2). -/
def Hw.abortPartition (h : Hw) (e : Env) (p : Nat) : Hw :=
  let dies := h.diesOf p
  let h := dies.foldl (fun h d => (upto 4).foldl (fun h k => h.abortCore d k) h) h
  let h := dies.foldl (fun h d =>
    let h := deCtrlAbort d e h
    (h.abortQueue d 5 (copyFlag e d 5)).abortQueue d 6 (copyFlag e d 6)) h
  let h := dies.foldl (fun h d => (upto 4).foldl (fun h k => h.abortThreads d (7 + k)) h) h
  let h := h.winStop p .aborted 0
  let h := ((h.queue 28 1).filter (fun j => j.body.fld 0 7 0 = 0x10 && j.body.fld 0 10 8 = p)).foldl (fun h j =>
    h.migDone j .aborted 0 0) h
  let h := (upto 4).foldl (fun h k => h.dropHeld (28 + k) p) h
  h.dropLaunches p

/-- The release of a partition applies (R451). -/
def Hw.releasePartition (h : Hw) (e : Env) (tl : Timelines) (p : Nat) : Timelines × Hw :=
  let h := h.wf Reg.partState pkgB p 3
  let h := h.abortPartition e p
  let (tl, h) := h.cinchFail tl p .aborted 0
  let tl := tl.setPart p {}
  let h := h.groups.foldl (fun h (g : Nat × Group) => if g.2.part = p then h.releaseGroup e g.1 else h) h
  let h := h.wf Reg.plcStatusInForce pkgB p 0
  let h := (upto 4).foldl (fun h k => h.kprUnreserve (28 + k) p) h
  let h := h.settleLandings
  let h := { h with dlm := SMap.del h.dlm p, partN := SMap.del h.partN p, acct := SMap.del h.acct p }
  let late := h.rf Reg.dlmStatusLatePlan tmB p
  let h := ((h.setReg Reg.dlmStatus tmB p 0).wf Reg.dlmStatusLatePlan tmB p late).wf Reg.dlmCtrlLeader tmB p 0
  let h := (h.diesOf p).foldl (fun (h : Hw) d =>
    let h := { h with clears := SMap.put h.clears d (.release p) }
    h.wf Reg.spStatusClearing (rkey d 11 0) 0 1) h
  (tl, h)

/-- The partition is free once the last of its dies has been cleared (R451). -/
def Hw.partFree (h : Hw) (p : Nat) : Hw :=
  if h.clears.any (fun c => c.2 = .release p) then h
  else
    let mine := h.partJobs.filter (fun x => !x.isLoad && x.part = p)
    let h := { h with partJobs := h.partJobs.filter (fun x => x.isLoad || x.part ≠ p) }
    let h := (h.wf Reg.partDies pkgB p 0).wf Reg.partState pkgB p 0
    mine.foldl (fun h x => h.partDone x.job .ok 0) h

/-- The partition descriptors due at an epoch at counter value `t` apply in the order they were posted (R448, R451, R452):
LOADs at fabric epochs, RELEASEs at epochs of the timeline of their partition. `who` tells whose epoch it is. -/
def Hw.partEpoch (h : Hw) (f : Fuses) (tl : Timelines) (t : Nat) (who : Option Nat) : Timelines × Hw :=
  h.partJobs.foldl (fun (a : Timelines × Hw) x =>
    let tl := a.1
    let h := a.2
    let e : Env := ⟨f, tl⟩
    if t < x.at_ then a
    else if x.isLoad then
      if who.isNone && x.waiting.isEmpty && x.failed.isNone then (tl, h.joinDies x) else a
    else
      let mine := if (tl.part x.part).st = .running then who = some x.part else who.isNone
      if mine && h.rf Reg.partState pkgB x.part = 2 then h.releasePartition e tl x.part else a) (tl, h)

/-- RESERVE (R227). -/
def execReserve (die : Nat) (s : State) : Host.Outcome State Fault Refusal := onHw (fun e h => (reserve die e h).settleLoads) s

/-- LOAD (R446). -/
def execLoad (s : State) : Host.Outcome State Fault Refusal := onHw load s

/-- PARTITION_RELEASE (R446). -/
def execPartitionRelease (s : State) : Host.Outcome State Fault Refusal := onHw release s

end Sys2Proof.Machine
end

