-- ==== Sys2Proof/Machine/Boot.lean ====
section
/-! DEFINITION. Resets, the boot sequence, firmware images, the fabric join, the watchdog, debug unlock, power states of
C-dies, and the messages of the DOE mailbox (18_boot_and_security.md). -/

namespace Sys2Proof.Machine

/-- Enter a stage of the boot sequence (R500). -/
def Hw.toStage (h : Hw) (n : Nat) : Hw := h.wf Reg.bootStatusStage pkgB 0 n

/-- ERR of BOOT_STATUS. -/
def Hw.bootErr (h : Hw) (n : Nat) : Hw := h.wf Reg.bootStatusErr pkgB 0 n

/-! Stage ROM and resets (R497, R498, R500, R550, R552, R562). -/

/-- Dies that fuses enable, one bit each (R1, R552). -/
def Fuses.dies (f : Fuses) : Nat := f.cdies % 2 ^ 24 + f.fdies % 16 * 2 ^ 24 + f.mdies % 16 * 2 ^ 28

/-- The work of stage ROM; a failure of it is FAULTED. -/
def Hw.romWork (h : Hw) (f : Fuses) (b : BootEnv) : Hw :=
  let h := { h with mgmt := { h.mgmt with held := none } }
  if !b.fusesOk then h.toStage stFaulted
  else
    let h := (h.wf Reg.bistStatusFailed pkgB 0 b.bistFailed.toNat).wf Reg.bistStatusDone pkgB 0 1
    if f.dies &&& b.bistFailed.toNat ≠ 0 || !b.dieLinksOk || !(linkForm b.rate b.width) then h.toStage stFaulted
    else (h.linkBack b.rate b.width).toStage 1

/-- Stage ROM starts its work once no sensor reads below 0 °C. -/
def Hw.rom (h : Hw) (f : Fuses) (b : BootEnv) : Hw :=
  let h := { h with power := { h.power with coldest := b.coldest } }
  if b.coldest < 0 then { h with mgmt := { h.mgmt with held := some b } } else h.romWork f b

/-- A reset of every die (R497, R498): what flash and fuses hold survives, as do host memory, messages already sent, and
the level of the sideband pins. `cause` is LAST_RESET. -/
def Hw.resetPackage (h : Hw) (f : Fuses) (cause : Nat) (b : BootEnv) : Timelines × Hw :=
  let x := Hw.fresh f h.nv
  let x := { x with
    host := h.host, freeCount := h.freeCount, io := { msgs := h.io.msgs }, mgmt := { draws := h.mgmt.draws }
    power := { good := true, throt := h.power.throt } }
  let x := x.wf Reg.bootStatusLastReset pkgB 0 cause
  let x := if cause = 0 then x else x.wf Reg.bootStatusMpResets pkgB 0 (h.rf Reg.bootStatusMpResets pkgB)
  (Timelines.fresh, x.rom f b)

/-- PWRGD rises (R497, R556). -/
def powerOnReset (b : BootEnv) (f : Fuses) (_ : Timelines) (h : Hw) : Timelines × Hw := h.resetPackage f 0 b

/-- A package reset; none takes effect without power, or after a thermal trip (R563). -/
def packageReset (cause : Nat) (b : BootEnv) (f : Fuses) (tl : Timelines) (h : Hw) : Timelines × Hw :=
  if h.power.good && !h.power.stopped then h.resetPackage f cause b else (tl, h)

/-! Firmware images (R502 to R506). -/

/-- A firmware image where it lies: bytes, and their start. -/
structure Image where
  mem : Mem
  at_ : Nat

/-- A field of an image's header. -/
def Image.num (i : Image) (off n : Nat) : Nat := Mem.num i.mem (i.at_ + off) n

/-- Header fields (R503). -/
def Image.bodyLen (i : Image) : Nat := i.num 8 4
def Image.svn (i : Image) : Nat := i.num 6 1
def Image.commitSvn (i : Image) : Bool := bit (i.num 7 1) 0

/-- Magic, format, ranges, and zero reserved fields and padding: check 2 of R504. -/
def Image.formOk (i : Image) : Bool :=
  i.num 0 4 = 0x4B4C4746 && i.num 4 2 = 1 && bits (i.num 7 1) 7 1 = 0 && i.num 0x18 40 = 0
    && (i.mem.all (fun c => c.1 < i.at_ + 0x1C73 || i.at_ + 0x2000 ≤ c.1))
    && 1 ≤ i.bodyLen && i.bodyLen ≤ 16769024 && i.num 12 4 < i.bodyLen + 8192

/-- D of R504: the digest of the signed part. -/
def Image.digest (i : Image) : List Byte :=
  Config.sha3 (Mem.read i.mem i.at_ 0xA60 ++ Mem.read i.mem (i.at_ + 0x2000) i.bodyLen)

/-- ERR of R504, 0 for an image that passes every check. -/
def Image.err (i : Image) (readOk : Bool) (fuseSvn : Nat) : Nat :=
  if !readOk then 1
  else if !i.formOk then 2
  else if Config.sha3 (Mem.read i.mem (i.at_ + 0x40) 2592) ≠ Config.fwKeyHash then 3
  else if !(Config.mlDsaVerify (Mem.read i.mem (i.at_ + 0x40) 2592) (Mem.read i.mem (i.at_ + 0xA60) 4627) i.digest) then 4
  else if i.svn < fuseSvn then 5
  else 0

/-- Cells of an extent of a byte memory, moved to start at 0. -/
def Mem.slice (m : Mem) (a n : Nat) : Mem :=
  (m.filter (fun c => a ≤ c.1 && c.1 < a + n)).map (fun (c : Nat × Byte) => (c.1 - a, c.2))

/-- An image that has passed lies in management SRAM and runs (R504). -/
def Hw.runImage (h : Hw) (i : Image) : Hw :=
  let h := { h with mgmt := { h.mgmt with
    sram := Mem.slice i.mem i.at_ (i.bodyLen + 8192), imageD := i.digest, imageVersion := i.num 0x10 8
    commitSvn := i.commitSvn, kick := h.now } }
  h.wf Reg.fwInfoImageSvn pkgB 0 i.svn

/-- The image in flash (R502). -/
def Hw.flashImage (h : Hw) : Image := ⟨h.nv.flash.filter (fun c => c.1 < 0x1000000), 0⟩

/-- The image region of flash erased, and an image written to it. -/
def Hw.writeFlash (h : Hw) (i : Option Image) : Hw :=
  let rest := Mem.clear h.nv.flash 0 0x1000000
  let new := match i with | some i => Mem.slice i.mem i.at_ (i.bodyLen + 8192) | none => []
  { h with nv := { h.nv with flash := new ++ rest } }

/-- BOOT_VERIFY: stage VERIFY (R504). -/
def bootVerify (flashOk : Bool) (_ : Env) (h : Hw) : Hw :=
  if h.stage ≠ 1 then h
  else
    let i := h.flashImage
    let err := i.err flashOk h.nv.fuseSvn
    if err = 0 then (h.runImage i).toStage 3 else (h.bootErr err).toStage 2

/-- RCV_CTRL.GO in stage RECOVERY (R507). -/
def rcvCtrlGo (readOk flashOk : Bool) (_ : Env) (h : Hw) : Hw :=
  let b := fkey 0 0
  if h.stage ≠ 2 then h
  else
    let a := h.rf Reg.rcvHostAddr b
    let len := h.rf Reg.rcvCtrlLen b
    let i : Image := ⟨Mem.slice h.host a len, 0⟩
    let err := if !readOk then 6 else if len ≠ i.bodyLen + 8192 then 7 else i.err true h.nv.fuseSvn
    let h := (h.wf Reg.rcvStatusErr b 0 err).bootErr err
    if err ≠ 0 then h.wf Reg.rcvStatusState b 0 0
    else
      let h := if h.rf Reg.rcvCtrlPersist b = 1 then h.writeFlash (if flashOk then some i else none) else h
      ((h.runImage i).wf Reg.rcvStatusState b 0 3).toStage 3

/-- FW_UPD.START (R508): the image in device memory is checked, written to flash, and checked there. -/
def fwUpdStart (readOk flashOk : Bool) (_ : Env) (h : Hw) : Hw :=
  if !h.served then h
  else
    let a := h.rf Reg.fwUpdAddrAddr pkgB
    let len := Nat.min 0x1000000 (Mem.num h.mem (a + 8) 4 + 8192)
    let i : Image := ⟨Mem.slice h.mem a len, 0⟩
    let whole := a + len ≤ h.rf Reg.pkgMemTopTop pkgB * 2 ^ 21 && h.goodBytes a len = len
    let err := i.err (readOk && whole) h.nv.fuseSvn
    if err ≠ 0 then h.wf Reg.fwUpdErr pkgB 0 err
    else if flashOk then (h.writeFlash (some i)).wf Reg.fwUpdErr pkgB 0 0
    else (h.writeFlash none).wf Reg.fwUpdErr pkgB 0 8

/-! Memory training (R358 to R361, R500). -/

/-- A DIMM that a channel accepts: an RDIMM at 6,400 MT/s or an MRDIMM at 8,800 MT/s of 32 to 256 GiB (R359). -/
def dimmOk (c : Nat × Nat × Nat × Nat) : Bool :=
  ((c.1 = 1 && c.2.2.1 = 64) || (c.1 = 2 && c.2.2.1 = 88)) && 32 ≤ c.2.2.2 && c.2.2.2 ≤ 256

/-- Every channel of a set has trained, with DIMMs of one kind, capacity and rank organisation. -/
def setOk (l : List (Nat × Nat × Nat × Nat)) : Bool :=
  match l with
  | [] => false
  | c :: r => dimmOk c && r.all (fun d => d = c)

/-- The channels in use (R360). -/
def channelsUsed (l : List (Nat × Nat × Nat × Nat)) : List Nat :=
  let ch (n : Nat) := l.getD n (0, 0, 0, 0)
  let half := (upto 16).filter (fun n => n % 4 < 2)
  if setOk ((upto 16).map ch) then upto 16 else if setOk (half.map ch) then half else []

/-- HBM_STATUS after training: each stack is ready or has failed (R361). -/
def Hw.trainStacks (h : Hw) (t : MemTrain) : Hw :=
  (upto 8).foldl (fun h s =>
    h.wf Reg.hbmStatusState (rkey (28 + s / 2) (2 + s % 2) 0) 0 (if bit t.hbmOk.toNat s then 2 else 3)) h

/-- DDR_STATUS after training: what each channel holds, and whether it is in use (R359, R360). -/
def Hw.trainChannels (h : Hw) (t : MemTrain) : Hw :=
  (upto 16).foldl (fun h n =>
    let c := t.channels.getD n (0, 0, 0, 0)
    let b := rkey (28 + n / 4) (4 + n % 4) 0
    if dimmOk c then
      let h := (h.wf Reg.ddrStatusState b 0 2).wf Reg.ddrStatusCap b 0 c.2.2.2
      let h := (h.wf Reg.ddrStatusRanks b 0 c.2.1).wf Reg.ddrStatusRate b 0 c.2.2.1
      (h.wf Reg.ddrStatusKind b 0 c.1).wf Reg.ddrStatusInUse b 0 (b2n ((channelsUsed t.channels).contains n))
    else h.wf Reg.ddrStatusState b 0 3) h

/-- Memory of the package after training, GiB: every stack, and the channels in use. -/
def trainedGib (t : MemTrain) : Nat :=
  384 + ((channelsUsed t.channels).map (fun n => (t.channels.getD n (0, 0, 0, 0)).2.2.2)).foldl (· + ·) 0

/-- BOOT_MEM_TRAIN: memories train; a stack that fails is a fatal event. -/
def bootMemTrain (t : MemTrain) (_ : Env) (h : Hw) : Hw :=
  if h.stage ≠ 3 then h
  else
    let h := (h.trainStacks t).trainChannels t
    match (upto 8).find? (fun s => !(bit t.hbmOk.toNat s)) with
    | some s => h.fatal 3 (28 + s / 2) s
    | none => (h.wf Reg.pkgMemTopTop pkgB 0 (trainedGib t * 512)).toStage 4

/-- A clear of a die's scratchpad begins (R132, R133). -/
def Hw.startClear (h : Hw) (die : Nat) (w : ClearFor) : Hw :=
  ({ h with clears := SMap.put h.clears die w }).wf Reg.spStatusClearing (rkey die 11 0) 0 1

/-- Stage LINKS begins: ring commits that waited take force (R501). -/
def Hw.enterLinks (h : Hw) : Hw := (h.toStage 5).ringCommits

/-- BOOT_CLEAR: the clears of stage CLEAR begin; with no die to clear the stage is over. -/
def bootClear (e : Env) (h : Hw) : Hw :=
  if h.stage ≠ 4 || !h.clears.isEmpty then h
  else
    let ds := (upto 24).filter (fun d => e.cdie d && !(bit (h.rf Reg.cdiePwrOff pkgB) d))
    if ds.isEmpty then h.enterLinks else ds.foldl (fun h d => h.startClear d .boot) h

/-- An enabled port that still trains; the spare port is not waited for while it stands for none (R240). -/
def Hw.portBusy (h : Hw) (e : Env) (p : Nat) : Bool :=
  bit e.fuses.ports p && !(p = 43 && h.spareFor.isNone)
    && (let st := h.pf Reg.xptPortState p; st ≠ pUp && st ≠ pDown)

/-- BOOT_LINKS: stage LINKS ends once every enabled port is UP or has failed; the spare port trains on (R240, R500). -/
def bootLinks (e : Env) (h : Hw) : Hw :=
  if h.stage = 5 && !((upto 48).any (h.portBusy e)) then h.toStage 6 else h

/-! The fabric join (R421, R423, R425, R506, R509, R510). -/

/-- This package is the grandmaster from now on: DEPTH 0, SYNCED. -/
def Hw.becomeGm (h : Hw) : Hw :=
  let h := (h.wf Reg.timeStatusGm tmB 0 1).wf Reg.timeStatusDepth tmB 0 0
  let h := (h.wf Reg.timeStatusBound tmB 0 5).wf Reg.timeStatusParentPort tmB 0 0xFF
  { (h.setSynced true 0xFF) with sync := { (h.setSynced true 0xFF).sync with lostAt := none } }

/-- The package is joined: its number, incarnation and fabric timeline are in force, it is the grandmaster where told to
be, and the security version of an image that commits it is fused. -/
def Hw.joined (h : Hw) : Hw :=
  let node := h.rf Reg.joinNodeNode pkgB
  let period := h.rf Reg.joinBeatPeriod pkgB
  let origin := h.rf Reg.joinOriginOrigin pkgB
  let inc := h.rf Reg.joinNodeInc pkgB
  let h : Hw := (upto 4).foldl (fun (h : Hw) f => h.wf Reg.xptIncInc (xptB (24 + f)) 0 inc) h
  let h := (h.wf Reg.fabricBeatPeriod tmB 0 period).wf Reg.fabricOriginOrigin tmB 0 origin
  let h := (h.wf Reg.pkgNodeNode pkgB 0 node).wf Reg.pkgNodeValid pkgB 0 1
  let h := { h with fabN := if origin ≤ h.now then (h.now - origin) / period else 0 }
  let h : Hw := h.toStage stReady
  let h : Hw := if h.rf Reg.timeCtrlGrandmaster tmB = 1 then h.becomeGm else h
  let svn := h.rf Reg.fwInfoImageSvn pkgB
  if h.mgmt.commitSvn && h.nv.fuseSvn < svn
    then ({ h with nv := { h.nv with fuseSvn := svn } }).wf Reg.fwInfoFuseSvn pkgB 0 svn else h

/-- An UP port whose neighbour says it is package `node`. -/
def Hw.nbIs (h : Hw) (node p : Nat) : Bool :=
  h.pf Reg.xptPortState p = pUp && h.pf Reg.xptPortNbValid p = 1 && h.pf Reg.xptPortNbNode p = node

/-- JOIN_CMD.GO. -/
def joinCmdGo (_ : Fuses) (tl : Timelines) (h : Hw) : Timelines × Hw :=
  if h.stage ≠ 6 then (tl, h)
  else
    let node := h.rf Reg.joinNodeNode pkgB
    let period := h.rf Reg.joinBeatPeriod pkgB
    let origin := h.rf Reg.joinOriginOrigin pkgB
    if 16416 ≤ node || period < 1000 then (tl, h.bootErr 16)
    else if (upto 48).any (h.nbIs node) then (tl, h.bootErr 17)
    else ({ tl with fabPeriod := period, fabOrigin := origin }, h.joined)

/-! The management processor and its watchdog (R497, R513). -/

/-- What a reset of the management processor and the security engine ends. -/
def Hw.resetMp (h : Hw) : Hw :=
  let h : Hw := h.incSat Reg.bootStatusMpResets pkgB 0 1
  let h : Hw := ((h.queue 28 8).filter (fun j => !j.started)).foldl (fun (h : Hw) j => h.partDone j .aborted 0) h
  let h : Hw := { h with partJobs := h.partJobs.map (fun (x : PartJob) => if x.isLoad then { x with failed := some .aborted } else x) }
  let h := h.settleLoads
  let h : Hw := h.groups.foldl (fun (h : Hw) (g : Nat × Group) =>
    if g.2.job.isSome then
      let h : Hw := { h with colls := h.colls.filter (fun r => r.gkey ≠ g.1) }
      (h.setGroup g.1 { g.2 with agents := g.2.agents.map (fun a => { a with failed := true }) }).endSetup g.1 ⟨.aborted, 0, 0⟩
    else h) h
  let h := (upto 8).foldl (fun h p =>
    if (h.plcOf p).verify.isSome then (h.setPlc p { h.plcOf p with verify := none }).wf Reg.plcStatusVerifyBusy pkgB p 0
    else h) h
  { h with mgmt := { h.mgmt with
    kick := h.now, nonceValid := false, spdmVersion := false, spdmCaps := false, spdmAlgs := false, spdmSession := 0
    doe := [] } }

/-- The management processor is reset and firmware is loaded again from flash; an image that fails is a package reset
with cause `cause`. -/
def mpReset (cause : Nat) (flashOk : Bool) (b : BootEnv) (f : Fuses) (tl : Timelines) (h : Hw) : Timelines × Hw :=
  let h := h.resetMp
  let i := h.flashImage
  if i.err flashOk h.nv.fuseSvn = 0 then (tl, h.runImage i) else packageReset cause b f tl h

/-- The boot that a package reset begins which nothing outside asks for: what flash, links and sensors then give is free. -/
def freeBoot (w : Word) : BootEnv :=
  { dieLinksOk := bit w.toNat 1, fusesOk := bit w.toNat 2, bistFailed := BitVec.ofNat 32 (bits w.toNat 34 3)
    rate := bits w.toNat 37 35, width := bits w.toNat 42 38, coldest := toSigned 8 (bits w.toNat 50 43) }

/-- A word of the management SRAM fails its check, and the management processor runs (R497). -/
def Hw.sramDown (h : Hw) : Bool := h.served && !h.power.stopped && h.badSites.contains .sram

/-- The management processor is reset by it (R497, R521): firmware is read again, and whether that passes is free. LAST_RESET
of a package reset that a failed reload brings is that of the watchdog (DESIGN CHOICE, log entry 135). -/
def sramReset (f : Fuses) (tl : Timelines) (h : Hw) : Timelines × Hw :=
  let (w, h) := { h with badSites := h.badSites.filter (fun x => x ≠ Site.sram) }.drawFree
  mpReset 3 (bit w.toNat 0) (freeBoot w) f tl h

/-- The state after the reset that a failing word of the management SRAM brings. -/
def State.endSramFault (s : State) : State :=
  let r := sramReset s.fuses s.tl s.hw
  { s with tl := r.1, hw := r.2.seal }

/-- RST_CTRL.PKG. -/
def rstCtrlPkg (key : Nat) (b : BootEnv) (f : Fuses) (tl : Timelines) (h : Hw) : Timelines × Hw :=
  if h.served && key = 0xC0DE then packageReset 2 b f tl h else (tl, h)

/-- RST_CTRL.MP. -/
def rstCtrlMp (key : Nat) (flashOk : Bool) (b : BootEnv) (f : Fuses) (tl : Timelines) (h : Hw) : Timelines × Hw :=
  if h.served && key = 0xC0DE then mpReset 2 flashOk b f tl h else (tl, h)

/-- WDT.KICK. -/
def wdtKick (_ : Env) (h : Hw) : Hw := if h.served then { h with mgmt := { h.mgmt with kick := h.now } } else h

/-- The watchdog's period passes without a kick; a second expiry within 1 s of the first is a package reset. -/
def watchdogExpiry (flashOk : Bool) (b : BootEnv) (f : Fuses) (tl : Timelines) (h : Hw) : Timelines × Hw :=
  if !h.served then (tl, h)
  else
    let h := h.reach (h.mgmt.kick + orElse (h.rf Reg.wdtPeriod pkgB) 1 * 1000000)
    if h.mgmt.expiry.any (fun t => h.now ≤ t + 1000000000) then packageReset 3 b f tl h
    else mpReset 3 flashOk b f tl { h with mgmt := { h.mgmt with expiry := some h.now } }

/-! Debug unlock (R514). -/

/-- A read of DBG_NONCE_0 makes a new nonce and voids the old one. -/
def Hw.newNonce (h : Hw) : Hw :=
  let h := (upto 4).foldl (fun h n =>
    ({ h with mgmt := { h.mgmt with draws := h.mgmt.draws + 1 } }).setReg Reg.dbgNonce pkgB n (Config.random h.mgmt.draws).toNat) h
  { h with mgmt := { h.mgmt with nonceValid := true } }

def dbgNonceRead (_ : Env) (h : Hw) : Hw :=
  if h.served then
    let h := h.newNonce
    { h with mgmt := { h.mgmt with regRead := BitVec.ofNat 64 (h.reg Reg.dbgNonce pkgB 0) } }
  else h

/-- A token the security engine accepts. -/
def Hw.tokenOk (h : Hw) (a : Nat) : Bool :=
  let t := h.hostRead a 4739
  let nonce := (upto 4).flatMap (fun n => toBytes 8 (h.reg Reg.dbgNonce pkgB n))
  h.mgmt.nonceValid && t.take 8 = toBytes 8 (h.reg Reg.pkgSerial pkgB 0)
    && (t.drop 8).take 64 = Config.sha3 Config.identityKey && (t.drop 0x48).take 32 = nonce
    && bits (ofBytes ((t.drop 0x68).take 8)) 63 3 = 0
    && Config.sha3 Config.dbgKey = Config.dbgKeyHash
    && Config.mlDsaVerify Config.dbgKey ((t.drop 0x70).take 4627) (t.take 0x70)

/-- DBG_CTRL.SUBMIT. -/
def dbgCtrlSubmit (_ : Env) (h : Hw) : Hw :=
  if !h.served then h
  else
    let a := h.rf Reg.dbgTokenAddr pkgB
    let ok := h.tokenOk a
    let h := { h with mgmt := { h.mgmt with nonceValid := false } }
    if ok then (h.wf Reg.dbgCtrlState pkgB 0 1).wf Reg.dbgCtrlScope pkgB 0 (h.hostNum (a + 0x68) 1)
    else h.wf Reg.dbgCtrlState pkgB 0 2

/-! Power states of C-dies (R515). -/

/-- A store of a C-die's units. -/
def Site.onDie (d : Nat) : Site → Bool
  | .engine x | .program x _ _ | .file x _ _ => x = d
  | _ => false

/-- A C-die loses power: its units stand as after reset, with what their fuses hold. -/
def Hw.dieOff (h : Hw) (d : Nat) : Hw :=
  let own (k : Nat) : Bool := k < 2 ^ 40 && dieOf k = d && k ≠ rkey d 11 Reg.spRepair.off
  let h := { h with
    regs := h.regs.filter (fun (x : Nat × Word) => !(own x.1)), staged := h.staged.filter (fun (x : Nat × Word) => !(own x.1))
    jobs := h.jobs.filter (fun (x : Nat × List Job) => x.1 / 16 ≠ d), cores := h.cores.filter (fun (x : Nat × Core) => x.1 / 4 ≠ d)
    cps := h.cps.filter (fun (x : Nat × Cp) => x.1 / 16 ≠ d), kposts := h.kposts.filter (fun (x : Nat × Nat) => x.1 / 16 ≠ d)
    badSites := h.badSites.filter (fun x => !(x.onDie d)), corrSites := h.corrSites.filter (fun x => !(x.onDie d))
    fed := SMap.del h.fed d, routes := SMap.del h.routes d, clears := SMap.del h.clears d
    reservations := h.reservations.filter (fun r => spDie r.2 ≠ some d) }
  let h := h.wf Reg.spStatusClearing (rkey d 11 0) 0 0
  let a := h.rf Reg.cdiePwrAwake pkgB
  h.wf Reg.cdiePwrAwake pkgB 0 (setBits a d d 0)

/-- A write of CDIE_PWR.OFF: free dies go off or wake; for a die of a partition it is discarded. -/
def Hw.setDiesOff (h : Hw) (e : Env) (off : Nat) : Hw :=
  let old := h.rf Reg.cdiePwrOff pkgB
  let held (d : Nat) : Bool := (h.partOf d).isSome || h.partJobs.any (fun p => p.isLoad && bit p.dies d)
  let bad := (upto 24).any (fun d => bit off d && !(bit old d) && held d)
  let h1 := (upto 24).foldl (fun h d =>
    let now := bit off d
    if now && !(bit old d) then (if held d then h else (h.dieOff d).wf Reg.cdiePwrOff pkgB 0 (setBits (h.rf Reg.cdiePwrOff pkgB) d d 1))
    else if !now && bit old d then
      let h := h.wf Reg.cdiePwrOff pkgB 0 (setBits (h.rf Reg.cdiePwrOff pkgB) d d 0)
      if e.cdie d then h.startClear d .wake else h
    else h) h
  if bad then h1.regFault 4 (pkgB + Reg.cdiePwr.off) else h1

def cdiePwrWrite (off : BitVec 24) (e : Env) (h : Hw) : Hw := if h.served then h.setDiesOff e off.toNat else h

/-! The DOE mailbox (R466, R501, R512). Message layouts are those of DSP0274; bytes that the manual does not give are free
values. -/

/-- The mailbox is served. -/
def Hw.doeOn (h : Hw) : Bool := h.io.linkUp && 1 ≤ h.stage

/-- The mailbox holds a response. -/
def Hw.doeReply (h : Hw) (bs : List Byte) : Hw := { h with mgmt := { h.mgmt with doe := bs } }

/-- An SPDM response header: version 1.4, code, two parameters. -/
def spdmHead (code p1 p2 : Nat) : List Byte := [0x14, BitVec.ofNat 8 code, BitVec.ofNat 8 p1, BitVec.ofNat 8 p2]

/-- An SPDM ERROR response: 1 invalid request, 4 unexpected request. -/
def Hw.spdmError (h : Hw) (code : Nat) : Hw := h.doeReply (spdmHead 0x7F code 0)

/-- A byte of a request. -/
def reqByte (r : List Byte) (i : Nat) : Nat := (r.getD i 0).toNat

/-- An SPDM request is answered when the mailbox is served, and in its place in the sequence of R512's messages. -/
def Hw.spdm (h : Hw) (ready : Bool) (f : Hw → Hw) : Hw :=
  if !h.doeOn then h else if ready then f h else h.spdmError 4

/-- The identity certificate chain in flash, by the length it begins with (R502, R511). -/
def Hw.certChain (h : Hw) : List Byte := Mem.read h.nv.flash 0x1000000 (Nat.min 0x100000 (Mem.num h.nv.flash 0x1000000 2))

/-- `n` bytes of the security engine's generator. -/
def Hw.randomBytes (h : Hw) (n : Nat) : List Byte × Hw :=
  let k := ceilDiv n 8
  (((upto k).flatMap (fun i => toBytes 8 (Config.random (h.mgmt.draws + i)).toNat)).take n,
    { h with mgmt := { h.mgmt with draws := h.mgmt.draws + k } })

/-- The value of a measurement (R512). -/
def Hw.measurement (h : Hw) (e : Env) (i : Nat) : List Byte :=
  if i = 1 then toBytes 8 Config.romVersion.toNat
  else if i = 2 then
    if h.stage < 3 then rep 74 0
    else toBytes 1 (h.rf Reg.pkgIdStepping pkgB) ++ toBytes 8 h.mgmt.imageVersion ++ toBytes 1 (h.rf Reg.fwInfoImageSvn pkgB)
      ++ h.mgmt.imageD
  else if i = 3 then toBytes 1 (h.rf Reg.pkgIdOrder pkgB) ++ toBytes 8 (h.reg Reg.pkgDies pkgB 0)
      ++ toBytes 8 (h.reg Reg.pkgPorts pkgB 0) ++ toBytes 1 (h.rf Reg.fwInfoFuseSvn pkgB) ++ Config.fwKeyHash
  else if i = 4 then toBytes 8 (b2n e.tl.det) ++ toBytes 8 (h.reg Reg.pkgNode pkgB 0)
      ++ (upto 8).flatMap (fun p => toBytes 4 (h.rf Reg.partDies pkgB p))
  else toBytes 1 (h.rf Reg.dbgCtrlState pkgB) ++ toBytes 1 (h.rf Reg.dbgCtrlScope pkgB)

/-- Measurements served: in stage RECOVERY only those the ROM knows, and index 2 as zero. -/
def Hw.measured (h : Hw) : List Nat := if h.stage < 3 then [1, 2, 3, 5] else [1, 2, 3, 4, 5]

/-- A measurement block. -/
def Hw.measureBlock (h : Hw) (e : Env) (i : Nat) : List Byte :=
  let v := h.measurement e i
  toBytes 1 i ++ toBytes 1 1 ++ toBytes 2 (v.length + 3) ++ toBytes 1 (if i ≤ 4 then i - 1 else 4) ++ toBytes 2 v.length ++ v

/-- A response signed with the identity key over the request and itself (R512). -/
def Hw.spdmSigned (h : Hw) (request body : List Byte) : Hw := h.doeReply (body ++ Config.mlDsaSign (request ++ body))

def getVersion (_ : List Byte) (_ : Env) (h : Hw) : Hw :=
  h.spdm true (fun h =>
    ({ h with mgmt := { h.mgmt with spdmVersion := true, spdmCaps := false, spdmAlgs := false, spdmSession := 0 } }).doeReply
      ([0x10, 0x04, 0, 0, 0, 1] ++ toBytes 2 0x1400))

def getCapabilities (r : List Byte) (_ : Env) (h : Hw) : Hw :=
  h.spdm h.mgmt.spdmVersion (fun h =>
    ({ h with mgmt := { h.mgmt with spdmCaps := true } }).doeReply (spdmHead 0x61 0 0 ++ Config.doeBytes 0x61 r))

def negotiateAlgorithms (r : List Byte) (_ : Env) (h : Hw) : Hw :=
  h.spdm (h.mgmt.spdmVersion && h.mgmt.spdmCaps) (fun h =>
    ({ h with mgmt := { h.mgmt with spdmAlgs := true } }).doeReply (spdmHead 0x63 0 0 ++ Config.doeBytes 0x63 r))

def getDigests (_ : List Byte) (_ : Env) (h : Hw) : Hw :=
  h.spdm h.mgmt.spdmAlgs (fun h => h.doeReply (spdmHead 0x01 0 1 ++ Config.sha3 h.certChain))

def getCertificate (r : List Byte) (_ : Env) (h : Hw) : Hw :=
  h.spdm h.mgmt.spdmAlgs (fun h =>
    let off := reqByte r 4 + 256 * reqByte r 5
    let len := reqByte r 6 + 256 * reqByte r 7
    let chain := h.certChain
    if reqByte r 2 % 16 ≠ 0 || chain.length < off then h.spdmError 1
    else
      let part := (chain.drop off).take len
      h.doeReply (spdmHead 0x02 0 0 ++ toBytes 2 part.length ++ toBytes 2 (chain.length - off - part.length) ++ part))

def challenge (r : List Byte) (_ : Env) (h : Hw) : Hw :=
  h.spdm h.mgmt.spdmAlgs (fun h =>
    if reqByte r 2 % 16 ≠ 0 then h.spdmError 1
    else
      let (nonce, h) := h.randomBytes 32
      h.spdmSigned r (spdmHead 0x03 0 1 ++ Config.sha3 h.certChain ++ nonce ++ Config.doeBytes 0x03 r))

def getMeasurements (r : List Byte) (e : Env) (h : Hw) : Hw :=
  h.spdm h.mgmt.spdmAlgs (fun h =>
    let i := reqByte r 3
    let (nonce, h) := h.randomBytes 32
    if i = 0 then h.spdmSigned r (spdmHead 0x60 h.measured.length 0 ++ nonce)
    else
      let l := if i = 0xFF then h.measured else h.measured.filter (· = i)
      if l.isEmpty then h.spdmError 1
      else
        let rec_ := l.flatMap (h.measureBlock e)
        h.spdmSigned r (spdmHead 0x60 0 0 ++ toBytes 1 l.length ++ toBytes 3 rec_.length ++ rec_ ++ nonce))

def keyExchange (r : List Byte) (_ : Env) (h : Hw) : Hw :=
  h.spdm h.mgmt.spdmAlgs (fun h =>
    let (nonce, h) := h.randomBytes 32
    ({ h with mgmt := { h.mgmt with spdmSession := 1 } }).spdmSigned r
      (spdmHead 0x64 0 0 ++ nonce ++ Config.mlKem r h.mgmt.draws))

def finish (_ : List Byte) (_ : Env) (h : Hw) : Hw :=
  h.spdm (h.mgmt.spdmSession = 1) (fun h =>
    ({ h with mgmt := { h.mgmt with spdmSession := 2 } }).doeReply (spdmHead 0x65 0 0))

def endSession (_ : List Byte) (_ : Env) (h : Hw) : Hw :=
  h.spdm (h.mgmt.spdmSession = 2) (fun h =>
    ({ h with mgmt := { h.mgmt with spdmSession := 0 } }).doeReply (spdmHead 0x6C 0 0))

/-- IDE_KM in an established session (R466, R512): 2 delivers a key, 4 activates a stream's, 5 stops it; stream 0 is the
link stream, 1 to 8 the selective ones. -/
def ideKm (r : List Byte) (_ : Env) (h : Hw) : Hw :=
  h.spdm (h.mgmt.spdmSession = 2) (fun h =>
    let op := reqByte r 0
    let stream := reqByte r 2
    if 8 < stream then h.doeReply (Config.doeBytes 0x100 r)
    else if op = 2 then
      ({ h with io := { h.io with ideKeys := natInsert h.io.ideKeys stream } }).doeReply (Config.doeBytes 0x103 r)
    else if op = 4 && h.io.ideKeys.contains stream then
      ({ h with io := { h.io with ideGo := natInsert h.io.ideGo stream } }).doeReply (Config.doeBytes 0x106 r)
    else if op = 5 then
      ({ h with io := { h.io with ideGo := h.io.ideGo.filter (· ≠ stream) } }).doeReply (Config.doeBytes 0x106 r)
    else h.doeReply (Config.doeBytes 0x101 r))

/-- DOE discovery: entry `index` of the protocols, and the index of the next, 0 after the last. -/
def doeDiscovery (r : List Byte) (_ : Env) (h : Hw) : Hw :=
  if !h.doeOn then h
  else
    let i := reqByte r 0
    if i < 3 then h.doeReply ([0x01, 0x00, BitVec.ofNat 8 i, BitVec.ofNat 8 ((i + 1) % 3)])
    else h.doeReply ([0xFF, 0xFF, 0, 0])

/-- A configuration request (R466, R501): Request Retry Status in stage ROM; identity and class as R466 states; words it
does not give are free. -/
def configurationRequest (fn off : Nat) (write : Option (BitVec 32)) (_ : Env) (h : Hw) : Hw :=
  let off := off / 4 * 4
  let key := fn * 4096 + off % 4096
  let answer (h : Hw) (v : Option (BitVec 32)) : Hw := { h with mgmt := { h.mgmt with cfgRead := v } }
  if 9 ≤ fn || !h.io.linkUp then h
  else if h.stage = 0 then answer h none
  else match write with
    | some w =>
      if off = 0 || off = 8 then h else { h with io := { h.io with cfg := SMap.put h.io.cfg key w } }
    | none =>
      let v : Nat := if off = 0 then h.rf Reg.pkgIdVendor pkgB + (if fn = 0 then 0x0320 else 0x0321) * 2 ^ 16
        else if off = 8 then bits (Config.cfgSpace fn 8).toNat 7 0 + 0x120000 * 256
        else match SMap.find? h.io.cfg key with
          | some w => (Config.cfgBack fn off (BitVec.ofNat 64 w.toNat)).toNat
          | none => (Config.cfgSpace fn off).toNat
      answer h (some (BitVec.ofNat 32 v))

/-! The commands. -/

/-- POWER_ON_RESET (R497). -/
def execPowerOnReset (boot : BootEnv) (s : State) : Host.Outcome State Fault Refusal := onTl (powerOnReset boot) s

/-- PERST (R497). -/
def execPerst (boot : BootEnv) (s : State) : Host.Outcome State Fault Refusal := onTl (packageReset 1 boot) s

/-- RST_CTRL_PKG (R497). -/
def execRstCtrlPkg (key : Nat) (boot : BootEnv) (s : State) : Host.Outcome State Fault Refusal := onTl (rstCtrlPkg key boot) s

/-- RST_CTRL_MP (R497). -/
def execRstCtrlMp (key : Nat) (flashOk : Bool) (boot : BootEnv) (s : State) : Host.Outcome State Fault Refusal :=
  onTl (rstCtrlMp key flashOk boot) s

/-- BOOT_VERIFY (R504). -/
def execBootVerify (flashOk : Bool) (s : State) : Host.Outcome State Fault Refusal := onHw (bootVerify flashOk) s

/-- BOOT_MEM_TRAIN (R361). -/
def execBootMemTrain (train : MemTrain) (s : State) : Host.Outcome State Fault Refusal := onHw (bootMemTrain train) s

/-- BOOT_CLEAR (R500). -/
def execBootClear (s : State) : Host.Outcome State Fault Refusal := onHw bootClear s

/-- BOOT_LINKS (R500). -/
def execBootLinks (s : State) : Host.Outcome State Fault Refusal := onHw bootLinks s

/-- RCV_CTRL_GO (R507). -/
def execRcvCtrlGo (readOk flashOk : Bool) (s : State) : Host.Outcome State Fault Refusal := onHw (rcvCtrlGo readOk flashOk) s

/-- FW_UPD_START (R508). -/
def execFwUpdStart (readOk flashOk : Bool) (s : State) : Host.Outcome State Fault Refusal := onHw (fwUpdStart readOk flashOk) s

/-- JOIN_CMD_GO (R510). -/
def execJoinCmdGo (s : State) : Host.Outcome State Fault Refusal := onTl joinCmdGo s

/-- WDT_KICK (R513). -/
def execWdtKick (s : State) : Host.Outcome State Fault Refusal := onHw wdtKick s

/-- WATCHDOG_EXPIRY (R513). -/
def execWatchdogExpiry (flashOk : Bool) (boot : BootEnv) (s : State) : Host.Outcome State Fault Refusal :=
  onTl (watchdogExpiry flashOk boot) s

/-- DBG_NONCE_READ (R514). -/
def execDbgNonceRead (s : State) : Host.Outcome State Fault Refusal := onHw dbgNonceRead s

/-- DBG_CTRL_SUBMIT (R514). -/
def execDbgCtrlSubmit (s : State) : Host.Outcome State Fault Refusal := onHw dbgCtrlSubmit s

/-- CDIE_PWR_WRITE (R515). -/
def execCdiePwrWrite (off : BitVec 24) (s : State) : Host.Outcome State Fault Refusal := onHw (cdiePwrWrite off) s

/-- GET_VERSION (R512). -/
def execGetVersion (request : List Byte) (s : State) : Host.Outcome State Fault Refusal := onHw (getVersion request) s

/-- GET_CAPABILITIES (R512). -/
def execGetCapabilities (request : List Byte) (s : State) : Host.Outcome State Fault Refusal := onHw (getCapabilities request) s

/-- NEGOTIATE_ALGORITHMS (R512). -/
def execNegotiateAlgorithms (request : List Byte) (s : State) : Host.Outcome State Fault Refusal :=
  onHw (negotiateAlgorithms request) s

/-- GET_DIGESTS (R512). -/
def execGetDigests (request : List Byte) (s : State) : Host.Outcome State Fault Refusal := onHw (getDigests request) s

/-- GET_CERTIFICATE (R512). -/
def execGetCertificate (request : List Byte) (s : State) : Host.Outcome State Fault Refusal := onHw (getCertificate request) s

/-- CHALLENGE (R512). -/
def execChallenge (request : List Byte) (s : State) : Host.Outcome State Fault Refusal := onHw (challenge request) s

/-- GET_MEASUREMENTS (R512). -/
def execGetMeasurements (request : List Byte) (s : State) : Host.Outcome State Fault Refusal := onHw (getMeasurements request) s

/-- KEY_EXCHANGE (R512). -/
def execKeyExchange (request : List Byte) (s : State) : Host.Outcome State Fault Refusal := onHw (keyExchange request) s

/-- FINISH (R512). -/
def execFinish (request : List Byte) (s : State) : Host.Outcome State Fault Refusal := onHw (finish request) s

/-- END_SESSION (R512). -/
def execEndSession (request : List Byte) (s : State) : Host.Outcome State Fault Refusal := onHw (endSession request) s

/-- IDE_KM (R466). -/
def execIdeKm (request : List Byte) (s : State) : Host.Outcome State Fault Refusal := onHw (ideKm request) s

/-- DOE_DISCOVERY (R466). -/
def execDoeDiscovery (request : List Byte) (s : State) : Host.Outcome State Fault Refusal := onHw (doeDiscovery request) s

/-- CONFIGURATION_REQUEST (R501). -/
def execConfigurationRequest (fn off : Nat) (write : Option (BitVec 32)) (s : State) : Host.Outcome State Fault Refusal :=
  onHw (configurationRequest fn off write) s

end Sys2Proof.Machine
end

