-- ==== Sys2Proof/Machine/Link.lean ====
section
/-! DEFINITION. Fabric ports: link blocks, the frame stream, return to service, loop-backs, burnish, and
synchronisation over control blocks (R239 to R245, R421 to R424, R526 to R535, R542 to R549). -/

namespace Sys2Proof.Machine

/-! The parent in time (R421, R424). -/

/-- Ports that may be the parent: UP, SYNCED, of the same timeline, in ascending DEPTH and port (R421). -/
def Hw.parentPort (h : Hw) : Option Nat :=
  let l := (upto 48).filter (fun p => h.pf Reg.xptPortState p = pUp
    && (let y := SMap.get h.sync.peers {} p; y.synced && !y.bad))
  l.foldl (fun (best : Option Nat) p =>
    match best with
    | none => some p
    | some q => if (SMap.get h.sync.peers {} p).depth < (SMap.get h.sync.peers {} q).depth then some p else best) none

/-- The parent is chosen anew (R421, R424). -/
def Hw.chooseParent (h : Hw) : Hw :=
  if h.rf Reg.timeStatusGm tmB = 1 then h
  else match h.parentPort with
    | some q =>
      let depth := (SMap.get h.sync.peers {} q).depth + 1
      let same := h.rf Reg.timeStatusParentPort tmB = q
      let h := (h.wf Reg.timeStatusParentPort tmB 0 q).wf Reg.timeStatusDepth tmB 0 depth
      let h := h.wf Reg.timeStatusBound tmB 0 (Nat.min 255 (5 * (depth + 1)))
      { h with sync := { h.sync with
        lostAt := none, goodRun := if same then h.sync.goodRun else 0, badRun := if same then h.sync.badRun else 0 } }
    | none =>
      let h := h.wf Reg.timeStatusParentPort tmB 0 0xFF
      { h with sync := { h.sync with
        lostAt := if h.rf Reg.timeStatusSynced tmB = 1 then some (h.sync.lostAt.getD h.now) else none
        goodRun := 0, badRun := 0 } }

/-! A port goes DOWN (R245, R526, R530, R540). -/

/-- A partition whose mirror partner is `node` notes the beat in hand (R540). -/
def Hw.noteInterrupt (h : Hw) (e : Env) (node : Nat) : Hw :=
  (upto 8).foldl (fun (h : Hw) q =>
    if h.rf Reg.mirEnable pkgB q = 1 && h.rf Reg.mirPartner pkgB q = node then
      { h with mirrors := SMap.upd h.mirrors {} q (fun m => { m with interrupted := some (h.beatOf e q) }) }
    else h) h

/-- The port to a partner is UP again: no beat is interrupted (R540). -/
def Hw.clearInterrupt (h : Hw) (node : Nat) : Hw :=
  { h with mirrors := h.mirrors.map (fun (m : Nat × Mirror) =>
    if h.rf Reg.mirPartner pkgB m.1 = node && !m.2.due then (m.1, { m.2 with interrupted := none }) else m) }

/-- A LINK record about a port. -/
def Hw.portRecord (h : Hw) (p kind cause : Nat) : Hw :=
  h.link kind p cause (h.pf Reg.xptPortWeight p) (h.farNode p) (h.pf Reg.xptPortNbPort p) 0

/-- A port goes DOWN: weight 0, credits forgotten, its LINK record. -/
def Hw.portDown (h : Hw) (e : Env) (p kind cause : Nat) : Hw :=
  let x := h.port p
  let wasUp := h.pf Reg.xptPortState p = pUp
  let h := (h.setPf Reg.xptPortState p pDown).setPf Reg.xptPortWeight p 0
  let h := h.setPf Reg.xptBurnConverged p 0
  let h := h.setPort p { wire := x.wire, backoff := x.backoff, until_ := x.until_, since := h.now, taps := x.taps
                         loop := if x.loop = some 6 then none else x.loop, stallSince := x.stallSince, stalled := x.stalled }
  let h := h.noteStall p
  let h := if x.loop = some 6 then (h.setPf Reg.xptLbResult p 3).setPf Reg.xptLbErrors p x.probesOut.length else h
  let h := match h.farNode p with
    | some n => if wasUp && p % 12 < 8 then h.noteInterrupt e n else h
    | none => h
  (if h.node?.isSome && wasUp then h.chooseParent else h).portRecord p kind cause

/-- A failure on the way to service: the port is DOWN, and its next back-off doubles (R530). -/
def Hw.portFail (h : Hw) (e : Env) (p kind : Nat) : Hw :=
  let h := h.portDown e p kind 0
  let x := h.port p
  let ms := Nat.min 1024 (if x.backoff = 0 then orElse (h.pf Reg.xptRaBackoff (p / 12 * 12)) 1 else x.backoff)
  h.setPort p { x with backoff := Nat.min 1024 (2 * ms), until_ := some (h.now + ms * 1000000) }

/-- A register of the transport engine of a port's F-die. -/
def Hw.xf (h : Hw) (f : FieldRef) (p : Nat) : Nat := h.rf f (xptB (portDie p))

/-- A port is enabled and the package may use it. -/
def Hw.portOn (h : Hw) (e : Env) (p : Nat) : Bool :=
  p < 48 && bit e.fuses.ports p && 5 ≤ h.stage && h.stage ≠ stFaulted && h.power.good

/-- The lanes of a port carry a signal (R530). -/
def laneSignal (p : Nat) (e : Env) (h : Hw) : Hw :=
  let x := h.port p
  if h.portOn e p && h.pf Reg.xptPortState p = pDown && x.until_.isNone && !(x.loop.any (fun d => d ≤ 4)) then
    (h.setPf Reg.xptPortState p pTraining).setPort p { x with since := h.now, lastCtl := h.now, blk := none, ctlRun := 0 }
  else h

/-- A back-off ends (R530). -/
def backoffExpiry (p : Nat) (_ : Env) (h : Hw) : Hw :=
  match (h.port p).until_ with
  | some t => (h.reach t).setPort p { h.port p with until_ := none }
  | none => h

/-! Probes (R531, R532). -/

/-- A PROBE frame of this end. -/
def Hw.probeFrame (h : Hw) (p seq : Nat) (echo : Option Nat) : Frame :=
  let far := 24 + h.pf Reg.xptPortNbPort p / 12
  let t : TxFrame :=
    { typ := 0x0A, cls := 0, src := h.coord (portDie p) 8, dst := coordOf ((h.farNode p).getD 0) far 8
      arg := p + 256 * b2n echo.isSome, payload := granules (toBytes 8 h.now ++ toBytes 8 (echo.getD 0)) }
  t.build seq 0 h.ageNow 0 false {}

/-- Send a probe round. -/
def Hw.startProbes (h : Hw) (p : Nat) : Hw :=
  let n := orElse (h.xf Reg.xptRaProbes p) 1
  let x := h.port p
  h.setPort p { x with
    probing := true, probesOut := upto n, probedAt := h.now, wire := x.wire ++ (upto n).map (fun i => h.probeFrame p i none) }

/-- A probe of this end has returned. -/
def Hw.probeBack (h : Hw) (p seq : Nat) : Hw :=
  let x := h.port p
  let out := x.probesOut.filter (· ≠ seq)
  let over_ := x.probing && !x.probesOut.isEmpty && out.isEmpty
  let h := h.setPort p { x with probesOut := out, probesOk := x.probesOk || over_, probing := x.probing && !over_ }
  if over_ && x.loop = some 6 then
    ((h.setPf Reg.xptLbResult p 2).setPf Reg.xptLbErrors p 0).setPort p { h.port p with loop := none }
  else h

/-- A PROBE frame at the ingress of a port: a probe is answered with REPLY, a reply ends the wait for its probe. -/
def probe (p : Nat) (f : Frame) (_ : Env) (h : Hw) : Hw :=
  let x := h.port p
  if 48 ≤ p || !(x.probes.contains f) then h
  else
    let h := h.setPort p { x with probes := x.probes.erase f }
    if f.e2e.toNat ≠ Frame.e2eOf f then h
    else if bit (Frame.arg f) 8 then h.probeBack p (Frame.seq f)
    else
      let x := h.port p
      h.setPort p { x with probesFar := x.probesFar + 1, wire := x.wire ++ [h.probeFrame p (Frame.seq f) (some (pay f.payload 0 8))] }

/-- A probe does not return in time (R531). -/
def probeTimeout (p : Nat) (e : Env) (h : Hw) : Hw :=
  let x := h.port p
  if 48 ≤ p || !x.probing || x.probesOut.isEmpty then h
  else
    let h := h.reach (x.probedAt + 1000 * orElse (h.xf Reg.xptRaProbeTimeout p) 1)
    if h.pf Reg.xptPortState p = pProbing then h.portFail e p 6
    else
      let h := (h.setPf Reg.xptLbResult p 3).setPf Reg.xptLbErrors p x.probesOut.length
      h.setPort p { x with probing := false, probesOut := [], loop := none }

/-! Link blocks (R243 to R245). -/

/-- Fields of a block header. -/
def LinkBlock.kind (b : LinkBlock) : Nat := bits b.hdr.toNat 1 0
def LinkBlock.blk (b : LinkBlock) : Nat := bits b.hdr.toNat 6 2
def LinkBlock.cr (b : LinkBlock) (c : Nat) : Nat := bits b.hdr.toNat (15 + 8 * c) (8 + 8 * c)

/-- Body bytes with whether each lies in an uncorrectable codeword: byte 642 of a block has bits in both (R242). -/
def LinkBlock.bytes (b : LinkBlock) : List (Byte × Bool) :=
  b.body.zipIdx.map (fun (x : Byte × Nat) => (x.1, (x.2 + 5 ≤ 642 && b.badA) || (642 ≤ x.2 + 5 && b.badB)))

/-- What every block does at its receiver: codewords are counted, its place in the sequence is checked, credits return. The
block that this end sends beside it returns at most 255 granules of each class (R243, R282; log entry 103). The answer
tells whether the port goes on. -/
def Hw.blockIn (h : Hw) (e : Env) (p : Nat) (b : LinkBlock) : Bool × Hw :=
  let h := h.setPf Reg.xptLinkCwCorrected p (satAdd 24 (h.pf Reg.xptLinkCwCorrected p) b.corrected)
  let h := h.setPf Reg.xptLinkCwUncorr p (satAdd 24 (h.pf Reg.xptLinkCwUncorr p) (b2n b.badA + b2n b.badB))
  let x := h.port p
  let runA := if b.badA then x.badRun + 1 else 0
  let runB := if b.badB then runA + 1 else 0
  let want := x.blk.map (fun n => (n + 1) % 20)
  let here := if b.badA then want.getD 0 else (LinkBlock.blk b)
  let broken := !b.badA && (want.any (fun n => n ≠ (LinkBlock.blk b)) || 20 ≤ (LinkBlock.blk b) || ((LinkBlock.kind b == 1) != (LinkBlock.blk b == 0)) || 2 ≤ (LinkBlock.kind b))
  if broken then (false, h.portDown e p 1 1)
  else if 8 ≤ runA || 8 ≤ runB then (false, h.portDown e p 1 2)
  else
    let up := h.pf Reg.xptPortState p = pUp
    let credits := if up && !b.badA then x.credits.zipIdx.map (fun (c : Nat × Nat) => c.1 + LinkBlock.cr b c.2) else x.credits
    let back := if up then x.owed.map (Nat.min 255) else x.returned
    (true, (h.setPort p { x with
      badRun := runB, blk := if b.badA && x.blk.isNone then none else some here, credits := credits, returned := back
      owed := if up then (x.owed.zip back).map (fun (c : Nat × Nat) => c.1 - c.2) else x.owed }).noteStall p)

/-- One frame taken from the front of a stream: one that fails HCRC frees its granules at once (R277), a PROBE goes no
further (R532), others stand at the switch core's ingress. -/
def Hw.streamFrame (h : Hw) (p : Nat) (l : List (Byte × Bool)) : Hw :=
  let bs := l.map (fun x => x.1)
  let n := bs.length - 40
  let f : Frame :=
    { hdr := BitVec.ofNat 256 (ofBytes (bs.take 32)), payload := (bs.drop 32).take n
      e2e := BitVec.ofNat 32 (pay bs (32 + n) 4), hcrc := BitVec.ofNat 32 (pay bs (36 + n) 4) }
  if l.any (fun x => x.2) || f.hcrc.toNat ≠ Frame.hcrcOf f then
    let h := h.setPf Reg.xptLinkHcrc p (satAdd 16 (h.pf Reg.xptLinkHcrc p) 1)
    if h.pf Reg.xptPortState p = pUp then h.owe (portDie p) (p % 12) (Frame.cls f) (bufGranules f) else h
  else if Frame.typ f = 0x0A then
    let h := h.mirror (portDie p) (p % 12) 12 f
    h.setPort p { h.port p with probes := (h.port p).probes ++ [f] }
  else if h.pf Reg.xptPortState p = pUp then h.enterSwitch (portDie p) (p % 12) f
  else h

/-- Take whole frames and idle words from a stream (R244). -/
def Hw.takeStream (h : Hw) (p : Nat) : Nat → List (Byte × Bool) → Hw × List (Byte × Bool)
  | 0, l => (h, l)
  | k + 1, l =>
    match l with
    | [] => (h, [])
    | (b, _) :: _ =>
      if l.length < 8 then (h, l)
      else if b = 0 then Hw.takeStream h p k (l.drop 8)
      else
        let n := 40 + 64 * bits ((l.getD 2 (0, false)).1).toNat 6 0
        if l.length < n then (h, l) else Hw.takeStream (h.streamFrame p (l.take n)) p k (l.drop n)

/-- DATA_BLOCK. -/
def dataBlock (p : Nat) (b : LinkBlock) (e : Env) (h : Hw) : Hw :=
  if !h.portOn e p || h.pf Reg.xptPortState p = pDown then h
  else match h.blockIn e p b with
    | (false, h) => h
    | (true, h) =>
      let st := h.pf Reg.xptPortState p
      if st = pUp || st = pProbing then
        let l := (h.port p).rx ++ (LinkBlock.bytes b)
        let (h, rest) := h.takeStream p l.length l
        h.setPort p { h.port p with rx := rest }
      else h

/-! Control blocks. -/

/-- A field of a control block's body. -/
def LinkBlock.num (b : LinkBlock) (off n : Nat) : Nat := pay b.body off n

/-- A local port whose far end is not the member that R238 names (R239), or a spare that is not cabled to the far end of
the port it is named for (R240). -/
def Hw.miscabled (h : Hw) (p : Nat) : Bool :=
  match h.node?, h.farNode p with
  | some own, some far =>
    if p = 43 then h.spareNamed.any (fun v => !h.spareFits v)
    else p % 12 < 8 && !(localEnd own far (8 * (p / 12) + p % 12))
  | _, _ => false

/-- A port on its way to service, or in it, is held in TRAINING (R239, R240): it carries control blocks only. -/
def Hw.holdTraining (h : Hw) (e : Env) (p : Nat) : Hw :=
  let x := h.port p
  let wasUp := h.pf Reg.xptPortState p = pUp
  let h := ((h.setPf Reg.xptPortState p pTraining).setPf Reg.xptPortWeight p 0).setPf Reg.xptBurnConverged p 0
  let h := (h.setPort p { wire := x.wire, backoff := x.backoff, since := h.now, taps := x.taps, blk := x.blk, ctlRun := x.ctlRun
                          lastCtl := x.lastCtl, stallSince := x.stallSince, stalled := x.stalled }).noteStall p
  let h := if x.loop = some 5 || x.loop = some 6 then (h.setPf Reg.xptLbResult p 3).setPf Reg.xptLbErrors p 0 else h
  let h := match h.farNode p with
    | some n => if wasUp && p % 12 < 8 then h.noteInterrupt e n else h
    | none => h
  if h.node?.isSome && wasUp then h.chooseParent else h

/-- The record of a lane in the BURNISH field, where it can be used (R546). -/
def LinkBlock.lane (b : LinkBlock) (n : Nat) : Option Nat :=
  let v := LinkBlock.num b (0x100 + 0x40 * n) 64
  let codes (hi lo : Nat) : Bool := (upto ((hi + 1 - lo) / 2)).all (fun i => bits v (lo + 2 * i + 1) (lo + 2 * i) ≠ 3)
  if bits v 15 10 = 0 && bits v 31 26 = 0 && bits v 47 42 = 0 && bits v 511 48 = 0 && codes 9 0 && codes 25 16
  then some v else none

/-- Own and far margins of the lanes (R547); a far margin only where its record can be used. -/
def LinkBlock.ownMargins (b : LinkBlock) : List Nat := (upto 4).map (fun n => bits b.margins.toNat (8 * n + 7) (8 * n))
def LinkBlock.farMargins (b : LinkBlock) : List (Option Nat) := (upto 4).map (fun n => (LinkBlock.lane b n).map (fun v => bits v 39 32))

/-- The row of R549 that a margin lies in. -/
def Hw.capRow (h : Hw) (p m : Nat) : Nat :=
  if h.xf Reg.xptBurnCfgHi p ≤ m then 8 else if h.xf Reg.xptBurnCfgMid p ≤ m then 4
  else if h.xf Reg.xptBurnCfgLo p ≤ m then 2 else 0

/-- The cap after one control-block period (R549): it falls at once, and rises after 64 periods in a row. -/
def Hw.stepCap (h : Hw) (p worst : Nat) : Hw :=
  let x := h.port p
  let hyst := h.xf Reg.xptBurnCfgHyst p
  let rows := [(2, h.xf Reg.xptBurnCfgLo p), (4, h.xf Reg.xptBurnCfgMid p), (8, h.xf Reg.xptBurnCfgHi p)]
  let runs := (x.capRuns.zip rows).map (fun (r : Nat × Nat × Nat) => if r.2.2 + hyst ≤ worst then r.1 + 1 else 0)
  let cap := h.pf Reg.xptBurnCap p
  let up := (runs.zip rows).foldl (fun (c : Nat) (r : Nat × Nat × Nat) => if 64 ≤ r.1 then Nat.max c r.2.1 else c) cap
  let row := h.capRow p worst
  (h.setPort p { x with capRuns := runs }).setPf Reg.xptBurnCap p (if row < cap then row else up)

/-- Burnish on a control block (R546 to R549). -/
def Hw.burnish (h : Hw) (p : Nat) (b : LinkBlock) : Hw :=
  let st := h.pf Reg.xptPortState p
  let own := (LinkBlock.ownMargins b)
  let far := (LinkBlock.farMargins b)
  let worst := (own ++ far.filterMap id).foldl Nat.min 255
  let x := h.port p
  let taps := (upto 4).foldl (fun (m : SMap Int) n =>
    match LinkBlock.lane b n with
    | none => m
    | some v => (upto 5).foldl (fun (m : SMap Int) t =>
        let r := bits v (2 * t + 1) (2 * t)
        if r = 0 then m else SMap.upd m 0 (n * 5 + t) (fun c => if r = 1 then c + 1 else c - 1)) m) x.taps
  let h := h.setPort p { x with taps := taps }
  let h := (h.setPf Reg.xptBurnMargin p (bits b.margins.toNat 31 0)).setPf Reg.xptBurnWorst p worst
  if st = pProbing then
    let pre := (upto 4).foldl (fun v n => match LinkBlock.lane b n with
      | some r => setBits v n n (bits r 40 40)
      | none => v) (h.pf Reg.xptBurnPrecode p)
    let h := h.setPf Reg.xptBurnPrecode p pre
    let conv := h.xf Reg.xptBurnCfgConv p
    let ok := own.all (fun m => conv ≤ m) && far.all (fun m => m.any (fun v => conv ≤ v))
    let run := if ok then (h.port p).convRun + 1 else 0
    let h := h.setPort p { h.port p with convRun := run }
    if run = 64 && h.pf Reg.xptBurnConverged p = 0 then (h.setPf Reg.xptBurnConverged p 1).startProbes p else h
  else if st = pUp then h.stepCap p worst
  else h

/-! Synchronisation (R421 to R424). -/

/-- The reserved fields of the TIME field are zero (R422). -/
def LinkBlock.timeOk (b : LinkBlock) : Bool :=
  bits (LinkBlock.num b 0x21 1) 7 2 = 0 && LinkBlock.num b 0x22 2 = 0 && LinkBlock.num b 0x26 2 = 0 && LinkBlock.num b 0x2C 4 = 0 && LinkBlock.num b 0x38 200 = 0

/-- The counter follows its parent by θ (R418): forward in one step or held still while SYNCED is 0, by slewing otherwise. -/
def Hw.follow (h : Hw) (theta : Int) : Hw :=
  if h.rf Reg.timeStatusSynced tmB = 1 then h
  else if 0 < theta then { h with now := h.now + theta.toNat }
  else if 1000 ≤ -theta then { h with sync := { h.sync with hold := ((-theta).toNat - 999) } }
  else h

/-- The offset of the parent from a control block, and what it does (R423, R424). -/
def Hw.measure (h : Hw) (p : Nat) (b : LinkBlock) : Hw :=
  let t1 : Int := LinkBlock.num b 0x10 8
  let t2 : Int := LinkBlock.num b 0x18 8
  let t3 : Int := LinkBlock.num b 0x08 8
  let t4 : Int := h.now
  if t1 = 0 then h
  else
    let twice := (t2 - t1) - (t4 - t3)
    let theta := twice / 2
    let off := if theta < -32768 then -32768 else if 32767 < theta then 32767 else theta
    let h := h.wf Reg.timeStatusOffset tmB 0 (ofSigned 16 off)
    let good := if twice.natAbs ≤ 8 then h.sync.goodRun + 1 else 0
    let bad := if 16 < twice.natAbs then h.sync.badRun + 1 else 0
    let h := { h with sync := { h.sync with goodRun := good, badRun := bad } }
    let h := h.follow theta
    if 64 ≤ bad then h.setSynced false p
    else if 64 ≤ good then h.setSynced true p
    else h

/-- The TIME field of a control block (R421 to R424). -/
def Hw.timeIn (h : Hw) (p : Nat) (b : LinkBlock) : Hw :=
  if h.node?.isNone || !(LinkBlock.timeOk b) then h
  else
    let old : Peer := SMap.get h.sync.peers {} p
    let synced := bit (LinkBlock.num b 0x21 1) 0
    let gm := bit (LinkBlock.num b 0x21 1) 1
    let bad := LinkBlock.num b 0x28 4 ≠ h.rf Reg.fabricBeatPeriod tmB || LinkBlock.num b 0x30 8 ≠ h.rf Reg.fabricOriginOrigin tmB
    let x : Peer := { depth := LinkBlock.num b 0x20 1, synced := synced, gm := gm, bad := bad, lastTx := LinkBlock.num b 0x08 8, lastRx := h.now }
    let h := { h with sync := { h.sync with peers := SMap.put h.sync.peers p x } }
    let own := h.rf Reg.timeStatusGm tmB = 1
    let h := if (own && gm && !old.gm) || (!own && synced && bad && !(old.synced && old.bad)) then h.timeEvent 3 p 0 0 else h
    let h := h.chooseParent
    if !own && h.rf Reg.timeStatusParentPort tmB = p && h.pf Reg.xptPortState p = pUp then h.measure p b else h

/-- CONTROL_BLOCK. A block whose header lies in an uncorrectable codeword is no control block received. -/
def controlBlock (p : Nat) (b : LinkBlock) (e : Env) (h : Hw) : Hw :=
  if !h.portOn e p || h.pf Reg.xptPortState p = pDown then h
  else match h.blockIn e p b with
    | (false, h) => h
    | (true, h) =>
      if b.badA then h.setPort p { h.port p with ctlRun := 0 }
      else
        let h := h.setPort p { h.port p with lastCtl := h.now, ctlRun := (h.port p).ctlRun + 1 }
        let h := (h.setPf Reg.xptPortNbNode p (bits (LinkBlock.num b 0 2) 14 0)).setPf Reg.xptPortNbValid p (bits (LinkBlock.num b 0 2) 15 15)
        let h := h.setPf Reg.xptPortNbPort p (LinkBlock.num b 2 1)
        let h := (h.burnish p b).timeIn p b
        let run := (h.port p).ctlRun
        if h.pf Reg.xptPortState p ≠ pTraining then
          if h.miscabled p then (h.holdTraining e p).portRecord p 3 0 else h
        else if run < 64 then h
        else if h.miscabled p then (if run = 64 then h.portRecord p 3 0 else h)
        else if p = 43 && h.spareNamed.isNone then h
        else (h.setPf Reg.xptPortState p pLoopback).setPort p { h.port p with since := h.now, second := false }

/-- CONTROL_BLOCK_TIMEOUT: 971 ns without a control block (R245). -/
def controlBlockTimeout (p : Nat) (e : Env) (h : Hw) : Hw :=
  if 48 ≤ p || h.pf Reg.xptPortState p = pDown then h
  else (h.reach ((h.port p).lastCtl + 971)).portDown e p 1 3

/-- BURN_TIMEOUT (R548). -/
def burnTimeout (p : Nat) (e : Env) (h : Hw) : Hw :=
  if 48 ≤ p || h.pf Reg.xptPortState p ≠ pProbing || h.pf Reg.xptBurnConverged p = 1 then h
  else (h.reach ((h.port p).since + 1000 * orElse (h.xf Reg.xptBurnCfgBurnTimeout p) 1)).portFail e p 5

/-! Loop-backs (R530, R531, R542 to R545). -/

/-- In the LOOPBACK state this end is looped first: it has the lower node number, an end without one counting as node 0,
or of equal numbers the lower package port (R545). -/
def Hw.loopsFirst (h : Hw) (p : Nat) : Bool :=
  let own := h.node
  let far := (h.farNode p).getD 0
  own < far || (own = far && p < h.pf Reg.xptPortNbPort p)

/-- LOOPBACK_END: the loop of the end in hand in the LOOPBACK state of R530 has its result, or a loop-back of depth 1 to 4.
The result of the far end's loop is judged there (R545): here it ends that end's turn. -/
def loopbackEnd (p : Nat) (r : LoopResult) (e : Env) (h : Hw) : Hw :=
  let x := h.port p
  let pass := r.uncorrectable = 0 && r.corrected ≤ h.xf Reg.xptRaLbCorrMax p
  let told (h : Hw) : Hw :=
    ((h.setPf Reg.xptLbResult p (if pass then 2 else 3)).setPf Reg.xptLbErrors p
      (Nat.min (2 ^ 32 - 1) (r.miscompared + r.uncorrectable))).setPort p { h.port p with loop := none }
  if 48 ≤ p then h
  else if h.pf Reg.xptPortState p = pLoopback then
    let mine := h.loopsFirst p != x.second
    let h := if mine && x.loop = some 5 then told h else h
    if mine && !pass then h.portFail e p 4
    else if !x.second then h.setPort p { h.port p with second := true }
    else (h.setPf Reg.xptPortState p pProbing).setPort p { h.port p with
      since := h.now, convRun := 0, probing := false, probesOut := [], probesOk := false, probesFar := 0, rx := [], second := false }
  else if x.loop.any (fun d => d ≤ 4) then told h
  else h

/-- XPT_LB_j.START (R542, R543). -/
def Hw.startLoop (h : Hw) (e : Env) (p depth : Nat) : Hw :=
  let h := h.setPf Reg.xptLbDepth p depth
  let st := h.pf Reg.xptPortState p
  if (h.port p).loop.isSome then h
  else if depth = 0 || 6 < depth || st = pTraining || st = pLoopback || st = pProbing || (depth = 6 && st ≠ pUp) then
    h.setPf Reg.xptLbResult p 4
  else if depth = 6 then
    let h := (h.setPf Reg.xptLbResult p 1).startProbes p
    h.setPort p { h.port p with loop := some 6 }
  else
    let h := if st = pUp then h.portDown e p 1 0 else h
    (h.setPf Reg.xptLbResult p 1).setPort p { h.port p with loop := some depth }

def xptLbStart (p depth : Nat) (e : Env) (h : Hw) : Hw := if h.served && p < 48 then h.startLoop e p depth else h

/-- MEM_LB.START: allowed on a stack that is not READY and on a channel that is not in use (R542); whether the memory
passes is a value the manual leaves open. -/
def Hw.startMemLoop (h : Hw) (die unit depth : Nat) : Hw :=
  let b := rkey die unit 0
  let hbm := unit < 4
  let ok := if hbm then depth = 3 && h.rf Reg.hbmStatusState b ≠ 2 else (depth = 1 || depth = 2) && h.rf Reg.ddrStatusInUse b = 0
  let put (h : Hw) (r n : Nat) : Hw :=
    if hbm then ((h.wf Reg.hbmLbDepth b 0 depth).wf Reg.hbmLbResult b 0 r).wf Reg.hbmLbErrors b 0 n
    else ((h.wf Reg.ddrLbDepth b 0 depth).wf Reg.ddrLbResult b 0 r).wf Reg.ddrLbErrors b 0 n
  if !ok then put h 4 (if hbm then h.rf Reg.hbmLbErrors b else h.rf Reg.ddrLbErrors b)
  else
    let (w, h) := h.drawFree
    let errors := bits w.toNat 31 0
    put h (if errors = 0 then 2 else 3) errors

def memLbStart (die unit depth : Nat) (_ : Env) (h : Hw) : Hw :=
  if h.served && 28 ≤ die && die < 32 && 2 ≤ unit && unit < 8 then h.startMemLoop die unit depth else h

/-! Fabric epochs: ports reach UP, and weights move (R530, R533, R549). -/

/-- A port whose both ends have passed reaches UP, without credits, and owing its far end the guaranteed minimum (R253,
R282). -/
def Hw.portUp (h : Hw) (p : Nat) : Hw :=
  let cap := h.capRow p (h.pf Reg.xptBurnWorst p)
  let x := h.port p
  let h := (h.setPf Reg.xptPortState p pUp).setPf Reg.xptBurnCap p cap
  let h := h.setPf Reg.xptPortWeight p (Nat.min 1 cap)
  let h := h.setPort p { x with
    credits := [0, 0, 0, 0], owed := [1024, 1024, 1024, 1024], backoff := 0, target := 1, ramp := true, since := h.now
    capRuns := [0, 0, 0] }
  let h := match h.farNode p with
    | some n => if p % 12 < 8 then h.clearInterrupt n else h
    | none => h
  (h.noteStall p).portRecord p 2 0

/-- The weight of a port that is UP moves at an epoch. -/
def Hw.stepWeight (h : Hw) (p : Nat) : Hw :=
  let x := h.port p
  let target := if x.ramp then Nat.min 8 (x.target + 1) else x.target
  let goal := Nat.min target (h.pf Reg.xptBurnCap p)
  let w := h.pf Reg.xptPortWeight p
  let h := h.setPort p { x with target := target, ramp := x.ramp && target < 8 }
  if goal < w then (h.setPf Reg.xptPortWeight p goal).portRecord p 7 0
  else if w < goal then h.setPf Reg.xptPortWeight p (w + 1)
  else h

/-- The ports' part of a fabric epoch. -/
def Hw.portEpoch (h : Hw) : Hw :=
  (upto 48).foldl (fun (h : Hw) p =>
    let x := h.port p
    let st := h.pf Reg.xptPortState p
    if st = pProbing then
      if x.probesOk && orElse (h.xf Reg.xptRaProbes p) 1 ≤ x.probesFar then h.portUp p else h
    else if st = pUp then h.stepWeight p
    else h) h

/-- A committed WEIGHT takes force: it ends the ramp (R533, R549). -/
def Hw.commitWeight (h : Hw) (p : Nat) : Hw :=
  if h.pf Reg.xptPortState p = pUp then
    let v := Nat.min 8 (h.pf Reg.xptPortWeight p)
    (h.setPort p { h.port p with target := v, ramp := false }).setPf Reg.xptPortWeight p (Nat.min v (h.pf Reg.xptBurnCap p))
  else h.setPf Reg.xptPortWeight p 0

/-- XPT_SPARE takes force, `was` having been named before (R239, R240, R535): a spare that names no port, or is not cabled
to the far end of the one it names, is held in TRAINING; one that has trained enters LOOPBACK, and so does one in service
for another port, toward the failed port's far end. -/
def Hw.spareIn (h : Hw) (e : Env) (was : Option Nat) : Hw :=
  let st := h.pf Reg.xptPortState 43
  if st = pDown || !(h.portOn e 43) || h.spareNamed = was then h
  else
    let h := if st = pTraining then h else h.holdTraining e 43
    if h.spareNamed.isNone || (h.port 43).ctlRun < 64 then h
    else if h.miscabled 43 then h.portRecord 43 3 0
    else (h.setPf Reg.xptPortState 43 pLoopback).setPort 43 { h.port 43 with since := h.now, second := false }

/-- Route tables take force at a transport engine: a flow whose destination was reachable and is no more starts again, and
what it has in flight cannot be delivered (R251). -/
def Hw.rerouted (h before : Hw) (f : Nat) : Hw :=
  (h.txFlows.filter (fun (x : Nat × TxFlow) => ownerFdie (x.1 / 65536) = f)).foldl (fun (g : Hw) (x : Nat × TxFlow) =>
    let src := h.coord (x.1 / 65536) 0
    let dst := coordOf (x.1 % 65536) 24 8
    if (before.path false f src dst 0 0).isSome && (h.path false f src dst 0 0).isNone then g.abandonFlow f x.1 .destUnreachable
    else g) h

/-! Exclusion and takeover (R527, R540). -/

/-- Exclusion entries take force at a transport engine: frames unacknowledged on flows to excluded nodes are
abandoned. -/
def Hw.exclude (h : Hw) (f : Nat) : Hw :=
  let h := (h.txFlows.filter (fun (x : Nat × TxFlow) => ownerFdie (x.1 / 65536) = f && h.excluded f (x.1 % 65536))).foldl
    (fun (h : Hw) (x : Nat × TxFlow) => h.abandonFlow f x.1 .destUnreachable) h
  let q := SMap.get h.txq [] f
  let gone := q.filter (fun t => h.excluded f (cNode t.dst))
  let h := if gone.isEmpty then h else { h with txq := SMap.put h.txq f (q.filter (fun t => !(h.excluded f (cNode t.dst)))) }
  gone.foldl (fun (h : Hw) t => h.ownerFail t.owner .destUnreachable) h

/-- At a fabric epoch at which a partner is excluded, its pair stops copying, and the takeover word is due. -/
def Hw.takeoverEpoch (h : Hw) (e : Env) : Hw :=
  (upto 8).foldl (fun (h : Hw) p =>
    if h.rf Reg.mirState pkgB p = 1 && h.excluded 24 (h.rf Reg.mirPartner pkgB p) then
      let h := { h with mirrors := SMap.upd h.mirrors {} p (fun m => { m with
        regions := [], next := none, interrupted := some (m.interrupted.getD (h.beatOf e p)), takeovers := m.takeovers + 1
        due := true }) }
      h.wf Reg.mirState pkgB p 2
    else h) h

/-- The takeover word and its record, at the partition's boundary after a takeover. -/
def Hw.takeoverWord (h : Hw) (p : Nat) : Hw :=
  let m := SMap.get h.mirrors {} p
  if !m.due then h
  else
    let beat := m.interrupted.getD 0
    let word := h.rf Reg.mirWord pkgB p
    let h := (h.diesOf p).foldl (fun (h : Hw) d => h.flag (spWin d + word % 0x10000000) m.takeovers beat) h
    let h := { h with mirrors := SMap.put h.mirrors p { m with due := false, interrupted := none } }
    h.link 8 0xFF 0 0 (some (h.rf Reg.mirPartner pkgB p)) 0 beat

/-- The mirrored regions of a partition as its table gives them, and the entries ignored (R537). -/
def Hw.readMirrors (h : Hw) (base : Nat) : List MirRegion × Nat :=
  (upto 64).foldl (fun (a : List MirRegion × Nat) i =>
    let lo := Mem.num h.mem (base + 16 * i) 8
    let hi := Mem.num h.mem (base + 16 * i + 8) 8
    if !(bit lo 63) then a
    else
      let log2 := bits lo 53 48
      let b := bits lo 47 0
      let ok := bits lo 62 54 = 0 && 21 ≤ log2 && log2 ≤ 40 && b % 2 ^ log2 = 0 && bits hi 63 48 = 0
      if ok then (a.1 ++ [⟨b, log2, bits hi 47 0⟩], a.2) else (a.1, a.2 + 1)) ([], 0)

/-- A commit: the mirror table of a partition is read, at the base that the commit gives (R537). -/
def Hw.startMirror (h : Hw) (p : Nat) : Hw :=
  let base := match SMap.find? h.staged (pkgB + Reg.mirTbl.off + Reg.mirTbl.stride * p) with
    | some w => bits w.toNat 47 10
    | none => h.rf Reg.mirTblBase pkgB p
  let h := h.readTable (base * 1024) 1024 (h.coord 28 8)
  { h with mirrors := SMap.upd h.mirrors {} p (fun m => { m with next := some (h.readMirrors (base * 1024)) }) }

/-- MIR_p and MIR_TBL_p take force (R536, R537): the pair's state, and the table that their commit read. -/
def Hw.commitMirror (h : Hw) (p : Nat) : Hw :=
  if h.rf Reg.mirEnable pkgB p = 0 then
    ({ h with mirrors := SMap.del h.mirrors p }).wf Reg.mirState pkgB p 0
  else
    let m := SMap.get h.mirrors {} p
    let t := m.next.getD (m.regions, h.rf Reg.mirCntBad pkgB p)
    let h := { h with mirrors := SMap.put h.mirrors p { m with regions := t.1, next := none } }
    (h.wf Reg.mirCntBad pkgB p t.2).wf Reg.mirState pkgB p 1

/-! The commands. -/

/-- LANE_SIGNAL (R530). -/
def execLaneSignal (port : Nat) (s : State) : Host.Outcome State Fault Refusal := onHw (laneSignal port) s

/-- BACKOFF_EXPIRY (R530). -/
def execBackoffExpiry (port : Nat) (s : State) : Host.Outcome State Fault Refusal := onHw (backoffExpiry port) s

/-- DATA_BLOCK (R243). -/
def execDataBlock (port : Nat) (block : LinkBlock) (s : State) : Host.Outcome State Fault Refusal := onHw (dataBlock port block) s

/-- CONTROL_BLOCK (R243). -/
def execControlBlock (port : Nat) (block : LinkBlock) (s : State) : Host.Outcome State Fault Refusal :=
  onHw (controlBlock port block) s

/-- CONTROL_BLOCK_TIMEOUT (R245). -/
def execControlBlockTimeout (port : Nat) (s : State) : Host.Outcome State Fault Refusal := onHw (controlBlockTimeout port) s

/-- LOOPBACK_END (R531). -/
def execLoopbackEnd (port : Nat) (result : LoopResult) (s : State) : Host.Outcome State Fault Refusal :=
  onHw (loopbackEnd port result) s

/-- PROBE (R532). -/
def execProbe (port : Nat) (frame : Frame) (s : State) : Host.Outcome State Fault Refusal := onHw (probe port frame) s

/-- PROBE_TIMEOUT (R531). -/
def execProbeTimeout (port : Nat) (s : State) : Host.Outcome State Fault Refusal := onHw (probeTimeout port) s

/-- BURN_TIMEOUT (R548). -/
def execBurnTimeout (port : Nat) (s : State) : Host.Outcome State Fault Refusal := onHw (burnTimeout port) s

/-- XPT_LB_START (R543). -/
def execXptLbStart (port depth : Nat) (s : State) : Host.Outcome State Fault Refusal := onHw (xptLbStart port depth) s

/-- MEM_LB_START (R542). -/
def execMemLbStart (die unit depth : Nat) (s : State) : Host.Outcome State Fault Refusal := onHw (memLbStart die unit depth) s

end Sys2Proof.Machine
end

