-- ==== Sys2Proof/Machine/Power.lean ====
section
/-! DEFINITION. Power, the adaptive core voltage, throttling, and temperature limits (21_package_power_thermal.md).
Throttling changes timing only (R441, R561). -/

namespace Sys2Proof.Machine

/-- PWRGD falls: outputs go to high impedance, the host link and every fabric port stop, THERMTRIP# is released (R556,
R563). -/
def pwrgdFall (e : Env) (h : Hw) : Hw :=
  if !h.power.good then h
  else
    let h := { h with power := { h.power with good := false, outputsOff := true, thermtrip := false } }
    (if h.io.linkUp then h.linkLost e else h).portsOff

/-- A rail below its tolerance for more than 10 µs while PWRGD is high (R556). -/
def railFault (micros : Nat) (e : Env) (h : Hw) : Hw := if 10 < micros then pwrgdFall e h else h

/-! Throttling (R558 to R560). -/

/-- The power controller's demand: level 8 while AVSBus has failed (R558). -/
def powerLevel (x : Power) : Nat := if x.avsFault then 8 else x.powerDemand

/-- The forced controller's demand. -/
def Hw.forcedDemand (h : Hw) : Nat := if h.power.throt then h.rf Reg.thermCfgForceLevel pkgB else 0

/-- Whole µs spent at S > 0 since they were last counted go to THROTTLED. -/
def Hw.countThrottled (h : Hw) : Hw :=
  if h.rf Reg.thermStatusLevel pkgB = 0 then { h with power := { h.power with since := h.now } }
  else
    let us := (h.now - h.power.since) / 1000
    let h := h.inc Reg.avsStatusThrottled pkgB 0 us
    { h with power := { h.power with since := h.power.since + 1000 * us } }

/-- S is the largest demand, and CAUSE names the demands that equal it; a tripped package stands at level 15 (R560,
R563). -/
def Hw.setLevel (h : Hw) : Hw :=
  if h.power.stopped then h
  else
    let h := h.countThrottled
    let t := h.power.thermalDemand
    let p := powerLevel h.power
    let f := h.forcedDemand
    let s := Nat.max t (Nat.max p f)
    let on (d : Nat) : Nat := b2n (d = s && s ≠ 0)
    (h.wf Reg.thermStatusLevel pkgB 0 s).wf Reg.thermStatusCause pkgB 0 (on t + 2 * on p + 4 * on f)

/-- THROT# is asserted or released. -/
def throt (asserted : Bool) (_ : Env) (h : Hw) : Hw := ({ h with power := { h.power with throt := asserted } }).setLevel

/-- THROT_T, taken within 60 to 98. -/
def Hw.throtT (h : Hw) : Int := (Nat.max 60 (Nat.min 98 (h.rf Reg.thermCfgThrotT pkgB)) : Nat)

/-- The hottest die sensor as last read. -/
def Hw.tjMax (h : Hw) : Int := toSigned 8 (h.rf Reg.thermStatusTjMax pkgB)

/-- The limits of package power, the greatest values taken for any greater. -/
def Hw.peak (h : Hw) : Nat := Nat.min 4800 (h.rf Reg.pwrLimitPeak pkgB)
def Hw.sustained (h : Hw) : Nat := Nat.min 4400 (h.rf Reg.pwrLimitSustained pkgB)

/-- THROTTLE_RISE: every 100 µs. -/
def throttleRise (r : PowerRead) (_ : Env) (h : Hw) : Hw :=
  let hot := h.throtT ≤ h.tjMax || 95 ≤ h.rf Reg.thermStatusHbmMax pkgB
  let over_ := h.peak < r.fast || h.sustained < r.slow || 4800 < r.current
  let x := h.power
  ({ h with power := { x with
    thermalDemand := if hot then Nat.min 15 (x.thermalDemand + 1) else x.thermalDemand
    powerDemand := if over_ && !x.avsFault then Nat.min 15 (x.powerDemand + 1) else x.powerDemand } }).setLevel

/-- THROTTLE_FALL: every 1 ms. -/
def throttleFall (r : PowerRead) (_ : Env) (h : Hw) : Hw :=
  let cool := h.tjMax < h.throtT - 3 && h.rf Reg.thermStatusHbmMax pkgB < 92
  let under := 100 * r.fast < 97 * h.peak && 100 * r.slow < 97 * h.sustained && 100 * r.current < 97 * 4800
  let x := h.power
  ({ h with power := { x with
    thermalDemand := if cool then x.thermalDemand - 1 else x.thermalDemand
    powerDemand := if under && !x.avsFault then x.powerDemand - 1 else x.powerDemand } }).setLevel

/-! Temperature (R562, R563). -/

/-- A thermal trip: the record, level 15, every clock but M0's stopped, every fabric port DOWN. -/
def Hw.trip (h : Hw) (die : Nat) : Hw :=
  let h := h.fatal 4 die 0
  let h := h.countThrottled
  let h := { h with power := { h.power with thermtrip := true, stopped := true } }
  h.wf Reg.thermStatusLevel pkgB 0 15

/-- SENSOR_READ: THERM_STATUS and the stacks' temperatures follow the sensors; stage ROM goes on once none is below 0 °C. -/
def sensorRead (x : Sensors) (e : Env) (h : Hw) : Hw :=
  if h.power.stopped then h
  else
    let h := h.wf Reg.thermStatusTjMax pkgB 0 (ofSigned 8 x.hottest)
    let h := h.wf Reg.thermStatusHotDie pkgB 0 x.hotDie
    let temps := (upto 8).map (fun s => Nat.min 255 (x.stackTemps.getD s 0))
    let h := h.wf Reg.thermStatusHbmMax pkgB 0 (temps.foldl Nat.max 0)
    let h := temps.zipIdx.foldl (fun (h : Hw) (t : Nat × Nat) =>
      h.wf Reg.hbmStatusTemp (rkey (28 + t.2 / 2) (2 + t.2 % 2) 0) 0 t.1) h
    let h := { h with power := { h.power with coldest := x.coldest } }
    if 115 ≤ x.hottest then h.trip x.hotDie
    else match h.mgmt.held with
      | some b => if 0 ≤ x.coldest then h.romWork e.fuses b else h
      | none => h

/-! The core voltage (R557, R558). -/

/-- The request that the package aims at, mV. -/
def Hw.vcoreGoal (h : Hw) : Nat :=
  let v := 600 + h.rf Reg.avsStatusVmin pkgB + (if h.power.coldest < 25 then 10 else 0)
  Nat.max 620 (Nat.min 800 v)

/-- The request in force, the regulator's boot value before the first one (R556). -/
def Hw.vcoreNow (h : Hw) : Nat := orElse (h.rf Reg.pwrStatusVreq pkgB) 750

/-- AVS_POLL: three failed attempts are a fault; a transaction that succeeds ends it, and the request moves by at most
10 mV in its 10 µs. -/
def avsPoll (x : AvsRead) (_ : Env) (h : Hw) : Hw :=
  if h.power.stopped then h
  else
    let h := h.incSat Reg.avsStatusRetries pkgB 0 (Nat.min 2 x.failed)
    let bad := 3 ≤ x.failed
    let h := (h.wf Reg.avsStatusFault pkgB 0 (b2n bad))
    let h := ({ h with power := { h.power with avsFault := bad } }).setLevel
    if bad then h
    else
      let h := (h.wf Reg.pwrStatusPower pkgB 0 (Nat.min 65535 x.power)).wf Reg.pwrStatusIcore pkgB 0 (Nat.min 65535 x.current)
      let h := h.wf Reg.pwrStatusVcore pkgB 0 (Nat.min 65535 x.millivolts)
      let now := h.vcoreNow
      let goal := h.vcoreGoal
      h.wf Reg.pwrStatusVreq pkgB 0 (if now ≤ goal then Nat.min goal (now + 10) else Nat.max goal (now - 10))

/-! The commands. -/

/-- PWRGD_FALL (R556). -/
def execPwrgdFall (s : State) : Host.Outcome State Fault Refusal := onHw pwrgdFall s

/-- RAIL_FAULT (R556). -/
def execRailFault (_rail micros : Nat) (s : State) : Host.Outcome State Fault Refusal := onHw (railFault micros) s

/-- THROT (R560). -/
def execThrot (asserted : Bool) (s : State) : Host.Outcome State Fault Refusal := onHw (throt asserted) s

/-- SENSOR_READ (R562). -/
def execSensorRead (sensors : Sensors) (s : State) : Host.Outcome State Fault Refusal := onHw (sensorRead sensors) s

/-- THROTTLE_RISE (R560). -/
def execThrottleRise (power : PowerRead) (s : State) : Host.Outcome State Fault Refusal := onHw (throttleRise power) s

/-- THROTTLE_FALL (R560). -/
def execThrottleFall (power : PowerRead) (s : State) : Host.Outcome State Fault Refusal := onHw (throttleFall power) s

/-- AVS_POLL (R557). -/
def execAvsPoll (avs : AvsRead) (s : State) : Host.Outcome State Fault Refusal := onHw (avsPoll avs) s

end Sys2Proof.Machine
end

