-- ==== Sys2Proof/Machine/Access.lean ====
section
/-! DEFINITION. Register accesses by software (R11 to R15, R471 to R473, R493, R494, R565): what a register reads as, what
a write does, commits, and the accesses of BAR0, the function pages, I3C and JTAG. -/

namespace Sys2Proof.Machine

/-! Views: fields that report what the package holds elsewhere. -/

/-- STATE of a dispatch engine, by what its first descriptor waits for (DE_STATUS). -/
def Hw.deState (h : Hw) (die : Nat) : Nat :=
  match h.queue die 4 with
  | [] => 0
  | j :: _ =>
    let op := j.body.fld 0 7 0
    if !j.started then 1
    else if op = 1 then 2
    else if op = 2 then 7
    else if h.colls.any (fun r => r.die = die && r.tag = some j.tag && h.collBusy r) then 11 else 10

/-- Descriptors of a queue that have not begun. -/
def waitingJobs (q : List Job) : Nat := (q.filter (fun j => !j.started)).length

/-- CORE_STATUS of a core (R121). -/
def Core.statusWord (c : Core) : Nat :=
  c.st.code + c.replayStep % 4 * 2 ^ 10 + c.posts.length % 16 * 2 ^ 12 + c.vectorQ.length % 16 * 2 ^ 16
    + c.arrayQ.length % 16 * 2 ^ 20 + c.index % 4096 * 2 ^ 32

/-- STU_STATUS of a stitch unit. -/
def Hw.stuStatusWord (h : Hw) (die unit : Nat) : Nat :=
  let u := h.stu die unit
  let queued := (h.stuCmds.filter (fun x => x.1 = die && x.2.1 = unit)).length
  let state := match u.run with
    | some r => if r.emitted then 3 else 2
    | none => if u.ctxs.any (fun c => c.2.clearing) then 4 else 0
  state + (match u.run with | some r => r.ctx % 64 * 2 ^ 8 | none => 0) + queued % 256 * 2 ^ 16

/-- The longest run of free slots of an F-die's reduction memory (RDM_FREE). -/
def longestRun (l : List Bool) : Nat :=
  (l.foldl (fun (a : Nat × Nat) b => if b then (a.1 + 1, Nat.max a.2 (a.1 + 1)) else (0, a.2)) (0, 0)).2

/-- RDM_FREE of an F-die. -/
def Hw.rdmFreeWord (h : Hw) (die : Nat) : Nat :=
  let free := (upto 1024).map (slotFree (h.slotRuns die))
  (free.filter (fun b => b)).length + longestRun free * 2 ^ 16

/-- MIG_QUERY of an M-die: what the page named by PAGE reports. -/
def Hw.migQueryWord (h : Hw) (die w : Nat) : Nat :=
  let q := bits w 19 0
  if h.homePages ≤ q then q
  else
    let x := h.page (pageNo die q)
    let busy := (SMap.get h.swaps [] die).any (fun s => s.up = q || s.down = q)
    let frame := if x.tier = 0 then x.frame else x.frame - hbmFrames
    q + frame % 2 ^ 20 * 2 ^ 20 + x.count % 65536 * 2 ^ 40 + b2n busy * 2 ^ 59 + x.tier * 2 ^ 60 + x.pin % 4 * 2 ^ 61 + 2 ^ 63

/-- STATE codes of BEAT_p (R429). -/
def BeatState.code : BeatState → Nat
  | .idle => 0 | .armed => 1 | .running => 2

/-- A register word with its views in place; `w` is the word held. -/
def Hw.viewWord (h : Hw) (e : Env) (r : RegRow) (key i w : Nat) : Nat :=
  let die := dieOf key
  let unit := unitOf key
  let part := e.tl.part i
  match r.unit, r.off with
  | .core, 0x8 => (h.core die unit).statusWord
  | .ce, 0x8 =>
    let q := h.queue die unit
    (match q with | [] => 0 | j :: _ => if !j.started then 1 else if j.flagged then 3 else 2) + waitingJobs q % 32 * 8
  | .de, 0x48 => h.deState die + waitingJobs (h.queue die 4) % 32 * 16
  | .pkg, 0x420 => setBits w 5 5 (b2n (h.plcHeld i))
  | .sw, 0x28 => (poolSize - h.sharedUsed die) % 2 ^ 20 + h.sharedUsed die % 2 ^ 20 * 2 ^ 20
  | .stu, 0x10 => h.stuStatusWord die unit
  | .rdm, 0x0 => h.rdmFreeWord die
  | .mig, 0x8 =>
    setBits (setBits w 7 4 h.wins.length) 3 0 (if !(SMap.get h.swaps [] die).isEmpty then 1 else if !h.wins.isEmpty then 3 else 0)
  | .mig, 0x10 => h.migQueryWord die w
  | .mig, 0x18 =>
    setBits w 4 0 (if die = 28 then ((h.queue 28 1).filter (fun j => j.body.fld 0 7 0 = 0x10 && !j.started)).length else 0)
  | .tm, 0x0 => h.now
  | .tm, 0x38 => if h.node?.isSome then h.fabN else 0
  | .tm, 0x100 => part.st.code + (if part.go then part.period % 2 ^ 32 * 2 ^ 32 else 0)
  | .tm, 0x108 => part.origin
  | .tm, 0x110 => if part.st = .running then SMap.get h.partN 0 i else 0
  | .pkg, 0x10 =>
    b2n e.tl.det + 2 * b2n ((SMap.get h.commits [] pkgB).contains 9)
  | .xpt, 0x20 => if die = 27 then w else 0x7F
  | _, _ => w

/-- The stores in the register range whose words are instructions or table entries (R115, R288, R296, R311). -/
def isStore (key : Nat) : Bool :=
  let o := offOf key
  match kindOf key with
  | some .core => 0x80000 ≤ o && o < 0x88000
  | some .stu => (0x10000 ≤ o && o < 0x14000) || (0x80000 ≤ o && o < 0x82000)
  | some .sw => 0x40000 ≤ o && o < 0x60000
  | _ => false

/-- The MSI-X table and pending bits of a function page (R473). -/
def isMsix (key : Nat) : Bool := (fnOf key).any (fun fn => 0x4000 ≤ offOf key && offOf key < 0x4000 + 16 * nVec fn)
def isPba (key : Nat) : Bool := (fnOf key).any (fun fn => 0x8000 ≤ offOf key && offOf key < 0x8000 + nVec fn / 64 * 8)

/-- What a 64-bit word of the register range or of a function page reads as (R12, R15). -/
def Hw.regWord (h : Hw) (e : Env) (key : Nat) : Nat :=
  if isCommit key && (kindOf key).isSome then h.commitWord (blockOf key)
  else if isStore key || isPba key then (SMap.get h.regs 0 key).toNat
  else if isMsix key then h.msixWord ((fnOf key).getD 0) (offOf key)
  else match regAt key with
    | some (r, i) =>
      let w := match SMap.find? h.regs key with
        | some x => x.toNat
        | none => r.resetWord
      h.viewWord e r key i w &&& (2 ^ 64 - 1 - r.mask .wo)
    | none => 0

/-! Commits (R493, R494). -/

/-- Registers of a list that belong to a table. -/
def touched (l : List (Nat × RegRow × Nat × Word)) (r : RegRow) : List (Nat × Nat) :=
  l.filterMap (fun (x : Nat × RegRow × Nat × Word) => if x.2.1 = r then some (x.1, x.2.2.1) else none)

/-- GRANDMASTER takes force (R421, R425). -/
def Hw.commitGm (h : Hw) : Hw :=
  let want := h.rf Reg.timeCtrlGrandmaster tmB = 1
  let is := h.rf Reg.timeStatusGm tmB = 1
  if want && !is && h.stage = stReady then h.becomeGm
  else if !want && is then ((h.wf Reg.timeStatusGm tmB 0 0).setSynced false 0xFF).chooseParent
  else h

/-- A base at or above PKG_MEM_TOP is an ERROR record (R85, R458). -/
def Hw.baseCheck (h : Hw) (on : Bool) (base key : Nat) : Hw :=
  if on && h.rf Reg.pkgMemTopTop pkgB * 2 ^ 21 ≤ base then h.regFault 7 key else h

/-- What taking force does beyond the new values: `l` are the registers that took force, `t` the moment, `before` the
hardware that they change. -/
def Hw.forceEffects (h : Hw) (e : Env) (before : Hw) (l : List (Nat × RegRow × Nat × Word)) (t : Nat) : Hw :=
  let parts (rs : List RegRow) : List Nat := (upto 8).filter (fun p => rs.any (fun r => (touched l r).any (fun x => x.2 = p)))
  let h := (parts [Reg.plcCtrl, Reg.plcAt]).foldl (fun h p => h.plcCommit p t) h
  let h := (parts [Reg.acctRing]).foldl (fun h p =>
    h.baseCheck (h.rf Reg.acctRingEnable pkgB p = 1) (h.rf Reg.acctRingBase pkgB p * 4096)
      (pkgB + Reg.acctRing.off + Reg.acctRing.stride * p)) h
  let h := if (touched l Reg.numWatchCtrl).isEmpty && (touched l Reg.numWatchBase).isEmpty then h
    else
      let h := if h.watchOn then h else { h with watch := [] }
      h.baseCheck true (h.rf Reg.numWatchBaseBase pkgB * 2 ^ 18) (pkgB + Reg.numWatchBase.off)
  let h := if (touched l Reg.thermCfg).isEmpty then h else h.setLevel
  let h := if (touched l Reg.timeCtrl).isEmpty then h else h.commitGm
  let h := (touched l Reg.swMirror).foldl (fun (h : Hw) (x : Nat × Nat) =>
    let sw := SMap.get h.switches {} (dieOf x.1)
    if h.rf Reg.swMirrorEnable (swB (dieOf x.1)) = 1 || sw.sample = 0 then h
    else { h with switches := SMap.put h.switches (dieOf x.1) { sw with sample := 0 } }) h
  let h := (touched l Reg.xptPort).foldl (fun (h : Hw) (x : Nat × Nat) => h.commitWeight (12 * (dieOf x.1 - 24) + x.2)) h
  let h := if (touched l Reg.xptSpare).any (fun x => dieOf x.1 = 27) then h.spareIn e before.spareNamed else h
  let h := [24, 25, 26, 27].foldl (fun (h : Hw) f =>
    if (touched l Reg.xptGrp ++ touched l Reg.xptGw).any (fun x => dieOf x.1 = f) then h.rerouted before f else h) h
  [24, 25, 26, 27].foldl (fun (h : Hw) f =>
    if (touched l Reg.xptExcl).any (fun x => dieOf x.1 = f) then h.exclude f else h) h

/-- Registers take force together. -/
def Hw.takeForce (h : Hw) (e : Env) (l : List (Nat × RegRow × Nat × Word)) (t : Nat) : Hw :=
  (h.applyStaged l).forceEffects e h l t

/-- Partitions whose fields of the package block take force on a timeline, none for those that take force at once. -/
def Env.partsOn (e : Env) (t : Option Nat) : List Nat :=
  (upto 8).filter (fun p => (if (e.tl.part p).st = .running then some (p + 1) else none) = t)

/-- The fields of a block on one timeline take force. -/
def Hw.takeTimeline (h : Hw) (e : Env) (block : Nat) (t : Option Nat) (now : Nat) : Hw :=
  let h := h.takeForce e (h.stagedIn block (fun r key i => h.timelineOf e r key i = t && r ≠ Reg.pkgMode)) now
  if block = pkgB then (e.partsOn t).foldl Hw.commitMirror h else h

/-- A write of 1 to CFG_COMMIT. Tables that the package block's commit gives are read from now on (R397, R537);
DETERMINISTIC waits for its own epoch (R444). -/
def Hw.commitBlock (h : Hw) (e : Env) (block : Nat) : Hw :=
  if (SMap.find? h.commits block).isSome then h
  else
    let h := if block = pkgB then (upto 8).foldl Hw.startMirror h.startRegions else h
    let h := h.takeTimeline e block none h.now
    let wait := h.timelines e block
      ++ (if block = pkgB && (SMap.find? h.staged (pkgB + Reg.pkgMode.off)).isSome then [9] else [])
    if wait.isEmpty then h.countCommit block else { h with commits := SMap.put h.commits block wait }

/-- An epoch of a timeline: the fields of every pending commit that belong to it take force. -/
def Hw.commitEpoch (h : Hw) (e : Env) (t now : Nat) : Hw :=
  h.commits.foldl (fun (h : Hw) (c : Nat × List Nat) =>
    if c.2.contains t then (h.takeTimeline e c.1 (some t) now).endTimeline c.1 t else h) h

/-- CFG_COMMIT. -/
def cfgCommit (die unit : Nat) (e : Env) (h : Hw) : Hw :=
  if h.served && unitExists die unit then h.commitBlock e (rkey die unit 0) else h

/-! Writes. -/

/-- Set the word held at a place under a mask. -/
def Hw.putWord (h : Hw) (key mask v : Nat) : Hw :=
  let old := (SMap.get h.regs 0 key).toNat
  let here (s : Site) : Bool := mask = 2 ^ 64 - 1 && isStore key && s = .program (dieOf key) (unitOf key) ((offOf key - 0x80000) / 8)
  { h with
    badSites := if h.badSites.isEmpty then h.badSites else h.badSites.filter (fun s => !(here s))
    regs := SMap.put h.regs key (BitVec.ofNat 64 ((old &&& (2 ^ 64 - 1 - mask)) ||| (v &&& mask))) }

/-- An index of a stitch program store lies within the program of a context whose VALID is 1 (R311). -/
def Hw.inProgram (h : Hw) (die unit idx : Nat) : Bool :=
  (h.stu die unit).ctxs.any (fun (c : Nat × StuCtx) => h.stuValid die unit c.1
    && (let s := (StuEnt.of c.2.entry).start; s ≤ idx && idx < s + c.2.prog.length))

/-- A write to a store: one that a rule protects is discarded and recorded. The halves of a stitch entry that hold fields
the unit writes take no write while VALID is 1, and record one that carries other bits (R296; DEDUCED, log entry 124). -/
def Hw.storeWrite (h : Hw) (key mask v : Nat) : Hw :=
  let die := dieOf key
  let unit := unitOf key
  let o := offOf key
  let refuse (b : Bool) (h' : Hw) : Hw := if b then h.regFault 4 key else h'
  if die < 24 then refuse ((h.core die unit).st ≠ .idle) (h.putWord key mask v)
  else if unit = 9 then
    let first := rkey die 9 (0x40000 + (o - 0x40000) / 0x80 * 0x80)
    let clears := key = first && bit mask 31 && !(bit v 31)
    refuse (bit (SMap.get h.regs 0 first).toNat 31 && !clears)
      ({ h with mcExtra := SMap.del h.mcExtra (die * 1024 + (o - 0x40000) / 0x80) }.putWord key mask v)
  else if 0x80000 ≤ o then refuse (h.inProgram die unit ((o - 0x80000) / 8)) (h.putWord key mask v)
  else
    let own := if o % 0x100 = 0x18 then 2 ^ 35 - 1
      else if o % 0x100 = 0x10 then (2 ^ 11 - 1) * 2 ^ 32 + (2 ^ 6 - 1) * 2 ^ 48 else 0
    let lax := if o % 0x100 = 0x18 then 2 ^ 64 - 1 else if o % 0x100 = 0x10 then (2 ^ 32 - 1) * 2 ^ 32 else 0
    let m := mask &&& (2 ^ 64 - 1 - own)
    if h.stuValid die unit ((o - 0x10000) / 0x100) then
      (if mask &&& lax = mask && v &&& m = 0 then h else h.regFault 4 key)
    else h.putWord key m v

/-- START of a thread that is idle or stopped, on a die of a partition (R412). -/
def Hw.startThread (h : Hw) (die unit t : Nat) : Hw :=
  let b := cpB die unit
  let st := h.threadState die unit t
  if (h.partOf die).isNone || st = 1 || st = 2 then h.regFault 4 (b + Reg.cpTstat.off + Reg.cpTstat.stride * t)
  else
    let h := h.setThread die unit t {}
    let h := { h with reservations := SMap.del h.reservations (threadKey die unit t) }
    let h := ((h.wf Reg.cpTstatStatus b t 0).wf Reg.cpTstatCause b t 0).wf Reg.cpTvalValue b t 0
    h.setThreadState die unit t 1

/-- STOP of one thread, as ABORT does (R411). -/
def Hw.haltThread (h : Hw) (die unit t : Nat) : Hw :=
  if h.threadLive die unit t then h.stopThread die unit t 7 0 0 else h

/-- The actions of WO fields, by register; `v` holds the bits written. Actions that need an answer from outside the package
have their own commands. -/
def Hw.act (h : Hw) (e : Env) (r : RegRow) (key i v : Nat) : Hw :=
  let die := dieOf key
  let unit := unitOf key
  match r.unit, r.off with
  | .core, 0x0 => if bit v 0 then coreAbort die unit e h else h
  | .ce, 0x0 => if bit v 0 then ceAbort die unit e h else h
  | .de, 0x40 => if bit v 0 then deCtrlAbort die e h else h
  | .kpr, 0x0 => if bit v 0 then (kprAbort die e h).settleLandings else h
  | .mig, 0x0 => if bit v 0 && die = 28 then migCtrlAbort e h else h
  | .stu, 0x0 => if bits v 1 0 = 1 || bits v 1 0 = 2 then h.stuCommand die unit (bits v 1 0) (bits v 13 8) else h
  | .cp, 0x0 => if bit v 0 then h.abortThreads die unit else h
  | .cp, 0x108 =>
    let h := if bit v 62 then h.haltThread die unit i else h
    if bit v 63 then h.startThread die unit i else h
  | .tm, 0x10 => timeSet (BitVec.ofNat 64 v) e h
  | .tm, 0x218 => if bit v 0 then dlmForce i (bits v 1 1) e h else h
  | .pkg, 0x210 => if bit v 0 then numWatchStep e h else h
  | .pkg, 0x418 => if bit v 0 then verify i (bits v 1 1) e h else h
  | .pkg, 0x438 => if bit v 0 then plcPopEnd i e h else h
  | .pkg, 0xA48 => if bit v 0 then wdtKick e h else h
  | .pkg, 0xA78 => if bit v 0 then dbgCtrlSubmit e h else h
  | .xpt, 0x400 => if bit v 0 then h.startLoop e (12 * (die - 24) + i) (h.rf Reg.xptLbDepth (xptB die) i) else h
  | .hbm, 0x10 => if bit v 0 then h.startMemLoop die unit (h.rf Reg.hbmLbDepth (rkey die unit 0)) else h
  | .ddr, 0x10 => if bit v 0 then h.startMemLoop die unit (h.rf Reg.ddrLbDepth (rkey die unit 0)) else h
  | _, _ => h

/-- A write of the fields of a register by their types (R12, R13). -/
def Hw.fieldWrite (h : Hw) (r : RegRow) (key mask v : Nat) : Hw :=
  let old := match SMap.find? h.regs key with
    | some w => w.toNat
    | none => r.resetWord
  let rw := mask &&& r.mask .rw
  let w1c := mask &&& v &&& r.mask .w1c
  let new := ((old &&& (2 ^ 64 - 1 - rw)) ||| (v &&& rw)) &&& (2 ^ 64 - 1 - w1c)
  let h := if new = old then h else { h with regs := SMap.put h.regs key (BitVec.ofNat 64 new) }
  h.stage1 r key mask v

/-- A write of a register that has no rule of its own, then the actions of its WO fields. -/
def Hw.plainWrite (h : Hw) (e : Env) (r : RegRow) (key i mask v : Nat) : Hw :=
  (h.fieldWrite r key mask v).act e r key i (v &&& mask)

/-- A write to a register of the register range. -/
def Hw.unitWrite (h : Hw) (e : Env) (r : RegRow) (key i mask v : Nat) : Hw :=
  let die := dieOf key
  match r.unit, r.off with
  | .pkg, 0x400 => if h.plcBusy i 0 then h.regFault 4 key else h.plainWrite e r key i mask v
  | .pkg, 0x408 => if h.plcBusy i 1 then h.regFault 4 key else h.plainWrite e r key i mask v
  | .cp, 0x100 =>
    let st := h.threadState die (unitOf key) i
    if st = 0 || st = 3 then h.plainWrite e r key i mask v else h.regFault 4 key
  | .pkg, 0xA80 =>
    let old := h.rf Reg.cdiePwrOff pkgB
    let m := bits mask 23 0
    h.setDiesOff e ((old &&& (2 ^ 24 - 1 - m)) ||| (bits v 23 0 &&& m))
  | .xpt, 0x20 => if die = 27 then h.plainWrite e r key i mask v else h
  | .pkg, 0xC08 =>
    let h := h.plainWrite e r key i mask v
    if (SMap.find? h.commits pkgB).any (fun l => (h.timelineOf e r key i).any (fun t => l.contains t)) then h.startMirror i else h
  | _, _ => h.plainWrite e r key i mask v

/-- A write to a register of a function page: doorbells act, the rest follows the fields' types. -/
def Hw.pageWrite (h : Hw) (e : Env) (fn : Nat) (r : RegRow) (key i mask v : Nat) : Hw :=
  if r.off = 0 then (if bits mask 15 0 = 0xFFFF then sqDb fn i (v % 65536) e h else h)
  else if r.off = 0x200 then (if bits mask 15 0 = 0xFFFF then cqDb fn i (v % 65536) e h else h)
  else if r.off = 0x400 then (if bits mask 15 0 = 0xFFFF then eqDb fn i (v % 65536) e h else h)
  else h.fieldWrite r key mask v

/-- A write to an MSI-X table word; clearing a mask bit lets a held message go (R492). -/
def Hw.msixWrite (h : Hw) (fn key mask v : Nat) : Hw :=
  let off := offOf key
  let old := h.msixWord fn off
  let new := (old &&& (2 ^ 64 - 1 - mask)) ||| (v &&& mask)
  if off % 16 = 0 then { h with regs := SMap.put h.regs key (BitVec.ofNat 64 (new / 4 * 4)) }
  else
    let h := { h with regs := SMap.put h.regs key (BitVec.ofNat 64 (new % 2 ^ 33)) }
    if bit old 32 && !(bit new 32) then h.unmask fn ((off - 0x4000) / 16) else h

/-- A write of the bits of a mask to a word of the register range or of a function page. -/
def Hw.regWrite (h : Hw) (e : Env) (key mask v : Nat) : Hw :=
  if isCommit key then
    if bit mask 0 && bit v 0 && (kindOf key).isSome then
      (match fnOf key with
        | some fn => fnCommit fn e h
        | none => h.commitBlock e (blockOf key))
    else h
  else if isStore key then h.storeWrite key mask v
  else if isMsix key then h.msixWrite ((fnOf key).getD 0) key mask v
  else match regAt key with
    | none => h
    | some (r, i) => match fnOf key with
      | some fn => h.pageWrite e fn r key i mask v
      | none => h.unitWrite e r key i mask v

/-! Accesses (R11, R472). -/

/-- An access of 4 or 8 bytes, aligned to its width. -/
def accessOk (off bytes : Nat) : Bool := (bytes = 4 || bytes = 8) && off % bytes = 0

/-- The bits of a word that an access covers. -/
def accessMask (off bytes : Nat) : Nat := (2 ^ (8 * bytes) - 1) * 2 ^ (8 * (off % 8))

/-- A place of the register range belongs to a unit that is there. -/
def Env.regThere (e : Env) (place : Nat) : Bool :=
  unitExists (dieOf place) (unitOf place) && (24 ≤ dieOf place || e.cdie (dieOf place))

/-- What a read of a word of the register range does before its value is taken: DBG_NONCE is drawn anew, and MIG_QUERY
reads an entry of the page map (R365). -/
def Hw.readEffect (h : Hw) (e : Env) (key : Nat) : Hw :=
  let die := dieOf key
  if key = pkgB + Reg.dbgNonce.off then h.newNonce
  else if 28 ≤ die && die < 32 && unitOf key = 1 && offOf key = 0x10 then
    let q := h.regWord e key % 2 ^ 20
    if q < h.homePages then h.lookUp (pageNo die q * 2 ^ 21) 1 else h
  else h

/-- A read of the register range, at a byte place: the value, and what the read does. -/
def Hw.busRead (h : Hw) (e : Env) (place bytes : Nat) : Nat × Hw :=
  let key := place / 8 * 8
  if !(accessOk place bytes) || !(e.regThere place) then (0, h.regFault 3 place)
  else
    let h := h.readEffect e key
    (h.regWord e key >>> (8 * (place % 8)) % 2 ^ (8 * bytes), h)

/-- A write of the register range. -/
def Hw.busWrite (h : Hw) (e : Env) (place bytes v : Nat) : Hw :=
  if !(accessOk place bytes) || !(e.regThere place) then h.regFault 3 place
  else h.regWrite e (place / 8 * 8) (accessMask place bytes) (v % 2 ^ (8 * bytes) * 2 ^ (8 * (place % 8)))

/-- The registers of RECOVERY, which the PF page serves in that stage alone (R507). -/
def isRcv (fn off : Nat) : Bool := fn = 0 && 0xC000 ≤ off && off < 0xC018

/-- An access of a function page. -/
def Hw.pageAccess (h : Hw) (e : Env) (fn : Nat) (a : Access) : Hw :=
  let on := if isRcv fn a.off then h.stage = 2 else h.served
  let told (h : Hw) (v : Nat) : Hw := { h with mgmt := { h.mgmt with regRead := BitVec.ofNat 64 v } }
  if !on || 9 ≤ fn || 0x10000 ≤ a.off then h
  else if !(accessOk a.off a.bytes) then
    let h := h.ringError 3 fn
    if a.isRead then told h 0 else h
  else
    let key := fkey fn (a.off / 8 * 8)
    if a.isRead then told h (h.regWord e key >>> (8 * (a.off % 8)) % 2 ^ (8 * a.bytes))
    else h.regWrite e key (accessMask a.off a.bytes) (a.value.toNat % 2 ^ (8 * a.bytes) * 2 ^ (8 * (a.off % 8)))

/-- REGISTER_WRITE: an access by software through BAR0 or a function page. -/
def registerAccess (a : Access) (e : Env) (h : Hw) : Hw :=
  match a.bar with
  | .page fn => h.pageAccess e fn a
  | .regs =>
    if !h.served || 0x20000000 ≤ a.off then h
    else if a.isRead then
      let (v, h) := h.busRead e a.off a.bytes
      { h with mgmt := { h.mgmt with regRead := BitVec.ofNat 64 v } }
    else h.busWrite e a.off a.bytes a.value.toNat

/-! The sideband (R514, R542, R550, R565). -/

/-- Offsets of the package block that the I3C target serves. -/
def i3cOffsets : List Nat := [0x20, 0x38, 0xA00, 0xE00, 0xE08, 0xE10, 0xE18, 0xE20]

/-- I3C_READ. -/
def i3cRead (off : Nat) (e : Env) (h : Hw) : Hw :=
  let v := if i3cOffsets.contains off then h.regWord e (pkgB + off) else 0
  { h with mgmt := { h.mgmt with i3c := BitVec.ofNat 64 v } }

/-- A debug scope is open. -/
def Hw.scope (h : Hw) (n : Nat) : Bool := h.rf Reg.dbgCtrlState pkgB = 1 && bit (h.rf Reg.dbgCtrlScope pkgB) n

/-- TDO after an operation whose bits the manual does not give. -/
def Hw.tdoFree (h : Hw) : Hw :=
  let (w, h) := h.drawFree
  { h with mgmt := { h.mgmt with tdo := w } }

/-- JTAG. What full access reaches is taken to be the register range, and processor debug the management SRAM; the
results of loop-backs, scan and sampling are values that the manual leaves open. -/
def jtag (op : JtagOp) (e : Env) (h : Hw) : Hw :=
  match op with
  | .idcode => { h with mgmt := { h.mgmt with tdo := Config.jtagIdcode } }
  | .bypass => h
  | .sample => h.tdoFree
  | .fullAccess a w =>
    if !(h.scope 0) then h
    else match w with
      | some v => h.busWrite e a 8 v.toNat
      | none =>
        let (v, h) := h.busRead e a 8
        { h with mgmt := { h.mgmt with tdo := BitVec.ofNat 64 v } }
  | .loopback t => if h.scope 0 && (t ≠ 0 || !h.io.linkUp) then h.tdoFree else h
  | .mpDebug a w =>
    if !(h.scope 1) then h
    else match w with
      | some v => { h with mgmt := { h.mgmt with sram := Mem.write h.mgmt.sram a (toBytes 8 v.toNat) } }
      | none => { h with mgmt := { h.mgmt with tdo := BitVec.ofNat 64 (Mem.num h.mgmt.sram a 8) } }
  | .scan => if h.scope 2 then h.tdoFree else h

/-! The commands. -/

/-- REGISTER_WRITE (R12). -/
def execRegisterWrite (access : Access) (s : State) : Host.Outcome State Fault Refusal := onHw (registerAccess access) s

/-- CFG_COMMIT (R493). -/
def execCfgCommit (die unit : Nat) (s : State) : Host.Outcome State Fault Refusal := onHw (cfgCommit die unit) s

/-- I3C_READ (R565). -/
def execI3cRead (off : Nat) (s : State) : Host.Outcome State Fault Refusal := onHw (i3cRead off) s

/-- JTAG (R514). -/
def execJtag (op : JtagOp) (s : State) : Host.Outcome State Fault Refusal := onHw (jtag op) s

end Sys2Proof.Machine
end

