-- ==== Sys2Proof/Machine/Ieee.lean ====
section
/-! DEFINITION. IEEE 754 arithmetic of the RISC-V F and D extensions (R406): five rounding modes, accrued flags, and
canonical NaNs. -/

namespace Sys2Proof.Machine

/-- A floating-point width: stored mantissa bits and exponent bits. -/
structure FWidth where
  man : Nat
  ex : Nat
  deriving DecidableEq, Repr

def fw32 : FWidth := ⟨23, 8⟩
def fw64 : FWidth := ⟨52, 11⟩

/-- Exponent of the least subnormal. -/
def FWidth.eMin (f : FWidth) : Int := 2 - (2 : Int) ^ (f.ex - 1) - f.man

/-- The all-ones exponent. -/
def FWidth.top (f : FWidth) : Nat := 2 ^ f.ex - 1

/-- Bits of the width. -/
def FWidth.bits (f : FWidth) : Nat := f.man + f.ex + 1

/-- The canonical NaN, infinities, and signed zeros. -/
def FWidth.nan (f : FWidth) : Nat := (2 ^ (f.ex + 1) - 1) * 2 ^ (f.man - 1)
def FWidth.inf (f : FWidth) (n : Bool) : Nat := f.top * 2 ^ f.man + b2n n * 2 ^ (f.man + f.ex)
def FWidth.zero (f : FWidth) (n : Bool) : Nat := b2n n * 2 ^ (f.man + f.ex)

/-- Sign, exponent field and fraction field. -/
def FWidth.neg (f : FWidth) (v : Nat) : Bool := bit v (f.man + f.ex)
def FWidth.exF (f : FWidth) (v : Nat) : Nat := v / 2 ^ f.man % 2 ^ f.ex
def FWidth.frac (f : FWidth) (v : Nat) : Nat := v % 2 ^ f.man

/-- A NaN, and a signalling one. -/
def FWidth.isNan (f : FWidth) (v : Nat) : Bool := f.exF v = f.top && f.frac v ≠ 0
def FWidth.isSnan (f : FWidth) (v : Nat) : Bool := f.isNan v && !(bit v (f.man - 1))

/-- The value of an encoding. -/
def FWidth.val (f : FWidth) (v : Nat) : FVal :=
  let e := f.exF v
  if e = f.top then (if f.frac v = 0 then .inf (f.neg v) else .nan)
  else if e = 0 then .fin (f.neg v) (f.frac v) f.eMin
  else .fin (f.neg v) (f.frac v + 2 ^ f.man) (f.eMin + e - 1)

/-- Accrued exception flags: inexact, underflow, overflow, division by zero, invalid. -/
def fNX : Nat := 1
def fUF : Nat := 2
def fOF : Nat := 4
def fDZ : Nat := 8
def fNV : Nat := 16

/-- A magnitude divided by 2^s under a rounding mode: 0 nearest even, 1 toward zero, 2 down, 3 up, 4 nearest away; and
whether it was inexact. -/
def shiftRound (rm : Nat) (neg : Bool) (m s : Nat) : Nat × Bool :=
  let lo := m >>> s
  let rem := m - lo <<< s
  let up := match rm with
    | 0 => 2 ^ s < 2 * rem || (2 ^ s = 2 * rem && lo % 2 = 1)
    | 1 => false
    | 2 => neg && rem ≠ 0
    | 3 => !neg && rem ≠ 0
    | _ => 2 ^ s ≤ 2 * rem && rem ≠ 0
  (if up then lo + 1 else lo, rem ≠ 0)

/-- A magnitude at exponent `e` brought to exponent `q`. -/
def roundAt (rm : Nat) (neg : Bool) (m : Nat) (e q : Int) : Nat × Bool :=
  if q ≤ e then (m <<< (e - q).toNat, false) else shiftRound rm neg m (q - e).toNat

/-- A non-zero or zero finite value rounded to a width: its encoding and flags; tininess is detected after rounding. -/
def FWidth.round (f : FWidth) (rm : Nat) (neg : Bool) (m : Nat) (e : Int) : Nat × Nat :=
  if m = 0 then (f.zero neg, 0)
  else
    let q0 : Int := (Nat.log2 m : Int) + e - f.man
    let q := if q0 < f.eMin then f.eMin else q0
    let (k, nx) := roundAt rm neg m e q
    let free := (roundAt rm neg m e q0).1
    let tiny := q0 < f.eMin && !(q0 + 1 = f.eMin && free = 2 ^ (f.man + 1))
    let (k, q) := if k = 2 ^ (f.man + 1) then (k / 2, q + 1) else (k, q)
    let field := if k < 2 ^ f.man then 0 else (q - f.eMin).toNat + 1
    if f.top ≤ field then
      let toInf := rm = 0 || rm = 4 || (rm = 2 && neg) || (rm = 3 && !neg)
      (if toInf then f.inf neg else f.inf neg - 1, fOF + fNX)
    else
      (f.zero neg + field * 2 ^ f.man + k % 2 ^ f.man, (if nx then fNX else 0) + (if nx && tiny then fUF else 0))

/-- An exact value as an encoding; a zero keeps the sign given. -/
def FWidth.put (f : FWidth) (rm : Nat) (x : FVal) : Nat × Nat :=
  match x with
  | .nan => (f.nan, fNV)
  | .inf n => (f.inf n, 0)
  | .fin n m e => f.round rm n m e

/-- A result that is a NaN because an operand is: invalid when one signals. -/
def FWidth.nanOut (f : FWidth) (l : List Nat) : Nat × Nat := (f.nan, if l.any f.isSnan then fNV else 0)

/-- The exact sum with the sign of an exact zero as the rounding mode has it. -/
def sumSigned (rm : Nat) (a b : FVal) : FVal :=
  match a, b, FVal.add a b with
  | .fin x _ _, .fin y _ _, .fin _ 0 _ => .fin (if x = y then x else rm = 2) 0 0
  | _, _, c => c

def FWidth.add (f : FWidth) (rm a b : Nat) : Nat × Nat :=
  if f.isNan a || f.isNan b then f.nanOut [a, b] else f.put rm (sumSigned rm (f.val a) (f.val b))

/-- The encoding with its sign changed. -/
def FWidth.flip (f : FWidth) (v : Nat) : Nat := v ^^^ f.zero true

def FWidth.mul (f : FWidth) (rm a b : Nat) : Nat × Nat :=
  if f.isNan a || f.isNan b then f.nanOut [a, b] else f.put rm (FVal.mul (f.val a) (f.val b))

/-- a × b + c with one rounding; infinity times zero is invalid even when c is a NaN. -/
def FWidth.fma (f : FWidth) (rm a b c : Nat) : Nat × Nat :=
  if f.isNan a || f.isNan b then f.nanOut [a, b, c]
  else match FVal.mul (f.val a) (f.val b) with
    | .nan => (f.nan, fNV)
    | p => if f.isNan c then f.nanOut [c] else f.put rm (sumSigned rm p (f.val c))

def FWidth.div (f : FWidth) (rm a b : Nat) : Nat × Nat :=
  if f.isNan a || f.isNan b then f.nanOut [a, b]
  else match f.val a, f.val b with
    | .inf x, .fin y _ _ => (f.inf (x != y), 0)
    | .fin x _ _, .inf y => (f.zero (x != y), 0)
    | .fin x m e, .fin y k g =>
      if k = 0 then (if m = 0 then (f.nan, fNV) else (f.inf (x != y), fDZ))
      else if m = 0 then (f.zero (x != y), 0)
      else
        let s := f.man + 4 + Nat.log2 k
        let q := (m <<< s) / k
        f.round rm (x != y) (2 * q + b2n ((m <<< s) % k ≠ 0)) (e - g - s - 1)
    | _, _ => (f.nan, fNV)

def FWidth.sqrt (f : FWidth) (rm a : Nat) : Nat × Nat :=
  if f.isNan a then f.nanOut [a]
  else match f.val a with
    | .fin n m e =>
      if m = 0 then (a, 0)
      else if n then (f.nan, fNV)
      else
        let s0 := 2 * f.man + 8
        let s := if (e - s0) % 2 = 0 then s0 else s0 + 1
        let v := m <<< s
        let r := isqrt v
        f.round rm false (2 * r + b2n (r * r ≠ v)) ((e - s) / 2 - 1)
    | .inf false => (a, 0)
    | _ => (f.nan, fNV)

/-- Order of two encodings that are no NaN; zeros of either sign are equal. -/
def FWidth.lt (f : FWidth) (a b : Nat) : Bool :=
  let mag (v : Nat) : Int := (v % 2 ^ (f.man + f.ex) : Nat)
  let key (v : Nat) : Int := if f.neg v then -(mag v) else mag v
  key a < key b

def FWidth.eq (f : FWidth) (a b : Nat) : Bool := !(f.lt a b) && !(f.lt b a)

/-- FMIN and FMAX: the number beside a NaN, and −0 below +0. -/
def FWidth.minmax (f : FWidth) (max : Bool) (a b : Nat) : Nat × Nat :=
  let fl := if f.isSnan a || f.isSnan b then fNV else 0
  if f.isNan a && f.isNan b then (f.nan, fl)
  else if f.isNan a then (b, fl)
  else if f.isNan b then (a, fl)
  else
    let less := f.lt a b || (f.eq a b && f.neg a)
    (if less != max then a else b, fl)

/-- FEQ, FLT and FLE: 2, 1 and 0 in funct3. -/
def FWidth.cmp (f : FWidth) (op a b : Nat) : Nat × Nat :=
  if f.isNan a || f.isNan b then (0, if op ≠ 2 || f.isSnan a || f.isSnan b then fNV else 0)
  else (b2n (if op = 2 then f.eq a b else if op = 1 then f.lt a b else !(f.lt b a)), 0)

/-- FCLASS. -/
def FWidth.cls (f : FWidth) (v : Nat) : Nat :=
  let n := f.neg v
  if f.isNan v then (if f.isSnan v then 2 ^ 8 else 2 ^ 9)
  else if f.exF v = f.top then (if n then 1 else 2 ^ 7)
  else if f.exF v ≠ 0 then (if n then 2 else 2 ^ 6)
  else if f.frac v ≠ 0 then (if n then 4 else 2 ^ 5)
  else (if n then 8 else 2 ^ 4)

/-- Conversion to an integer of `w` bits: the value taken modulo 2^64, saturated where it does not fit. -/
def FWidth.toInt (f : FWidth) (rm w : Nat) (signed : Bool) (v : Nat) : Nat × Nat :=
  let lo : Int := if signed then -(2 ^ (w - 1)) else 0
  let hi : Int := if signed then 2 ^ (w - 1) - 1 else 2 ^ w - 1
  let ext (i : Int) : Nat := if w = 32 then sext64 32 (ofSigned 32 i) else ofSigned 64 i
  match f.val v with
  | .nan => (ext hi, fNV)
  | .inf n => (ext (if n then lo else hi), fNV)
  | .fin n m e =>
    let (k, nx) := if 0 ≤ e then (m <<< e.toNat, false) else shiftRound rm n m (-e).toNat
    let i : Int := if n then -(k : Int) else k
    if i < lo then (ext lo, fNV) else if hi < i then (ext hi, fNV) else (ext i, if nx then fNX else 0)

/-- Conversion of an integer. -/
def FWidth.ofInt (f : FWidth) (rm : Nat) (i : Int) : Nat × Nat := f.round rm (i < 0) i.natAbs 0

/-- Conversion between widths. -/
def FWidth.convert (src dst : FWidth) (rm v : Nat) : Nat × Nat :=
  if src.isNan v then (dst.nan, if src.isSnan v then fNV else 0) else dst.put rm (src.val v)

end Sys2Proof.Machine
end

