-- ==== Sys2Proof/Machine/Rv64.lean ====
section
/-! DEFINITION. RV64GC as the RISC-V specifications define it (R406): compressed instructions as their 32-bit forms, the
integer and floating-point operations, and the encodings of Xklg (R413). -/

namespace Sys2Proof.Machine

/-! Fields of a 32-bit instruction. -/

def rvOp (w : Nat) : Nat := bits w 6 0
def rvRd (w : Nat) : Nat := bits w 11 7
def rvF3 (w : Nat) : Nat := bits w 14 12
def rvRs1 (w : Nat) : Nat := bits w 19 15
def rvRs2 (w : Nat) : Nat := bits w 24 20
def rvF7 (w : Nat) : Nat := bits w 31 25

/-- Immediates, sign-extended to 64 bits. -/
def immI (w : Nat) : Nat := sext64 12 (bits w 31 20)
def immS (w : Nat) : Nat := sext64 12 (rvF7 w * 32 + rvRd w)
def immB (w : Nat) : Nat := sext64 13 (bits w 31 31 * 4096 + bits w 7 7 * 2048 + bits w 30 25 * 32 + bits w 11 8 * 2)
def immU (w : Nat) : Nat := sext64 32 (bits w 31 12 * 4096)
def immJ (w : Nat) : Nat :=
  sext64 21 (bits w 31 31 * 2 ^ 20 + bits w 19 12 * 2 ^ 12 + bits w 20 20 * 2 ^ 11 + bits w 30 21 * 2)

/-- A sum modulo 2^64. -/
def add64n (a b : Nat) : Nat := (a + b) % 2 ^ 64

/-! Encoders of the formats, for compressed instructions. -/

def encR (f7 rs2 rs1 f3 rd op : Nat) : Nat := f7 * 2 ^ 25 + rs2 * 2 ^ 20 + rs1 * 2 ^ 15 + f3 * 2 ^ 12 + rd * 2 ^ 7 + op
def encI (imm rs1 f3 rd op : Nat) : Nat := imm % 4096 * 2 ^ 20 + rs1 * 2 ^ 15 + f3 * 2 ^ 12 + rd * 2 ^ 7 + op
def encS (imm rs2 rs1 f3 op : Nat) : Nat := encR (imm / 32 % 128) rs2 rs1 f3 (imm % 32) op
def encB (imm rs2 rs1 f3 : Nat) : Nat :=
  encR (bits imm 12 12 * 64 + bits imm 10 5) rs2 rs1 f3 (bits imm 4 1 * 2 + bits imm 11 11) 0x63
def encJ (imm rd : Nat) : Nat :=
  (bits imm 20 20 * 2 ^ 19 + bits imm 10 1 * 2 ^ 9 + bits imm 11 11 * 2 ^ 8 + bits imm 19 12) * 2 ^ 12 + rd * 2 ^ 7 + 0x6F

/-- A short register number. -/
def rvShort (v hi lo : Nat) : Nat := 8 + bits v hi lo

/-- The 6-bit immediate of a compressed instruction, sign-extended to 12 bits, and its unsigned reading. -/
def cImm (c : Nat) : Nat := ofSigned 12 (toSigned 6 (bits c 12 12 * 32 + bits c 6 2))
def cShamt (c : Nat) : Nat := bits c 12 12 * 32 + bits c 6 2

/-- Quadrant 0. -/
def expand0 (c : Nat) : Option Nat :=
  let r1 := rvShort c 9 7
  let r2 := rvShort c 4 2
  let uw := bits c 12 10 * 8 + bits c 6 6 * 4 + bits c 5 5 * 64
  let ud := bits c 12 10 * 8 + bits c 6 5 * 64
  match bits c 15 13 with
  | 0 =>
    let imm := bits c 12 11 * 16 + bits c 10 7 * 64 + bits c 6 6 * 4 + bits c 5 5 * 8
    if imm = 0 then none else some (encI imm 2 0 r2 0x13)
  | 1 => some (encI ud r1 3 r2 0x07)
  | 2 => some (encI uw r1 2 r2 0x03)
  | 3 => some (encI ud r1 3 r2 0x03)
  | 5 => some (encS ud r2 r1 3 0x27)
  | 6 => some (encS uw r2 r1 2 0x23)
  | 7 => some (encS ud r2 r1 3 0x23)
  | _ => none

/-- The arithmetic forms of quadrant 1. -/
def expandAlu (c : Nat) : Option Nat :=
  let r1 := rvShort c 9 7
  let r2 := rvShort c 4 2
  match bits c 11 10 with
  | 0 => some (encI (cShamt c) r1 5 r1 0x13)
  | 1 => some (encI (cShamt c + 0x400) r1 5 r1 0x13)
  | 2 => some (encI (cImm c) r1 7 r1 0x13)
  | _ =>
    match bits c 12 12, bits c 6 5 with
    | 0, 0 => some (encR 0x20 r2 r1 0 r1 0x33)
    | 0, 1 => some (encR 0 r2 r1 4 r1 0x33)
    | 0, 2 => some (encR 0 r2 r1 6 r1 0x33)
    | 0, _ => some (encR 0 r2 r1 7 r1 0x33)
    | _, 0 => some (encR 0x20 r2 r1 0 r1 0x3B)
    | _, 1 => some (encR 0 r2 r1 0 r1 0x3B)
    | _, _ => none

/-- Quadrant 1. -/
def expand1 (c : Nat) : Option Nat :=
  let rd := bits c 11 7
  let r1 := rvShort c 9 7
  let jump := ofSigned 21 (toSigned 12 (bits c 12 12 * 2 ^ 11 + bits c 11 11 * 16 + bits c 10 9 * 256 + bits c 8 8 * 1024
    + bits c 7 7 * 64 + bits c 6 6 * 128 + bits c 5 3 * 2 + bits c 2 2 * 32))
  let branch := ofSigned 13 (toSigned 9 (bits c 12 12 * 256 + bits c 11 10 * 8 + bits c 6 5 * 64 + bits c 4 3 * 2
    + bits c 2 2 * 32))
  match bits c 15 13 with
  | 0 => some (encI (cImm c) rd 0 rd 0x13)
  | 1 => if rd = 0 then none else some (encI (cImm c) rd 0 rd 0x1B)
  | 2 => some (encI (cImm c) 0 0 rd 0x13)
  | 3 =>
    if rd = 2 then
      let imm := ofSigned 12 (toSigned 10 (bits c 12 12 * 512 + bits c 6 6 * 16 + bits c 5 5 * 64 + bits c 4 3 * 128
        + bits c 2 2 * 32))
      if imm = 0 then none else some (encI imm 2 0 2 0x13)
    else
      let imm := ofSigned 20 (toSigned 6 (cShamt c))
      if imm = 0 then none else some (imm * 4096 + rd * 128 + 0x37)
  | 4 => expandAlu c
  | 5 => some (encJ jump 0)
  | 6 => some (encB branch 0 r1 0)
  | _ => some (encB branch 0 r1 1)

/-- Quadrant 2. -/
def expand2 (c : Nat) : Option Nat :=
  let rd := bits c 11 7
  let rs2 := bits c 6 2
  let uw := bits c 12 12 * 32 + bits c 6 4 * 4 + bits c 3 2 * 64
  let ud := bits c 12 12 * 32 + bits c 6 5 * 8 + bits c 4 2 * 64
  let sw := bits c 12 9 * 4 + bits c 8 7 * 64
  let sd := bits c 12 10 * 8 + bits c 9 7 * 64
  match bits c 15 13 with
  | 0 => some (encI (cShamt c) rd 1 rd 0x13)
  | 1 => some (encI ud 2 3 rd 0x07)
  | 2 => if rd = 0 then none else some (encI uw 2 2 rd 0x03)
  | 3 => if rd = 0 then none else some (encI ud 2 3 rd 0x03)
  | 4 =>
    if bits c 12 12 = 0 then
      (if rs2 = 0 then (if rd = 0 then none else some (encI 0 rd 0 0 0x67)) else some (encR 0 rs2 0 0 rd 0x33))
    else if rs2 = 0 then (if rd = 0 then some 0x00100073 else some (encI 0 rd 0 1 0x67))
    else some (encR 0 rs2 rd 0 rd 0x33)
  | 5 => some (encS sd rs2 2 3 0x27)
  | 6 => some (encS sw rs2 2 2 0x23)
  | _ => some (encS sd rs2 2 3 0x23)

/-- A compressed instruction as its 32-bit form; none where it is reserved. -/
def expand (c : Nat) : Option Nat :=
  match c % 4 with
  | 0 => expand0 c
  | 1 => expand1 c
  | _ => expand2 c

/-! What commands take up which instruction. -/

/-- The kinds of instruction that have commands of their own, and `other` for every other one, illegal ones among
them. -/
inductive CpClass where
  | load | store | amo | lr | sc | fence | fenceI | ecall | kaddW | kaddD | kyield | kwaitf | kpost | other
  deriving DecidableEq, Repr

/-- The AOP of an AMO's funct5 (R399, R410). -/
def amoOp (f5 : Nat) : Option Nat :=
  match f5 with
  | 0x00 => some 1 | 0x01 => some 9 | 0x04 => some 4 | 0x08 => some 3 | 0x0C => some 2
  | 0x10 => some 5 | 0x14 => some 6 | 0x18 => some 7 | 0x1C => some 8 | _ => none

/-- The Xklg encodings (R413): a field that is named x0 must be zero. -/
def klgClass (w : Nat) : CpClass :=
  match rvF7 w, rvF3 w with
  | 0, 2 => if rvRd w = 0 then .kaddW else .other
  | 0, 3 => if rvRd w = 0 then .kaddD else .other
  | 1, 0 => if rvRd w = 0 && rvRs1 w = 0 && rvRs2 w = 0 then .kyield else .other
  | 2, 3 => .kwaitf
  | 3, 3 => .kpost
  | _, _ => .other

/-- The kind of a 32-bit instruction. -/
def cpClass (w : Nat) : CpClass :=
  let f3 := rvF3 w
  let f5 := bits w 31 27
  match rvOp w with
  | 0x03 => if f3 ≠ 7 then .load else .other
  | 0x07 => if f3 = 2 || f3 = 3 then .load else .other
  | 0x23 => if f3 ≤ 3 then .store else .other
  | 0x27 => if f3 = 2 || f3 = 3 then .store else .other
  | 0x2F =>
    if f3 ≠ 2 && f3 ≠ 3 then .other
    else if f5 = 2 then (if rvRs2 w = 0 then .lr else .other)
    else if f5 = 3 then .sc
    else if (amoOp f5).isSome then .amo else .other
  | 0x0F => if f3 = 0 then .fence else if f3 = 1 then .fenceI else .other
  | 0x73 => if w = 0x73 then .ecall else .other
  | 0x0B => klgClass w
  | _ => .other

/-! Integer operations. -/

/-- Signed reading of a 64-bit value. -/
def s64 (a : Nat) : Int := toSigned 64 a

/-- Operations of OP and OP-IMM; `alt` is bit 30. -/
def rvAlu (f3 : Nat) (alt : Bool) (a b : Nat) : Nat :=
  match f3 with
  | 0 => if alt then (a + 2 ^ 64 - b) % 2 ^ 64 else add64n a b
  | 1 => (a <<< (b % 64)) % 2 ^ 64
  | 2 => b2n (s64 a < s64 b)
  | 3 => b2n (a < b)
  | 4 => a ^^^ b
  | 5 => if alt then ofSigned 64 (s64 a / (2 ^ (b % 64) : Nat)) else a >>> (b % 64)
  | 6 => a ||| b
  | _ => a &&& b

/-- Operations of OP-32 and OP-IMM-32. -/
def rvAluW (f3 : Nat) (alt : Bool) (a b : Nat) : Nat :=
  match f3 with
  | 0 => sext64 32 (if alt then a + 2 ^ 64 - b else a + b)
  | 1 => sext64 32 (a <<< (b % 32))
  | _ => if alt then ofSigned 64 (toSigned 32 a / (2 ^ (b % 32) : Nat)) else sext64 32 ((a % 2 ^ 32) >>> (b % 32))

/-- Signed quotient toward zero and remainder, with the corners of the M extension, at `w` bits. -/
def sdiv (w a b : Nat) : Nat :=
  let x := toSigned w a
  let y := toSigned w b
  if y = 0 then 2 ^ 64 - 1 else ofSigned 64 (toSigned w (ofSigned w (Int.tdiv x y)))
def srem (w a b : Nat) : Nat :=
  let x := toSigned w a
  let y := toSigned w b
  if y = 0 then ofSigned 64 x else ofSigned 64 (Int.tmod x y)
def udiv (w a b : Nat) : Nat := if b % 2 ^ w = 0 then 2 ^ 64 - 1 else sext64 w (a % 2 ^ w / (b % 2 ^ w))
def urem (w a b : Nat) : Nat := if b % 2 ^ w = 0 then sext64 w a else sext64 w (a % 2 ^ w % (b % 2 ^ w))

/-- Operations of the M extension, 64-bit. -/
def muldiv (f3 a b : Nat) : Nat :=
  let hi (p : Int) : Nat := ofSigned 64 (p / (2 ^ 64 : Nat))
  match f3 with
  | 0 => a * b % 2 ^ 64
  | 1 => hi (s64 a * s64 b)
  | 2 => hi (s64 a * (b : Int))
  | 3 => a * b / 2 ^ 64
  | 4 => sdiv 64 a b
  | 5 => udiv 64 a b
  | 6 => srem 64 a b
  | _ => urem 64 a b

/-- Operations of the M extension on words; none where reserved. -/
def muldivW (f3 a b : Nat) : Option Nat :=
  match f3 with
  | 0 => some (sext64 32 (a * b))
  | 4 => some (sdiv 32 a b)
  | 5 => some (udiv 32 a b)
  | 6 => some (srem 32 a b)
  | 7 => some (urem 32 a b)
  | _ => none

/-- A register-register operation: 64-bit, or on words. -/
def opReg (word : Bool) (f7 f3 a b : Nat) : Option Nat :=
  if f7 = 1 then (if word then muldivW f3 a b else some (muldiv f3 a b))
  else if f7 = 0 then
    (if word then (if f3 = 0 || f3 = 1 || f3 = 5 then some (rvAluW f3 false a b) else none) else some (rvAlu f3 false a b))
  else if f7 = 0x20 && (f3 = 0 || f3 = 5) then some (if word then rvAluW f3 true a b else rvAlu f3 true a b)
  else none

/-- A register-immediate operation. -/
def opImm (word : Bool) (w a : Nat) : Option Nat :=
  let f3 := rvF3 w
  let imm := immI w
  if word then
    match f3 with
    | 0 => some (rvAluW 0 false a imm)
    | 1 => if rvF7 w = 0 then some (rvAluW 1 false a (rvRs2 w)) else none
    | 5 => if rvF7 w = 0 then some (rvAluW 5 false a (rvRs2 w))
           else if rvF7 w = 0x20 then some (rvAluW 5 true a (rvRs2 w)) else none
    | _ => none
  else
    let f6 := bits w 31 26
    match f3 with
    | 1 => if f6 = 0 then some (rvAlu 1 false a (bits w 25 20)) else none
    | 5 => if f6 = 0 then some (rvAlu 5 false a (bits w 25 20))
           else if f6 = 0x10 then some (rvAlu 5 true a (bits w 25 20)) else none
    | f => some (rvAlu f false a imm)

/-- A branch is taken; none where funct3 is reserved. -/
def branchTaken (f3 a b : Nat) : Option Bool :=
  match f3 with
  | 0 => some (a = b)
  | 1 => some (a ≠ b)
  | 4 => some (s64 a < s64 b)
  | 5 => some (!(s64 a < s64 b))
  | 6 => some (a < b)
  | 7 => some (!(a < b))
  | _ => none

/-! Floating-point operations. -/

/-- Where a floating-point operation puts its result. -/
inductive FOut where
  | x (v : Nat)
  | f (v : Nat)
  deriving DecidableEq, Repr

/-- A single-precision operand: a register value that is not NaN-boxed is the canonical NaN. -/
def unbox (v : Nat) : Nat := if v / 2 ^ 32 = 2 ^ 32 - 1 then v % 2 ^ 32 else fw32.nan

/-- A rounding mode in force: the instruction's, or frm's; none where it is reserved. -/
def roundMode (rm frm : Nat) : Option Nat :=
  let r := if rm = 7 then frm else rm
  if r ≤ 4 then some r else none

/-- An OP-FP instruction: operands as register values, the rounding mode field and frm; the result and its flags. -/
def opFp (w a b ai frm : Nat) : Option (FOut × Nat) :=
  let dbl := bits w 25 25 = 1
  let f := if dbl then fw64 else fw32
  let x := if dbl then a else unbox a
  let y := if dbl then b else unbox b
  let out (v : Nat) : FOut := .f (if dbl then v else v % 2 ^ 32 + (2 ^ 64 - 2 ^ 32))
  let f3 := rvF3 w
  let rs2 := rvRs2 w
  let rounded (g : Nat → Nat × Nat) : Option (FOut × Nat) := (roundMode f3 frm).map (fun rm => (out (g rm).1, (g rm).2))
  let toX (g : Nat → Nat × Nat) : Option (FOut × Nat) := (roundMode f3 frm).map (fun rm => (.x (g rm).1, (g rm).2))
  if 2 ≤ bits w 26 25 then none
  else match bits w 31 27 with
  | 0x00 => rounded (fun rm => f.add rm x y)
  | 0x01 => rounded (fun rm => f.add rm x (if f.isNan y then y else f.flip y))
  | 0x02 => rounded (fun rm => f.mul rm x y)
  | 0x03 => rounded (fun rm => f.div rm x y)
  | 0x0B => if rs2 = 0 then rounded (fun rm => f.sqrt rm x) else none
  | 0x04 =>
    let s := f.zero true
    let body := x &&& (s - 1)
    match f3 with
    | 0 => some (out (body + (y &&& s)), 0)
    | 1 => some (out (body + ((y ^^^ s) &&& s)), 0)
    | 2 => some (out (body + ((x ^^^ y) &&& s)), 0)
    | _ => none
  | 0x05 =>
    if f3 ≤ 1 then some (out (f.minmax (f3 = 1) x y).1, (f.minmax (f3 = 1) x y).2) else none
  | 0x14 => if f3 ≤ 2 then some (.x (f.cmp f3 x y).1, (f.cmp f3 x y).2) else none
  | 0x08 =>
    if dbl && rs2 = 0 then rounded (fun rm => fw32.convert fw64 rm (unbox a))
    else if !dbl && rs2 = 1 then rounded (fun rm => fw64.convert fw32 rm a)
    else none
  | 0x18 => if rs2 < 4 then toX (fun rm => f.toInt rm (if rs2 < 2 then 32 else 64) (rs2 % 2 = 0) x) else none
  | 0x1A =>
    match rs2 with
    | 0 => rounded (fun rm => f.ofInt rm (toSigned 32 ai))
    | 1 => rounded (fun rm => f.ofInt rm (ai % 2 ^ 32 : Nat))
    | 2 => rounded (fun rm => f.ofInt rm (s64 ai))
    | 3 => rounded (fun rm => f.ofInt rm (ai : Int))
    | _ => none
  | 0x1C =>
    if rs2 ≠ 0 then none
    else if f3 = 0 then some (.x (if dbl then a else sext64 32 a), 0)
    else if f3 = 1 then some (.x (f.cls x), 0)
    else none
  | 0x1E => if rs2 = 0 && f3 = 0 then some (out ai, 0) else none
  | _ => none

/-- FMADD, FMSUB, FNMSUB, FNMADD: opcodes 0x43, 0x47, 0x4B, 0x4F. -/
def opFma (w a b c frm : Nat) : Option (Nat × Nat) :=
  let dbl := bits w 25 25 = 1
  let f := if dbl then fw64 else fw32
  let un (v : Nat) : Nat := if dbl then v else unbox v
  let flipIf (n : Bool) (v : Nat) : Nat := if n && !(f.isNan v) then f.flip v else v
  let op := rvOp w
  if 2 ≤ bits w 26 25 then none
  else (roundMode (rvF3 w) frm).map (fun rm =>
    let r := f.fma rm (flipIf (op = 0x4B || op = 0x4F) (un a)) (un b) (flipIf (op = 0x47 || op = 0x4F) (un c))
    (if dbl then r.1 else r.1 % 2 ^ 32 + (2 ^ 64 - 2 ^ 32), r.2))

end Sys2Proof.Machine
end

