-- ==== Sys2Proof/Machine/ControlProc.lean ====
section
/-! DEFINITION. Control processors (R406 to R416): turns, instruction fetch, memory accesses as requests, the Xklg
instructions, and every other instruction of RV64GC in machine mode. -/

namespace Sys2Proof.Machine

/-! Turns (R408). -/

/-- The thread that issues next: the one whose turn it is while it stays ready, else the next ready one after it. -/
def Hw.cpIssuer (h : Hw) (die unit : Nat) : Option Nat :=
  let c := h.cp die unit
  let ready (t : Nat) : Bool := h.threadState die unit t = 1
  if !c.over_ && ready c.last then some c.last
  else ((upto 16).map (fun i => (c.last + 1 + i) % 16)).find? ready

/-- Thread `t` issues: a change of thread is counted. -/
def Hw.cpTurn (h : Hw) (die unit t : Nat) : Hw :=
  let c := h.cp die unit
  let h := if c.last = t then h else h.inc Reg.cpCountSwitches (cpB die unit) 0 1
  h.setCp die unit { c with last := t, over_ := false }

/-- The turn of the issuing thread is over. -/
def Hw.cpOver (h : Hw) (die unit : Nat) : Hw := h.setCp die unit { h.cp die unit with over_ := true }

/-! Instruction fetch (R407). -/

/-- A stop: its CAUSE, its STATUS and CP_TVAL. -/
abbrev CpStop := Nat × Nat × Nat

/-- The cache takes a halfword that it fetched: it holds 16,384, and which of them it drops for another the manual leaves
open (R407). -/
def Hw.cpFill (h : Hw) (die unit off v : Nat) : Hw :=
  let full := 16384 ≤ (h.cp die unit).icache.length
  let (w, h) := if full then h.drawFree else (0, h)
  let c := h.cp die unit
  let held := if full then c.icache.eraseIdx (w.toNat % c.icache.length) else c.icache
  h.setCp die unit { c with icache := SMap.put held off v }

/-- The halfword at an address: from the cache, else from local device memory or the die's own scratchpad. A read that a
clear holds does not come yet (CAUSE 0: no stop). -/
def Hw.cpHalf (h : Hw) (e : Env) (die unit a : Nat) : Except CpStop Nat × Hw :=
  match h.resolve e false a 2 with
  | .ok (.here off) =>
    if !(isDev off) && spDie off ≠ some die then (.error (4, 0, a), h)
    else match SMap.find? (h.cp die unit).icache off with
      | some v => (.ok v, h)
      | none =>
        match runOp (loadB off 2) h with
        | (.ok bs, h) => (.ok (ofBytes bs), h.cpFill die unit off (ofBytes bs))
        | (.error .held, h) => (.error (0, 0, a), h)
        | (.error f, h) =>
          let (d, h) := h.failDone 0 (h.partOf die) (h.coord die unit) f
          (.error (5, d.st.code, a), h)
  | .ok _ => (.error (4, 0, a), h)
  | .error _ => (.error (4, 0, a), h)

/-- The instruction at a pc as its 32-bit form with its length; an unusable compressed form reads as 0, which is
illegal. -/
def Hw.cpFetch (h : Hw) (e : Env) (die unit pc : Nat) : Except CpStop (Nat × Nat) × Hw :=
  match h.cpHalf e die unit pc with
  | (.error s, h) => (.error s, h)
  | (.ok lo, h) =>
    if lo % 4 ≠ 3 then (.ok ((expand lo).getD 0, 2), h)
    else match h.cpHalf e die unit (add64n pc 2) with
      | (.error s, h) => (.error s, h)
      | (.ok hi, h) => (.ok (lo + hi * 65536, 4), h)

/-- What an instruction is given: its place, its length, its bits, and the thread as it stands. -/
structure CpIns where
  die : Nat
  unit : Nat
  t : Nat
  pc : Nat
  len : Nat
  w : Nat
  x : CpThread

/-- The instruction after this one. -/
def CpIns.next (i : CpIns) : Nat := add64n i.pc i.len

/-- The instruction ends: the thread's registers, and its next instruction. -/
def Hw.cpDone (h : Hw) (i : CpIns) (x : CpThread) (pc : Nat) : Hw :=
  (h.setThread i.die i.unit i.t { x with instret := x.instret + 1 }).wf Reg.cpPcPc (cpB i.die i.unit) i.t pc

/-- The thread stops at this instruction. -/
def Hw.cpStop (h : Hw) (i : CpIns) (s : CpStop) : Hw := h.stopThread i.die i.unit i.t s.1 s.2.1 s.2.2

/-- The thread waits: before this instruction, or for what ends it. -/
def Hw.cpWait (h : Hw) (i : CpIns) (w : CpWait) : Hw :=
  ((h.setThread i.die i.unit i.t { h.thread i.die i.unit i.t with wait := some w }).setThreadState i.die i.unit i.t 2).cpOver
    i.die i.unit

/-- A word of a thread's register file that its next instruction reads fails its check: the thread stops with CAUSE 5, and
the record's ADDR is the processor's register space, since a register has no address of its own (R411, R516, R520, R522;
DESIGN CHOICE, log entry 134). The START that follows writes the file anew. -/
def Hw.cpFileFail (h : Hw) (die unit t : Nat) : Hw :=
  let a := 0xF00000000000 + rkey die unit 0
  let (d, h) := { h with badSites := h.badSites.filter (fun x => x ≠ Site.file die unit t) }.failDone 0 (h.partOf die)
    (h.coord die unit) (.ecc a)
  h.stopThread die unit t 5 d.st.code (h.globalAddr a)

/-- The shape of every instruction: its thread is the one that issues, the instruction at its pc is of the command's kind;
a thread with a failed posted request stops instead (R411). -/
def cpStep (die unit t : Nat) (kind : CpClass) (f : Env → CpIns → Hw → Hw) (e : Env) (h : Hw) : Hw :=
  if !(h.dieOn e die) || unit < 7 || 10 < unit || h.cpIssuer die unit ≠ some t then h
  else
    let pc := h.rf Reg.cpPcPc (cpB die unit) t
    match h.cpFetch e die unit pc with
    | (.error s, h') =>
      if kind = .other && s.1 ≠ 0 then (h'.cpTurn die unit t).stopThread die unit t s.1 s.2.1 s.2.2 else h
    | (.ok (w, len), h') =>
      if cpClass w ≠ kind then h
      else
        let h := h'.cpTurn die unit t
        let x := h.thread die unit t
        match x.failed with
        | some (code, a) => h.stopThread die unit t 5 code a
        | none => if h.badSites.contains (.file die unit t) then h.cpFileFail die unit t else f e ⟨die, unit, t, pc, len, w, x⟩ h

/-! Accesses (R409 to R411). -/

/-- A place is on the processor's own die. -/
def ownDie (die : Nat) (l : Loc) : Bool :=
  match l with
  | .here off => spDie off = some die
  | .regs place => dieOf place = die
  | .there _ _ => false

/-- An address in the register range of R39 that the processor may not reach (R411); one that is malformed or reserved is no
register's, and its request fails (R38, R39). -/
def Hw.cpBarred (h : Hw) (die a : Nat) : Bool :=
  let off := bits a 47 0
  let own := if bit a 63 then h.node? = some (bits a 62 48) else bits a 62 48 = 0
  own && 0xF00000000000 ≤ off && off < 0xF00020000000
    && (let d := (off - 0xF00000000000) / 0x1000000; 24 ≤ d || (h.partOf die).isNone || h.partOf d ≠ h.partOf die)

/-- Where an access leads; a stop where it is misaligned or barred, a status where the request would fail. -/
def Hw.cpPlace (h : Hw) (e : Env) (die a n : Nat) : Except CpStop (Except Status Loc) :=
  if a % n ≠ 0 then .error (3, 0, a)
  else if h.cpBarred die a then .error (4, 0, a)
  else .ok (h.resolve e false a n)

/-- A request beyond the own die is counted. -/
def Hw.cpCount (h : Hw) (i : CpIns) (l : Loc) : Hw :=
  if ownDie i.die l then h else h.inc Reg.cpCountRemote (cpB i.die i.unit) 0 1

/-- A posted request that a later access to its line waits for: a store, not a KAMOFADD. -/
def isStoreReq (r : Req) : Bool :=
  match r.owner with
  | .thread _ _ _ rd k _ => k = 0 && rd = 0
  | _ => false

/-- The line of an access that an outstanding store of the same thread overlaps: the node and the line waited for. -/
def Hw.lineBusy (h : Hw) (i : CpIns) (l : Loc) : Option (Nat × Nat) :=
  let stores := (h.postedOf i.die i.unit i.t).filter isStoreReq
  let busy (node off : Nat) : Option (Nat × Nat) :=
    if stores.any (onLine node (off / 64)) then some (node, off / 64) else none
  match l with
  | .there node off => busy node off
  | .here off =>
    match busy h.node off with
    | some p => some p
    | none => (h.mirrorOf off).bind (fun m => busy (h.rf Reg.mirPartner pkgB m.1) m.2)
  | .regs _ => none

/-- Every slot for posted requests is taken. -/
def Hw.slotsFull (h : Hw) (i : CpIns) : Bool := 8 ≤ (h.postedOf i.die i.unit i.t).length

/-- The owner of a request of this instruction. -/
def CpIns.owner (i : CpIns) (rd kind addr : Nat) : Owner := .thread i.die i.unit i.t rd kind addr

/-- A posted request fails at once: the thread stops before its next instruction (R411). -/
def Hw.cpFailPost (h : Hw) (i : CpIns) (code a : Nat) : Hw :=
  let x := h.thread i.die i.unit i.t
  h.setThread i.die i.unit i.t { x with failed := some (x.failed.getD (code, a)) }

/-- The mirrored bytes of a local write go out, held by the thread's slots (R538). -/
def Hw.cpMirror (h : Hw) (i : CpIns) (kind a : Nat) : Hw := if h.mirq.isEmpty then h else h.mirrorOut (i.owner 0 kind a)

/-- A blocking request has been sent: the thread waits for its answer, its next instruction the one after. -/
def Hw.cpAwait (h : Hw) (i : CpIns) : Hw :=
  let h := h.setThread i.die i.unit i.t { i.x with instret := i.x.instret + 1 }
  (h.wf Reg.cpPcPc (cpB i.die i.unit) i.t i.next).cpWait i (.answer i.pc)

/-- A local operation of a request: its outcome goes on with `k`; a failing one is a status, an operation held by a clear
does not happen yet. -/
def Hw.cpRun {α : Type} (h h0 : Hw) (i : CpIns) (m : Op α) (bad : Hw → Nat → Hw) (k : Hw → α → Hw) : Hw :=
  let part := h.partOf i.die
  match runOp m { h with moved := 0 } with
  | (.ok v, h) => k (h.chargeMem part) v
  | (.error .held, _) => h0
  | (.error f, h) =>
    let (d, h) := (h.chargeMem part).failDone 0 part (h.coord i.die i.unit) f
    bad h d.st.code

/-! Loads and stores. -/

/-- Bytes, and the kind of the request, of a load. -/
def loadKind (w : Nat) : Nat × Nat :=
  if rvOp w = 0x07 then (if rvF3 w = 2 then (4, 8) else (8, 9))
  else match rvF3 w with
    | 0 => (1, 1) | 1 => (2, 2) | 2 => (4, 3) | 3 => (8, 4) | 4 => (1, 5) | 5 => (2, 6) | _ => (4, 7)

/-- CP_LOAD: a load ends the thread's turn. -/
def cpLoad (e : Env) (i : CpIns) (h : Hw) : Hw :=
  let a := add64n (i.x.rx (rvRs1 i.w)) (immI i.w)
  let (n, kind) := loadKind i.w
  match h.cpPlace e i.die a n with
  | .error s => h.cpStop i s
  | .ok (.error s) => h.cpStop i (5, s.code, a)
  | .ok (.ok l) =>
    match h.lineBusy i l with
    | some p => h.cpWait i (.line p.1 p.2)
    | none =>
      let g := h.cpCount i l
      let got (g : Hw) (v : Nat) : Hw := (g.cpDone i (i.x.take kind (rvRd i.w) v) i.next).cpOver i.die i.unit
      match l with
      | .here off => g.cpRun h i (loadN off n) (fun g c => g.cpStop i (5, c, a)) got
      | .regs place =>
        let (v, g) := g.busRead e place n
        got g v
      | .there node off =>
        (g.issue (i.owner (rvRd i.w) kind a) (g.coord i.die i.unit) (g.partOf i.die) 6 node off n false
          (fun id => reqPreamble id n 0 0 0 0 0 0 0)).cpAwait i

/-- CP_STORE: a store is posted. -/
def cpStore (e : Env) (i : CpIns) (h : Hw) : Hw :=
  let a := add64n (i.x.rx (rvRs1 i.w)) (immS i.w)
  let n := 2 ^ rvF3 i.w
  let v := (if rvOp i.w = 0x27 then i.x.rf (rvRs2 i.w) else i.x.rx (rvRs2 i.w)) % 2 ^ (8 * n)
  match h.cpPlace e i.die a n with
  | .error s => h.cpStop i s
  | .ok (.error s) => (h.cpDone i i.x i.next).cpFailPost i s.code a
  | .ok (.ok l) =>
    match h.lineBusy i l with
    | some p => h.cpWait i (.line p.1 p.2)
    | none =>
      if h.slotsFull i then h.cpWait i .slot
      else
        let g := (h.cpCount i l).cpDone i i.x i.next
        match l with
        | .here off => g.cpRun h i (storeN off n v) (fun g c => g.cpFailPost i c a) (fun g _ => g.cpMirror i 0 a)
        | .regs place => g.busWrite e place n v
        | .there node off =>
          match g.askWrite (i.owner 0 0 a) (g.coord i.die i.unit) (g.partOf i.die) node off (toBytes n v) with
          | .ok g => g
          | .error s => (g.inc Reg.rgnStatusDeniedTx pkgB 0 1).cpFailPost i s.code a

/-! Atomics. -/

/-- A remote ATOMIC of one element, if the source permits it (R395, R399). -/
def Hw.cpAtomic (h : Hw) (i : CpIns) (owner : Owner) (aop afmt node off tseq issue v : Nat) : Option Hw :=
  if (h.region (ownerFdie i.die)).permits h.node node off (afmtBytes afmt) then
    some (h.issue owner (h.coord i.die i.unit) (h.partOf i.die) 8 node off (afmtBytes afmt) false
      (fun id => reqPreamble id 1 aop afmt i.t tseq issue v 0))
  else none

/-- CP_AMO (R410): without a result it is posted, else it blocks. -/
def cpAmo (e : Env) (i : CpIns) (h : Hw) : Hw :=
  let a := i.x.rx (rvRs1 i.w)
  let rd := rvRd i.w
  let afmt := rvF3 i.w - 2
  let n := afmtBytes afmt
  let kind := if rd = 0 then 0 else 10 + afmt
  let v := i.x.rx (rvRs2 i.w) % 2 ^ (8 * n)
  let aop := (amoOp (bits i.w 31 27)).getD 1
  let fails (h : Hw) (code : Nat) : Hw := if rd = 0 then (h.cpDone i i.x i.next).cpFailPost i code a else h.cpStop i (5, code, a)
  match h.cpPlace e i.die a n with
  | .error s => h.cpStop i s
  | .ok (.error s) => fails h s.code
  | .ok (.ok (.regs _)) => fails h Status.destUnreachable.code
  | .ok (.ok l) =>
    match h.lineBusy i l with
    | some p => h.cpWait i (.line p.1 p.2)
    | none =>
      if rd = 0 && h.slotsFull i then h.cpWait i .slot
      else
        let g := h.cpCount i l
        match l with
        | .here off =>
          g.cpRun h i (atomicApply aop afmt off [v] 0) fails (fun g old =>
            let x := i.x.take kind rd old
            if rd = 0 then (g.cpDone i x i.next).cpMirror i 0 a
            else if g.mirq.isEmpty then (g.cpDone i x i.next).cpOver i.die i.unit
            else ((g.cpDone i x i.next).cpMirror i 12 a).cpWait i (.answer i.pc))
        | .there node off =>
          match g.cpAtomic i (i.owner (if rd = 0 then 0 else rd) kind a) aop afmt node off 0 0 v with
          | some g => if rd = 0 then g.cpDone i i.x i.next else g.cpAwait i
          | none => fails (g.inc Reg.rgnStatusDeniedTx pkgB 0 1) Status.writeDenied.code
        | .regs _ => h

/-- KAMOFADD (R413): a posted FADD with THREAD, TSEQ and ISSUE; in deterministic mode it is deferred at its memory
(R403). -/
def kamofadd (afmt : Nat) (e : Env) (i : CpIns) (h : Hw) : Hw :=
  let a := i.x.rx (rvRs1 i.w)
  let n := afmtBytes afmt
  let v := i.x.rx (rvRs2 i.w) % 2 ^ (8 * n)
  let owner := i.owner 1 0 a
  match h.cpPlace e i.die a n with
  | .error s => h.cpStop i s
  | .ok (.error s) => (h.cpDone i i.x i.next).cpFailPost i s.code a
  | .ok (.ok (.regs _)) => (h.cpDone i i.x i.next).cpFailPost i Status.destUnreachable.code a
  | .ok (.ok l) =>
    match h.lineBusy i l with
    | some p => h.cpWait i (.line p.1 p.2)
    | none =>
      if h.slotsFull i then h.cpWait i .slot
      else
        let g := (h.cpCount i l).cpDone i i.x i.next
        match l with
        | .here off =>
          if e.tl.det then
            if h.deferFull off || h.clearing off n then h
            else
              let (tseq, g) := g.takeTseq i.die i.unit i.t
              let id := g.nextOpid
              let r : Req := { id := id, owner := owner, typ := 8, node := g.node, off := off, bytes := n }
              let d : Deferred := { due := g.faddDue g.fabN, src := g.coord i.die i.unit, thread := i.t, tseq := tseq, off := off
                                    afmt := afmt, operands := [v], local_ := some id, opid := id, tag := 0, cls := 0 }
              { g with nextOpid := (id + 1) % 2 ^ 32, reqs := g.reqs ++ [r], defer := g.defer ++ [d] }
          else g.cpRun h i (atomicApply 0x10 afmt off [v] 0) (fun g c => g.cpFailPost i c a) (fun g _ =>
            let g := (g.takeTseq i.die i.unit i.t).2
            if g.mirq.isEmpty then g else g.mirrorOut owner)
        | .there node off =>
          let denied := (g.inc Reg.rgnStatusDeniedTx pkgB 0 1).cpFailPost i Status.writeDenied.code a
          if (g.region (ownerFdie i.die)).permits g.node node off n then
            let (tseq, g) := g.takeTseq i.die i.unit i.t
            (g.cpAtomic i owner 0x10 afmt node off tseq g.fabN v).getD denied
          else denied
        | .regs _ => h

/-! LR and SC (R410). -/

/-- The place of an LR or SC: a word of the own scratchpad. -/
def Hw.cpOwnWord (h : Hw) (e : Env) (die a n : Nat) : Except CpStop Nat :=
  if a % n ≠ 0 then .error (3, 0, a)
  else match h.resolve e false a n with
    | .ok (.here off) => if spDie off = some die then .ok off else .error (4, 0, a)
    | _ => .error (4, 0, a)

/-- LR: reserves the 8-byte word. -/
def cpLr (e : Env) (i : CpIns) (h : Hw) : Hw :=
  let a := i.x.rx (rvRs1 i.w)
  let n := if rvF3 i.w = 2 then 4 else 8
  match h.cpOwnWord e i.die a n with
  | .error s => h.cpStop i s
  | .ok off =>
    h.cpRun h i (loadN off n) (fun g c => g.cpStop i (5, c, a)) (fun g v =>
      let g := { g with reservations := SMap.put g.reservations (threadKey i.die i.unit i.t) (off / 8 * 8) }
      (g.cpDone i (i.x.take (if n = 4 then 3 else 4) (rvRd i.w) v) i.next).cpOver i.die i.unit)

/-- SC: stores if the reservation holds; either way the reservation is gone. -/
def cpSc (e : Env) (i : CpIns) (h : Hw) : Hw :=
  let a := i.x.rx (rvRs1 i.w)
  let n := if rvF3 i.w = 2 then 4 else 8
  let key := threadKey i.die i.unit i.t
  match h.cpOwnWord e i.die a n with
  | .error s => h.cpStop i s
  | .ok off =>
    let holds := SMap.find? h.reservations key = some (off / 8 * 8)
    let g := { h with reservations := SMap.del h.reservations key }
    let over_ (g : Hw) (v : Nat) : Hw := (g.cpDone i (i.x.wx (rvRd i.w) v) i.next).cpOver i.die i.unit
    if holds then
      g.cpRun h i (storeN off n (i.x.rx (rvRs2 i.w) % 2 ^ (8 * n))) (fun g c => g.cpStop i (5, c, a)) (fun g _ => over_ g 0)
    else over_ g 1

/-! FENCE, FENCE.I, ECALL, KYIELD. -/

/-- CP_FENCE: waits for every outstanding request of the thread (R409). -/
def cpFence (_ : Env) (i : CpIns) (h : Hw) : Hw :=
  if (h.outstanding i.die i.unit i.t).isEmpty then h.cpDone i i.x i.next else h.cpWait i .fence

/-- FENCE_I: the instruction cache is invalid (R407). -/
def cpFenceI (_ : Env) (i : CpIns) (h : Hw) : Hw :=
  let h := h.cpDone i i.x i.next
  h.setCp i.die i.unit { h.cp i.die i.unit with icache := [] }

/-- ECALL: the thread ends with STATE 0, CAUSE 1 and a0 in CP_TVAL (R411). -/
def cpEcall (_ : Env) (i : CpIns) (h : Hw) : Hw :=
  let h := (h.stopThread i.die i.unit i.t 1 0 (i.x.rx 10)).wf Reg.cpPcPc (cpB i.die i.unit) i.t i.next
  h.setThreadState i.die i.unit i.t 0

/-- KYIELD: the turn is over, and the thread stays ready. -/
def cpYield (_ : Env) (i : CpIns) (h : Hw) : Hw := (h.cpDone i i.x i.next).cpOver i.die i.unit

/-! KWAITF and KPOST (R414, R415). -/

/-- KWAITF goes on with COUNT where the flag is set for the tag, else the thread blocks. -/
def cpKwaitf (e : Env) (i : CpIns) (h : Hw) : Hw :=
  let a := i.x.rx (rvRs1 i.w)
  let tag := i.x.rx (rvRs2 i.w) % 2 ^ 32
  match h.resolve e false a 8 with
  | .ok (.here off) =>
    if off % 8 ≠ 0 || spDie off ≠ some i.die then h.cpStop i (4, 0, a)
    else
      h.cpRun h i (loadN off 8) (fun g c => g.cpStop i (5, c, a)) (fun g v =>
        if bits v 31 0 = tag then g.cpDone i (i.x.wx (rvRd i.w) (bits v 63 32)) i.next
        else
          (g.wf Reg.cpPcPc (cpB i.die i.unit) i.t i.next).cpWait i (.flag (rvRd i.w) off tag g.now i.pc))
  | _ => h.cpStop i (4, 0, a)

/-- The targets of KPOST: units of the own node, C-dies those of the own partition. -/
def Hw.kpostTarget (h : Hw) (e : Env) (die c : Nat) : Bool :=
  let d := cDie c
  let u := cUnit c
  bits c 31 24 = 0 && cNode c = h.node
    && (if d < 24 then u ≤ 6 && e.cdie d && (h.partOf d).isSome && h.partOf d = h.partOf die
        else if d < 28 then u = 8
        else d < 32 && (u < 2 || (d = 28 && u = 8)))

/-- The completion ring has a free entry beyond what its posts will take (R415). -/
def Hw.kpostRoom (h : Hw) (die unit : Nat) : Bool :=
  let b := cpB die unit
  let used := (h.rf Reg.cpCqIdxProd b + 2 ^ 32 - h.rf Reg.cpCqIdxCons b) % 2 ^ 32
  used + SMap.get h.kposts 0 (ukey die unit) < h.cpRingSize die unit

/-- A descriptor goes to its target; page commands and window programs are served by M0's engine alone (R369, R373), and
another M-die's unit 1 answers that it takes none. -/
def Hw.kpostGo (h : Hw) (i : CpIns) (c ticket : Nat) (bs : List Byte) : Hw :=
  let d := cDie c
  let u := cUnit c
  let op := (bs.headD 0).toNat
  let desc : Desc := BitVec.ofNat 1024 (ofBytes (bs.take ((targetLen d u op).getD 128)))
  let o : Origin := .kpost i.die i.unit i.t ticket
  let h := { h with kposts := SMap.upd h.kposts 0 (ukey i.die i.unit) (· + 1) }
  if 29 ≤ d && u = 1 then h.complete o ⟨.badDescriptor, 0, 0⟩ else h.postTo d u desc o (h.partOf i.die)

/-- KPOST. -/
def cpKpost (e : Env) (i : CpIns) (h : Hw) : Hw :=
  let a := i.x.rx (rvRs1 i.w)
  let v := i.x.rx (rvRs2 i.w)
  let c := v % 2 ^ 32
  if h.slotsFull i then h.cpWait i .slot
  else match h.resolve e false a 128 with
    | .ok (.here off) =>
      if off % 64 ≠ 0 || spDie off ≠ some i.die then h.cpStop i (4, 0, a)
      else
        h.cpRun h i (loadB off 128) (fun g s => g.cpStop i (5, s, a)) (fun g bs =>
          let out (g : Hw) (n : Nat) : Hw := g.cpDone i (i.x.wx (rvRd i.w) n) i.next
          if !(g.kpostTarget e i.die c) then out g 2
          else if !(g.targetRoom (cDie c) (cUnit c) (bs.headD 0).toNat) || !(g.kpostRoom i.die i.unit) then out g 1
          else (out g 0).kpostGo i c (v / 2 ^ 32) bs)
    | _ => h.cpStop i (4, 0, a)

/-! CSRs (R406). Machine mode alone; no interrupts, no translation, no protection. -/

/-- mstatus as read: FS and MPP are fixed, SD with FS (bits 63, 14:13, 12:11). -/
def mstatusRead (w : Nat) : Nat := bits w 7 7 * 128 + bits w 3 3 * 8 + 0x7800 + 2 ^ 63

/-- CSRs that hold what is written: mscratch, mepc, mcause, mtval. -/
def csrPlain (n : Nat) : Bool := n = 0x340 || n = 0x341 || n = 0x342 || n = 0x343

/-- CSRs that read zero and ignore writes: mie, mtvec, mcountinhibit, mhpmevent, mip, mhpmcounter. -/
def csrZero (n : Nat) : Bool :=
  n = 0x304 || n = 0x305 || n = 0x320 || (0x323 ≤ n && n ≤ 0x33F) || n = 0x344 || (0xB03 ≤ n && n ≤ 0xB1F)

/-- The value of a CSR; none where it does not exist. Cycle counts are timing, a free value. -/
def Hw.csrRead (h : Hw) (i : CpIns) (n : Nat) : Option (Nat × Hw) :=
  let x := i.x
  if n = 1 then some (x.fcsr % 32, h)
  else if n = 2 then some (bits x.fcsr 7 5, h)
  else if n = 3 then some (x.fcsr % 256, h)
  else if n = 0x300 then some (mstatusRead (SMap.get x.csrs 0 n).toNat, h)
  else if csrPlain n then some ((SMap.get x.csrs 0 n).toNat, h)
  else if csrZero n then some (0, h)
  else if n = 0xC01 then some (h.now % 2 ^ 64, h)
  else if n = 0xC02 || n = 0xB02 then some (x.instret % 2 ^ 64, h)
  else if n = 0xC00 || n = 0xB00 then
    let (w, h) := h.drawFree
    some (w.toNat, h)
  else if n = 0xF14 then some (h.coord i.die i.unit * 16 + i.t, h)
  else if n = 0x301 || n = 0xF11 || n = 0xF12 || n = 0xF13 || n = 0xF15 then some ((Config.cpCsr n).toNat, h)
  else none

/-- A CSR written. -/
def csrWrite (x : CpThread) (n v : Nat) : CpThread :=
  if n = 1 then { x with fcsr := x.fcsr / 32 * 32 % 256 + v % 32 }
  else if n = 2 then { x with fcsr := x.fcsr % 32 + v % 8 * 32 }
  else if n = 3 then { x with fcsr := v % 256 }
  else if n = 0x300 then { x with csrs := SMap.put x.csrs n (BitVec.ofNat 64 (v &&& 0x88)) }
  else if n = 0x341 then { x with csrs := SMap.put x.csrs n (BitVec.ofNat 64 (v / 2 * 2)) }
  else if csrPlain n then { x with csrs := SMap.put x.csrs n (BitVec.ofNat 64 v) }
  else if n = 0xB02 then { x with instret := v }
  else x

/-- A CSR instruction. -/
def Hw.cpCsr (h : Hw) (i : CpIns) : Hw :=
  let n := bits i.w 31 20
  let f3 := rvF3 i.w
  let src := if 4 ≤ f3 then rvRs1 i.w else i.x.rx (rvRs1 i.w)
  let writes := f3 % 4 = 1 || rvRs1 i.w ≠ 0
  if writes && bits n 11 10 = 3 then h.cpStop i (2, 0, 0)
  else match h.csrRead i n with
    | none => h.cpStop i (2, 0, 0)
    | some (old, h) =>
      let v := match f3 % 4 with
        | 1 => src
        | 2 => old ||| src
        | _ => old &&& (2 ^ 64 - 1 - src)
      let x := i.x.wx (rvRd i.w) old
      let h := h.cpDone i (if writes then csrWrite x n v else x) i.next
      if writes && n = 0xB02 then h.setThread i.die i.unit i.t (csrWrite x n v) else h

/-- EBREAK: a breakpoint exception to mtvec, which is zero; what mtval receives is left to the implementation. -/
def Hw.cpBreak (h : Hw) (i : CpIns) : Hw :=
  let (w, h) := h.drawFree
  let st := (SMap.get i.x.csrs 0 0x300).toNat
  let c := SMap.put (SMap.put (SMap.put i.x.csrs 0x341 (BitVec.ofNat 64 i.pc)) 0x342 3) 0x343 w
  let x := { i.x with csrs := SMap.put c 0x300 (BitVec.ofNat 64 (bits st 3 3 * 128)) }
  (h.setThread i.die i.unit i.t x).wf Reg.cpPcPc (cpB i.die i.unit) i.t 0

/-- MRET: MIE takes MPIE, MPIE becomes 1, and the pc is mepc. -/
def Hw.cpMret (h : Hw) (i : CpIns) : Hw :=
  let st := (SMap.get i.x.csrs 0 0x300).toNat
  let x := { i.x with csrs := SMap.put i.x.csrs 0x300 (BitVec.ofNat 64 (bits st 7 7 * 8 + 128)) }
  h.cpDone i x (SMap.get i.x.csrs 0 0x341).toNat

/-- Flags accrue in fcsr. -/
def CpThread.accrue (x : CpThread) (fl : Nat) : CpThread := { x with fcsr := x.fcsr ||| fl }

/-- The integer and floating-point instructions that touch registers and the pc alone: the thread and the pc after them;
none where the encoding is illegal. -/
def cpCompute (i : CpIns) : Option (CpThread × Nat) :=
  let x := i.x
  let w := i.w
  let a := x.rx (rvRs1 w)
  let b := x.rx (rvRs2 w)
  let frm := bits x.fcsr 7 5
  let rd := rvRd w
  let put (v : Option Nat) : Option (CpThread × Nat) := v.map (fun v => (x.wx rd v, i.next))
  match rvOp w with
  | 0x37 => put (some (immU w))
  | 0x17 => put (some (add64n i.pc (immU w)))
  | 0x6F => some (x.wx rd i.next, add64n i.pc (immJ w))
  | 0x67 => if rvF3 w = 0 then some (x.wx rd i.next, add64n a (immI w) / 2 * 2) else none
  | 0x63 => (branchTaken (rvF3 w) a b).map (fun t => (x, if t then add64n i.pc (immB w) else i.next))
  | 0x13 => put (opImm false w a)
  | 0x1B => put (opImm true w a)
  | 0x33 => put (opReg false (rvF7 w) (rvF3 w) a b)
  | 0x3B => put (opReg true (rvF7 w) (rvF3 w) a b)
  | 0x53 =>
    (opFp w (x.rf (rvRs1 w)) (x.rf (rvRs2 w)) a frm).map (fun (r : FOut × Nat) =>
      (match r.1 with | .x v => (x.wx rd v).accrue r.2 | .f v => (x.wf rd v).accrue r.2, i.next))
  | 0x43 | 0x47 | 0x4B | 0x4F =>
    (opFma w (x.rf (rvRs1 w)) (x.rf (rvRs2 w)) (x.rf (bits w 31 27)) frm).map (fun (r : Nat × Nat) =>
      ((x.wf rd r.1).accrue r.2, i.next))
  | _ => none

/-- CP_INSTRUCTION: every other instruction of RV64GC; an illegal one stops the thread (R411). -/
def cpOther (_ : Env) (i : CpIns) (h : Hw) : Hw :=
  if i.w = 0x00100073 then h.cpBreak i
  else if i.w = 0x30200073 then h.cpMret i
  else if i.w = 0x10500073 then h.cpDone i i.x i.next
  else if rvOp i.w = 0x73 && rvF3 i.w % 4 ≠ 0 then h.cpCsr i
  else match cpCompute i with
    | some (x, pc) => h.cpDone i x pc
    | none => h.cpStop i (2, 0, 0)

/-! Waits and commands from outside (R411, R412, R414). -/

/-- CP_FLAG_TIMEOUT: a KWAITF waits longer than FLAG_TIMEOUT. -/
def cpFlagTimeout (die unit t : Nat) (e : Env) (h : Hw) : Hw :=
  let limit := h.rf Reg.cpCtrlFlagTimeout (cpB die unit)
  match (h.thread die unit t).wait with
  | some (.flag _ _ _ since _) =>
    if limit = 0 || !(h.dieOn e die) || h.threadState die unit t ≠ 2 then h
    else (h.reach (since + 1000 * limit)).stopThread die unit t 6 Status.timeout.code 0
  | _ => h

/-- A KWAITF reads its flag again (R414). -/
def Hw.recheckThread (h : Hw) (die unit t : Nat) : Hw :=
  match (h.thread die unit t).wait with
  | some (.flag rd off tag _ _) =>
    if h.threadState die unit t ≠ 2 then h
    else match runOp (loadN off 8) h with
      | (.ok v, g) =>
        if bits v 31 0 = tag then
          let x := g.thread die unit t
          let x := x.wx rd (bits v 63 32)
          (g.setThread die unit t { x with wait := none, instret := x.instret + 1 }).setThreadState die unit t 1
        else h
      | (.error .held, _) => h
      | (.error f, g) =>
        let (d, g) := g.failDone 0 (g.partOf die) (g.coord die unit) f
        g.stopThread die unit t 5 d.st.code off
  | _ => h

/-- A unit is a control processor of a C-die that is on, and a thread one of its 16. -/
def Hw.cpOn (h : Hw) (e : Env) (die unit t : Nat) : Bool := h.dieOn e die && 7 ≤ unit && unit ≤ 10 && t < 16

/-- CP_TSTAT_START, CP_TSTAT_STOP, CP_CTRL_ABORT. -/
def cpTstatStart (die unit t : Nat) (e : Env) (h : Hw) : Hw := if h.cpOn e die unit t then h.startThread die unit t else h
def cpTstatStop (die unit t : Nat) (e : Env) (h : Hw) : Hw := if h.cpOn e die unit t then h.haltThread die unit t else h
def cpCtrlAbort (die unit : Nat) (e : Env) (h : Hw) : Hw := if h.cpOn e die unit 0 then h.abortThreads die unit else h

/-! The commands. -/

/-- CP_LOAD (R409). -/
def execCpLoad (die unit thread : Nat) (s : State) : Host.Outcome State Fault Refusal :=
  onHw (cpStep die unit thread .load cpLoad) s

/-- CP_STORE (R409). -/
def execCpStore (die unit thread : Nat) (s : State) : Host.Outcome State Fault Refusal :=
  onHw (cpStep die unit thread .store cpStore) s

/-- CP_AMO (R410). -/
def execCpAmo (die unit thread : Nat) (s : State) : Host.Outcome State Fault Refusal :=
  onHw (cpStep die unit thread .amo cpAmo) s

/-- LR (R410). -/
def execLr (die unit thread : Nat) (s : State) : Host.Outcome State Fault Refusal := onHw (cpStep die unit thread .lr cpLr) s

/-- SC (R410). -/
def execSc (die unit thread : Nat) (s : State) : Host.Outcome State Fault Refusal := onHw (cpStep die unit thread .sc cpSc) s

/-- CP_FENCE (R409). -/
def execCpFence (die unit thread : Nat) (s : State) : Host.Outcome State Fault Refusal :=
  onHw (cpStep die unit thread .fence cpFence) s

/-- FENCE_I (R407). -/
def execFenceI (die unit thread : Nat) (s : State) : Host.Outcome State Fault Refusal :=
  onHw (cpStep die unit thread .fenceI cpFenceI) s

/-- ECALL (R411). -/
def execEcall (die unit thread : Nat) (s : State) : Host.Outcome State Fault Refusal :=
  onHw (cpStep die unit thread .ecall cpEcall) s

/-- CP_INSTRUCTION (R406). -/
def execCpInstruction (die unit thread : Nat) (s : State) : Host.Outcome State Fault Refusal :=
  onHw (cpStep die unit thread .other cpOther) s

/-- KAMOFADD_W (R413). -/
def execKamofaddW (die unit thread : Nat) (s : State) : Host.Outcome State Fault Refusal :=
  onHw (cpStep die unit thread .kaddW (kamofadd 2)) s

/-- KAMOFADD_D (R413). -/
def execKamofaddD (die unit thread : Nat) (s : State) : Host.Outcome State Fault Refusal :=
  onHw (cpStep die unit thread .kaddD (kamofadd 3)) s

/-- KYIELD (R413). -/
def execKyield (die unit thread : Nat) (s : State) : Host.Outcome State Fault Refusal :=
  onHw (cpStep die unit thread .kyield cpYield) s

/-- KWAITF (R414). -/
def execKwaitf (die unit thread : Nat) (s : State) : Host.Outcome State Fault Refusal :=
  onHw (cpStep die unit thread .kwaitf cpKwaitf) s

/-- KPOST (R415). -/
def execKpost (die unit thread : Nat) (s : State) : Host.Outcome State Fault Refusal :=
  onHw (cpStep die unit thread .kpost cpKpost) s

/-- CP_FLAG_TIMEOUT (R414). -/
def execCpFlagTimeout (die unit thread : Nat) (s : State) : Host.Outcome State Fault Refusal :=
  onHw (cpFlagTimeout die unit thread) s

/-- CP_TSTAT_START (R412). -/
def execCpTstatStart (die unit thread : Nat) (s : State) : Host.Outcome State Fault Refusal :=
  onHw (cpTstatStart die unit thread) s

/-- CP_TSTAT_STOP (R411). -/
def execCpTstatStop (die unit thread : Nat) (s : State) : Host.Outcome State Fault Refusal :=
  onHw (cpTstatStop die unit thread) s

/-- CP_CTRL_ABORT (R411). -/
def execCpCtrlAbort (die unit : Nat) (s : State) : Host.Outcome State Fault Refusal := onHw (cpCtrlAbort die unit) s

end Sys2Proof.Machine
end

