-- ==== Sys2Proof/Machine/Epochs.lean ====
section
/-! DEFINITION. Boundaries of the timelines and what their epochs do (R426 to R429, R434 to R438, R444, R457, R493), the
ends of waits and clears, a die link that fails (R24), and the steps of the source owner that end in answers. -/

namespace Sys2Proof.Machine

/-- What failed or was answered in the fabric reaches the operations that wait for it (R262, R263, R273, R305). -/
def Hw.settleFabric (h : Hw) (e : Env) : Hw := ((((h.settleExchange e).settleStitch).settleColls e).settleReqs e)

/-! The source owner (R252 to R263). -/

/-- FRAME_TRANSMIT (R252). -/
def execFrameTransmit (die : Nat) (s : State) : Host.Outcome State Fault Refusal :=
  onHw (fun e h => (frameTransmit die e h).settleFabric e) s

/-- ACK (R262). -/
def execAck (frame : Frame) (s : State) : Host.Outcome State Fault Refusal :=
  onHw (fun e h => (ackFrame frame e h).settleFabric e) s

/-- RESEND_TIMEOUT (R262). -/
def execResendTimeout (die : Nat) (s : State) : Host.Outcome State Fault Refusal :=
  onHw (fun e h => (resendTimeout die e h).settleFabric e) s

/-! Waits. -/

/-- The step of a window program that waits for a flag is tried again, by its OP (R377). -/
def Hw.recheckWindow (h : Hw) (e : Env) (p : Nat) : Hw :=
  match SMap.find? h.wins p with
  | none => h
  | some r =>
    if r.since.isNone then h
    else h.winStep e p (upto 256) (fun h r s =>
      if s.op = 2 then winExperts p e h r s else if s.op = 3 then winWaitStep p e h r s else winFetch p e h r s)

/-- FLAG_RECHECK: a waiter reads its flag again and goes on when it is set (R93, R107 to R109, R190, R377, R414). -/
def flagRecheck (w : Waiter) (e : Env) (h : Hw) : Hw :=
  match w with
  | .core d k => if h.dieOn e d && k < 4 then h.recheckCore e d k else h
  | .stream d k => if h.dieOn e d && k < 4 then h.recheckStream d k else h
  | .dispatch d => match h.queue d 4 with
    | j :: _ => if j.started && j.body.fld 0 7 0 = 2 then combine d e h else h
    | [] => h
  | .window p => h.recheckWindow e p
  | .thread d u t => if h.dieOn e d || 24 ≤ d then h.recheckThread d u t else h

/-- FLAG_RECHECK (R107). -/
def execFlagRecheck (waiter : Waiter) (s : State) : Host.Outcome State Fault Refusal := onHw (flagRecheck waiter) s

/-- The whole scratchpad of a die is zero with valid check bits (R132, R133). -/
def Hw.zeroScratchpad (h : Hw) (d : Nat) : Hw :=
  let out (a : Nat) : Bool := a < spWin d || spWin d + 0x10000000 ≤ a
  { h with
    mem := Mem.clear h.mem (spWin d) 0x10000000
    badWords := h.badWords.filter out
    corrWords := h.corrWords.filter out
    reservations := h.reservations.filter (fun (r : Nat × Nat) => out r.2) }

/-- CLEAR_END: a clear is over; what it held of the package's own writes and of FADDs takes effect, and a release, a wake or stage CLEAR goes on (R132, R133, R451, R500, R515). -/
def clearEnd (d : Nat) (_ : Env) (h : Hw) : Hw :=
  match SMap.find? h.clears d with
  | none => h
  | some w =>
    let h := h.zeroScratchpad d
    let h := ({ h with clears := SMap.del h.clears d }).wf Reg.spStatusClearing (rkey d 11 0) 0 0
    let h := h.pokeHeld.faddReady h.fabN
    let awake (h : Hw) : Hw := h.wf Reg.cdiePwrAwake pkgB 0 (setBits (h.rf Reg.cdiePwrAwake pkgB) d d 1)
    match w with
    | .release p => h.partFree p
    | .wake => awake h
    | .boot => if h.clears.any (fun (c : Nat × ClearFor) => c.2 = .boot) then awake h else (awake h).enterLinks

/-- CLEAR_END (R133). -/
def execClearEnd (die : Nat) (s : State) : Host.Outcome State Fault Refusal := onHw (clearEnd die) s

/-! A die link that fails (R20, R24, R499, R525). -/

/-- What runs on the C-dies completes with ABORTED. -/
def Hw.abortDies (h : Hw) (e : Env) : Hw :=
  (upto 24).foldl (fun (h : Hw) d =>
    let h : Hw := (upto 4).foldl (fun (h : Hw) k => h.abortCore d k) h
    let h : Hw := deCtrlAbort d e h
    let h : Hw := (h.abortQueue d 5 (copyFlag e d 5)).abortQueue d 6 (copyFlag e d 6)
    let h : Hw := (upto 4).foldl (fun (h : Hw) k => h.abortThreads d (7 + k)) h
    (upto 4).foldl (fun (h : Hw) k =>
      let c := h.core d k
      c.launches.foldl (fun (h : Hw) l => h.completeBase l.origin ⟨.aborted, 0, 0⟩) (h.setCore d k { c with launches := [] })) h) h

/-- Every descriptor that a unit still holds completes with ABORTED. -/
def Hw.abortQueues (h : Hw) : Hw :=
  h.jobs.foldl (fun (h : Hw) (x : Nat × List Job) =>
    (h.queue (x.1 / 16) (x.1 % 16)).foldl (fun (h : Hw) j => h.finishJob (x.1 / 16) (x.1 % 16) j ⟨.aborted, 0, 0⟩) h) h

/-- Partition descriptors and group set-ups complete with ABORTED. -/
def Hw.abortMgmt (h : Hw) : Hw :=
  let h : Hw := h.groups.foldl (fun (h : Hw) (g : Nat × Group) =>
    if g.2.job.isSome then
      (h.setGroup g.1 { g.2 with agents := g.2.agents.map (fun a => { a with failed := true }) }).endSetup g.1 ⟨.aborted, 0, 0⟩
    else h) h
  let h : Hw := { h with partJobs := h.partJobs.map (fun (x : PartJob) =>
    if x.isLoad then { x with failed := some .aborted, waiting := [] } else x) }
  let h := h.settleLoads
  let gone := h.partJobs.filter (fun x => !x.isLoad)
  gone.foldl (fun (h : Hw) x => h.partDone x.job .aborted 0) { h with partJobs := h.partJobs.filter (fun x => x.isLoad) }

/-- What is in flight in the fabric is lost with the package's ports. -/
def Hw.dropFabric (h : Hw) : Hw :=
  let h : Hw := h.mirHold.foldl (fun (h : Hw) (x : Nat × MirHold) =>
    match x.2 with
    | .job die _ j d _ => (h.complete j.origin { d with st := .aborted }).handAll die
    | _ => h) { h with mirHold := [] }
  { h with
    txq := [], arrived := [], stages := [], stageUsed := [], switches := h.switches.map (fun s => (s.1, { s.2 with inq := [] })), reorder := [], ready := [], egress := [], originals := [], reqs := [], opens := []
    xrets := [], colls := [], defer := [], failures := [], swaps := [] }

/-- Every operation in flight on the package completes with ABORTED. -/
def Hw.abortAll (h : Hw) (e : Env) (tl : Timelines) : Timelines × Hw :=
  let h := h.abortDies e
  let h : Hw := (upto 4).foldl (fun (h : Hw) i => kprAbort (28 + i) e h) h
  let h := migCtrlAbort e h
  let (tl, h) := (upto 8).foldl (fun (a : Timelines × Hw) p => a.2.cinchFail a.1 p .aborted 0) (tl, h)
  (tl, (h.abortMgmt.abortQueues).dropFabric)

/-- DIE_LINK_DOWN: a die link has not retrained within its retry limit, and is marked down. -/
def dieLinkDown (die module : Nat) (f : Fuses) (tl : Timelines) (h : Hw) : Timelines × Hw :=
  match moduleEnd die module with
  | some far =>
    if h.power.stopped then (tl, h)
    else ({ h with linksDown := h.linksDown ++ [(die, far)] }.fatal 1 die module).abortAll ⟨f, tl⟩ tl
  | none => (tl, h)

/-- DIE_LINK_DOWN (R24). -/
def execDieLinkDown (die module : Nat) (s : State) : Host.Outcome State Fault Refusal := onTl (dieLinkDown die module) s

/-- The page map of the package has failed, and the fatal event is raised (R365): every operation in flight ends as it
does when a die link fails (R24). -/
def State.endMapFault (s : State) : State :=
  let r := Hw.abortAll { s.hw with mapDown := false } s.env s.tl
  { s with tl := r.1, hw := r.2.seal }

/-! Boundaries. -/

/-- A partition's timeline no longer runs, so that its fields of a pending commit take force at once (R493). -/
def Hw.takeStopped (h : Hw) (e : Env) (p now : Nat) : Hw :=
  if (e.tl.part p).st = .running then h
  else h.commits.foldl (fun (h : Hw) (c : Nat × List Nat) =>
    if c.2.contains (p + 1) then
      let mine (r : RegRow) (i : Nat) : Bool := r ≠ Reg.pkgMode && (dieOf c.1 < 24 || (r.perPart && i = p))
      let h := h.takeForce e (h.stagedIn c.1 (fun r _ i => mine r i)) now
      (if c.1 = pkgB then h.commitMirror p else h).endTimeline c.1 (p + 1)
    else h) h

/-- A committed change of DETERMINISTIC takes force once no partition is ARMED or RUNNING (R444). -/
def Hw.modeEpoch (h : Hw) (tl : Timelines) : Timelines × Hw :=
  let key := pkgB + Reg.pkgMode.off
  if !((SMap.get h.commits [] pkgB).contains 9) then (tl, h)
  else match SMap.find? h.staged key with
    | none => (tl, h.endTimeline pkgB 9)
    | some w =>
      if bit w.toNat 0 = tl.det || tl.parts.all (fun (p : PartTl) => p.st = .idle) then
        ({ tl with det := bit w.toNat 0 }, (h.applyStaged [(key, Reg.pkgMode, 0, w)]).endTimeline pkgB 9)
      else (tl, h)

/-- A partition's part of a boundary of the timeline it keeps, once changes have taken force: the placement, the Keepers,
and a takeover word (R206, R215, R217, R229, R234, R540). -/
def Hw.partWork (h : Hw) (e : Env) (p t : Nat) : Hw :=
  let (commits, h) := h.plcEpoch e p t
  let h := if commits then h.commitBlock e pkgB else h
  let h : Hw := (upto 4).foldl (fun (h : Hw) i => h.kprBeat (28 + i) p) h
  h.takeoverWord p

/-- A boundary of the fabric timeline at a partition that keeps the fabric beat (R426, R457). -/
def Hw.fabricPart (h : Hw) (e : Env) (n t p : Nat) : Hw :=
  if (e.tl.part p).st = .running then h
  else
    let h := (h.takeStopped e p t).partWork e p t
    let h := h.boundaryCores e p
    if n = 0 then h else h.acctRecord p (n - 1) (h.rf Reg.dlmStatusPlan tmB p)

/-- The fabric's own part of its boundary `n` at counter value `t`: what is due takes force. -/
def Hw.fabricWork (h : Hw) (e : Env) (n t : Nat) : Hw :=
  let h := (h.commitEpoch e 0 t).portEpoch
  let h := (h.faddBoundary n).groupEpoch e
  ((h.pageEpoch e t).regionEpoch).watchBoundary t

/-- FABRIC_BOUNDARY: the next boundary of the fabric timeline, the first one at its origin (R426, R427). -/
def fabricBoundary (f : Fuses) (tl : Timelines) (h : Hw) : Timelines × Hw :=
  if h.power.stopped then (tl, h)
  else
    let n := if h.now < tl.fabOrigin then 0 else h.fabN + 1
    let t := tl.fabOrigin + n * tl.fabPeriod
    let h := { h.reach t with fabN := n }
    let (tl, h) := h.modeEpoch tl
    let h := h.fabricWork ⟨f, tl⟩ n t
    let (tl, h) := h.partEpoch f tl t none
    let e : Env := ⟨f, tl⟩
    (tl, (((upto 8).foldl (fun (h : Hw) p => h.fabricPart e n t p) h).takeoverEpoch e).settleFabric e)

/-- FABRIC_BOUNDARY (R427). -/
def execFabricBoundary (s : State) : Host.Outcome State Fault Refusal := onTl fabricBoundary s

/-- Boundary `n` of a partition after its changes have taken force: launches and BEAT releases, then lag, judgement and
the record of the beat that ended (R434, R436, R438, R457 to R461). -/
def Hw.beatWork (h : Hw) (e : Env) (p n : Nat) : Hw :=
  if n = 0 then ({ h.cinchStart p false with acct := SMap.del h.acct p }).noteLag p 0
  else
    let pl := h.rf Reg.dlmStatusPlan tmB p
    let h := (h.dlmApply p n).boundaryCores e p
    let l := h.lagAt p n
    ((h.noteLag p l).dlmBoundary e p n l).acctRecord p (n - 1) pl

/-- Boundary `n` of partition `p`'s running timeline at counter value `t`. -/
def Hw.beatEpoch (h : Hw) (f : Fuses) (tl : Timelines) (p n t : Nat) : Timelines × Hw :=
  let h := { h.reach t with partN := SMap.put h.partN p n }
  let h := h.commitEpoch ⟨f, tl⟩ (p + 1) t
  let (tl, h) := h.partEpoch f tl t (some p)
  let e : Env := ⟨f, tl⟩
  if (tl.part p).st = .running then (tl, ((h.partWork e p t).beatWork e p n).settleFabric e)
  else (tl, (h.takeStopped e p t).settleFabric e)

/-- Where the next boundary of the fabric timeline falls at counter value `t` as well, its changes take force first
(R428). -/
def fabricFirst (t : Nat) (f : Fuses) (tl : Timelines) (h : Hw) : Timelines × Hw :=
  let n := if h.now < tl.fabOrigin then 0 else h.fabN + 1
  if tl.fabOrigin + n * tl.fabPeriod = t then fabricBoundary f tl h else (tl, h)

/-- Boundary `n` of partition `p`, which falls at counter value `t`, after a fabric boundary at that value; nothing falls
where that one has ended the partition's timeline. -/
def beatFalls (p n t : Nat) (f : Fuses) (tl : Timelines) (h : Hw) : Timelines × Hw :=
  let x := tl.part p
  let r := fabricFirst t f tl h
  if r.1.part p = x then r.2.beatEpoch f (r.1.setPart p { x with st := .running }) p n t else r

/-- BEAT_BOUNDARY: the next boundary of a partition's timeline; boundary 0 of an armed one starts it (R426, R434). -/
def beatBoundary (p : Nat) (f : Fuses) (tl : Timelines) (h : Hw) : Timelines × Hw :=
  let x := tl.part p
  if 8 ≤ p || h.power.stopped then (tl, h)
  else match x.st with
    | .idle => (tl, h)
    | .armed => if x.go then beatFalls p 0 x.origin f tl h else (tl, h)
    | .running =>
      let n := SMap.get h.partN 0 p + 1
      beatFalls p n (x.origin + n * x.period) f tl h

/-- BEAT_BOUNDARY (R426). -/
def execBeatBoundary (part : Nat) (s : State) : Host.Outcome State Fault Refusal := onTl (beatBoundary part) s

end Sys2Proof.Machine
end

