-- ==== Sys2Proof/Machine/Replay.lean ====
section
/-! DEFINITION. The replay point (R72, R120): a partition's flag, the maximum over the job, and the decision. -/

namespace Sys2Proof.Machine

/-- The partition's job lies on this package alone: its cinch, if any, has no member on another node. -/
def Hw.jobIsLocal (h : Hw) (p : Nat) : Bool :=
  ((SMap.get h.dlm {} p).members.filter (· ≠ h.node)).isEmpty

/-- The group that a partition's replay reductions run on: the lowest GKEY set up for it with RED MAX over UINT32 and a
form decided, no agent of it failed. The spec names the reduction and not its group (DESIGN CHOICE, log entry 114). -/
def Hw.replayGroup (h : Hw) (p : Nat) : Option (Nat × Group) :=
  List.find? (fun (x : Nat × Group) =>
    let f := x.2.fmts 1
    x.2.part = p && !x.2.move && x.2.form.isSome && f.red = 1 && f.inF = .uint32 && !x.2.agents.isEmpty
      && x.2.agents.all (fun a => !a.failed)) h.groups

/-- The job takes the maximum of its partitions' flags as a one-element UINT32 reduction (R72): every agent of the group
on this package contributes this partition's flag. -/
def Hw.replayReduce (h : Hw) (e : Env) (p : Nat) : Hw :=
  match h.replayGroup p with
  | none => h
  | some (key, g) =>
    if h.colls.any (fun r => r.gkey = key && r.tag.isNone) then h
    else
      let runs := g.agents.map (fun a => ({ die := a.die, gkey := key, opseq := a.opseq, tag := none, chunks := 1
                                            value := b2n (h.partCause p ≠ 0), sig := g.sig key a.opseq 0x10 1 0 0
                                            since := h.now } : CollRun))
      runs.foldl (fun h r => match h.run? r.die key r.opseq with
        | some r => h.collGo e r
        | none => h) { h with colls := h.colls ++ runs }

/-- A partition's replay point is looked at (R72, R120): with every running program there, the maximum of the flags of a
job that is all here decides at once; that of a job with parts elsewhere is reduced over the job, and the reduction's
RESULT brings the decision. -/
def Hw.atReplay (h : Hw) (e : Env) (p : Nat) : Hw :=
  if !(h.allAtReplay p) then h
  else if h.jobIsLocal p then h.replayDecision e p (h.partCause p ≠ 0)
  else h.replayReduce e p

/-- REPLAY (R120): it waits until the queues are empty and then at the partition's replay point. A core that waits there
already looks at the point again, as when another program of its partition has ended. -/
def insnReplay (die core : Nat) (e : Env) (h : Hw) : Hw :=
  let point (h : Hw) : Hw := match h.partOf die with
    | none => h
    | some p => h.atReplay e p
  if (h.core die core).st = .replayWait && h.dieOn e die && core < 4 then point h
  else onInsn 0x30 die core (fun _ c _ h =>
    if !c.drained then h else point (h.setCore die core { c with st := .replayWait, since := h.now })) e h

/-- REPLAY (R120). -/
def execReplay (die core : Nat) (s : State) : Host.Outcome State Fault Refusal :=
  onHw (insnReplay die core) s

end Sys2Proof.Machine
end

