-- ==== Sys2Proof/Machine/Dispatch.lean ====
section
/-! DEFINITION. One arm per command: the direct call of its meaning. -/

namespace Sys2Proof.Machine

/-- The effect of a command on everything but the queue. -/
def exec (i : Instr) (s : State) : Host.Outcome State Fault Refusal :=
  match i with
  | .registerWrite access => Sys2Proof.Machine.execRegisterWrite access s
  | .cfgCommit die unit => Sys2Proof.Machine.execCfgCommit die unit s
  | .fnCommit fn => Sys2Proof.Machine.execFnCommit fn s
  | .fabricBoundary => Sys2Proof.Machine.execFabricBoundary s
  | .beatBoundary part => Sys2Proof.Machine.execBeatBoundary part s
  | .dieLinkDown die module => Sys2Proof.Machine.execDieLinkDown die module s
  | .launch die core => Sys2Proof.Machine.execLaunch die core s
  | .nop die core => Sys2Proof.Machine.execNop die core s
  | .halt die core => Sys2Proof.Machine.execHalt die core s
  | .ldi die core => Sys2Proof.Machine.execLdi die core s
  | .ldih die core => Sys2Proof.Machine.execLdih die core s
  | .add die core => Sys2Proof.Machine.execAdd die core s
  | .sub die core => Sys2Proof.Machine.execSub die core s
  | .and die core => Sys2Proof.Machine.execAnd die core s
  | .or die core => Sys2Proof.Machine.execOr die core s
  | .shl die core => Sys2Proof.Machine.execShl die core s
  | .shr die core => Sys2Proof.Machine.execShr die core s
  | .ld die core => Sys2Proof.Machine.execLd die core s
  | .st die core => Sys2Proof.Machine.execSt die core s
  | .beq die core => Sys2Proof.Machine.execBeq die core s
  | .bne die core => Sys2Proof.Machine.execBne die core s
  | .bltu die core => Sys2Proof.Machine.execBltu die core s
  | .jmp die core => Sys2Proof.Machine.execJmp die core s
  | .mma die core => Sys2Proof.Machine.execMma die core s
  | .vop die core => Sys2Proof.Machine.execVop die core s
  | .post die core => Sys2Proof.Machine.execPost die core s
  | .waitf die core => Sys2Proof.Machine.execWaitf die core s
  | .gate die core => Sys2Proof.Machine.execGate die core s
  | .setf die core => Sys2Proof.Machine.execSetf die core s
  | .fence die core => Sys2Proof.Machine.execFence die core s
  | .beat die core => Sys2Proof.Machine.execBeat die core s
  | .replay die core => Sys2Proof.Machine.execReplay die core s
  | .reservedOpc die core => Sys2Proof.Machine.execReservedOpc die core s
  | .flagRecheck waiter => Sys2Proof.Machine.execFlagRecheck waiter s
  | .gateDeadline die core => Sys2Proof.Machine.execGateDeadline die core s
  | .coreFlagTimeout die core => Sys2Proof.Machine.execCoreFlagTimeout die core s
  | .mmaProduct die core => Sys2Proof.Machine.execMmaProduct die core s
  | .sparseScan die core => Sys2Proof.Machine.execSparseScan die core s
  | .arraySwap die core => Sys2Proof.Machine.execArraySwap die core s
  | .vopAdd die core => Sys2Proof.Machine.execVopAdd die core s
  | .vopSub die core => Sys2Proof.Machine.execVopSub die core s
  | .vopMul die core => Sys2Proof.Machine.execVopMul die core s
  | .vopMax die core => Sys2Proof.Machine.execVopMax die core s
  | .vopMin die core => Sys2Proof.Machine.execVopMin die core s
  | .scale die core => Sys2Proof.Machine.execScale die core s
  | .convert die core => Sys2Proof.Machine.execConvert die core s
  | .rowsum die core => Sys2Proof.Machine.execRowsum die core s
  | .rowmax die core => Sys2Proof.Machine.execRowmax die core s
  | .rowmin die core => Sys2Proof.Machine.execRowmin die core s
  | .argmax die core => Sys2Proof.Machine.execArgmax die core s
  | .exp2 die core => Sys2Proof.Machine.execExp2 die core s
  | .log2 die core => Sys2Proof.Machine.execLog2 die core s
  | .recip die core => Sys2Proof.Machine.execRecip die core s
  | .rsqrt die core => Sys2Proof.Machine.execRsqrt die core s
  | .tanh die core => Sys2Proof.Machine.execTanh die core s
  | .softmax die core => Sys2Proof.Machine.execSoftmax die core s
  | .sigmoid die core => Sys2Proof.Machine.execSigmoid die core s
  | .rmsnorm die core => Sys2Proof.Machine.execRmsnorm die core s
  | .layernorm die core => Sys2Proof.Machine.execLayernorm die core s
  | .xent die core => Sys2Proof.Machine.execXent die core s
  | .fadd64 die core => Sys2Proof.Machine.execFadd64 die core s
  | .rowsum64 die core => Sys2Proof.Machine.execRowsum64 die core s
  | .coreCtrlAbort die core => Sys2Proof.Machine.execCoreCtrlAbort die core s
  | .copy die unit => Sys2Proof.Machine.execCopy die unit s
  | .transpose die unit => Sys2Proof.Machine.execTranspose die unit s
  | .permute die unit => Sys2Proof.Machine.execPermute die unit s
  | .gather die unit => Sys2Proof.Machine.execGather die unit s
  | .scatterStore die unit => Sys2Proof.Machine.execScatterStore die unit s
  | .scatterAdd die unit => Sys2Proof.Machine.execScatterAdd die unit s
  | .ceCtrlAbort die unit => Sys2Proof.Machine.execCeCtrlAbort die unit s
  | .clearEnd die => Sys2Proof.Machine.execClearEnd die s
  | .route die => Sys2Proof.Machine.execRoute die s
  | .combine die => Sys2Proof.Machine.execCombine die s
  | .deFlagTimeout die => Sys2Proof.Machine.execDeFlagTimeout die s
  | .deCtrlAbort die => Sys2Proof.Machine.execDeCtrlAbort die s
  | .verify part bank => Sys2Proof.Machine.execVerify part bank s
  | .verifyDone part => Sys2Proof.Machine.execVerifyDone part s
  | .plcPopEnd part => Sys2Proof.Machine.execPlcPopEnd part s
  | .reserve die => Sys2Proof.Machine.execReserve die s
  | .unreserve die => Sys2Proof.Machine.execUnreserve die s
  | .alloc die => Sys2Proof.Machine.execAlloc die s
  | .keeperRelease die => Sys2Proof.Machine.execKeeperRelease die s
  | .free die => Sys2Proof.Machine.execFree die s
  | .allocSeqTimeout die => Sys2Proof.Machine.execAllocSeqTimeout die s
  | .kprCtrlAbort die => Sys2Proof.Machine.execKprCtrlAbort die s
  | .laneSignal port => Sys2Proof.Machine.execLaneSignal port s
  | .backoffExpiry port => Sys2Proof.Machine.execBackoffExpiry port s
  | .dataBlock port block => Sys2Proof.Machine.execDataBlock port block s
  | .controlBlock port block => Sys2Proof.Machine.execControlBlock port block s
  | .controlBlockTimeout port => Sys2Proof.Machine.execControlBlockTimeout port s
  | .frameTransmit die => Sys2Proof.Machine.execFrameTransmit die s
  | .switchForward die point => Sys2Proof.Machine.execSwitchForward die point s
  | .egressArbitration port => Sys2Proof.Machine.execEgressArbitration port s
  | .ack frame => Sys2Proof.Machine.execAck frame s
  | .ackRecordSend die => Sys2Proof.Machine.execAckRecordSend die s
  | .resendTimeout die => Sys2Proof.Machine.execResendTimeout die s
  | .levelSample event => Sys2Proof.Machine.execLevelSample event s
  | .xchSend die => Sys2Proof.Machine.execXchSend die s
  | .xchOpen die => Sys2Proof.Machine.execXchOpen die s
  | .xchReturn die => Sys2Proof.Machine.execXchReturn die s
  | .xchClose die => Sys2Proof.Machine.execXchClose die s
  | .exchHdr frame => Sys2Proof.Machine.execExchHdr frame s
  | .exchRow frame => Sys2Proof.Machine.execExchRow frame s
  | .exchRet frame => Sys2Proof.Machine.execExchRet frame s
  | .multicastFrame frame => Sys2Proof.Machine.execMulticastFrame frame s
  | .multicastCopy die => Sys2Proof.Machine.execMulticastCopy die s
  | .stuCmdClaim die unit ctx => Sys2Proof.Machine.execStuCmdClaim die unit ctx s
  | .stuCmdRelease die unit ctx => Sys2Proof.Machine.execStuCmdRelease die unit ctx s
  | .claimClearEnd die unit ctx => Sys2Proof.Machine.execClaimClearEnd die unit ctx s
  | .stitchInput frame => Sys2Proof.Machine.execStitchInput frame s
  | .chunkRun die unit => Sys2Proof.Machine.execChunkRun die unit s
  | .stuNop die unit => Sys2Proof.Machine.execStuNop die unit s
  | .stuEnd die unit => Sys2Proof.Machine.execStuEnd die unit s
  | .gloop die unit => Sys2Proof.Machine.execGloop die unit s
  | .ldg die unit => Sys2Proof.Machine.execLdg die unit s
  | .stg die unit => Sys2Proof.Machine.execStg die unit s
  | .ldc die unit => Sys2Proof.Machine.execLdc die unit s
  | .mov die unit => Sys2Proof.Machine.execMov die unit s
  | .rsum die unit => Sys2Proof.Machine.execRsum die unit s
  | .rmax die unit => Sys2Proof.Machine.execRmax die unit s
  | .rmin die unit => Sys2Proof.Machine.execRmin die unit s
  | .rcnt die unit => Sys2Proof.Machine.execRcnt die unit s
  | .stuAdd die unit => Sys2Proof.Machine.execStuAdd die unit s
  | .stuMul die unit => Sys2Proof.Machine.execStuMul die unit s
  | .stuMax die unit => Sys2Proof.Machine.execStuMax die unit s
  | .stuMin die unit => Sys2Proof.Machine.execStuMin die unit s
  | .gcat die unit => Sys2Proof.Machine.execGcat die unit s
  | .msort die unit => Sys2Proof.Machine.execMsort die unit s
  | .filt die unit => Sys2Proof.Machine.execFilt die unit s
  | .topk die unit => Sys2Proof.Machine.execTopk die unit s
  | .emit die unit => Sys2Proof.Machine.execEmit die unit s
  | .allreduce die => Sys2Proof.Machine.execAllreduce die s
  | .reduce die => Sys2Proof.Machine.execReduce die s
  | .allgather die => Sys2Proof.Machine.execAllgather die s
  | .broadcast die => Sys2Proof.Machine.execBroadcast die s
  | .bundle die => Sys2Proof.Machine.execBundle die s
  | .setup => Sys2Proof.Machine.execSetup s
  | .setupUp frame => Sys2Proof.Machine.execSetupUp frame s
  | .setupDown frame => Sys2Proof.Machine.execSetupDown frame s
  | .groupRelease => Sys2Proof.Machine.execGroupRelease s
  | .contrib frame => Sys2Proof.Machine.execContrib frame s
  | .result frame => Sys2Proof.Machine.execResult frame s
  | .signature frame => Sys2Proof.Machine.execSignature frame s
  | .data frame => Sys2Proof.Machine.execData frame s
  | .deCollTimeout die => Sys2Proof.Machine.execDeCollTimeout die s
  | .pinHbm => Sys2Proof.Machine.execPinHbm s
  | .pinDdr => Sys2Proof.Machine.execPinDdr s
  | .unpin => Sys2Proof.Machine.execUnpin s
  | .moveHbm => Sys2Proof.Machine.execMoveHbm s
  | .moveDdr => Sys2Proof.Machine.execMoveDdr s
  | .pageSwap die => Sys2Proof.Machine.execPageSwap die s
  | .counterPolicy die => Sys2Proof.Machine.execCounterPolicy die s
  | .winRun => Sys2Proof.Machine.execWinRun s
  | .fetch part => Sys2Proof.Machine.execFetch part s
  | .experts part => Sys2Proof.Machine.execExperts part s
  | .wait part => Sys2Proof.Machine.execWait part s
  | .loop part => Sys2Proof.Machine.execLoop part s
  | .winBeat part => Sys2Proof.Machine.execWinBeat part s
  | .winEnd part => Sys2Proof.Machine.execWinEnd part s
  | .migFlagTimeout part => Sys2Proof.Machine.execMigFlagTimeout part s
  | .migCtrlAbort => Sys2Proof.Machine.execMigCtrlAbort s
  | .patrolScrub die unit => Sys2Proof.Machine.execPatrolScrub die unit s
  | .refresh die unit => Sys2Proof.Machine.execRefresh die unit s
  | .write frame => Sys2Proof.Machine.execWrite frame s
  | .readReq frame => Sys2Proof.Machine.execReadReq frame s
  | .readResp frame => Sys2Proof.Machine.execReadResp frame s
  | .atomicAdd frame => Sys2Proof.Machine.execAtomicAdd frame s
  | .atomicAnd frame => Sys2Proof.Machine.execAtomicAnd frame s
  | .atomicOr frame => Sys2Proof.Machine.execAtomicOr frame s
  | .atomicXor frame => Sys2Proof.Machine.execAtomicXor frame s
  | .atomicMin frame => Sys2Proof.Machine.execAtomicMin frame s
  | .atomicMax frame => Sys2Proof.Machine.execAtomicMax frame s
  | .atomicMinu frame => Sys2Proof.Machine.execAtomicMinu frame s
  | .atomicMaxu frame => Sys2Proof.Machine.execAtomicMaxu frame s
  | .atomicSwap frame => Sys2Proof.Machine.execAtomicSwap frame s
  | .atomicCas frame => Sys2Proof.Machine.execAtomicCas frame s
  | .atomicFadd frame => Sys2Proof.Machine.execAtomicFadd frame s
  | .regionTableLoaded die => Sys2Proof.Machine.execRegionTableLoaded die s
  | .cpLoad die unit thread => Sys2Proof.Machine.execCpLoad die unit thread s
  | .cpStore die unit thread => Sys2Proof.Machine.execCpStore die unit thread s
  | .cpAmo die unit thread => Sys2Proof.Machine.execCpAmo die unit thread s
  | .lr die unit thread => Sys2Proof.Machine.execLr die unit thread s
  | .sc die unit thread => Sys2Proof.Machine.execSc die unit thread s
  | .cpFence die unit thread => Sys2Proof.Machine.execCpFence die unit thread s
  | .fenceI die unit thread => Sys2Proof.Machine.execFenceI die unit thread s
  | .ecall die unit thread => Sys2Proof.Machine.execEcall die unit thread s
  | .cpInstruction die unit thread => Sys2Proof.Machine.execCpInstruction die unit thread s
  | .kamofaddW die unit thread => Sys2Proof.Machine.execKamofaddW die unit thread s
  | .kamofaddD die unit thread => Sys2Proof.Machine.execKamofaddD die unit thread s
  | .kyield die unit thread => Sys2Proof.Machine.execKyield die unit thread s
  | .kwaitf die unit thread => Sys2Proof.Machine.execKwaitf die unit thread s
  | .kpost die unit thread => Sys2Proof.Machine.execKpost die unit thread s
  | .cpFlagTimeout die unit thread => Sys2Proof.Machine.execCpFlagTimeout die unit thread s
  | .cpTstatStart die unit thread => Sys2Proof.Machine.execCpTstatStart die unit thread s
  | .cpTstatStop die unit thread => Sys2Proof.Machine.execCpTstatStop die unit thread s
  | .cpCtrlAbort die unit => Sys2Proof.Machine.execCpCtrlAbort die unit s
  | .timeSet value => Sys2Proof.Machine.execTimeSet value s
  | .syncLostTimeout => Sys2Proof.Machine.execSyncLostTimeout s
  | .cinch => Sys2Proof.Machine.execCinch s
  | .ready frame => Sys2Proof.Machine.execReady frame s
  | .go frame => Sys2Proof.Machine.execGo frame s
  | .fail frame => Sys2Proof.Machine.execFail frame s
  | .cinchTimeout part => Sys2Proof.Machine.execCinchTimeout part s
  | .cinchMemberTimeout part => Sys2Proof.Machine.execCinchMemberTimeout part s
  | .numWatchStep => Sys2Proof.Machine.execNumWatchStep s
  | .load => Sys2Proof.Machine.execLoad s
  | .partitionRelease => Sys2Proof.Machine.execPartitionRelease s
  | .lag frame => Sys2Proof.Machine.execLag frame s
  | .plan frame => Sys2Proof.Machine.execPlan frame s
  | .dlmCmdForce part plan => Sys2Proof.Machine.execDlmCmdForce part plan s
  | .sqDb fn ring value => Sys2Proof.Machine.execSqDb fn ring value s
  | .sqEntryPost fn ring => Sys2Proof.Machine.execSqEntryPost fn ring s
  | .cqDb fn ring value => Sys2Proof.Machine.execCqDb fn ring value s
  | .eqDb fn ring value => Sys2Proof.Machine.execEqDb fn ring value s
  | .msixModerationDelay fn isEq ring => Sys2Proof.Machine.execMsixModerationDelay fn isEq ring s
  | .toDevice link => Sys2Proof.Machine.execToDevice link s
  | .toHost link => Sys2Proof.Machine.execToHost link s
  | .atsInvalidation page => Sys2Proof.Machine.execAtsInvalidation page s
  | .dlDown => Sys2Proof.Machine.execDlDown s
  | .flr fn => Sys2Proof.Machine.execFlr fn s
  | .d3hot fn => Sys2Proof.Machine.execD3hot fn s
  | .powerOnReset boot => Sys2Proof.Machine.execPowerOnReset boot s
  | .perst boot => Sys2Proof.Machine.execPerst boot s
  | .rstCtrlPkg key boot => Sys2Proof.Machine.execRstCtrlPkg key boot s
  | .rstCtrlMp key flashOk boot => Sys2Proof.Machine.execRstCtrlMp key flashOk boot s
  | .bootVerify flashOk => Sys2Proof.Machine.execBootVerify flashOk s
  | .bootMemTrain train => Sys2Proof.Machine.execBootMemTrain train s
  | .bootClear => Sys2Proof.Machine.execBootClear s
  | .bootLinks => Sys2Proof.Machine.execBootLinks s
  | .rcvCtrlGo readOk flashOk => Sys2Proof.Machine.execRcvCtrlGo readOk flashOk s
  | .fwUpdStart readOk flashOk => Sys2Proof.Machine.execFwUpdStart readOk flashOk s
  | .joinCmdGo => Sys2Proof.Machine.execJoinCmdGo s
  | .wdtKick => Sys2Proof.Machine.execWdtKick s
  | .watchdogExpiry flashOk boot => Sys2Proof.Machine.execWatchdogExpiry flashOk boot s
  | .dbgNonceRead => Sys2Proof.Machine.execDbgNonceRead s
  | .dbgCtrlSubmit => Sys2Proof.Machine.execDbgCtrlSubmit s
  | .cdiePwrWrite off => Sys2Proof.Machine.execCdiePwrWrite off s
  | .getVersion request => Sys2Proof.Machine.execGetVersion request s
  | .getCapabilities request => Sys2Proof.Machine.execGetCapabilities request s
  | .negotiateAlgorithms request => Sys2Proof.Machine.execNegotiateAlgorithms request s
  | .getDigests request => Sys2Proof.Machine.execGetDigests request s
  | .getCertificate request => Sys2Proof.Machine.execGetCertificate request s
  | .challenge request => Sys2Proof.Machine.execChallenge request s
  | .getMeasurements request => Sys2Proof.Machine.execGetMeasurements request s
  | .keyExchange request => Sys2Proof.Machine.execKeyExchange request s
  | .finish request => Sys2Proof.Machine.execFinish request s
  | .endSession request => Sys2Proof.Machine.execEndSession request s
  | .loopbackEnd port result => Sys2Proof.Machine.execLoopbackEnd port result s
  | .probe port frame => Sys2Proof.Machine.execProbe port frame s
  | .probeTimeout port => Sys2Proof.Machine.execProbeTimeout port s
  | .burnTimeout port => Sys2Proof.Machine.execBurnTimeout port s
  | .xptLbStart port depth => Sys2Proof.Machine.execXptLbStart port depth s
  | .memLbStart die unit depth => Sys2Proof.Machine.execMemLbStart die unit depth s
  | .pwrgdFall => Sys2Proof.Machine.execPwrgdFall s
  | .railFault rail micros => Sys2Proof.Machine.execRailFault rail micros s
  | .throt asserted => Sys2Proof.Machine.execThrot asserted s
  | .sensorRead sensors => Sys2Proof.Machine.execSensorRead sensors s
  | .throttleRise power => Sys2Proof.Machine.execThrottleRise power s
  | .throttleFall power => Sys2Proof.Machine.execThrottleFall power s
  | .avsPoll avs => Sys2Proof.Machine.execAvsPoll avs s
  | .i3cRead off => Sys2Proof.Machine.execI3cRead off s
  | .ageOut place => Sys2Proof.Machine.execAgeOut place s
  | .dlUp rate width => Sys2Proof.Machine.execDlUp rate width s
  | .configurationRequest fn off write => Sys2Proof.Machine.execConfigurationRequest fn off write s
  | .ideKm request => Sys2Proof.Machine.execIdeKm request s
  | .doeDiscovery request => Sys2Proof.Machine.execDoeDiscovery request s
  | .jtag op => Sys2Proof.Machine.execJtag op s
  | .vectorUnmasked fn vector => Sys2Proof.Machine.execVectorUnmasked fn vector s

end Sys2Proof.Machine
end

