-- ==== Sys2Proof/Machine/Step.lean ====
section
/-! DEFINITION. One step of the block: the command at the front of the queue; when no command waits, the end of the
work that a failing page map ends, the reset that a failing word of the management SRAM brings, or one nanosecond of the
system time counter. -/

namespace Sys2Proof.Machine

/-- The block with no command waiting: the work that a failing page map ends is ended (R24, R365), a failing word of the
management SRAM resets its processor (R497), else the counter advances by one nanosecond, unless it is held still (R417,
R418). -/
def idle (s : State) : State :=
  if s.hw.mapDown then s.endMapFault
  else if s.hw.sramDown then s.endSramFault
  else { s with hw := tick s.hw }

/-- Take the command at the front of the queue and answer its outcome with the queue's rest; idle on an empty
queue. -/
def step (s : State) : Host.Outcome State Fault Refusal :=
  match s.pending with
  | [] => .next (idle s)
  | c :: rest => exec c { s with pending := rest }

/-- The state with the command a word spells at the front of its queue; unchanged where the word spells none. -/
def State.withFetchWord (s : State) (nbits w : Nat) : State :=
  match decodeTableWord nbits w with
  | some c => { s with pending := c :: s.pending }
  | none => s

end Sys2Proof.Machine
end

