-- ==== Sys2Proof/Safety.lean ====
section
/-! DEFINITION. What claims about runs are stated in: the state a command leaves, the conditions under which an
instruction or a descriptor runs, and the invariants of the machine. -/

namespace Sys2Proof.Machine

/-- A timeline as the manual allows it: one that is not IDLE has a period of 1 µs or more that fits its 32-bit field
(R426, R430). -/
def PartTl.legal (t : PartTl) : Prop := t.st ≠ .idle → 1000 ≤ t.period ∧ t.period < 2 ^ 32

/-- Legal timelines: eight partitions, each with a legal timeline, and a fabric period of at least 1 µs that fits its
32-bit field. -/
def Timelines.legal (t : Timelines) : Prop :=
  t.parts.length = 8 ∧ 1000 ≤ t.fabPeriod ∧ t.fabPeriod < 2 ^ 32 ∧ ∀ p ∈ t.parts, p.legal

/-- No partition's timeline is ARMED or RUNNING. -/
def Timelines.allIdle (t : Timelines) : Prop := ∀ p ∈ t.parts, p.st = .idle

/-- The state a command leaves when the hardware becomes `h` and nothing else changes: writes to mirrored regions that
nothing waits for have been sent to the partner (R538). -/
def State.hwTo (s : State) (h : Hw) : State := { s with hw := h.seal }

/-- The state a command leaves when the timelines change too. -/
def State.tlTo (s : State) (t : Timelines) (h : Hw) : State := { s with tl := t, hw := h.seal }

/-- No mirrored write of an earlier command waits to be sent, and no failing page map entry that one met is without its
fatal event; every command leaves the state so. -/
def State.sealed (s : State) : Prop := s.hw.mirq = [] ∧ s.hw.mapFault = none

/-- Nothing that the block stores fails its check, and no clear holds a scratchpad: what an operation meets when it runs
normally (R129, R130, R133, R168, R236, R323, R365, R384). Words with a bit to correct may stand anywhere. -/
def Hw.sound (h : Hw) : Prop := h.badWords = [] ∧ h.badLines = [] ∧ h.badSites = [] ∧ h.clears = []

/-- Core `k` of C-die `d` would issue instruction `i` with operation code `opc` (R116, R119). -/
def State.issues (s : State) (d k opc : Nat) (i : Insn) : Prop := s.hw.insn? s.env d k = some i ∧ i.opc = opc

/-- A word of a scratchpad window can be read: no clear holds its port and it passes its check (R128, R133). -/
def Hw.wordGood (h : Hw) (a : Nat) : Prop := h.clearing a 8 = false ∧ h.badWords.contains a = false

/-- The hardware after a good word of a scratchpad window was read: a corrected word has been counted (R129). -/
def Hw.wordRead (h : Hw) (a : Nat) : Hw := if h.corrWords.contains a then h.countCorrected a else h

/-- The next instruction of a core after it wrote `v` to register `r`; s0 discards writes (R115, R117). -/
def Core.wrote (c : Core) (r : Nat) (v : Word) : Core :=
  { c with regs := if r = 0 then c.regs else SMap.putD 0 c.regs r v, index := c.index + 1 }

/-- Thread `i.t` of the control processor at unit `i.unit` of C-die `i.die` issues the instruction that `i` decodes, of
class `kind`; its turn counted, the hardware is `h` (R406 to R408). -/
def State.cpIssues (s : State) (kind : CpClass) (i : CpIns) (h : Hw) : Prop :=
  s.hw.dieOn s.env i.die = true ∧ 7 ≤ i.unit ∧ i.unit ≤ 10 ∧ s.hw.cpIssuer i.die i.unit = some i.t ∧
    i.pc = s.hw.rf Reg.cpPcPc (rkey i.die i.unit 0) i.t ∧
    (∃ g, s.hw.cpFetch s.env i.die i.unit i.pc = (.ok (i.w, i.len), g) ∧ h = g.cpTurn i.die i.unit i.t) ∧
    i.x = h.thread i.die i.unit i.t ∧ cpClass i.w = kind ∧ i.x.failed = none

/-- The instruction also reads only registers that pass their check (R516). -/
def State.cpRuns (s : State) (kind : CpClass) (i : CpIns) (h : Hw) : Prop :=
  s.cpIssues kind i h ∧ h.badSites.contains (.file i.die i.unit i.t) = false

end Sys2Proof.Machine
end

