-- ==== Sys2Proof/Certificates/Slice0/Obligations.lean ====
section
/-! DEFINITION. The statements for the provers: what the manual's rules say the commands do, stated of `exec` and
`step`, and the invariants every step keeps. -/

open Sys2Proof Sys2Proof.Machine

/-- One step takes the command at the front of the queue and answers what its meaning answers on the queue's rest. -/
def Obligations.StepRunsFrontCommand : Prop :=
  ∀ (c : Instr) (s : State), step { s with pending := c :: s.pending } = exec c s

/-- With no command waiting the block idles: one nanosecond of the system time counter, or one less to hold it still,
or nothing after a trip; where a failing page map entry has raised its fatal event, the work that the event ends is
ended first. R497, R521: else a failing word of the management SRAM resets the management processor and is gone. The
model's choice of what a tick is and of when that work ends: log entries 1, 119 and 135. -/
def Obligations.EmptyQueueIdles : Prop :=
  ∀ s : State, s.pending = [] →
    (s.hw.mapDown = true → step s = .next s.endMapFault ∧ s.endMapFault.pending = [] ∧ s.endMapFault.hw.colls = [] ∧
      s.endMapFault.hw.opens = [] ∧ s.endMapFault.hw.swaps = [] ∧ s.endMapFault.hw.xrets = []) ∧
    (s.hw.mapDown = false → s.hw.sramDown = true → step s = .next s.endSramFault) ∧
    (s.hw.mapDown = false → s.hw.power.stopped = true → step s = .next s) ∧
    (s.hw.mapDown = false → s.hw.sramDown = false → s.hw.power.stopped = false → s.hw.sync.hold = 0 →
      step s = .next { s with hw := { s.hw with now := s.hw.now + 1 } }) ∧
    (∀ n, s.hw.mapDown = false → s.hw.sramDown = false → s.hw.power.stopped = false → s.hw.sync.hold = n + 1 →
      step s = .next { s with hw := { s.hw with sync := { s.hw.sync with hold := n } } })

/-- R116, R119: a core issues the instruction at its index exactly while it is RUNNING on a die that runs, the index
lies in the store of 4,096 instructions, the operation code is one of R117's and the reserved field is zero, and no
word that it reads to issue fails its check; its fields lie where R116 puts them. R117: what the instructions between
registers write, and that they change nothing but the destination register and the core's index. IMM is sign-extended
where it is a number; s0 discards its write (`Core.wrote`). -/
def Obligations.InstructionsReadTheirLayoutAndCompute : Prop :=
  (∀ (s : State) (d k : Nat) (i : Insn),
     let c := s.hw.core d k
     let w := (s.hw.progWord d k c.index).toNat
     s.hw.insn? s.env d k = some i ↔
       (c.st = .running ∧ s.hw.dieOn s.env d = true ∧ k < 4 ∧ c.index < 4096 ∧ s.hw.issueBad d k = false ∧
         (i.opc < 0x0C ∨ i.opc ∈ [0x10, 0x11, 0x12, 0x13, 0x20, 0x21, 0x22, 0x28, 0x29, 0x2A, 0x2B, 0x2C, 0x30]) ∧
         i.opc = w / 2 ^ 56 ∧ i.sd = w / 2 ^ 51 % 32 ∧ i.sa = w / 2 ^ 46 % 32 ∧ i.sb = w / 2 ^ 41 % 32 ∧
         i.unit = w / 2 ^ 36 % 32 ∧ i.res = w / 2 ^ 32 % 16 ∧ i.res = 0 ∧ i.imm = w % 2 ^ 32)) ∧
  (∀ (s : State) (d k : Nat) (i : Insn), s.sealed → s.hw.insn? s.env d k = some i →
     let c := s.hw.core d k
     let imm : Word := (BitVec.ofNat 32 i.imm).signExtend 64
     let wr (v : Word) : Host.Outcome State Fault Refusal := .next { s with hw := s.hw.setCore d k (c.wrote i.sd v) }
     (i.opc = 0x00 → exec (.nop d k) s = .next { s with hw := s.hw.setCore d k { c with index := c.index + 1 } }) ∧
     (i.opc = 0x02 → exec (.ldi d k) s = wr imm) ∧
     (i.opc = 0x03 → exec (.ldih d k) s = wr ((c.s i.sd &&& 0xFFFFFFFF#64) ||| (BitVec.ofNat 64 i.imm <<< 32))) ∧
     (i.opc = 0x04 → exec (.add d k) s = wr (c.s i.sa + c.s i.sb + imm)) ∧
     (i.opc = 0x05 → exec (.sub d k) s = wr (c.s i.sa - c.s i.sb)) ∧
     (i.opc = 0x06 → exec (.and d k) s = wr (c.s i.sa &&& c.s i.sb)) ∧
     (i.opc = 0x07 → exec (.or d k) s = wr (c.s i.sa ||| c.s i.sb)) ∧
     (i.opc = 0x08 → exec (.shl d k) s = wr (c.s i.sa <<< ((c.s i.sb + imm).toNat % 64))) ∧
     (i.opc = 0x09 → exec (.shr d k) s = wr (c.s i.sa >>> ((c.s i.sb + imm).toNat % 64))))

/-- R115: register s0 reads zero and discards writes; another register reads what was written last, and a write leaves
every other register as it was. -/
def Obligations.ScalarRegisterZeroDiscardsWrites : Prop :=
  ∀ (c : Core) (r q : Nat) (v : Word), SMap.wfD 0 c.regs = true →
    (c.wrote 0 v).regs = c.regs ∧ c.s 0 = 0 ∧
    (c.wrote r v).s q = (if q = 0 then 0 else if q = r then v else c.s q) ∧ SMap.wfD 0 (c.wrote r v).regs = true

/-- R117, R119: a branch that is taken continues at this index + IMM, one that is not at the next index; a target
outside the store makes the index one that no longer issues. Nothing but the index changes. -/
def Obligations.BranchesContinueAtTheirTarget : Prop :=
  ∀ (s : State) (d k : Nat) (i : Insn), s.sealed → s.hw.insn? s.env d k = some i →
    let c := s.hw.core d k
    let target : Int := c.index + (BitVec.ofNat 32 i.imm).toInt
    let goes (x : Instr) (taken : Prop) : Prop := ∃ n,
      exec x s = .next { s with hw := s.hw.setCore d k { c with index := n } } ∧
      (¬ taken → n = c.index + 1) ∧
      (taken → 0 ≤ target → target < 4096 → (n : Int) = target) ∧
      (taken → (target < 0 ∨ 4096 ≤ target) → 4096 ≤ n)
    (i.opc = 0x10 → goes (.beq d k) (c.s i.sa = c.s i.sb)) ∧
    (i.opc = 0x11 → goes (.bne d k) (c.s i.sa ≠ c.s i.sb)) ∧
    (i.opc = 0x12 → goes (.bltu d k) ((c.s i.sa).toNat < (c.s i.sb).toNat)) ∧
    (i.opc = 0x13 → goes (.jmp d k) True)

/-- R117, R128, R129: LD of an aligned word within the window writes the 64-bit word, little-endian, to its
destination; memory keeps every byte. R117, R118, R128: ST of an aligned word within the window, and SETF once the
core's queues are empty, write the register's eight bytes, little-endian, at the address they form; every other byte
keeps its value, the word now passes its check, and nothing else changes but reservations of that word and the core's
index. -/
def Obligations.LoadsAndStoresMoveOneWord : Prop :=
  (∀ (s : State) (d k : Nat) (i : Insn), s.sealed → s.issues d k 0x0A i →
     let c := s.hw.core d k
     let a := (c.s i.sa + (BitVec.ofNat 32 i.imm).signExtend 64).toNat
     let g := spWin d + a
     a % 8 = 0 → a + 8 ≤ 0x10000000 → s.hw.wordGood g →
     ∃ v : Word, exec (.ld d k) s = .next { s with hw := (s.hw.wordRead g).setCore d k (c.wrote i.sd v) } ∧
       (∀ j < 8, (v >>> (8 * j)).setWidth 8 = Mem.get s.hw.mem (g + j)) ∧ (s.hw.wordRead g).mem = s.hw.mem) ∧
  (∀ (s : State) (d k : Nat) (i : Insn), s.sealed → Mem.wf s.hw.mem = true → s.hw.insn? s.env d k = some i →
     let c := s.hw.core d k
     let a := (c.s i.sa + (BitVec.ofNat 32 i.imm).signExtend 64).toNat
     let g := spWin d + a
     let stores (x : Instr) : Prop := ∃ m,
       exec x s = .next { s with hw := { s.hw.setCore d k { c with index := c.index + 1 } with
         mem := m
         reservations := s.hw.reservations.filter (fun (r : Nat × Nat) => r.2 ≠ g)
         badWords := s.hw.badWords.filter (fun w => w / 8 * 8 ≠ g)
         badLines := s.hw.badLines.filter (fun w => w / 8 * 8 ≠ g)
         corrWords := s.hw.corrWords.filter (fun w => w ≠ g) } } ∧
       (∀ x, Mem.get m x = if g ≤ x ∧ x < g + 8 then (c.s i.sb >>> (8 * (x - g))).setWidth 8 else Mem.get s.hw.mem x) ∧
       Mem.wf m = true
     a % 8 = 0 → a + 8 ≤ 0x10000000 → s.hw.clearing g 8 = false →
     (i.opc = 0x0B → stores (.st d k)) ∧ (i.opc = 0x2A → c.drained = true → stores (.setf d k)))

/-- R117, R119: LD, ST, SETF and WAITF of a misaligned word or of one that reaches 0x1000_0000, a POST to another unit
than 4, 5 or 6, a GATE or a FENCE with a reserved IMM bit set, and an instruction that cannot issue stop a program
that has not failed yet and has nothing queued: it ends with BAD_DESCRIPTOR, its index reported; memory keeps every
byte. R520: one whose word in the program store, or the register file it reads, fails its check stops its program with
ECC_UNCORRECTED. -/
def Obligations.BadInstructionStopsTheProgram : Prop :=
  ∀ (s : State) (d k : Nat), s.sealed →
    let c := s.hw.core d k
    c.drained = true → c.fail = none → c.st = .running →
    let stops (x : Instr) : Prop :=
      exec x s = .next (s.hwTo ((s.hw.setCore d k { c with
        st := .stopping, fail := some ⟨c.nextIssue, .badDescriptor, c.index, 0⟩ }).endProgram d k
          ⟨.badDescriptor, 0, c.index⟩))
    (∀ i, s.hw.insn? s.env d k = some i →
      let a := (c.s i.sa + (BitVec.ofNat 32 i.imm).signExtend 64).toNat
      (a % 8 ≠ 0 ∨ 0x10000000 < a + 8 →
        (i.opc = 0x0A → stops (.ld d k)) ∧ (i.opc = 0x0B → stops (.st d k)) ∧
        (i.opc = 0x28 → stops (.waitf d k)) ∧ (i.opc = 0x2A → stops (.setf d k))) ∧
      (i.opc = 0x22 → i.unit ≠ 4 → i.unit ≠ 5 → i.unit ≠ 6 → stops (.post d k)) ∧
      (i.opc = 0x29 → i.imm / 2 ^ 24 ≠ 0 → stops (.gate d k)) ∧
      (i.opc = 0x2B → i.imm / 8 ≠ 0 → stops (.fence d k))) ∧
    (s.hw.dieOn s.env d = true → k < 4 → s.hw.insn? s.env d k = none → c.index < 4096 → s.hw.issueBad d k = true →
      exec (.reservedOpc d k) s = .next (s.hwTo (s.hw.issueFail d k))) ∧
    (s.hw.dieOn s.env d = true → k < 4 → s.hw.insn? s.env d k = none → 4096 ≤ c.index ∨ s.hw.issueBad d k = false →
      stops (.reservedOpc d k))

/-- R107: WAITF finds its flag set for the tag and copies COUNT to its destination, when it issues or at a later
recheck; unset, it stalls. R119: a stall past CORE_CTRL.FLAG_TIMEOUT stops a program that has nothing queued with
TIMEOUT. R109: GATE is released when the flag is set for the tag with a COUNT of at least T (0 meaning 512), at once
when F is 0, and otherwise at its deadline or the next boundary of its partition's timeline; it then writes COUNT, or
zero where the flag is not set. Until then it stalls. -/
def Obligations.FlagInstructionsWaitAndCopyCounts : Prop :=
  (∀ (s : State) (d k : Nat), s.sealed → s.hw.dieOn s.env d = true → k < 4 →
     let c := s.hw.core d k
     let i := Insn.of (s.hw.progWord d k c.index)
     let a := (c.s i.sa + (BitVec.ofNat 32 i.imm).signExtend 64).toNat
     let g := spWin d + a
     let v := Mem.num s.hw.mem g 8
     let set := v % 2 ^ 32 = (c.s i.sb).toNat % 2 ^ 32
     let read := s.hw.wordRead g
     let goes (x : Instr) : Prop := exec x s = .next { s with
       hw := read.setCore d k { c.wrote i.sd (BitVec.ofNat 64 (v / 2 ^ 32)) with st := .running } }
     let t := s.hw.rf Reg.coreCtrlFlagTimeout (rkey d k 0)
     a % 8 = 0 → a + 8 ≤ 0x10000000 → s.hw.wordGood g →
     (s.issues d k 0x28 i → set → goes (.waitf d k)) ∧
     (s.issues d k 0x28 i → ¬ set →
       exec (.waitf d k) s = .next { s with hw := read.setCore d k { c with st := .flagWait, since := s.hw.now } }) ∧
     (c.st = .flagWait → set → goes (.flagRecheck (.core d k))) ∧
     (c.st = .flagWait → ¬ set → exec (.flagRecheck (.core d k)) s = .next { s with hw := read.setCore d k c }) ∧
     (c.st = .flagWait → ¬ set → t ≠ 0 → c.drained = true → c.fail = none →
       exec (.coreFlagTimeout d k) s = .next (s.hwTo
         (((s.hw.reach (c.since + 1000 * t)).setCore d k { c with
           st := .stopping, fail := some ⟨c.nextIssue, .timeout, c.index, 0⟩ }).endProgram d k
             ⟨.timeout, 0, c.index⟩)))) ∧
  (∀ (s : State) (d k : Nat), s.sealed →
     let c := s.hw.core d k
     let i := Insn.of (s.hw.progWord d k c.index)
     let a := (c.s i.sa).toNat
     let g := spWin d + a
     let v := Mem.num s.hw.mem g 8
     let tag := (c.s i.sb).toNat % 2 ^ 32
     let count := v / 2 ^ 32
     let value : Word := BitVec.ofNat 64 (if v % 2 ^ 32 = tag then count else 0)
     let T := if i.imm % 2 ^ 16 = 0 then 512 else i.imm % 2 ^ 16
     let F := i.imm / 2 ^ 16 % 256
     let read := s.hw.wordRead g
     let p := (read.partOf d).getD 0
     let goes (x : Instr) (h : Hw) : Prop := exec x s = .next { s with
       hw := h.setCore d k { c.wrote i.sd value with st := .running } }
     a % 8 = 0 → a + 8 ≤ 0x10000000 → s.hw.wordGood g →
     (s.issues d k 0x29 i → i.imm < 2 ^ 24 → (v % 2 ^ 32 = tag ∧ T ≤ count) ∨ F = 0 → goes (.gate d k) read) ∧
     (s.issues d k 0x29 i → i.imm < 2 ^ 24 → ¬ (v % 2 ^ 32 = tag ∧ T ≤ count) → F ≠ 0 →
       exec (.gate d k) s = .next { s with hw := read.setCore d k { c with
         st := .gateWait
         since := s.hw.now
         deadline := min (s.hw.now + (s.env.periodOf p * F + 255) / 256) (s.env.boundaryOf p (s.hw.beatOf s.env p + 1)) } }) ∧
     (c.st = .gateWait → goes (.gateDeadline d k) ((s.hw.reach c.deadline).wordRead g)))

/-- R117, R118: FENCE goes on once the queues that IMM names are empty, and waits until then. R436: BEAT waits for
boundary B + 1 of the core's beat in hand where it has not fallen; where it has, the core goes on at once, its beat in
hand B + 1, and the late time is noted. -/
def Obligations.FenceAndBeatWaitForTheirEvent : Prop :=
  (∀ (s : State) (d k : Nat) (i : Insn), s.sealed → s.issues d k 0x2B i → i.imm < 8 →
     let c := s.hw.core d k
     let busy := (i.imm % 2 = 1 ∧ c.arrayQ ≠ []) ∨ (i.imm / 2 % 2 = 1 ∧ c.vectorQ ≠ []) ∨ (i.imm / 4 = 1 ∧ c.posts ≠ [])
     (¬ busy → exec (.fence d k) s = .next { s with hw := s.hw.setCore d k { c with index := c.index + 1 } }) ∧
     (busy → exec (.fence d k) s = .next s)) ∧
  (∀ (s : State) (d k : Nat) (i : Insn), s.sealed → s.issues d k 0x2C i →
     let c := s.hw.core d k
     let p := (s.hw.partOf d).getD 0
     let late := s.hw.now - s.env.boundaryOf p (c.beat + 1)
     let acct := SMap.get s.hw.acct {} p
     (c.beat < s.hw.beatOf s.env p →
       exec (.beat d k) s = .next { s with hw := { s.hw.setCore d k { c with index := c.index + 1, beat := c.beat + 1 } with
         acct := SMap.put s.hw.acct p { acct with lateNs := max acct.lateNs late } } }) ∧
     (s.hw.beatOf s.env p ≤ c.beat →
       exec (.beat d k) s = .next { s with hw := s.hw.setCore d k { c with st := .beatWait, since := s.hw.now } }))

/-- R119, R437: HALT with every queue empty ends the program with IMM as exit code and its own index; the status is
OK_LATE after boundary B + 1 or a late operation, else OK_REPLAYED after a replay, else OK. It waits while a queue
holds anything. R119: CORE_CTRL.ABORT stops the running program: what waits in its queues and has not started is
discarded, a product that has started and descriptors already handed on stay, and once none of those is left the
program completes with ABORTED. R119, R167, R478: when a program ends, with any status, the skiver's counts of its
last attempt are added to its registers and its core is IDLE without a launch in hand or a failure, its queues and
registers as they were; its launch completes with what the program ended with. -/
def Obligations.ProgramsEndWithTheirStatus : Prop :=
  (∀ (s : State) (d k : Nat) (i : Insn), s.sealed → s.issues d k 0x01 i →
     let c := s.hw.core d k
     let late := c.late = true ∨ (∃ p, s.hw.partOf d = some p ∧ c.beat + 1 ≤ s.hw.beatOf s.env p)
     let ends (st : Status) : Prop :=
       exec (.halt d k) s = .next (s.hwTo (s.hw.endProgram d k ⟨st, i.imm, c.index⟩))
     (c.drained = true → late → ends .okLate) ∧
     (c.drained = true → ¬ late → c.replayed = true → ends .okReplayed) ∧
     (c.drained = true → ¬ late → c.replayed = false → ends .ok) ∧
     (c.drained = false → exec (.halt d k) s = .next s)) ∧
  (∀ (s : State) (d k : Nat), s.sealed → s.hw.dieOn s.env d = true → k < 4 →
     let c := s.hw.core d k
     let begun := c.arrayQ.filter (fun o => o.handed.isSome || o.run.isSome)
     let c' := { c with
       st := .stopping, arrayQ := begun, vectorQ := [], posts := c.posts.filter (fun p => p.handed)
       shadow := c.shadow.filter (fun t => begun.any (fun o => o.issue = t.issue))
       fail := some ⟨0, .aborted, c.index, 0⟩ }
     (c.st = .idle → exec (.coreCtrlAbort d k) s = .next s) ∧
     (c.st ≠ .idle → c'.drained = false → exec (.coreCtrlAbort d k) s = .next { s with hw := s.hw.setCore d k c' }) ∧
     (c.st ≠ .idle → c'.drained = true → exec (.coreCtrlAbort d k) s =
       .next (s.hwTo ((s.hw.setCore d k c').endProgram d k ⟨.aborted, 0, c.index⟩)))) ∧
  (∀ (h : Hw) (d k : Nat) (r : Done),
     let g := h.flushSkiver d k
     let c := h.core d k
     let h' := Hw.setCore { g with watch := addWatch g.watch c.watch } d k { g.core d k with
       st := .idle, cur := none, fail := none, watch := [], satEv := false, nonfinEv := false, accEv := false
       replayed := false, late := false, exitCode := 0 }
     (∀ l, c.cur = some l → h.endProgram d k r = h'.completeBase l.origin r) ∧
     (c.cur = none → h.endProgram d k r = h') ∧
     (h'.core d k).st = .idle ∧ (h'.core d k).regs = c.regs ∧ (h'.core d k).arrayQ = c.arrayQ ∧
     (h'.core d k).skvTiles = 0 ∧ h'.mem = h.mem ∧
     g.rf Reg.skvTilesTiles (rkey d k 0) = (h.rf Reg.skvTilesTiles (rkey d k 0) + c.skvTiles) % 2 ^ 32)

/-- R120, R72: REPLAY waits for the core's queues and then at the partition's replay point; once every running program
of the partition waits there, each takes the decision: the maximum of their flags where the job has no member on
another node, else that of the job, which a reduction over the job takes. A core that waits there looks at the point
again. R120: at the replay point every waiting program takes the decision. To continue sets REPLAY_STEP to 0 and
records the next instruction as the unit's start; to replay adds 1 to REPLAY_STEP, restores s1 to s31 to the unit's
start and goes on there. -/
def Obligations.ReplayWaitsAndDecides : Prop :=
  (∀ (s : State) (d k p : Nat), s.sealed → s.hw.partOf d = some p →
     let c := s.hw.core d k
     let judged (h : Hw) : Prop :=
       (h.allAtReplay p = false → exec (.replay d k) s = .next { s with hw := h }) ∧
       (h.allAtReplay p = true → h.jobIsLocal p = true →
         exec (.replay d k) s = .next (s.hwTo (h.replayDecision s.env p (h.partCause p ≠ 0)))) ∧
       (h.allAtReplay p = true → h.jobIsLocal p = false →
         exec (.replay d k) s = .next (s.hwTo (h.replayReduce s.env p)))
     (∀ i, s.issues d k 0x30 i → c.drained = false → exec (.replay d k) s = .next s) ∧
     (∀ i, s.issues d k 0x30 i → c.drained = true →
       judged (s.hw.setCore d k { c with st := .replayWait, since := s.hw.now })) ∧
     (c.st = .replayWait → s.hw.dieOn s.env d = true → k < 4 → judged s.hw)) ∧
  (∀ (h : Hw) (d k : Nat),
     let c := h.core d k
     let yes := (h.decideCore true d k).core d k
     let no := (h.decideCore false d k).core d k
     (yes.st = .running ∧ yes.replayStep = c.replayStep + 1 ∧ yes.regs = c.unitRegs ∧ yes.index = c.unitStart ∧
       yes.unitStart = c.unitStart ∧ yes.unitRegs = c.unitRegs ∧ yes.replayed = true) ∧
     (no.st = .running ∧ no.replayStep = 0 ∧ no.regs = c.regs ∧ no.index = c.index + 1 ∧
       no.unitStart = c.index + 1 ∧ no.unitRegs = c.regs ∧ no.replayed = c.replayed) ∧
     (h.decideCore true d k).mem = h.mem ∧ (h.decideCore false d k).mem = h.mem)

/-- R95, R96, R108, R112, R114, R117, R118: MMA and VOP queue the operation whose descriptor lies at sa + IMM, M or
ROWS taken from sb where SB is not 0, once it passes its checks; one of zero length completes at once, and a full
queue stalls the instruction. An MMA keeps the flag list it checked. With every word sound the instruction completes
so. -/
def Obligations.OperationsQueueInOrder : Prop :=
  ∀ (s : State) (d k : Nat) (i : Insn), s.sealed → s.hw.insn? s.env d k = some i →
    let c := s.hw.core d k
    let w := spWin d
    let a := (c.s i.sa + (BitVec.ofNat 32 i.imm).signExtend 64).toNat
    let rows (desc : Desc) := if i.sb = 0 then desc.fld 4 31 0 else (c.s i.sb).toNat % 2 ^ 32
    let op (desc : Desc) (flags : List (Nat × Nat × Nat × Nat)) : CoreOp := { issue := c.nextIssue, index := c.index
                                                                              desc := desc, rows := rows desc
                                                                              step := c.replayStep, beat := c.beat
                                                                              flags := flags }
    let c' := { c with index := c.index + 1, nextIssue := c.nextIssue + 1 }
    let mma (desc : Desc) (flags : List (Nat × Nat × Nat × Nat)) (h : Hw) : Prop :=
      let m := MmaD.of desc (rows desc)
      exec (.mma d k) s = .next (s.hwTo (h.setCore d k (if m.empty = true ∧ m.handsOver = false then c'
        else { c' with arrayQ := c.arrayQ ++ [op desc flags] })))
    let vop (desc : Desc) (h : Hw) : Prop :=
      let v := VopD.of desc (rows desc)
      exec (.vop d k) s = .next (s.hwTo (h.setCore d k (if rows desc = 0 ∨ v.n = 0 then c'
        else { c' with vectorQ := c.vectorQ ++ [op desc []] })))
    (i.opc = 0x20 → 2 ≤ c.arrayQ.length → exec (.mma d k) s = .next s) ∧
    (i.opc = 0x21 → 4 ≤ c.vectorQ.length → exec (.vop d k) s = .next s) ∧
    (∀ desc h, runOp (readDesc d c i 64) s.hw = (.ok desc, h) → i.opc = 0x21 → c.vectorQ.length < 4 →
      (VopD.of desc (rows desc)).ok c.replayStep = true → vop desc h) ∧
    (∀ desc h flags g, runOp (readDesc d c i 64) s.hw = (.ok desc, h) →
      runOp ((MmaD.of desc (rows desc)).flagsRead w c.replayStep) h = (.ok flags, g) → i.opc = 0x20 → c.arrayQ.length < 2 →
      mma desc flags g) ∧
    (s.hw.sound → a + 64 ≤ 0x10000000 →
      let desc : Desc := BitVec.ofNat 1024 (Mem.num s.hw.mem (w + a) 64)
      let m := MmaD.of desc (rows desc)
      let v := Mem.num s.hw.mem (w + m.flagList) 8
      let list := flagEntries (Mem.read s.hw.mem (w + m.flagList + 8) (16 * v))
      let es := if m.stream then list else []
      let size := if m.sparse then Mem.num s.hw.mem (w + m.bAddr + 12) 4 else 0
      let accepted : Prop := m.ok c.replayStep = true ∧
        (m.empty = true → m.m ≠ 0 → m.n ≠ 0 → m.handsOver = true → m.extentsOk c.replayStep 0 0 = true) ∧
        (m.empty = false → m.extentsOk c.replayStep size es.length = true ∧
          (m.stream = true → 1 ≤ v ∧ v ≤ 64 ∧ m.flagList + 8 + 16 * v ≤ 0x10000000 ∧ m.entriesOk list = true) ∧
          (m.sparse = true → m.bAddr + 16 ≤ 0x10000000))
      (i.opc = 0x20 → c.arrayQ.length < 2 → accepted →
        ∃ h, h.mem = s.hw.mem ∧ h.cores = s.hw.cores ∧ mma desc (if m.empty then [] else es) h) ∧
      (i.opc = 0x21 → c.vectorQ.length < 4 → (VopD.of desc (rows desc)).ok c.replayStep = true →
        ∃ h, h.mem = s.hw.mem ∧ h.cores = s.hw.cores ∧ vop desc h))

/-- R115, R476: a launch of an idle core begins at its start index with its arguments in s1 to s8, s9 to s31 zero,
REPLAY_STEP 0 and the partition's beat in hand; it leaves the core's queue of launches. R118: POST puts its descriptor
at the end of the post queue and hands it on where its target has room; a full queue of eight stalls it. R71: a
COMBINE with a stepped output notes its format at the core. -/
def Obligations.LaunchesStartAndPostsHandOn : Prop :=
  (∀ (s : State) (d k : Nat) (l : LaunchRec) (ls : List LaunchRec), s.sealed →
     s.hw.dieOn s.env d = true → k < 4 → s.hw.launchHeld s.env d = false →
     (s.hw.core d k).st = .idle → (s.hw.core d k).launches = l :: ls → l.args.length = 8 →
     ∃ c : Core, exec (.launch d k) s = .next { s with hw := s.hw.setCore d k c } ∧
       c.st = .running ∧ c.index = l.start ∧ c.replayStep = 0 ∧ c.cur = some l ∧ c.launches = ls ∧
       c.unitStart = l.start ∧ c.unitRegs = c.regs ∧ c.beat = s.hw.beatOf s.env ((s.hw.partOf d).getD 0) ∧
       (∀ r, c.s r = if 1 ≤ r ∧ r ≤ 8 then l.args.getD (r - 1) 0 else 0)) ∧
  (∀ (s : State) (d k : Nat) (i : Insn), s.sealed → s.issues d k 0x22 i →
     let c := s.hw.core d k
     let a := (c.s i.sa + (BitVec.ofNat 32 i.imm).signExtend 64).toNat
     let posts (desc : Desc) (h : Hw) : Prop :=
       let post : PostRec := { issue := c.nextIssue, index := c.index, unit := i.unit, desc := desc, beat := c.beat }
       let c' := if i.unit = 4 ∧ desc.fld 0 7 0 = 2 ∧ desc.fld 0 26 26 = 1
         then c.noteStep (stepped true c.replayStep (desc.fld 0 19 16)) else c
       exec (.post d k) s = .next (s.hwTo ((h.setCore d k { c' with
         index := c.index + 1, nextIssue := c.nextIssue + 1, posts := c.posts ++ [post] }).handAll d))
     4 ≤ i.unit → i.unit ≤ 6 →
     (8 ≤ c.posts.length → exec (.post d k) s = .next s) ∧
     (∀ desc h, c.posts.length < 8 → runOp (readDesc d c i 128) s.hw = (.ok desc, h) → posts desc h) ∧
     (c.posts.length < 8 → s.hw.sound → a + 128 ≤ 0x10000000 → ∃ h, h.mem = s.hw.mem ∧ h.cores = s.hw.cores ∧
       posts (BitVec.ofNat 1024 (Mem.num s.hw.mem (spWin d + a) 128)) h))

/-- R45: a NaN of any payload and sign is read as NaN, and every conversion to a floating-point format whose result
reads as NaN writes that format's canonical NaN, sign bit clear. -/
def Obligations.NansAreReadAndWrittenCanonically : Prop :=
  (∀ (f : Fmt) (v : Nat), f ∈ [Fmt.fp64, Fmt.fp32, Fmt.bf16, Fmt.e5m2] →
    v / 2 ^ f.enc.man % 2 ^ f.enc.ex = 2 ^ f.enc.ex - 1 → v % 2 ^ f.enc.man ≠ 0 → decodeFloat f v = .nan) ∧
  (∀ v : Nat, v % 128 = 127 → decodeFloat .e4m3 v = .nan) ∧
  (∀ (f : Fmt) (rn : Rnd) (v : FVal), f ∈ [Fmt.fp64, Fmt.fp32, Fmt.bf16, Fmt.e4m3, Fmt.e5m2] →
    (decodeFloat f (convFloat f rn v).1 = .nan ↔ v = .nan) ∧
    (v = .nan → (convFloat f rn v).1 = (match f with
      | .fp64 => 0x7FF8000000000000 | .fp32 => 0x7FC00000 | .bf16 => 0x7FC0 | .e4m3 => 0x7F | _ => 0x7E)))

/-- R61: the maximum and the minimum of two values are exact: a NaN if either is, else one of the two that no other
exceeds, +0 before −0 for the maximum and −0 for the minimum; finite values are ordered as the numbers they stand for;
the index of a row's maximum is the lowest of those of its greatest value. -/
def Obligations.MaximaAndMinimaAreExact : Prop :=
  (∀ a b : FVal,
    (fmax a b = .nan ↔ a = .nan ∨ b = .nan) ∧ (fmin a b = .nan ↔ a = .nan ∨ b = .nan) ∧
    (a ≠ .nan → b ≠ .nan →
      (fmax a b = a ∨ fmax a b = b) ∧ (fmax a b).lt a = false ∧ (fmax a b).lt b = false ∧
      (fmin a b = a ∨ fmin a b = b) ∧ a.lt (fmin a b) = false ∧ b.lt (fmin a b) = false)) ∧
  (∀ e g : Int, fmax (.fin false 0 e) (.fin true 0 g) = .fin false 0 e ∧ fmax (.fin true 0 g) (.fin false 0 e) = .fin false 0 e ∧
    fmin (.fin false 0 e) (.fin true 0 g) = .fin true 0 g ∧ fmin (.fin true 0 g) (.fin false 0 e) = .fin true 0 g) ∧
  (∀ (a b : Bool) (m k : Nat) (e g : Int),
    let num (neg : Bool) (m : Nat) (x : Int) : Int := (if neg then -1 else 1) * (m : Int) * 2 ^ (x - min e g).toNat
    FVal.lt (.fin a m e) (.fin b k g) = true ↔ num a m e < num b k g) ∧
  (∀ (x : FVal) (xs : List FVal) (eps : FVal), (∀ y ∈ x :: xs, y ≠ .nan) →
    ∃ i, vopRow 0x1B (x :: xs) [] [] [] eps = [.ofInt (i : Nat)] ∧ i < (x :: xs).length ∧
      ∀ j < (x :: xs).length,
        (((x :: xs).getD i .nan).lt ((x :: xs).getD j .nan) = false) ∧
        (j < i → ((x :: xs).getD j .nan).lt ((x :: xs).getD i .nan) = true))

/-- R113, R114: each vector operation runs when it is the one at the head of the core's vector queue: its rows are
computed and written, it leaves the queue with its counts, and the vector unit was busy for its cycles; one that meets
a failing word leaves with its status and the counts of the rows it wrote. With every word sound it runs to its end.
R113: what the rows of a vector operation become, element by element or row by row, in the arithmetic of R50 to R70.
R71, R79, R118: an operation that leaves the vector queue with success leaves the others in order and the core's
registers and index alone; a saturation, a non-finite conversion or a non-finite accumulator marks the core for
replay. -/
def Obligations.VectorOperationsRunByTheTable : Prop :=
  (∀ (s : State) (d k : Nat) (o : CoreOp) (rest : List CoreOp) (xf yf zf : Fmt), s.sealed →
     (s.hw.core d k).vectorQ = o :: rest → s.hw.dieOn s.env d = true →
     let v := VopD.of o.desc o.rows
     let w := spWin d
     let mask := if v.mask then bitsOf (Mem.read s.hw.mem (w + v.aux) (ceilDiv v.rows 8)) v.rows else []
     let cycles := v.cycles (s.hw.cycleExact s.env d k) (liveRows v.rows mask).length
     stepped v.xStep o.step v.xF = some xf → stepped v.yStep o.step v.yF = some yf →
     stepped v.oStep o.step v.oF = some zf →
     let each (h : Hw) : Prop :=
       let runs (x : Instr) : Prop := exec x s = .next (s.hwTo h)
       (v.op = 0x10 → runs (.vopAdd d k)) ∧ (v.op = 0x11 → runs (.vopSub d k)) ∧ (v.op = 0x12 → runs (.vopMul d k)) ∧
       (v.op = 0x13 → runs (.vopMax d k)) ∧ (v.op = 0x14 → runs (.vopMin d k)) ∧ (v.op = 0x15 → runs (.scale d k)) ∧
       (v.op = 0x16 → runs (.convert d k)) ∧ (v.op = 0x18 → runs (.rowsum d k)) ∧ (v.op = 0x19 → runs (.rowmax d k)) ∧
       (v.op = 0x1A → runs (.rowmin d k)) ∧ (v.op = 0x1B → runs (.argmax d k)) ∧ (v.op = 0x20 → runs (.exp2 d k)) ∧
       (v.op = 0x21 → runs (.log2 d k)) ∧ (v.op = 0x22 → runs (.recip d k)) ∧ (v.op = 0x23 → runs (.rsqrt d k)) ∧
       (v.op = 0x24 → runs (.tanh d k)) ∧ (v.op = 0x28 → runs (.softmax d k)) ∧ (v.op = 0x29 → runs (.sigmoid d k)) ∧
       (v.op = 0x2A → runs (.rmsnorm d k)) ∧ (v.op = 0x2B → runs (.layernorm d k)) ∧ (v.op = 0x2C → runs (.xent d k)) ∧
       (v.op = 0x30 → runs (.fadd64 d k)) ∧ (v.op = 0x31 → runs (.rowsum64 d k))
     (∀ st h, runOp (v.run w xf yf zf) s.hw = (.ok (st, none), h) → each (h.popVector s.env d k o st none cycles)) ∧
     (∀ st f h, runOp (v.run w xf yf zf) s.hw = (.ok (st, some f), h) →
       each ((h.coreFail d k f).2.popVector s.env d k o st (some (h.coreFail d k f).1) 0)) ∧
     (s.hw.sound → ∃ st h, runOp (v.run w xf yf zf) s.hw = (.ok (st, none), h) ∧
       each (h.popVector s.env d k o st none cycles))) ∧
  (∀ (xs ys gs bs : List FVal) (eps : FVal),
     let row (c : Nat) := vopRow c xs ys gs bs eps
     row 0x10 = List.zipWith add32 xs ys ∧ row 0x11 = List.zipWith sub32 xs ys ∧ row 0x12 = List.zipWith mul32 xs ys ∧
     row 0x13 = List.zipWith fmax xs ys ∧ row 0x14 = List.zipWith fmin xs ys ∧
     row 0x15 = List.zipWith add32 (List.zipWith mul32 xs gs) bs ∧ row 0x16 = xs ∧
     row 0x18 = [vecSum add32 xs] ∧ row 0x19 = [rowMax xs] ∧ row 0x1A = [xs.foldl fmin (.inf false)] ∧
     row 0x20 = xs.map exp2f ∧ row 0x21 = xs.map log2f ∧ row 0x22 = xs.map recip32 ∧ row 0x23 = xs.map rsqrt32 ∧
     row 0x24 = xs.map tanhf ∧ row 0x28 = softmaxRow xs ∧ row 0x29 = xs.map sigmoidf ∧ row 0x2A = rmsRow xs gs eps ∧
     row 0x2B = layerRow xs gs bs eps ∧ row 0x30 = List.zipWith add64 xs ys ∧ row 0x31 = [vecSum add64 xs]) ∧
  (∀ (h : Hw) (e : Env) (d k : Nat) (o : CoreOp) (st : OutStat) (cycles : Nat), (h.core d k).st = .running →
     let c := h.core d k
     let c' := (h.popVector e d k o st none cycles).core d k
     c'.vectorQ = c.vectorQ.filter (fun q => q.issue ≠ o.issue) ∧ c'.regs = c.regs ∧ c'.index = c.index ∧
     c'.arrayQ = c.arrayQ ∧ c'.posts = c.posts ∧ c'.st = .running ∧
     (c'.satEv = true ↔ c.satEv = true ∨ st.counts.saturations ≠ 0) ∧
     (c'.nonfinEv = true ↔ c.nonfinEv = true ∨ st.counts.nonfinite ≠ 0) ∧
     (c'.accEv = true ↔ c.accEv = true ∨ st.acc = true) ∧
     (h.popVector e d k o st none cycles).mem = h.mem)

/-- R97 to R99, R105, R108, R172: the product at the head of the array queue: a TO_DISPATCH one waits until a ROUTE
takes its rows; one whose scan failed completes with what the scan found; any other runs its passes, from where it
stands, and leaves the queue when they are done, is parked when it waits for a flag, or completes with what it failed
by. With every word sound a dense product runs to its end. R105, R159: the scan of the first SPARSE product not
scanned yet judges its image; with every word sound it finds the image good or SPARSE_FORMAT, and keeps what it found
with the product. R93, R108: the swap before a pass of the product at the head of the array queue. With every word
sound and the flag of the pass set, the pass's whole tile becomes active, loaded ahead or now, and the loader begins
the tile of the pass after it; with the flag unset the product waits. -/
def Obligations.ProductsScanSwapAndRun : Prop :=
  (∀ (s : State) (d k : Nat) (o : CoreOp) (rest : List CoreOp), s.sealed → (s.hw.core d k).arrayQ = o :: rest →
     s.hw.dieOn s.env d = true →
     let c := s.hw.core d k
     let m := MmaD.of o.desc o.rows
     let w := spWin d
     let exact := s.hw.cycleExact s.env d k
     let after (h : Hw) : Prop := exec (.mmaProduct d k) s = .next (s.hwTo h)
     (m.toDispatch = true → o.handed = none → s.hw.feedRoute d k = none → after (s.hw.setCore d k (c.waitHead s.hw.now))) ∧
     (∀ x, m.toDispatch = false → m.sparse = true → m.empty = false → o.scanned = true → o.scanFault = some x →
       after ((s.hw.setCore d k { c with shadow := none }).failArray s.env d k o {} (faultFail x))) ∧
     (∀ (r : MmaRun) (p : Prod) (left : Nat) (f : Feed) (how : RunEnd) (h : Hw),
       m.toDispatch = false ∨ o.handed.isSome = true → m.m ≠ 0 → s.hw.scanGate s.env d k o = none → o.run = some r →
       (o.handed = none ∨ ∃ x, SMap.find? s.hw.fed d = some x ∧ x.core = k ∧ x.ended = false) → o.prod d exact r = some p →
       runOp (p.run (p.out o.handed) (s.hw.tileBehind d k) (p.passes.drop r.passes) (c.feed r)) s.hw = (.ok (left, f, how), h) →
       (how = .waits → after (h.parkProduct d k o r (p.passes.length - left) f)) ∧
       (how = .finished → after ((h.setCore d k ((h.core d k).setFeed f)).popArray s.env d k o f.st none
         (m.feed p.aF p.bF exact p.live))) ∧
       (∀ x, how = .failed x → after ((h.setCore d k ((h.core d k).setFeed f)).failArray s.env d k o f.st x))) ∧
     (∀ (aF bF cF : Fmt), s.hw.sound → m.toDispatch = false → o.handed = none → o.run = none → m.empty = false →
       m.sparse = false → m.stream = false → (∀ t, c.shadow = some t → t.fault = none) →
       stepped m.aStep o.step m.aF = some aF → Fmt.ofCode m.bF = some bF → stepped m.cStep o.step m.cF = some cF →
       ∃ (r : MmaRun) (f : Feed) (g h : Hw), runOp (mmaPrepare m w) s.hw = (.ok r, g) ∧
         let o' := { o with run := some r }
         let p : Prod := ⟨m, aF, bF, cF, w, o.issue, exact, o.flags, r.mask, r.bias⟩
         let g' := g.setCore d k (c.putOp o')
         runOp (p.run (p.out none) (g'.tileBehind d k) p.passes (c.feed r)) g' = (.ok (0, f, .finished), h) ∧
         after ((h.setCore d k ((h.core d k).setFeed f)).popArray s.env d k o' f.st none (m.feed aF bF exact p.live)))) ∧
  (∀ (s : State) (d k : Nat) (o : CoreOp) (bF : Fmt), s.sealed → s.hw.dieOn s.env d = true →
     (s.hw.core d k).arrayQ.find? (fun q => (MmaD.of q.desc q.rows).sparse && !q.scanned) = some o →
     let m := MmaD.of o.desc o.rows
     let w := spWin d
     let scan : Op Unit := if m.empty then pure () else scanReads m bF w
     let found (h : Hw) (fault : Option (Status × Nat)) : Prop := exec (.sparseScan d k) s =
       .next (s.hwTo (h.setCore d k ((h.core d k).putOp { o with scanned := true, scanFault := fault })))
     Fmt.ofCode m.bF = some bF → o.scanFault = none →
     (∀ h, runOp scan s.hw = (.ok (), h) → found h none) ∧
     (∀ f h, f ≠ .held → runOp scan s.hw = (.error f, h) → found h (some f.fault)) ∧
     (s.hw.sound → ∃ fault h, (fault = none ∨ fault = some (.sparseFormat, 0)) ∧ h.mem = s.hw.mem ∧ h.cores = s.hw.cores ∧
       (fault = none → m.empty = true ∨ (readImage bF m.n m.k (Mem.read s.hw.mem (w + m.bAddr)
         (Mem.num s.hw.mem (w + m.bAddr + 12) 4))).isSome = true) ∧ found h fault)) ∧
  (∀ (s : State) (d k : Nat) (o : CoreOp) (rest : List CoreOp) (r : MmaRun) (p : Prod) (x : Pass) (l : List Pass),
     s.sealed → s.hw.sound → (s.hw.core d k).arrayQ = o :: rest → s.hw.dieOn s.env d = true →
     let c := s.hw.core d k
     let m := MmaD.of o.desc o.rows
     let set (q : Nat × Nat × Nat × Nat) : Prop := (s.hw.flagAt (spWin d + q.1) q.2.1).isSome = true
     m.empty = false → m.toDispatch = false ∨ o.handed.isSome = true → s.hw.scanGate s.env d k o = none →
     o.run = some r → r.swapped = false → o.prod d (s.hw.cycleExact s.env d k) r = some p → p.passes.drop r.passes = x :: l →
     (∀ q, p.streams x = true → o.flags.find? (fun y => y.2.2.1 ≤ x.k0 && x.k0 < y.2.2.1 + y.2.2.2) = some q → ¬ set q →
       ∃ h : Hw, h.mem = s.hw.mem ∧ h.cores = s.hw.cores ∧
         exec (.arraySwap d k) s = .next (s.hwTo (h.parkProduct d k o r r.passes (c.feed r)))) ∧
     ((p.streams x = true → ∀ q ∈ o.flags, set q) → (∀ t, c.shadow = some t → t.fault = none) →
       (m.sparse = false ∨ ∃ t, c.shadow = some t ∧ t.issue = o.issue ∧ t.tile = x.i) →
       ∃ (t : Tile) (f : Feed) (h : Hw), f.active = some t ∧ t.issue = o.issue ∧ t.tile = x.i ∧ t.fault = none ∧
         (∀ y l', l = y :: l' → p.streams y = false → ∃ u, f.shadow = some u ∧ u.issue = o.issue ∧ u.tile = y.i) ∧
         exec (.arraySwap d k) s = .next (s.hwTo (h.setCore d k ((c.setFeed f).putOp
           { o with run := some { r with swapped := true }, since := 0 })))))

/-- R136 to R149, R391: a copy engine runs the descriptor at the head of its queue when the command names its
operation. Its requests answered, a run that succeeds writes the arrival flag, if it has one, and then completes. A
descriptor that passes its checks, with all it names on this package, every word sound and no mirrored region, runs to
its end and completes so. R141: a write of 1 to CE_CTRL.ABORT takes every descriptor off the engine's queue, oldest
first, and completes each with ABORTED, its VALUE the COUNT its flag would have carried (R485). -/
def Obligations.CopyEnginesCompleteOrAbort : Prop :=
  (∀ (s : State) (d u : Nat) (j : Job) (rest : List Job), s.sealed →
     s.hw.dieOn s.env d = true → (u = 5 ∨ u = 6) → s.hw.queue d u = j :: rest → j.result = none →
     let c := CopyD.of j.body
     let run := runOp (copyRun s.env d u j) { s.hw with moved := 0 }
     let each (j' : Job) (h : Hw) : Prop :=
       let ends (x : Instr) : Prop := exec x s = .next (s.hwTo (h.finishJob d u j'
         ⟨h.unitStatus s.env d j.part j.beat ((j'.result.map (fun r => r.1)).getD .ok), (j'.result.map (fun r => r.2)).getD 0, 0⟩))
       (c.op = 1 → ends (.copy d u)) ∧ (c.op = 2 → ends (.transpose d u)) ∧ (c.op = 3 → ends (.permute d u)) ∧
       (c.op = 4 → ends (.gather d u)) ∧ (c.op = 5 → ends (.scatterStore d u)) ∧ (c.op = 6 → ends (.scatterAdd d u))
     let spent (j' : Job) (h : Hw) : Hw :=
       let g := (h.chargeMem j.part).putJob d u j'
       { g with reqs := g.reqs.filter (fun r => r.owner ≠ Owner.job d u j.tag) }
     (∀ st n h, run = (.ok (st, n), h) → h.mirq = [] → st.good = true → h.answered (.job d u j.tag) = true →
       firstFail (h.reqsOf (.job d u j.tag)) = none →
       let j' := { j with started := true, result := some (st, n) }
       let flag := copyFlag s.env d u (h.chargeMem j.part) j'
       (flag = none → each j' (spent j' h)) ∧
       (∀ off tag count, flag = some (.here off, tag, count) → h.clearing off 8 = false →
         each j' ((spent j' h).flag off tag count))) ∧
     (∀ p, runOp (c.decode s.env) s.hw = (.ok (some p), s.hw) → s.hw.sound → s.hw.mirrors = [] →
       s.hw.reqsOf (.job d u j.tag) = [] →
       (∃ x, p.s = .here x) → (∃ x, p.d = .here x) → (∃ x, p.i = .here x) →
       ∃ n h, run = (.ok (.ok, n), h) ∧
         let j' := { j with started := true, result := some (.ok, n) }
         (c.flag = false → each j' (spent j' h)) ∧
         (∀ off, c.flag = true → s.hw.flagPlace s.env c.flagAddr = .ok (.here off) → each j' ((spent j' h).flag off c.tag n)))) ∧
  (∀ (s : State) (d u : Nat) (j : Job), s.sealed → s.hw.dieOn s.env d = true → (u = 5 ∨ u = 6) →
     (s.hw.queue d u = [] → exec (.ceCtrlAbort d u) s = .next s) ∧
     (s.hw.queue d u = [j] →
       exec (.ceCtrlAbort d u) s = .next (s.hwTo (Hw.finishJob
         { s.hw with reqs := s.hw.reqs.filter (fun r => r.owner ≠ Owner.job d u j.tag) } d u j
         ⟨.aborted, ((copyFlag s.env d u s.hw j).map (fun f => f.2.2)).getD 0, 0⟩))))

/-- R133, R515: a clear that ends leaves every byte of the die's scratchpad zero and every other byte as it was,
releases the port, and, where it belongs to a wake, counts the die as awake; here no write waits that the clear held.
-/
def Obligations.ClearEndsWithAZeroScratchpad : Prop :=
  ∀ (s : State) (d : Nat), s.sealed → Mem.wf s.hw.mem = true → d < 24 → SMap.find? s.hw.clears d = some .wake →
    s.hw.heldPokes = [] → s.hw.defer = [] →
    ∃ t, exec (.clearEnd d) s = .next t ∧ Mem.wf t.hw.mem = true ∧ t.hw.clears = SMap.del s.hw.clears d ∧
      (∀ x, Mem.get t.hw.mem x = if spWin d ≤ x ∧ x < spWin (d + 1) then 0 else Mem.get s.hw.mem x) ∧
      t.hw.rf Reg.spStatusClearing (rkey d 11 0) = 0 ∧ bit (t.hw.rf Reg.cdiePwrAwake pkgB) d = true ∧
      t.hw.cores = s.hw.cores ∧ t.hw.host = s.hw.host ∧ t.hw.jobs = s.hw.jobs

/-- R176, R181, R207, R172: a ROUTE whose rows lie in scratchpad, or were fed by a product that ended well, is scored,
selected and sorted, its dispatch lists, records and counts are written, and it completes with OK and the pairs it
made; R191: a COMBINE whose RET_FLAG is set combines its rows and completes with the rows it wrote. With every word
sound, a replica for each expert, and valid route records, they complete so. R172, R193: a ROUTE that waits for its
product, or a COMBINE for its RET_FLAG, longer than DE_CTRL.FLAG_TIMEOUT completes with TIMEOUT and the COUNT its flag
would have carried; a write of 1 to DE_CTRL.ABORT completes the descriptor that runs, and every other of the queue,
with ABORTED. -/
def Obligations.DispatchEngineRoutesCombinesAndStops : Prop :=
  (∀ (s : State) (d : Nat) (j : Job) (rest : List Job), s.sealed → s.hw.dieOn s.env d = true →
     s.hw.queue d 4 = j :: rest →
     let r := RouteD.of j.body
     let c := CombineD.of j.body
     let w := spWin d
     let step := s.hw.stepOf j.origin
     let ends (h : Hw) (v : Nat) : Hw :=
       let g := { h with routes := SMap.del h.routes d, fed := SMap.del h.fed d }
       g.finishJob d 4 j ⟨g.unitStatus s.env d j.part j.beat .ok, v, 0⟩
     let routed (b : RouteCopy) (o : RouteOut) (h : Hw) : Prop :=
       let n := o.pairs.length
       let h3 := (h.noteConv d j.origin r.tensor o.conv).inc Reg.deTokensRouted (rkey d 4 0) 0 o.live.length
       let h4 := (h3.inc Reg.dePairsPairs (rkey d 4 0) 0 n).incSat Reg.deEventsNonfinite (rkey d 4 0) 0 o.conv.nonfinite
       let h5 := if b.part < 8 then h4.popAdd b.part b.half o.counts else h4
       exec (.route d) s = .next (s.hwTo (ends (h5.deFlag d r.flag r.flagAddr r.tag n) (if r.flag then n else 0)))
     let begun (b : RouteCopy) (h : Hw) : Prop := (SMap.find? s.hw.routes d = some b ∧ h = s.hw) ∨
       (SMap.find? s.hw.routes d = none ∧ runOp (beginRoute d r) s.hw = (.ok b, h))
     let work (b : RouteCopy) (h : Hw) (t : Nat) (mask : List Bool) : Op RouteOut := do
       engineSound d
       let o ← r.compute w t mask b (h.hashRule s.env b.part)
       r.write w t (h.coord d 4) b o
       return o
     let combined (h : Hw) (n : Nat) : Prop :=
       exec (.combine d) s = .next (s.hwTo (ends (h.deFlag d c.flag c.flagAddr c.tag n) (if c.flag then n else 0)))
     (∀ (t : Nat) (mask : List Bool), r.op = 1 → r.ok = true → r.e ≠ 0 →
       ((r.feed = false ∧ t = r.t ∧ mask = []) ∨ (r.feed = true ∧ ∃ f, SMap.find? s.hw.fed d = some f ∧ f.core = r.core ∧
         f.ended = true ∧ f.status.good = true ∧ t = f.m ∧ mask = f.mask)) →
       (∀ b h o g, begun b h → runOp (work b h t mask) h = (.ok o, g) → routed b o g) ∧
       (s.hw.sound → (∀ b, SMap.find? s.hw.routes d = some b → ∀ x < r.e, SMap.get b.set [] x ≠ []) →
         (SMap.find? s.hw.routes d = none → ∃ p, s.hw.partOf d = some p ∧ s.hw.rf Reg.plcStatusInForce pkgB p = 1 ∧
           ∀ x < r.e, SMap.get (s.hw.plcOf p).active [] x ≠ []) →
         ∃ b h o g, begun b h ∧ runOp (work b h t mask) h = (.ok o, g) ∧ routed b o g)) ∧
     (c.op = 2 → c.ok step = true → c.t ≠ 0 → c.d ≠ 0 → c.k ≠ 0 →
       (∀ x n g h, runOp (loadFlag (w + c.retFlag) c.retTag) s.hw = (.ok (some x), g) →
         runOp (do engineSound d; c.run d j.origin step) g = (.ok n, h) → combined h n) ∧
       (s.hw.sound → (s.hw.flagAt (w + c.retFlag) c.retTag).isSome = true →
         (∀ m < c.t, let word (k off : Nat) := Mem.num s.hw.mem (w + c.routeIn + 16 * (c.k * m + k) + off) 4
           (∀ k < c.k, word k 4 < 2 ^ 31) ∨ (∀ k < c.k, word k 4 / 2 ^ 19 = 2 ^ 12 ∧ word k 12 = 0 ∧
             c.ret + word k 8 * c.retStride + 4 * c.d ≤ 0x10000000)) →
         ∃ h n, n ≤ c.t ∧ combined h n))) ∧
  (∀ (s : State) (d : Nat) (j : Job), s.sealed → s.hw.dieOn s.env d = true → d < 24 → s.hw.queue d 4 = [j] →
     let t := s.hw.rf Reg.deCtrlFlagTimeout (rkey d 4 0)
     let ends (h : Hw) (st : Status) : Hw := Hw.finishJob { h with routes := SMap.del h.routes d, fed := SMap.del h.fed d }
       d 4 j ⟨st, s.hw.deCount d j, 0⟩
     (t ≠ 0 → s.hw.deWaits d j = true →
       exec (.deFlagTimeout d) s = .next (s.hwTo (ends (s.hw.reach (j.since + 1000 * t)) .timeout))) ∧
     (s.hw.colls = [] → (j.body.fld 0 7 0 < 0x10 ∨ 0x14 < j.body.fld 0 7 0) → (ends s.hw .aborted).queue d 4 = [] → exec (.deCtrlAbort d) s = .next (s.hwTo (ends s.hw .aborted))))

/-- R204, R205, R215: a write of VERIFY starts the verify of the bank and clears SHADOW_OK; the verify ends with
SHADOW_OK and the bank's sets as shadow, or with ERR, the entry at fault and an event; a write of END asks the
popularity interval to end at the next epoch. -/
def Obligations.PlacementVerifyLoadsTheShadow : Prop :=
  ∀ (s : State) (p : Nat), s.sealed → p < 8 →
    let x := s.hw.plcOf p
    (∀ bank < 2, ∃ t, exec (.verify p bank) s = .next t ∧ t.hw.plcOf p = { x with verify := some bank } ∧
      t.hw.rf Reg.plcStatusShadowOk pkgB p = 0 ∧ t.hw.rf Reg.plcStatusVerifyBusy pkgB p = 1 ∧ t.hw.mem = s.hw.mem) ∧
    (∀ bank entry gen set, bank < 2 → x.verify = some bank → s.hw.plcVerify s.env p bank = (0, entry, gen, set) →
      s.hw.plcHeld p = false → s.hw.badSites = [] →
      ∃ t, exec (.verifyDone p) s = .next t ∧ t.hw.plcOf p = { x with verify := none, shadow := set } ∧
        t.hw.rf Reg.plcStatusVerifyBusy pkgB p = 0 ∧ t.hw.rf Reg.plcStatusErr pkgB p = 0 ∧
        t.hw.rf Reg.plcStatusShadowOk pkgB p = 1 ∧ t.hw.rf Reg.plcStatusShadowBank pkgB p = bank) ∧
    (∀ bank err entry gen set, x.verify = some bank → s.hw.plcVerify s.env p bank = (err, entry, gen, set) → err ≠ 0 →
      let h := ((s.hw.plcReads p bank err entry gen).wf Reg.plcStatusVerifyBusy pkgB p 0).wf Reg.plcStatusErr pkgB p err
      exec (.verifyDone p) s = .next (s.hwTo (((h.wf Reg.plcStatusErrEntry pkgB p entry).setPlc p
        { x with verify := none }).plcEvent p 1 bank err entry gen s.hw.now))) ∧
    exec (.plcPopEnd p) s = .next { s with hw := s.hw.setPlc p { x with popEnd := true } }

/-- R221, R222, R227: RESERVE by a LOADED partition of a region that fits and is free lays out its slabs and completes
with OK; UNRESERVE takes the reservation away, with every buffer in it, completes its held ALLOCs with ABORTED, and
completes with OK. R228, R231: outside deterministic mode an ALLOC within its partition's budget and groups takes the
chain of buffers of its size, counts as an allocation and has its RESULT written; past the budget or the groups it
completes with RESERVE_REFUSED; R236: one that touches a class marked as failed completes with ECC_UNCORRECTED. R233:
RELEASE by an owner that holds its share of a live buffer clears that share and completes with OK; FREE by the last
owner clears its share and marks the buffer. A buffer marked, and without shares, goes back: at once, or in
deterministic mode at the next beat boundary. R229, R236: an ALLOC held for its turn longer than KPR_CTRL.SEQ_TIMEOUT
completes with TIMEOUT; a write of 1 to KPR_CTRL.ABORT completes every held ALLOC with ABORTED. -/
def Obligations.KeeperServesItsCommands : Prop :=
  (∀ (s : State) (m : Nat) (j : Job) (rest : List Job), s.sealed → 28 ≤ m → m < 32 → s.hw.queue m 0 = j :: rest →
     let c := KprD.of j.body
     let k := s.hw.keeper m
     let sizes := c.sizes.take c.classes
     let counts := classCounts c.c c.d sizes
     s.hw.kpostForeign j.origin c.part = false → s.hw.partDown j.origin c.part = false →
     (c.op = 1 → c.reserveOk = true → SMap.find? k.resv c.part = none → slabSum sizes counts ≤ c.b →
       s.hw.regionOk s.env c.part c.a c.b = true →
       s.hw.regions.any (fun r => extOverlap c.a c.b r.1 r.2) = false →
       counts.sum + (k.resv.map (fun r => r.2.counts.sum)).sum ≤ 33554432 →
       exec (.reserve m) s = .next (s.hwTo (Hw.settleLoads ((s.hw.setResv m c.part
         { base := c.a, size := c.b, budget := c.c, groups := c.d, sizes := sizes, counts := counts }).finishJob m 0 j
           ⟨.ok, 0, 0⟩)))) ∧
     (c.op = 2 → ({ c with part := 0 } : KprD).bare = true → k.held.filter (fun q => q.body.fld 0 10 8 = c.part) = [] →
       exec (.unreserve m) s = .next (s.hwTo (Hw.settleLandings (((s.hw.setKeeper m { k with
         resv := SMap.del k.resv c.part
         held := k.held.filter (fun q => q.body.fld 0 10 8 ≠ c.part) }).kprShow m c.part).finishJob m 0 j ⟨.ok, 0, 0⟩))))) ∧
  (∀ (s : State) (m : Nat) (j : Job) (rest : List Job) (r : Resv), s.sealed → 28 ≤ m → m < 32 →
     s.hw.queue m 0 = j :: rest → s.tl.det = false →
     let c := KprD.of j.body
     let k := s.hw.keeper m
     let b := rkey m 0 0
     let classes := chainClasses r.sizes c.a
     c.op = 3 → c.allocOk s.hw s.env = true → s.hw.allocRoom s.env m c = true →
     s.hw.kpostForeign j.origin c.part = false → s.hw.partDown j.origin c.part = false →
     SMap.find? k.resv c.part = some r → k.held = [] → s.hw.allocHeld s.env m c = false →
     let failed := classes.any (fun x => bit (s.hw.rf Reg.kprPartFailed b c.part) x)
     let sound := failed = false ∧ classes.any (fun x => s.hw.badSites.contains (.keeper m c.part x)) = false
     let x := takeChain c.part r.nextGroup (c.owners.take c.nown) classes r k.gens
     let recs := x.1.map (fun y => (s.hw.bufAddr r y.1 y.2,
       handleOf (SMap.get x.2.2 0 (c.part * 2 ^ 35 + bufKey y.1 y.2)) c.part y.1 (m - 28) y.2))
     let h := ((s.hw.setKeeper m { k with gens := x.2.2 }).setResv m c.part { x.2.1 with
       live := SMap.put x.2.1.live r.nextGroup (c.a, x.1.length), nextGroup := r.nextGroup + 1 }).inc Reg.kprCountAllocs b c.part 1
     (sound → c.a ≠ 0 → r.liveBytes + c.a ≤ r.budget → r.live.length < r.groups →
       exec (.alloc m) s = .next (s.hwTo ((h.writeResult s.env m j c r.nextGroup (resultBytes c.a recs)).settleLandings))) ∧
     (sound → r.budget < r.liveBytes + c.a →
       exec (.alloc m) s = .next (s.hwTo (((s.hw.incSat Reg.kprCountOver b c.part 1).finishJob m 0 j
         ⟨.reserveRefused, 0, 0⟩).settleLandings))) ∧
     (failed = true →
       exec (.alloc m) s = .next (s.hwTo ((s.hw.finishJob m 0 j ⟨.eccUncorrected, 0, 0⟩).settleLandings)))) ∧
  (∀ (s : State) (m : Nat) (j : Job) (rest : List Job) (key : Nat) (r : Resv) (buf : KBuf), s.sealed → 28 ≤ m → m < 32 →
     s.hw.queue m 0 = j :: rest →
     let c := KprD.of j.body
     let i := buf.owners.findIdx (fun o => o = s.hw.requester j.origin)
     ({ c with part := 0, a := 0 } : KprD).bare = true → s.hw.kpostForeign j.origin c.part = false →
     s.hw.partDown j.origin c.part = false → s.hw.buffer m c.a = some (c.part, key, r, buf) →
     bit (s.hw.rf Reg.kprPartFailed (rkey m 0 0) c.part) (key / 2 ^ 32) = false →
     s.hw.badSites.contains (.keeper m c.part (key / 2 ^ 32)) = false → buf.shares.getD i false = true →
     let ends (x : Instr) (b : KBuf) : Prop :=
       let goes := b.marked && !(b.shares.any id)
       exec x s = .next (s.hwTo ((s.hw.setResv m c.part (if goes && !s.tl.det then r.giveBack key b
         else { r with bufs := SMap.put r.bufs key { b with returning := goes } })).finishJob m 0 j ⟨.ok, 0, 0⟩))
     (c.op = 4 → ends (.keeperRelease m) { buf with shares := listSet buf.shares i false }) ∧
     (c.op = 5 → i + 1 = buf.owners.length → buf.marked = false →
       ends (.free m) { buf with shares := listSet buf.shares i false, marked := true })) ∧
  (∀ (s : State) (m : Nat) (j : Job), s.sealed → 28 ≤ m → m < 32 → (s.hw.keeper m).held = [j] →
     let t := s.hw.rf Reg.kprCtrlSeqTimeout (rkey m 0 0)
     let k := { s.hw.keeper m with held := [] }
     (t ≠ 0 → (s.hw.keeper m).nextOf (j.body.fld 0 10 8) < j.body.fld 4 31 0 → exec (.allocSeqTimeout m) s = .next (s.hwTo ((((s.hw.reach (j.since + 1000 * t)).setKeeper m k).finishJob m 0 j
       ⟨.timeout, 0, 0⟩).settleLandings))) ∧
     exec (.kprCtrlAbort m) s = .next (s.hwTo (((s.hw.setKeeper m k).finishJob m 0 j ⟨.aborted, 0, 0⟩).settleLandings)))

/-- R530, R243, R245: a DOWN port that may train enters TRAINING at a lane signal; its back-off ends when the period
has passed; without a control block for four periods a port goes DOWN. R531, R532, R544 to R546: of a port's two ends
the one with the lower node number, or of equal numbers the lower port, is looped first; a loop-back of this end with
uncorrectable codewords, or with more corrected ones than the threshold, fails the port; else the second end has its
turn, and after it the port is PROBING; a probe is answered or, come back, counts for the round; a probe round or a
burnish that does not end in time fails the port. -/
def Obligations.PortsTrainAndProveThemselves : Prop :=
  (∀ (s : State) (p : Nat), s.sealed →
     let h := s.hw
     let x := h.port p
     (h.portOn s.env p = true → h.pf Reg.xptPortState p = pDown → x.until_ = none → x.loop.any (fun d => d ≤ 4) = false →
       exec (.laneSignal p) s = .next { s with hw := ((h.setPf Reg.xptPortState p pTraining).setPort p
         { x with since := h.now, lastCtl := h.now, blk := none, ctlRun := 0 }) }) ∧
     (∀ t, x.until_ = some t →
       exec (.backoffExpiry p) s = .next { s with hw := (h.reach t).setPort p { x with until_ := none } }) ∧
     (p < 48 → h.pf Reg.xptPortState p ≠ pDown →
       exec (.controlBlockTimeout p) s = .next (s.hwTo ((h.reach (x.lastCtl + 971)).portDown s.env p 1 3)))) ∧
  (∀ (s : State) (p : Nat), s.sealed → p < 48 →
     let h := s.hw
     let x := h.port p
     let state := h.pf Reg.xptPortState p
     (∀ r : LoopResult, state = pLoopback →
       x.loop ≠ some 5 →
       let far := (h.farNode p).getD 0
       let first := decide (h.node < far ∨ (h.node = far ∧ p < h.pf Reg.xptPortNbPort p))
       let bad := first ≠ x.second ∧ (r.uncorrectable ≠ 0 ∨ h.xf Reg.xptRaLbCorrMax p < r.corrected)
       (bad → exec (.loopbackEnd p r) s = .next (s.hwTo (h.portFail s.env p 4))) ∧
       (¬ bad → x.second = false → exec (.loopbackEnd p r) s = .next { s with hw := h.setPort p { x with second := true } }) ∧
       (¬ bad → x.second = true →
         exec (.loopbackEnd p r) s = .next { s with hw := (h.setPf Reg.xptPortState p pProbing).setPort p { x with
           since := h.now, convRun := 0, probing := false, probesOut := [], probesOk := false, probesFar := 0, rx := []
           second := false } })) ∧
     (∀ f : Frame, x.probes.contains f = true → f.e2e.toNat = Frame.e2eOf f →
       let h' := h.setPort p { x with probes := x.probes.erase f }
       let x' := { x with probes := x.probes.erase f }
       (bit (Frame.arg f) 8 = true → exec (.probe p f) s = .next (s.hwTo (h'.probeBack p (Frame.seq f)))) ∧
       (bit (Frame.arg f) 8 = false → exec (.probe p f) s = .next (s.hwTo (h'.setPort p { x' with
         probesFar := x.probesFar + 1
         wire := x.wire ++ [h'.probeFrame p (Frame.seq f) (some (pay f.payload 0 8))] })))) ∧
     (x.probing = true → x.probesOut ≠ [] → state = pProbing →
       let late := h.reach (x.probedAt + 1000 * max (h.xf Reg.xptRaProbeTimeout p) 1)
       exec (.probeTimeout p) s = .next (s.hwTo (late.portFail s.env p 6))) ∧
     (state = pProbing → h.pf Reg.xptBurnConverged p ≠ 1 →
       let late := h.reach (x.since + 1000 * max (h.xf Reg.xptBurnCfgBurnTimeout p) 1)
       exec (.burnTimeout p) s = .next (s.hwTo (late.portFail s.env p 5))))

/-- R241 to R244: a data block whose codewords decode and whose number is in turn adds its bytes to the frame stream
of an UP port, which takes every whole frame off it; a control block that comes whole brings the neighbour's identity,
the burnish record and the time of the far end, and the 64th in a row ends training; R239, R240: a port that is not
cabled to the far end it should have is held in TRAINING, and reported. R542 to R545: a write of START runs a loop-
back of a DOWN port's given depth, its RESULT RUNNING, or refuses a depth that is none; of a memory unit in use it is
refused, and its result is a value that the manual leaves open. -/
def Obligations.LinkBlocksAndLoopBacks : Prop :=
  (∀ (s : State) (p : Nat) (b : LinkBlock) (h1 : Hw), s.sealed → s.hw.portOn s.env p = true →
     s.hw.pf Reg.xptPortState p ≠ pDown → s.hw.blockIn s.env p b = (true, h1) →
     let stream := (h1.port p).rx ++ LinkBlock.bytes b
     let taken := h1.takeStream p stream.length stream
     let h2 := h1.setPort p { h1.port p with lastCtl := h1.now, ctlRun := (h1.port p).ctlRun + 1 }
     let h3 := (h2.setPf Reg.xptPortNbNode p (bits (LinkBlock.num b 0 2) 14 0)).setPf Reg.xptPortNbValid p
       (bits (LinkBlock.num b 0 2) 15 15)
     let h4 := ((h3.setPf Reg.xptPortNbPort p (LinkBlock.num b 2 1)).burnish p b).timeIn p b
     (h1.pf Reg.xptPortState p = pUp →
       exec (.dataBlock p b) s = .next (s.hwTo (taken.1.setPort p { taken.1.port p with rx := taken.2 }))) ∧
     (b.badA = false → h4.pf Reg.xptPortState p ≠ pTraining → h4.miscabled p = false →
       exec (.controlBlock p b) s = .next (s.hwTo h4)) ∧
     (b.badA = false → h4.pf Reg.xptPortState p ≠ pTraining → h4.miscabled p = true →
       exec (.controlBlock p b) s = .next (s.hwTo ((h4.holdTraining s.env p).portRecord p 3 0))) ∧
     (b.badA = false → h4.pf Reg.xptPortState p = pTraining → (h4.port p).ctlRun < 64 →
       exec (.controlBlock p b) s = .next (s.hwTo h4)) ∧
     (b.badA = false → h4.pf Reg.xptPortState p = pTraining → 64 ≤ (h4.port p).ctlRun → h4.miscabled p = false →
       p ≠ 43 ∨ h4.spareNamed.isSome = true →
       exec (.controlBlock p b) s = .next (s.hwTo ((h4.setPf Reg.xptPortState p pLoopback).setPort p
         { h4.port p with since := h4.now, second := false }))) ∧
     (b.badA = false → h4.pf Reg.xptPortState p = pTraining → (h4.port p).ctlRun = 64 → h4.miscabled p = true →
       exec (.controlBlock p b) s = .next (s.hwTo (h4.portRecord p 3 0)))) ∧
  (∀ (s : State) (p depth die unit : Nat), s.sealed → s.hw.served = true → p < 48 → 28 ≤ die → die < 32 → 4 ≤ unit →
     unit < 8 →
     let h := s.hw.setPf Reg.xptLbDepth p depth
     let b := rkey die unit 0
     let w := Config.freeWord s.hw.freeCount
     let put (h : Hw) (r n : Nat) : Hw :=
       ((h.wf Reg.ddrLbDepth b 0 depth).wf Reg.ddrLbResult b 0 r).wf Reg.ddrLbErrors b 0 n
     ((h.port p).loop = none → h.pf Reg.xptPortState p = pDown → 1 ≤ depth → depth ≤ 5 →
       exec (.xptLbStart p depth) s = .next { s with hw := ((h.setPf Reg.xptLbResult p 1).setPort p
         { h.port p with loop := some depth }) }) ∧
     ((h.port p).loop = none → depth = 0 ∨ 6 < depth →
       exec (.xptLbStart p depth) s = .next { s with hw := h.setPf Reg.xptLbResult p 4 }) ∧
     (s.hw.rf Reg.ddrStatusInUse b ≠ 0 →
       exec (.memLbStart die unit depth) s = .next { s with hw := put s.hw 4 (s.hw.rf Reg.ddrLbErrors b) }) ∧
     (s.hw.rf Reg.ddrStatusInUse b = 0 → depth = 1 ∨ depth = 2 →
       exec (.memLbStart die unit depth) s = .next { s with hw := (put { s.hw with freeCount := s.hw.freeCount + 1 }
         (if w.toNat % 2 ^ 32 = 0 then 2 else 3) (w.toNat % 2 ^ 32)) }))

/-- R250, R252, R260: a source owner takes the frame that its window, records and paths let go first out of its queue
and sends it, or reports its failure where no path leads on. R261, R262: an ACK that arrives gives every record in it
to its flow; a frame unacknowledged for RESEND_TIMEOUT is tried again; a flow of which 32 frames wait, or else the one
that has waited longest, has its ACK record sent, by its delay or at 32 frames, and owes none then. -/
def Obligations.FramesLeaveAndAreAcknowledged : Prop :=
  (∀ (s : State) (f i : Nat) (t : TxFrame) (v : TxVerdict) (h1 h2 : Hw), s.sealed → 24 ≤ f → f < 28 →
     s.hw.txChoose f = (some (i, t, v), h1) →
     let h := { h1 with txq := SMap.put h1.txq f ((SMap.get h1.txq [] f).eraseIdx i) }
     (v ≠ .fail → h.transmit s.tl.det f t = some h2 →
       exec (.frameTransmit f) s = .next (s.hwTo (h2.settleFabric s.env))) ∧
     (v = .fail → exec (.frameTransmit f) s = .next (s.hwTo ((h.ownerFail t.owner .destUnreachable).settleFabric s.env)))) ∧
  (∀ (s : State), s.sealed →
     (∀ (f : Frame) (h : Hw), Frame.typ f = 5 → s.hw.arrive f (fun _ => true) = (true, h) →
       exec (.ack f) s = .next (s.hwTo (((ackPayload f.payload).foldl (fun h r =>
         h.ackRecord s.tl.det (ownerFdie r.1) (flowKey r.1 (cNode (Frame.src f))) r.2.1 r.2.2.1 r.2.2.2) h).settleFabric s.env))) ∧
     (∀ f key seq t, 24 ≤ f → f < 28 → s.hw.oldestRec f = some (key, seq, t) →
       exec (.resendTimeout f) s = .next (s.hwTo (((s.hw.reach (t + s.hw.resendAfter f)).retry s.tl.det f key seq).settleFabric s.env))) ∧
     (∀ key x p, key / 65536 < 32 → s.hw.rxFlows = [(key, x)] → 0 < x.waiting →
       let f := ownerFdie (key / 65536)
       let delay := 128 * max (s.hw.rf Reg.xptCtrlAckDelay (xptB f)) 1
       let h := (if 32 ≤ x.waiting then s.hw else s.hw.reach (x.since + delay)).setRxFlow key { x with waiting := 0 }
       let t : TxFrame :=
         { typ := 5, cls := 0, src := h.coord f 8, dst := coordOf (key % 65536) (ownerFdie (key / 65536)) 8
           payload := granules (toBytes 1 (key / 65536) ++ toBytes 1 x.inc ++ toBytes 2 0 ++ toBytes 4 x.edge ++ toBytes 16 x.map) }
       h.path s.tl.det f t.src t.dst 0 0 = some p →
       exec (.ackRecordSend f) s = .next (s.hwTo (h.emit f t 0 0 0 false p))))

/-- R278, R280, R264, R283: a switch core takes the first frame at an ingress point that has somewhere to go and
forwards it, once the shared pool or the guaranteed area has room for it; an egress point sends its control frame
first, and the classes after it by deficit round robin; a frame that has aged out at the head of its queue or at its
arrival is dropped and counted. R256: each interval the package judges whether enough of its local and of its global
ports stood stalled for more than half of it, a threshold of 0 never finding a level saturated; the stalled times then
start anew. R287, R288, R291: a COLL frame that a switch core takes is held for the copies that its multicast entry
names, and is counted as missed without one; a copy whose flow and class have room is sent and counted. -/
def Obligations.SwitchesForwardAndCopy : Prop :=
  (∀ (s : State), s.sealed →
     (∀ die point f, 24 ≤ die → die < 28 → point < 13 →
       let sw : Switch := SMap.get s.hw.switches {} die
       let q := SMap.get sw.inq [] point
       q.find? (fun f => s.hw.egressOf die f ≠ .nowhere || s.hw.aged die f || !Frame.wellFormed f) = some f →
       (Frame.wellFormed f = false ∨ s.hw.aged die f = true ∨ s.hw.chargeShared die point f = true ∨
         s.hw.guardRoom die point f = true → 
         exec (.switchForward die point) s = .next (s.hwTo (Hw.forward { s.hw with
           switches := SMap.put s.hw.switches die { sw with inq := SMap.put sw.inq point (q.erase f) } } die point f
             (s.hw.egressOf die f)))) ∧
       (Frame.wellFormed f = true → s.hw.aged die f = false → s.hw.chargeShared die point f = false →
         s.hw.guardRoom die point f = false → exec (.switchForward die point) s = .next s)) ∧
     (∀ port, port < 52 → (port < 48 → s.hw.pf Reg.xptPortState port = pUp) →
       let note (h : Hw) : Hw := if port < 48 then h.noteStall port else h
       let h := note ((upto 4).foldl (fun h c =>
         h.dropAgedHead port c (SMap.get h.egress [] (egressKey port c)).length) s.hw)
       let leave (h : Hw) (c : Nat) : Hw := if port < 48 then (h.sendHead port c).noteStall port else h.sendInside port c
       let x := h.port port
       let r := drr 3 (fun q => h.sendable port (q + 1)) (fun q => h.quantum (portDie port) q) x.arb
       ((h.sendable port 0).isSome = true → exec (.egressArbitration port) s = .next (s.hwTo (leave h 0))) ∧
       (∀ q, (h.sendable port 0).isSome = false → r.1 = some q →
         exec (.egressArbitration port) s = .next (s.hwTo (leave (h.setPort port { x with arb := r.2 }) (q + 1))))) ∧
     (∀ port cls b rest, SMap.get s.hw.egress [] (egressKey port cls) = b :: rest → s.hw.aged (portDie port) b.frame = true →
       let h := (Hw.releaseBuf { s.hw with egress := SMap.put s.hw.egress (egressKey port cls) rest } b).incSat
         Reg.xptDropAged (xptB (portDie port)) 0 1
       exec (.ageOut (.egress port cls)) s = .next (s.hwTo (if port < 48 then h.noteStall port else h))) ∧
     (∀ die b, s.hw.arrived.find? (fun b => b.die = die && s.hw.aged die b.frame) = some b →
       exec (.ageOut (.arriving die)) s = .next (s.hwTo ((Hw.releaseBuf { s.hw with
         arrived := s.hw.arrived.erase b } b).incSat Reg.xptDropAged (xptB die) 0 1)))) ∧
  (∀ (s : State), s.sealed →
     let h := s.hw.reach (s.hw.sampleAt + 1000)
     let long (p : Nat) : Bool := h.now - h.sampleAt < 2 * (h.port p).stallTime h.now
     let n (far : Bool) : Nat := ((List.range 48).filter (fun p => long p && h.portLevel p == some far)).length
     let l := s.hw.rf Reg.xptNmLocalSatPorts (xptB 24)
     let g := s.hw.rf Reg.xptNmGlobalSatPorts (xptB 24)
     ∃ t, exec (.levelSample ()) s = .next t ∧
       t.hw.satLocal = (l ≠ 0 && l ≤ n false) ∧ t.hw.satGlobal = (g ≠ 0 && g ≤ n true) ∧
       t.hw.sampleAt = h.now ∧ (∀ p, (t.hw.port p).stallTime t.hw.now = 0) ∧
       t.hw.mem = s.hw.mem ∧ t.hw.txq = s.hw.txq ∧ t.hw.egress = s.hw.egress) ∧
  (∀ (s : State), s.sealed →
     (∀ (f : Frame) (h : Hw) (b : Buf),
       let die := cDie (Frame.dst f)
       let entry := h.mcEntry die (bits (Frame.arg f) 9 0) (bits (Frame.arg f) 25 10)
       Frame.typ f = 9 → cUnit (Frame.dst f) = 9 → 24 ≤ die → die < 28 →
       let makes (h : Hw) : Bool := match h.mcEntry die (bits (Frame.arg f) 9 0) (bits (Frame.arg f) 25 10) with
         | some (_, targets) => !targets.isEmpty
         | none => false
       s.hw.arrived.find? (fun b => b.frame = f) = some b →
       s.hw.arrive f (fun h => !(makes h) || h.mcRoom f die) = (true, h) →
       (entry = none → exec (.multicastFrame f) s = .next (s.hwTo (h.inc Reg.swMcMissed (swB die) 0 1))) ∧
       (∀ tag targets, entry = some (tag, targets) → targets ≠ [] →
         exec (.multicastFrame f) s = .next (s.hwTo { h with
           originals := h.originals ++ [{ id := h.nextOrig, die := die, inDie := b.die, point := b.point, frame := f, tag := tag
                                          copies := targets.zipIdx.map (fun (x : Nat × Nat) => (x.2, x.1, false)) }]
           nextOrig := h.nextOrig + 1 }))) ∧
     (∀ die o t c x h', 24 ≤ die → die < 28 → s.hw.originals = [o] → o.die = die → s.hw.copyHeld die o = false →
       o.copies = [(t, c, false)] → x = o.copyFor (s.hw.coord die 9) t c → s.hw.copyReady s.tl.det die x = true →
       let h := { (s.hw.inc Reg.swMcCopies (swB die) 0 1) with originals := [{ o with copies := [(t, c, true)] }] }
       h.judgeTx die false x ≠ TxVerdict.fail → h.transmit s.tl.det die x = some h' →
       exec (.multicastCopy die) s = .next (s.hwTo h')))

/-- R266, R568: XCH_SEND reads its dispatch output and hands the header and row frames of every list to the fabric.
One that passes its checks, with its preamble and list headers on this package and every word sound, does so. R269,
R274: XCH_OPEN of an exchange tag that is not open reads its landing table, opens the exchange, asks Keeper for the
landings that want it and completes with OK, as it does of a table on this package whose every word is sound;
XCH_CLOSE of a tag that is not open completes with OK, and of an open one ends every landing, aborts the returns that
wait and marks the exchange as closing. -/
def Obligations.ExchangesSendOpenAndClose : Prop :=
  (∀ (s : State) (f : Nat) (j : Job), s.sealed → 24 ≤ f → f < 28 →
     let d := j.body
     let a := d.fld 8 63 0
     let sent (pre lists : List Byte) (h : Hw) : Prop :=
       exec (.xchSend f) s = .next (s.hwTo ((h.sendOut s.env f j pre lists).settleExchange s.env))
     (s.hw.queue f 8).find? (fun j => !j.started && (j.body.fld 0 7 0 < 0x11 || 0x14 < j.body.fld 0 7 0)) = none →
     s.hw.xchJob f 0x11 = some j → s.hw.sendOk s.env d = true → s.hw.sendReach s.env d = true →
     s.hw.kpostForeign j.origin (d.fld 0 16 14) = false → s.hw.loaded (d.fld 0 16 14) = true →
     (∀ pre lists h1 h2, runOp (readExt s.env a 32) s.hw = (.ok pre, h1) → pay pre 0 4 = 0x20 →
       runOp (readExt s.env (a + 0x20) (32 * pay pre 4 4)) h1 = (.ok lists, h2) → sent pre lists h2) ∧
     (∀ p q, s.hw.sound → s.hw.localMem s.env a 32 = .ok p →
       let pre := Mem.read s.hw.mem p 32
       pay pre 0 4 = 0x20 → s.hw.localMem s.env (a + 0x20) (32 * pay pre 4 4) = .ok q →
       ∃ h, h.mem = s.hw.mem ∧ h.txq = s.hw.txq ∧ sent pre (Mem.read s.hw.mem q (32 * pay pre 4 4)) h)) ∧
  (∀ (s : State) (f : Nat) (j : Job), s.sealed → 24 ≤ f → f < 28 →
     let d := j.body
     let xtag := d.fld 8 31 0
     let n := d.fld 0x0C 31 0
     let place := d.fld 0x10 63 0
     let opened (bs : List Byte) (h : Hw) : Prop :=
       let raws := (upto n).map (fun i => (BitVec.ofNat 1024 (ofBytes ((bs.drop (64 * i)).take 64)) : Desc))
       let table := match h.localMem s.env place (64 * n) with | .ok a => a | .error _ => 0
       let entry (r : Desc) : XEnt := { h.entryOf s.env r with waiting := (h.entryOf s.env r).waiting && h.entryOk s.env r }
       let h1 := { h with
         opens := SMap.put h.opens xtag { part := d.fld 0 10 8, nsrc := d.fld 4 31 0, table := table, ents := raws.map entry }
         closedX := h.closedX.filter (fun x => x ≠ xtag) }
       exec (.xchOpen f) s = .next (s.hwTo ((raws.zipIdx.foldl (fun (h : Hw) (x : Desc × Nat) =>
         if !h.entryOk s.env x.1 then h.endEntry xtag x.2 .badDescriptor
         else if x.1.fld 2 3 3 = 1 then h.landAlloc (d.fld 0 10 8) x.1 xtag x.2
         else h) h1).finishJob f 8 j ⟨.ok, 0, 0⟩))
     (s.hw.xchJob f 0x12 = some j → d.fld 0 31 11 = 0 → d.fld 0x18 319 0 = 0 → 1 ≤ d.fld 4 31 0 →
       d.fld 4 31 0 ≤ 65535 → 1 ≤ n → n ≤ 4096 → SMap.find? s.hw.opens xtag = none →
       s.hw.kpostForeign j.origin (d.fld 0 10 8) = false → s.hw.loaded (d.fld 0 10 8) = true →
       (∀ bs h, runOp (readExt s.env place (64 * n)) s.hw = (.ok bs, h) → opened bs h) ∧
       (∀ p, s.hw.sound → s.hw.localMem s.env place (64 * n) = .ok p →
         ∃ h, h.mem = s.hw.mem ∧ opened (Mem.read s.hw.mem p (64 * n)) h)) ∧
     (s.hw.xchJob f 0x14 = some j → d.fld 0 31 8 = 0 → d.fld 4 31 0 = 0 → d.fld 0x0C 415 0 = 0 →
       let h0 := s.hw.settleLandings
       (SMap.find? h0.opens xtag = none → exec (.xchClose f) s = .next (s.hwTo (h0.finishJob f 8 j ⟨.ok, 0, 0⟩))) ∧
       (∀ o, SMap.find? h0.opens xtag = some o → h0.kpostForeign j.origin o.part = false →
         let h1 := (upto o.ents.length).foldl (fun h i => h.endEntry xtag i .aborted) h0
         let h2 := (upto 4).foldl (fun h k => (h.queue (24 + k) 8).foldl (fun h q =>
           if q.body.fld 0 7 0 = 0x13 && !q.started && q.sent = 0 && q.body.fld 4 31 0 = xtag then
             h.xchDone (24 + k) q .aborted
           else h) h) h1
         let h3 := match SMap.find? h2.opens xtag with
           | some o => { h2 with opens := SMap.put h2.opens xtag { o with closing := true } }
           | none => h2
         exec (.xchClose f) s = .next (s.hwTo ((h3.putJob f 8 { j with started := true }).tryClose xtag)))))

/-- R272, R274: XCH_RETURN of an entry that is DONE sends its rows back, each to the place its header gave, and waits
for their end with the entry's COUNT as its own, as it does where every row lies on this package and every word is
sound; of a closed exchange it completes with ABORTED. R267, R268, R272: header frames bring an open exchange the
lists of their source, row frames land their segments in the entry their list names, and returned rows are written
where their frame says, the source owner's flag being written with the last of them; with every word sound they are.
-/
def Obligations.ExchangesReturnAndLand : Prop :=
  (∀ (s : State) (f : Nat) (j : Job) (x : XOpen) (ent : XEnt), s.sealed → 24 ≤ f → f < 28 →
     let d := j.body
     let xtag := d.fld 4 31 0
     s.hw.queue f 8 = [j] → j.started = false → j.sent = 0 → d.fld 0 7 0 = 0x13 → d.fld 0 31 9 = 0 → d.fld 0x24 223 0 = 0 →
     s.hw.flagFieldOk s.env (d.fld 0 8 8) (d.fld 0x18 63 0) (d.fld 0x20 31 0) = true →
     s.hw.addrOk s.env (d.fld 0x10 63 0) = true →
     (SMap.find? s.hw.opens xtag = some x → s.hw.kpostForeign j.origin x.part = false → x.ents[d.fld 8 31 0]? = some ent →
       x.closing = false → ent.done = true →
       let built := returnFrames s.env x ent d (s.hw.coord f 8) (.job f 8 j.tag) s.hw
       let returned (frames : List TxFrame) (h : Hw) : Prop :=
         exec (.xchReturn f) s = .next (s.hwTo (((frames.foldl (fun (h : Hw) (t : TxFrame) => h.send t) h).putJob f 8
           { j with started := true, result := some (.ok, ent.count) }).settleExchange s.env))
       (∀ frames h, built = (frames, none, h) → returned frames h) ∧
       (∀ a, s.hw.sound → ent.tags = some a →
         (∀ pos < ent.count,
           let n := ((x.srcs.find? (fun q => q.coord = Mem.num s.hw.mem (a + 16 * pos + 8) 4)).map (fun q => q.retBytes)).getD 0
           n ≠ 0 → ∃ p, s.hw.localMem s.env (d.fld 0x10 63 0 + pos * d.fld 0x0C 31 0) n = .ok p) →
         ∃ frames h, built = (frames, none, h) ∧ h.mem = s.hw.mem ∧ returned frames h)) ∧
     (SMap.find? s.hw.opens xtag = none → s.hw.closedX.contains xtag = true →
       exec (.xchReturn f) s = .next (s.hwTo ((s.hw.finishJob f 8 j ⟨.aborted, 0, 0⟩).settleExchange s.env)))) ∧
  (∀ (s : State) (f : Frame) (h : Hw), s.sealed →
     let key := flowKey (cDie (Frame.src f)) (cNode (Frame.src f))
     let xtag := pay f.payload 0 4
     (Frame.typ f = 2 → s.hw.arrive f (fun h => h.xtagKnown xtag) = (true, h) →
       exec (.exchHdr f) s = .next (s.hwTo ((h.setRxFlow key { h.rxFlow key with
         xtags := ((Frame.xidx f, xtag) :: (h.rxFlow key).xtags.filter (fun q => q.1 ≠ Frame.xidx f)).take 4 }).landHeaders
           s.tl.det xtag f))) ∧
     (∀ tag, Frame.typ f = 3 → s.hw.arrive f (fun h => h.rowReady f) = (true, h) → h.xtagOf f = some tag →
       exec (.exchRow f) s = .next (s.hwTo (h.landRows tag f))) ∧
     (∀ x off, Frame.typ f = 4 → s.hw.arrive f (fun h => !h.clearing (Frame.arg f) f.payload.length) = (true, h) →
       h.xrets = [x] → x.src = Frame.dst f → x.lo ≤ Frame.arg f → Frame.arg f < x.lo + x.pairs * x.stride →
       let n := min f.payload.length (x.bytes - (Frame.arg f - x.lo) % orElse x.stride 1)
       let written (h1 : Hw) : Prop :=
         (x.got + n < x.pairs * x.bytes →
           exec (.exchRet f) s = .next (s.hwTo { h1 with
             xrets := h1.xrets.map (fun z => if z.job = x.job then { x with got := x.got + n } else z) })) ∧
         (x.pairs * x.bytes ≤ x.got + n →
           exec (.exchRet f) s = .next (s.hwTo (Hw.flag { h1 with xrets := h1.xrets.filter (fun z => z.job ≠ x.job) }
             x.flag x.tag x.pairs)))
       h.localMem s.env (Frame.arg f) n = .ok off →
       (∀ h1, runOp (storeB off (f.payload.take n)) h = (.ok (), h1) → written h1) ∧
       (h.sound → ∃ h1, runOp (storeB off (f.payload.take n)) h = (.ok (), h1) ∧ written h1)))

/-- R303, R305: a write of CLAIM or RELEASE to STU_CMD joins the unit's queue of commands for the next epoch while
that holds fewer than 64, and is discarded with an event otherwise; when the slots of a claim are clear their words
are sound and its context is VALID with NEXT 0. R299, R321, R322: a COLL frame for a stitch unit that its context can
take becomes input k of its chunk set, one it holds already is dropped, and one it cannot take is counted by its
reason; a chunk whose inputs are there, can be read and agree starts the program of its context, and one whose inputs
cannot be read fails. -/
def Obligations.StitchUnitsClaimAndTakeInputs : Prop :=
  (∀ (s : State) (d u c : Nat), s.sealed → 24 ≤ d → d < 28 → u < 8 → c < 64 →
     let waiting := (s.hw.stuCmds.filter (fun x => x.1 = d && x.2.1 = u)).length
     let queues (x : Instr) (op : Nat) : Prop :=
       (waiting < 64 → exec x s = .next { s with hw := { s.hw with stuCmds := s.hw.stuCmds ++ [(d, u, op, c)] } }) ∧
       (64 ≤ waiting → exec x s = .next (s.hwTo (s.hw.regFault 4 (stuB d u))))
     queues (.stuCmdClaim d u c) 1 ∧ queues (.stuCmdRelease d u c) 2 ∧
     (∀ x, SMap.find? (s.hw.stu d u).ctxs c = some x → x.clearing = true →
       exec (.claimClearEnd d u c) s = .next (s.hwTo (((s.hw.setStu d u { s.hw.stu d u with
         ctxs := SMap.put (s.hw.stu d u).ctxs c { x with clearing := false } }).rdmWrite d (x.first * 4096)
           (x.slots * 4096)).entPut d u c 0x18 31 0 (2 ^ 31))))) ∧
  (∀ (s : State), s.sealed →
     (∀ (f : Frame) (h : Hw),
       let d := cDie (Frame.dst f)
       let u := cUnit (Frame.dst f)
       let b := stuB d u
       Frame.typ f = 9 → onFdie (Frame.dst f) = true → u < 8 →
       s.hw.arrive f (fun h => h.stuJudge d u f ≠ .wait) = (true, h) →
       (h.stuJudge d u f = .badCtx → exec (.stitchInput f) s = .next (s.hwTo (h.incSat Reg.stuDropBadCtx b 0 1))) ∧
       (h.stuJudge d u f = .stale → exec (.stitchInput f) s = .next (s.hwTo (h.incSat Reg.stuDropStaleChunk b 0 1))) ∧
       (h.stuJudge d u f = .dup → exec (.stitchInput f) s = .next (s.hwTo (h.incSat Reg.stuDropDupInput b 0 1))) ∧
       (h.stuJudge d u f = .same → exec (.stitchInput f) s = .next (s.hwTo h)) ∧
       (∀ i k x, h.stuJudge d u f = .take i k → SMap.find? (h.stu d u).ctxs (Frame.ctx f) = some x →
         let set := x.sets.getD i {}
         let t := StuEnt.of x.entry
         exec (.stitchInput f) s = .next (s.hwTo ((h.setStu d u { h.stu d u with
           ctxs := SMap.put (h.stu d u).ctxs (Frame.ctx f) { x with
             sets := listSet x.sets i { set with chunk := some (Frame.chunk f), ins := SMap.put set.ins k f } } }).rdmWrite d
               (x.first * 4096 + (i * t.setGranules + 64 * k) * 8) (8 * Frame.len f))))) ∧
     (∀ d u c x, (s.hw.stu d u).run = none → (s.hw.stu d u).ctxs = [(c, x)] →
       (s.hw.chunkReady d u c x).isSome = true →
       let t := StuEnt.of x.entry
       let chunk := s.hw.stuNext d u c
       let ins := x.inputs chunk
       let size (p : Frame × Nat) : Bool :=
         if t.elems = 0 then 2 ≤ Frame.len p.1 else Frame.len p.1 = 1 + ceilDiv (t.elems * (t.fmtOf p.2).bytes) 64
       let pres := ins.map (fun f => Pre.of f.payload)
       let g := (s.hw.inc Reg.stuCntChunks (stuB d u) 0 1).rdmReads d u
         ((upto t.nin).map (fun k => (x.setBase chunk + 512 * k, 8)))
       (s.hw.badSites = [] → g.1 = true) ∧
       (g.1 = true → checkInputs pres (ins.zipIdx.map size) t.srcs = none →
         exec (.chunkRun d u) s = .next (s.hwTo (g.2.setStu d u { s.hw.stu d u with
           run := some { ctx := c, gen := x.gen, chunk := chunk } }))) ∧
       (g.1 = false → exec (.chunkRun d u) s = .next (s.hwTo (g.2.failRead d u c x.gen chunk t pres)))) ∧
     (∀ d u r c x, s.hw.stuRun? d u = some (r, c, x) →
       let a := 0xF00000000000 + rkey d u (0x80000 + 8 * (c.ent.start + r.pc))
       (s.hw.badSites.contains (.program d u (c.ent.start + r.pc)) = true →
         exec (.chunkRun d u) s = .next (s.hwTo ((s.hw.error 1 4 0x40 0 (s.hw.globalAddr a) none (s.hw.coord d u)).failCx d u r c))) ∧
       (s.hw.badSites.contains (.program d u (c.ent.start + r.pc)) = false → exec (.chunkRun d u) s = .next s)))

/-- R308, R312 to R314, R321: what the lane operations of a stitch program write to their destination register for the
group in hand, and that they then go on with the next group or instruction; where a word of their input cannot be
read, the chunk fails. R309, R308, R318, R320, R321: GLOOP begins its body at group 0 with the registers as they
stand; END ends the chunk; a record operation puts its records in the output area and counts those out of order; EMIT
sends the output area as frames with the preamble of the node and counts the conversions of the chunk; where a word
that either reads has failed, the chunk fails. -/
def Obligations.StitchProgramsRunTheirInstructions : Prop :=
  (∀ (s : State) (d u : Nat) (r : StuRun) (c : StuCx) (i : StuIns) (x : List StuIns), s.sealed →
     s.hw.stuAt d u = some (r, c, i, x) →
     let g := s.hw.rdmReads d u (c.reads r i)
     let h := if i.opc = 0x09 then g.2.rdmWrite d (c.outWords r.group).1 (c.outWords r.group).2 else g.2
     let go (y : Instr) (r' : StuRun) : Prop :=
       (g.1 = true → exec y s = .next (s.hwTo (h.setStu d u { s.hw.stu d u with
         run := some (r'.advance c.ent (lanesOf c.lane)) }))) ∧
       (g.1 = false → exec y s = .next (s.hwTo (g.2.failCx d u r c)))
     let writes (y : Instr) (v : List Nat) : Prop := go y (r.setReg i.vd v)
     let pair (f : Nat → Nat → Nat) := List.zipWith f (r.reg c i.va) (r.reg c i.vb)
     (s.hw.badSites = [] → g.1 = true) ∧ (i.opc = 0x00 → go (.stuNop d u) r) ∧
     (i.opc = 0x08 → writes (.ldg d u) (c.group i.imm r.group)) ∧
     (i.opc = 0x0A → c.lane ≠ .fp64 → writes (.ldc d u) (List.replicate (lanesOf c.lane) i.imm)) ∧
     (i.opc = 0x0A → c.lane = .fp64 → writes (.ldc d u)
       (List.replicate (lanesOf c.lane) (encodeRounded .fp64 (roundTo .fp64 (decodeFloat .fp32 i.imm))))) ∧
     (i.opc = 0x0B → writes (.mov d u) (r.reg c i.va)) ∧
     (i.opc = 0x10 → writes (.rsum d u) (c.fold laneAdd r.group)) ∧
     (i.opc = 0x11 → writes (.rmax d u) (c.fold laneMax r.group)) ∧
     (i.opc = 0x12 → writes (.rmin d u) (c.fold laneMin r.group)) ∧
     (i.opc = 0x13 → writes (.rcnt d u) ((List.range (lanesOf c.lane)).map (fun l =>
       ((List.range c.ent.nin).filter (fun k =>
         lanePred c.lane i.sub (c.laneOf k (c.elem k r.group l)) ((r.reg c i.va).getD l 0))).length))) ∧
     (i.opc = 0x18 → writes (.stuAdd d u) (pair (laneAdd c.lane))) ∧
     (i.opc = 0x19 → writes (.stuMul d u) (pair (laneMul c.lane))) ∧
     (i.opc = 0x1A → writes (.stuMax d u) (pair (laneMax c.lane))) ∧
     (i.opc = 0x1B → writes (.stuMin d u) (pair (laneMin c.lane))) ∧
     (i.opc = 0x09 → (i.sub = 1 ∨ c.lane.isFloat = false) → go (.stg d u) { r with
       out := Mem.write r.out (r.group * lanesOf c.lane * c.ent.outBytes) ((r.reg c i.va).flatMap (fun v => toBytes 4 v)) }) ∧
     (∀ zf, i.opc = 0x09 → i.sub ≠ 1 → c.lane.isFloat = true → Fmt.ofCode c.ent.outFmt = some zf →
       let conv := (r.reg c i.va).map (fun v => convFloat zf .rne (decodeFloat c.lane v))
       go (.stg d u) { r with
         out := Mem.write r.out (r.group * lanesOf c.lane * c.ent.outBytes)
           (conv.flatMap (fun (x : Nat × Counts) => toBytes zf.bytes x.1))
         counts := conv.foldl (fun (a : Counts) (x : Nat × Counts) => a.add x.2) r.counts })) ∧
  (∀ (s : State) (d u : Nat) (r : StuRun) (c : StuCx) (i : StuIns) (x : List StuIns), s.sealed →
     s.hw.stuAt d u = some (r, c, i, x) →
     let b := stuB d u
     let h := s.hw
     (i.opc = 0x01 → exec (.stuEnd d u) s = .next (s.hwTo (h.endChunk d u r.ctx r.gen r.chunk))) ∧
     (i.opc = 0x02 → exec (.gloop d u) s = .next { s with hw := h.setStu d u { h.stu d u with
       run := some { r with pc := r.pc + 1, gloop := some (r.pc + 1, i.imm, 0), base := r.regs } } }) ∧
     (∀ bs olen n, recordOp c r i = some (bs, olen, n) →
       let g := h.rdmReads d u (c.reads r i)
       let puts (y : Instr) : Prop :=
         (g.1 = true → exec y s = .next (s.hwTo (((g.2.rdmWrite d (c.base + 512 * c.ent.nin) (8 * olen)).incSat
           Reg.stuDropUnsorted b 0 n).setStu d u
             { h.stu d u with run := some { r with pc := r.pc + 1, out := Mem.write [] 0 bs, olen := some olen } }))) ∧
         (g.1 = false → exec y s = .next (s.hwTo (g.2.failCx d u r c)))
       (h.badSites = [] → g.1 = true) ∧
       (i.opc = 0x20 → puts (.gcat d u)) ∧ (i.opc = 0x21 → puts (.msort d u)) ∧
       (i.opc = 0x22 → puts (.filt d u)) ∧ (i.opc = 0x23 → puts (.topk d u))) ∧
     (i.opc = 0x28 →
       let parts := r.frames c x
       let g := h.rdmReads d u (parts.map (fun q => q.2))
       let p := g.2.nodePre d u r.ctx (outPre (c.ins.map (fun f => Pre.of f.payload)) r.counts c.ent.top)
       let h1 := g.2.stuSend d u c.ent r.ctx r.gen r.chunk p parts
       let h2 := (h1.incSat Reg.stuConvSaturations b 0 r.counts.saturations).incSat Reg.stuConvNonfinite b 0 r.counts.nonfinite
       (h.badSites = [] → g.1 = true) ∧
       (g.1 = true → exec (.emit d u) s = .next (s.hwTo (h2.setStu d u { h2.stu d u with
         run := some { r with pc := r.pc + 1, emitted := true } }))) ∧
       (g.1 = false → exec (.emit d u) s = .next (s.hwTo (g.2.failCx d u r c)))))

/-- R347, R349, R351, R353 to R355: an agent whose group is set up takes the collective at the head of its dispatch
engine's queue: its contribution is packed under the next sequence of the group and the collective begins; one that
has begun goes on. A descriptor whose fields and extents are as R347, R353 and R355 ask begins, a bundle's table being
read where every word is sound. R350 to R353: the chunks of a collective that an agent runs: a child's CONTRIB is
staged once, a RESULT is forwarded to the agent's children and written, a SIGNATURE is turned down at the root and
held elsewhere, a DATA chunk is placed at its destination bytes and passed on. -/
def Obligations.CollectivesBeginAndTakeChunks : Prop :=
  (∀ (s : State) (d : Nat) (j : Job) (rest : List Job), s.sealed → s.hw.dieOn s.env d = true →
     s.hw.queue d 4 = j :: rest →
     let c := CollD.of j.body
     let each (h : Hw) : Prop :=
       (c.op = 0x10 → exec (.allreduce d) s = .next (s.hwTo h)) ∧ (c.op = 0x11 → exec (.reduce d) s = .next (s.hwTo h)) ∧
       (c.op = 0x12 → exec (.allgather d) s = .next (s.hwTo h)) ∧ (c.op = 0x13 → exec (.broadcast d) s = .next (s.hwTo h)) ∧
       (c.op = 0x14 → exec (.bundle d) s = .next (s.hwTo h))
     (∀ g a, s.hw.colls.find? (fun r => r.die = d && r.tag = some j.tag) = none → s.hw.group c.gkey = some g →
       g.agents.find? (fun a => a.die = d) = some a → g.form.isSome = true → a.failed = false →
       let own := s.hw.coord d 4
       let run := runOp (decodeColl s.env g c d own a j.tag) s.hw
       let begins : Prop := ∃ r h, run = (.ok r, h) ∧ r.tag = some j.tag ∧ r.opseq = a.opseq ∧ h.mem = s.hw.mem ∧
         each ((h.awaitJob d 4 j).collBegin s.env g r)
       let f := g.fmts 1
       let inB := f.inF.bytes
       let outB := f.outF.bytes
       let n := g.ends.length
       let lies (a n off : Nat) : Prop := s.hw.collLoc s.env a n = .ok off
       let word (a n : Nat) := Mem.num s.hw.mem a n
       (∀ r h, run = (.ok r, h) → each ((h.awaitJob d 4 j).collBegin s.env g r)) ∧
       (c.ok = true → g.move = (c.op = 0x12 || c.op = 0x13) →
         (∀ src dst, (c.op = 0x10 ∨ (c.op = 0x11 ∧ g.ends.contains c.root = true)) →
           let here := c.op = 0x10 ∨ c.root = own
           (c.zero = false → lies c.src (c.count * inB) src) → (here → lies c.dst (c.count * outB) dst) →
           (here ∨ c.dst = 0) →
           (c.zero = true ∨ ¬ here ∨ extOverlap src (c.count * inB) dst (c.count * outB) = false ∨
             (c.op = 0x10 ∧ src = dst ∧ inB = outB)) → begins) ∧
         (∀ src dst, c.op = 0x12 → n * c.rowBytes ≤ c.dstStride → (c.band = 0 ∨ c.rowBytes % c.band = 0) →
           let parts := if c.band = 0 then 1 else c.rowBytes / c.band
           let span (stride row : Nat) := if c.count = 0 ∨ c.rowBytes = 0 then 0 else (c.count - 1) * stride + row
           (c.pieces = true → c.pflags + 8 * (n * parts) ≤ 0x10000000) →
           lies c.src (span c.srcStride c.rowBytes) src → lies c.dst (span c.dstStride (n * c.rowBytes)) dst →
           extOverlap src (span c.srcStride c.rowBytes) dst (span c.dstStride (n * c.rowBytes)) = false → begins) ∧
         (∀ src dst, c.op = 0x13 → g.ends.contains c.root = true → lies c.src c.count src → lies c.dst c.count dst →
           extOverlap src c.count dst c.count = false → begins) ∧
         (∀ p (src dst : Nat → Nat), c.op = 0x14 → s.hw.sound → lies c.src (32 * c.count) p →
           let size (i : Nat) := word (p + 32 * i + 16) 4
           let zero (i : Nat) := word (p + 32 * i + 20) 4 = 1
           (∀ i < c.count, word (p + 32 * i + 20) 4 < 2 ∧ word (p + 32 * i + 24) 8 = 0 ∧
             (zero i → word (p + 32 * i) 8 = 0 ∧ src i = 0) ∧ (¬ zero i → lies (word (p + 32 * i) 8) (size i * inB) (src i)) ∧
             lies (word (p + 32 * i + 8) 8) (size i * outB) (dst i)) →
           ((upto c.count).map size).sum ≤ 2 * f.elems →
           (∀ i < c.count, ∀ k < c.count,
             (i ≠ k → extOverlap (dst i) (size i * outB) (dst k) (size k * outB) = false) ∧
             (¬ zero k → extOverlap (dst i) (size i * outB) (src k) (size k * inB) = false)) → begins))) ∧
     (∀ r, s.hw.colls.find? (fun r => r.die = d && r.tag = some j.tag) = some r → each (s.hw.collGo s.env r))) ∧
  (∀ (s : State) (f : Frame) (h : Hw) (g : Group) (r0 : CollRun), s.sealed → h.chunkFor f = .run g r0 →
     let p := Pre.of f.payload
     let r := { r0 with since := h.now }
     let ok (can : Group → CollRun → Frame → Bool) (h : Hw) : Bool :=
       match h.chunkFor f with | .wait => false | .drop => true | .run g r => can g r f
     let comes (role : Nat) (can : Group → CollRun → Frame → Bool) : Prop :=
       isChunk f role = true ∧ s.hw.arrive f (ok can) = (true, h)
     (comes roleContrib (fun _ _ _ => true) →
       (g.hostAt r.die (p.idx % 2)).any (fun x => x.kids.any (fun k => k.1 = Frame.src f)) = true → p.idx < r.chunks →
       r.staged.any (fun s => s.1 = p.idx && s.2.1 = Frame.src f) = false →
       let place := (Config.freeWord h.freeCount).toNat % orElse (g.stageSize / 4096) 1
       exec (.contrib f) s = .next (s.hwTo ((Hw.poke { h with freeCount := h.freeCount + 1 }
         (spWin r.die + g.stage + 4096 * place) f.payload).collGo s.env { r with
           staged := r.staged ++ [(p.idx, Frame.src f, f)] }))) ∧
     (comes roleResult resultCan → p.idx < r.chunks → r.got.contains p.idx = false → p.status = 0 → p.sat = 0 → p.nonfin = 0 →
       exec (.result f) s = .next (s.hwTo ((h.collForward g r f (p.idx % 2)).writeResults s.env g
         { r with got := r.got ++ [p.idx], held := r.held ++ [f] }))) ∧
     (comes roleSignature (fun _ _ _ => true) →
       (p.down = false → exec (.signature f) s = .next (s.hwTo ((h.putRun r).turnDown g r f 0))) ∧
       (p.down = true → p.rank < g.ends.length → exec (.signature f) s = .next (s.hwTo ((h.collForward g r f 0).moveOn s.env g
         { r with sigs := SMap.put r.sigs p.rank p.sig })))) ∧
     (∀ h1, comes roleData dataCan → p.down = true → p.status = 0 → p.idx < r.chunks →
       (r.senders g.ends.length).contains p.rank = true → (SMap.get r.landed [] p.rank).contains p.idx = false →
       r.held.contains f = false →
       runOp (r.writeMove g.ends.length p.rank p.idx (f.payload.drop 64)) (h.collForward g r f (p.idx % 2)) = (.ok (), h1) →
       let r1 := { r with
         landed := SMap.upd r.landed [] p.rank (fun l => l ++ [p.idx]), written := r.written + 1 }
       let b := (h1.inc Reg.deCollCntWritten (rkey r.die 4 0) 0 1).pieceFlags r1 g.ends.length p.rank
       exec (.data f) s = .next (s.hwTo (b.2.moveOn s.env g b.1))))

/-- R341, R342, R345: the management processor runs a waiting SETUP; a set-up record of a child or of the parent is
kept at the node of its group; a RELEASE of a LOADED partition is accepted for its epoch. R357: an agent whose
collective has waited longer than DE_COLL.TIMEOUT gives it up with TIMEOUT; a collective that still waits for its
group completes with TIMEOUT, is counted, and the group has failed at this agent. -/
def Obligations.GroupsAreSetUpReleasedOrTimedOut : Prop :=
  (∀ (s : State), s.sealed →
     (∀ j, s.hw.mgmtJob 0x40 = some j → exec .setup s = .next (s.hwTo (s.hw.runSetup s.env j))) ∧
     (∀ (f : Frame) (h : Hw), s.hw.arrive f (fun h => (h.group (setupKey f)).isSome) = (true, h) →
       (isSetup f 1 = true → exec (.setupUp f) s = .next (s.hwTo (h.setupAt f (fun x => { x with
         ups := SMap.put x.ups (pay f.payload 8 4) (pay f.payload 16 4) })))) ∧
       (isSetup f 2 = true → exec (.setupDown f) s = .next (s.hwTo (h.setupAt f (fun x => { x with
         down := some (pay f.payload 16 4, pay f.payload 20 4 % 1024) }))))) ∧
     (∀ j, s.hw.mgmtJob 0x41 = some j →
       let d := j.body
       d.fld 0 31 11 = 0 → d.fld 4 31 16 = 0 → d.fld 4 15 0 ≠ 0 → d.fld 8 63 0 = 0 → d.fld 0x18 319 0 = 0 →
       s.hw.kpostForeign j.origin (d.fld 0 10 8) = false → s.hw.loaded (d.fld 0 10 8) = true →
       exec .groupRelease s = .next { s with hw := s.hw.putJob 28 8 { j with started := true, since := s.hw.now } })) ∧
  (∀ (s : State) (d : Nat), s.sealed → s.hw.dieOn s.env d = true →
     let t := s.hw.rf Reg.deCollTimeout (rkey d 4 0)
     t ≠ 0 →
     (∀ r, s.hw.colls.find? (fun r => r.die = d) = some r →
       exec (.deCollTimeout d) s = .next (s.hwTo ((s.hw.reach (r.since + 1000 * t)).giveUp s.env r .timeout))) ∧
     (∀ j rest, s.hw.colls = [] → s.hw.queue d 4 = j :: rest → j.started = true → 0x10 ≤ j.body.fld 0 7 0 →
       j.body.fld 0 7 0 ≤ 0x14 →
       let gkey := (CollD.of j.body).gkey
       let h := (s.hw.reach (j.since + 1000 * t)).incSat Reg.deCollFailTimeouts (rkey d 4 0) 0 1
       exec (.deCollTimeout d) s = .next (s.hwTo ((h.finishJob d 4 j ⟨.timeout, 0, 0⟩).setAgent gkey
         { (match h.group gkey with | some g => g.agent d | none => ⟨d, 0, 0, [0, 0], true, none⟩) with failed := true }))))

/-- R370: a page command of a LOADED partition whose pages are well formed waits for its epoch, and completes with OK
at once where it names no page; a malformed one completes with BAD_DESCRIPTOR, one of a partition that is not LOADED
with PARTITION_DOWN (R450). R366: a swap of two pages that no Keeper holds and that have no word to correct or failing
exchanges their frames and takes its place off the queue of its home; every byte of memory reads at its own address as
before. R371: the counter policy chooses its pairs and halves every count of its home, at the end of the interval,
from which the next one runs (the model's choice, log entry 121). R384, R387: a scrub slot reads the next line of its
stack or channel and writes back its corrected words, so that they pass their check; a line with a failing word is
counted and recorded, and stays. R386: a refresh leaves memory and every queue alone; how warm the devices then are,
the manual leaves to the devices. -/
def Obligations.PagesMoveAndAreScrubbed : Prop :=
  (∀ (s : State) (j : Job), s.sealed →
     (s.hw.queue 28 1).find? (fun j => j.body.fld 0 7 0 ≠ 0x10 && !j.started) = some j →
     let c := PageD.of j.body
     let each (h : Hw) : Prop :=
       (c.op = 1 → exec .pinHbm s = .next (s.hwTo h)) ∧ (c.op = 2 → exec .pinDdr s = .next (s.hwTo h)) ∧
       (c.op = 3 → exec .unpin s = .next (s.hwTo h)) ∧ (c.op = 4 → exec .moveHbm s = .next (s.hwTo h)) ∧
       (c.op = 5 → exec .moveDdr s = .next (s.hwTo h))
     (s.hw.kpostForeign j.origin c.part = true → each (s.hw.migDone j .refused 0 0)) ∧
     (c.ok s.hw = false → s.hw.kpostForeign j.origin c.part = false → each (s.hw.migDone j .badDescriptor 0 0)) ∧
     (c.ok s.hw = true → s.hw.kpostForeign j.origin c.part = false → s.hw.loaded c.part = false →
       each (s.hw.migDone j .partitionDown 0 0)) ∧
     (c.ok s.hw = true → s.hw.kpostForeign j.origin c.part = false → s.hw.loaded c.part = true →
       (c.length = 0 → each (s.hw.migDone j .ok 0 0)) ∧
       (c.length ≠ 0 → each (s.hw.putJob 28 1 { j with started := true, since := s.hw.now })))) ∧
  (∀ (s : State) (m : Nat) (w : Swap) (rest : List Swap), s.sealed → 28 ≤ m → m < 32 →
     let up := pageNo m w.up
     let down := pageNo m w.down
     (SMap.get s.hw.swaps [] m = w :: rest → s.hw.queue 28 1 = [] → w.up ≠ w.down → w.tag = none →
       (∀ q ∈ [up, down], s.hw.regions.any (fun g => extOverlap (q * 2 ^ 21) (2 ^ 21) g.1 g.2) = false) →
       s.hw.pageBad up = none → s.hw.pageBad down = none → s.hw.badSites = [] → s.hw.corrWords = [] →
       ∃ t, exec (.pageSwap m) s = .next t ∧ (t.hw.page up).frame = (s.hw.page down).frame ∧
         (t.hw.page down).frame = (s.hw.page up).frame ∧ (∀ q, q ≠ up → q ≠ down → t.hw.page q = s.hw.page q) ∧
         t.hw.mem = s.hw.mem ∧ t.hw.swaps = SMap.put s.hw.swaps m rest) ∧
     (s.hw.rf Reg.migCtrlAuto (migB m) ≠ 0 → s.tl.det = false → SMap.get s.hw.swaps [] m = [] →
       let at_ := s.hw.reach (s.hw.migEnd m)
       let h0 := { at_ with migSince := SMap.put at_.migSince m at_.now }
       let pairs := h0.policyPairs m (h0.rf Reg.migCtrlMaxSwaps (migB m)) []
       let h := { h0 with pages := h0.pages.map (fun (x : Nat × Page) =>
         if x.1 % 4 = m - 28 then (x.1, { x.2 with count := x.2.count / 2 }) else x) }
       (pairs = [] → exec (.counterPolicy m) s = .next (s.hwTo h)) ∧
       (pairs ≠ [] → exec (.counterPolicy m) s = .next (s.hwTo { h with
         swaps := SMap.put h.swaps m (pairs.map (fun (x : Nat × Nat) => (⟨x.1, x.2, none⟩ : Swap))) })))) ∧
  (∀ (s : State) (m u : Nat), s.sealed → 28 ≤ m → m < 32 → s.hw.memUp m u = true →
     let place := s.hw.nextLine m u (SMap.get s.hw.scrubs 0 (ukey m u))
     let h := { s.hw with scrubs := SMap.put s.hw.scrubs (ukey m u) (place + 64) }
     (s.hw.rf Reg.migCtrlScrub (migB m) ≠ 0 →
       (h.lineAt m place = none → exec (.patrolScrub m u) s = .next { s with hw := h }) ∧
       (∀ a w, h.lineAt m place = some a → h.grainBad a 64 = some w →
         let h1 := h.countUncorrected w
         exec (.patrolScrub m u) s = .next (s.hwTo (h1.error (if h1.badWords.contains w then 1 else 2) 1 0 0
           (h1.globalAddr w) none (h1.coord m u)))) ∧
       (∀ a, h.lineAt m place = some a → h.grainBad a 64 = none →
         ∃ t, exec (.patrolScrub m u) s = .next t ∧ t.hw.mem = s.hw.mem ∧ t.hw.scrubs = h.scrubs ∧
           t.hw.corrWords = s.hw.corrWords.filter (fun w => w / 64 * 64 ≠ a))) ∧
     (∃ t, exec (.refresh m u) s = .next t ∧ t.hw.mem = s.hw.mem ∧ t.hw.jobs = s.hw.jobs ∧ t.hw.cores = s.hw.cores ∧
       t.hw.freeCount = s.hw.freeCount + 1))

/-- R373: WIN_RUN of a LOADED partition that runs no window program reads its header and starts the program. R381: END
completes the run with OK; a run whose wait has passed MIG_WIN.FLAG_TIMEOUT stops with TIMEOUT; R383: MIG_CTRL.ABORT
stops what runs with ABORTED. R378, R380, R381: the steps of a window program: FETCH writes the next use of its slot
once the consumer has released the use before, EXPERTS writes its records and its count and then fills the slots that
are free, WAIT goes on once its flag is set, LOOP goes back until its count is used up, BEAT goes on at the next
boundary. -/
def Obligations.WindowProgramsRun : Prop :=
  (∀ (s : State) (j : Job) (p : Nat), s.sealed → s.hw.queue 28 1 = [j] → j.body.fld 0 7 0 = 0x10 →
     let d := j.body
     let prog := d.fld 8 63 0
     (∀ off bs h r, d.fld 0 10 8 = p → j.started = false → SMap.find? s.hw.wins p = none → d.fld 0 31 11 = 0 →
       d.fld 4 31 16 = 0 → d.fld 0x10 383 0 = 0 → prog % 64 = 0 → s.hw.kpostForeign j.origin p = false →
       s.hw.loaded p = true → s.hw.resolve s.env true prog 64 = .ok (.here off) → isDev off = true →
       runOp (loadB off 64) { s.hw with moved := 0 } = (.ok bs, h) →
       (h.chargeMem (some p)).winHeader s.env p j.tag (d.fld 4 15 0) prog bs = some r →
       exec .winRun s = .next (s.hwTo (((h.chargeMem (some p)).putJob 28 1 { j with started := true }).putWin p r))) ∧
     (∀ off r, d.fld 0 10 8 = p → j.started = false → SMap.find? s.hw.wins p = none → d.fld 0 31 11 = 0 →
       d.fld 4 31 16 = 0 → d.fld 0x10 383 0 = 0 → prog % 64 = 0 → s.hw.kpostForeign j.origin p = false →
       s.hw.loaded p = true → s.hw.resolve s.env true prog 64 = .ok (.here off) → isDev off = true → s.hw.sound →
       s.hw.winHeader s.env p j.tag (d.fld 4 15 0) prog (Mem.read s.hw.mem off 64) = some r →
       ∃ t, exec .winRun s = .next t ∧ t.hw.wins = SMap.put s.hw.wins p r ∧ t.hw.mem = s.hw.mem ∧
         t.hw.queue 28 1 = [{ j with started := true }]) ∧
     (∀ r, SMap.find? s.hw.wins p = some r → r.tag = j.tag →
       let ends (h : Hw) (st : Status) : Hw := Hw.finishJob { h with wins := SMap.del h.wins p } 28 1 j ⟨st, 0, r.index⟩
       (∀ sv, r.step = some sv → (StepD.of sv).op = 6 → r.index < r.nsteps →
         exec (.winEnd p) s = .next (s.hwTo (ends s.hw .ok))) ∧
       (∀ since, r.since = some since → s.hw.rf Reg.migWinFlagTimeout (migB 28) ≠ 0 →
         exec (.migFlagTimeout p) s = .next (s.hwTo (ends
           (s.hw.reach (since + s.hw.rf Reg.migWinFlagTimeout (migB 28) * 1000)) .timeout))) ∧
       (s.hw.wins = [(p, r)] → (ends s.hw .aborted).queue 28 1 = [] →
         exec .migCtrlAbort s = .next (s.hwTo (ends s.hw .aborted))))) ∧
  (∀ (s : State) (p : Nat) (r : WinRun) (sv : BitVec 512), s.sealed → SMap.find? s.hw.wins p = some r →
     r.step = some sv → r.index < r.nsteps →
     let d := StepD.of sv
     let n := SMap.get r.uses 0 d.slot + 1
     let loops := SMap.get r.loops 0 r.index
     let goes (r : WinRun) (i : Nat) (h : Hw) : Hw :=
       h.putWin p { r with index := i, step := none, todo := none, since := none }
     let waits (h : Hw) : Hw := h.putWin p { r with since := some (r.since.getD h.now) }
     (∀ g, d.op = 1 → n ≠ 65536 → s.hw.winFree p r d.slot n = (some false, g) →
       exec (.fetch p) s = .next (s.hwTo (waits g))) ∧
     (∀ r' g h, d.op = 1 → n ≠ 65536 → s.hw.winFree p r d.slot n = (some true, g) →
       g.winUse s.env p r d d.slot n d.src = (some r', h) →
       exec (.fetch p) s = .next (s.hwTo (goes r' (r'.index + 1) h))) ∧
     (∀ g, d.op = 1 → n ≠ 65536 → s.hw.winFree p r d.slot n = (some true, g) → s.hw.sound → d.xform = 0 →
       (∀ i < d.a, (∃ o, g.localMem s.env (d.src + i * d.c) d.b = .ok o) ∧
         ∃ o, g.localMem s.env (r.window + d.slot * r.slotBytes + i * d.d) d.b = .ok o) →
       ∃ h, exec (.fetch p) s =
         .next (s.hwTo (goes { r with uses := SMap.put r.uses d.slot n, since := none } (r.index + 1) h))) ∧
     (∀ l, d.op = 2 → r.todo = some l →
       exec (.experts p) s = .next (s.hwTo (winDrain p s.env d (l.length + 1) r s.hw))) ∧
     (∀ off recs todo g h, d.op = 2 → r.todo = none → s.hw.winFlag s.env d.tflag 8 = .ok off →
       s.hw.winReadFlag p off d.ttag = (some true, g) → g.rf Reg.plcStatusInForce pkgB p ≠ 0 →
       g.rf Reg.plcStatusGen pkgB p = d.gen →
       g.winRunOp p (do
         let x ← winRecords s.env r d (g.plcBank p (g.rf Reg.plcStatusInForceBank pkgB p))
         winPutRecords s.env d x.1
         pure x) = (some (recs, todo), h) →
       let r' := { r with experts := r.experts + 1, todo := some todo, since := none }
       exec (.experts p) s = .next (s.hwTo (winDrain p s.env d (todo.length + 1) r'
         ((h.flag (r'.arrive + 8 * r'.nslots) (r'.tagOf r'.experts) (recs.length / 16)).putWin p r')))) ∧
     (∀ off bank g, d.op = 2 → r.todo = none → s.hw.winFlag s.env d.tflag 8 = .ok off →
       s.hw.winReadFlag p off d.ttag = (some true, g) → g.rf Reg.plcStatusInForce pkgB p ≠ 0 →
       g.rf Reg.plcStatusGen pkgB p = d.gen → s.hw.sound →
       let base := g.plcBank p (g.rf Reg.plcStatusInForceBank pkgB p)
       let entries := Mem.num g.mem (bank + 4) 4
       g.localMem s.env base 128 = .ok bank →
       (∀ i < entries, ∃ o, g.localMem s.env (base + 0x80 + 0x80 * i) 128 = .ok o) →
       (∀ i < 8 * entries, ∃ o, g.localMem s.env (d.totals + 4 * i) 4 = .ok o) →
       (∃ o, g.localMem s.env d.records (16 + 128 * entries) = .ok o) →
       (∀ slot, SMap.get r.uses 0 slot + 8 * entries + 1 < 65536) →
       ∃ todo h, exec (.experts p) s = .next (s.hwTo (winDrain p s.env d (todo.length + 1)
         { r with experts := r.experts + 1, todo := some todo, since := none } h))) ∧
     (∀ off g, d.op = 3 → s.hw.winFlag s.env d.src 8 = .ok off →
       (s.hw.winReadFlag p off d.a = (some true, g) → exec (.wait p) s = .next (s.hwTo (goes r (r.index + 1) g))) ∧
       (s.hw.winReadFlag p off d.a = (some false, g) → exec (.wait p) s = .next (s.hwTo (waits g)))) ∧
     (d.op = 4 → loops + 1 < d.b →
       exec (.loop p) s = .next (s.hwTo (goes { r with loops := SMap.put r.loops r.index (loops + 1) } d.a s.hw))) ∧
     (d.op = 4 → d.b ≤ loops + 1 →
       exec (.loop p) s = .next (s.hwTo (goes { r with loops := SMap.del r.loops r.index } (r.index + 1) s.hw))) ∧
     (d.op = 5 → s.hw.beatOf s.env p ≠ r.beat → exec (.winBeat p) s = .next (s.hwTo (goes r (r.index + 1) s.hw))) ∧
     (d.op = 5 → s.hw.beatOf s.env p = r.beat → exec (.winBeat p) s = .next s))

/-- R391, R395, R399: a request of another node that this package permits is carried out when it arrives and answered
with OK, OLD and the bytes read; a write its region table denies is counted and answered with WRITE_DENIED, and
changes nothing. With every word sound it is carried out. R403: in deterministic mode a floating-point FADD that comes
before its boundary is held for it with what identifies it, its operands and where its answer goes; memory keeps every
byte until then. R399: what each integer atomic writes, on operands of the format's width. R391, R397: an answer
reaches the request that its OPID names, once, and what waited for it goes on; a region table that has been read waits
for its epoch, and LOADING ends with the last of the four engines. -/
def Obligations.RemoteRequestsAreCarriedOut : Prop :=
  (∀ (s : State) (f : Frame) (h : Hw), s.sealed → s.hw.arrive f (reqRoom s.env f) = (true, h) →
     let r := ReqD.of f.payload
     let own := ownerFdie (cDie (Frame.src f))
     let each (h : Hw) : Prop :=
       let does (x : Instr) : Prop := exec x s = .next (s.hwTo h)
       (Frame.typ f = 1 → does (.write f)) ∧ (Frame.typ f = 6 → does (.readReq f)) ∧
       (Frame.typ f = 8 →
         (r.aop = 0x01 → does (.atomicAdd f)) ∧ (r.aop = 0x02 → does (.atomicAnd f)) ∧ (r.aop = 0x03 → does (.atomicOr f)) ∧
         (r.aop = 0x04 → does (.atomicXor f)) ∧ (r.aop = 0x05 → does (.atomicMin f)) ∧ (r.aop = 0x06 → does (.atomicMax f)) ∧
         (r.aop = 0x07 → does (.atomicMinu f)) ∧ (r.aop = 0x08 → does (.atomicMaxu f)) ∧
         (r.aop = 0x09 → does (.atomicSwap f)) ∧ (r.aop = 0x0A → does (.atomicCas f)) ∧ (r.aop = 0x10 → does (.atomicFadd f)))
     (h.reqStatus s.env own f r = .ok → r.deferred s.env (Frame.typ f) = false →
       let run := runOp (reqAccess f r) { h with moved := 0 }
       let did (old : Nat) (data : List Byte) (h1 : Hw) : Prop :=
         each ((h1.chargeMem (h.tagPart own (Frame.ptag f))).replyTo f r 0 old data)
       (∀ old data h1, run = (.ok (old, data), h1) → did old data h1) ∧
       (s.hw.sound → ∃ old data h1, run = (.ok (old, data), h1) ∧ did old data h1 ∧
         (Frame.typ f = 6 → data = Mem.read s.hw.mem (Frame.arg f) r.bytes) ∧
         (Frame.typ f = 8 → r.aop ≠ 0x10 → r.bytes = 1 → old = Mem.num s.hw.mem (Frame.arg f) (afmtBytes r.afmt)))) ∧
     (h.reqStatus s.env own f r = .writeDenied →
       each ((h.incSat Reg.rgnStatusDeniedRx pkgB 0 1).replyTo f r 0x32 0 []))) ∧
  (∀ (s : State) (f : Frame) (h : Hw), s.sealed → s.tl.det = true → Frame.typ f = 8 →
     let r := ReqD.of f.payload
     r.aop = 0x10 → s.hw.arrive f (reqRoom s.env f) = (true, h) →
     h.reqStatus s.env (ownerFdie (cDie (Frame.src f))) f r = .ok →
     (h.fabN < h.faddDue r.issue →
       exec (.atomicFadd f) s = .next (s.hwTo { h with defer := h.defer ++ [{
         due := h.faddDue r.issue, src := Frame.src f, thread := r.thread, tseq := r.tseq, off := Frame.arg f
         afmt := r.afmt, operands := r.operands f, local_ := none, opid := r.opid
         tag := Frame.ptag f, cls := Frame.cls f }] })) ∧
     (h.faddDue r.issue ≤ h.fabN →
       exec (.atomicFadd f) s = .next (s.hwTo ((h.incSat Reg.fatomCntLate pkgB 0 1).replyTo f r 0x42 0 [])))) ∧
  (∀ (afmt : Nat) (x a b : BitVec (8 * afmtBytes afmt)),
     let new (aop : Nat) := atomicNew aop afmt x.toNat a.toNat b.toNat
     new 0x01 = (x + a).toNat ∧ new 0x02 = (x &&& a).toNat ∧ new 0x03 = (x ||| a).toNat ∧ new 0x04 = (x ^^^ a).toNat ∧
     new 0x05 = (if a.toInt < x.toInt then a else x).toNat ∧ new 0x06 = (if x.toInt < a.toInt then a else x).toNat ∧
     new 0x07 = (if a < x then a else x).toNat ∧ new 0x08 = (if x < a then a else x).toNat ∧
     new 0x09 = a.toNat ∧ new 0x0A = (if x = b then a else x).toNat) ∧
  (∀ (s : State), s.sealed →
     (∀ (f : Frame) (h : Hw), Frame.typ f = 7 → s.hw.arrive f (fun _ => true) = (true, h) →
       let id := Frame.arg f % 2 ^ 32
       let answer : Resp := { code := Frame.arg f / 2 ^ 32 % 256, old := pay f.payload 8 8
                              data := (f.payload.drop 64).take (pay f.payload 0 2) }
       exec (.readResp f) s = .next (s.hwTo (Hw.settleReqs { h with
         reqs := h.reqs.map (fun q => if q.id = id && q.resp.isNone then { q with resp := some answer } else q) } s.env))) ∧
     (∀ d, 24 ≤ d → d < 28 → s.hw.rf Reg.rgnStatusLoading pkgB ≠ 0 → SMap.find? s.hw.rgnNext d = none →
       let w := s.hw.rgnTblWord
       let x := s.hw.readRegions (bits w 47 16 * 65536)
       let h := { s.hw with rgnNext := SMap.put s.hw.rgnNext d { enable := bit w 0, entries := x.1, bad := x.2 } }
       exec (.regionTableLoaded d) s = .next (s.hwTo
         (if (upto 4).all (fun i => (SMap.find? h.rgnNext (24 + i)).isSome) then h.wf Reg.rgnStatusLoading pkgB 0 0 else h))))

/-- R406, R409: a load of the own node reads its bytes, or the register it names, writes the register that its form
names and ends the thread's turn; one of another node sends its request and waits for the answer. A store writes its
low bytes at its address, or the register it names, the thread going on; FENCE goes on once nothing of the thread is
outstanding, and waits until then. With every word sound the bytes are read and written. R410, R413: an AMO of the own
node reads, computes and writes its word; with a destination it returns the old one and ends the turn, without one it
is posted. LR reads and reserves the word, SC writes where the reservation holds and returns 0, else returns 1 and
writes nothing, the reservation gone either way; KAMOFADD outside deterministic mode adds without a result. With every
word sound, and no mirrored region, they do so. -/
def Obligations.ControlProcessorsReachMemory : Prop :=
  (∀ (s : State) (i : CpIns) (h : Hw), s.sealed →
     (s.cpRuns .load i h →
       let a := add64n (i.x.rx (rvRs1 i.w)) (immI i.w)
       let n := (loadKind i.w).1
       let got (g : Hw) (v : Nat) : Prop := exec (.cpLoad i.die i.unit i.t) s = .next (s.hwTo ((g.cpDone i
         (i.x.take (loadKind i.w).2 (rvRd i.w) v) i.next).cpOver i.die i.unit))
       (∀ off, h.cpPlace s.env i.die a n = .ok (.ok (.here off)) → h.lineBusy i (.here off) = none →
         let g := h.cpCount i (.here off)
         let run := runOp (loadN off n) { g with moved := 0 }
         (∀ v h1, run = (.ok v, h1) → got (h1.chargeMem (g.partOf i.die)) v) ∧
         (s.hw.sound → ∃ h1, run = (.ok (Mem.num s.hw.mem off n), h1) ∧
           got (h1.chargeMem (g.partOf i.die)) (Mem.num s.hw.mem off n))) ∧
       (∀ place, h.cpPlace s.env i.die a n = .ok (.ok (.regs place)) →
         let r := (h.cpCount i (.regs place)).busRead s.env place n
         got r.2 r.1) ∧
       (∀ node off, h.cpPlace s.env i.die a n = .ok (.ok (.there node off)) → h.lineBusy i (.there node off) = none →
         let g := h.cpCount i (.there node off)
         exec (.cpLoad i.die i.unit i.t) s = .next (s.hwTo ((g.issue (i.owner (rvRd i.w) (loadKind i.w).2 a)
           (g.coord i.die i.unit) (g.partOf i.die) 6 node off n false (fun id => reqPreamble id n 0 0 0 0 0 0 0)).cpAwait i)))) ∧
     (s.cpRuns .store i h →
       let a := add64n (i.x.rx (rvRs1 i.w)) (immS i.w)
       let n := 2 ^ rvF3 i.w
       let v := (if rvOp i.w = 0x27 then i.x.rf (rvRs2 i.w) else i.x.rx (rvRs2 i.w)) % 2 ^ (8 * n)
       h.slotsFull i = false →
       (∀ off, h.cpPlace s.env i.die a n = .ok (.ok (.here off)) → h.lineBusy i (.here off) = none →
         let g := (h.cpCount i (.here off)).cpDone i i.x i.next
         let run := runOp (storeN off n v) { g with moved := 0 }
         let put (h1 : Hw) : Prop :=
           exec (.cpStore i.die i.unit i.t) s = .next (s.hwTo ((h1.chargeMem (g.partOf i.die)).cpMirror i 0 a))
         (∀ h1, run = (.ok (), h1) → put h1) ∧ (s.hw.sound → ∃ h1, run = (.ok (), h1) ∧ put h1)) ∧
       (∀ place, h.cpPlace s.env i.die a n = .ok (.ok (.regs place)) → exec (.cpStore i.die i.unit i.t) s = .next
         (s.hwTo (((h.cpCount i (.regs place)).cpDone i i.x i.next).busWrite s.env place n v)))) ∧
     (s.cpRuns .fence i h →
       (h.outstanding i.die i.unit i.t = [] → exec (.cpFence i.die i.unit i.t) s = .next (s.hwTo (h.cpDone i i.x i.next))) ∧
       (h.outstanding i.die i.unit i.t ≠ [] → exec (.cpFence i.die i.unit i.t) s = .next (s.hwTo (h.cpWait i .fence))))) ∧
  (∀ (s : State) (i : CpIns) (h : Hw), s.sealed →
     let part := h.partOf i.die
     let a := i.x.rx (rvRs1 i.w)
     let plain := s.hw.sound ∧ s.hw.mirrors = []
     (s.cpRuns .amo i h →
       let afmt := rvF3 i.w - 2
       let n := afmtBytes afmt
       ∀ off, h.cpPlace s.env i.die a n = .ok (.ok (.here off)) → h.lineBusy i (.here off) = none →
         (rvRd i.w = 0 → h.slotsFull i = false) →
         let g := h.cpCount i (.here off)
         let run := runOp (atomicApply ((amoOp (bits i.w 31 27)).getD 1) afmt off [i.x.rx (rvRs2 i.w) % 2 ^ (8 * n)] 0)
           { g with moved := 0 }
         let did (old : Nat) (h1 : Hw) : Prop :=
           let g1 := h1.chargeMem (g.partOf i.die)
           (rvRd i.w ≠ 0 → exec (.cpAmo i.die i.unit i.t) s = .next (s.hwTo ((g1.cpDone i
             (i.x.take (10 + afmt) (rvRd i.w) old) i.next).cpOver i.die i.unit))) ∧
           (rvRd i.w = 0 → exec (.cpAmo i.die i.unit i.t) s = .next (s.hwTo (g1.cpDone i (i.x.take 0 0 old) i.next)))
         (∀ old h1, run = (.ok old, h1) → h1.mirq = [] → did old h1) ∧
         (plain → ∃ h1, run = (.ok (Mem.num s.hw.mem off n), h1) ∧ did (Mem.num s.hw.mem off n) h1)) ∧
     (s.cpRuns .lr i h →
       let n := if rvF3 i.w = 2 then 4 else 8
       ∀ off, h.cpOwnWord s.env i.die a n = .ok off →
         let run := runOp (loadN off n) { h with moved := 0 }
         let did (v : Nat) (h1 : Hw) : Prop :=
           let g := h1.chargeMem part
           exec (.lr i.die i.unit i.t) s = .next (s.hwTo ((Hw.cpDone { g with
             reservations := SMap.put g.reservations (threadKey i.die i.unit i.t) (off / 8 * 8) } i
               (i.x.take (if n = 4 then 3 else 4) (rvRd i.w) v) i.next).cpOver i.die i.unit))
         (∀ v h1, run = (.ok v, h1) → did v h1) ∧
         (s.hw.sound → ∃ h1, run = (.ok (Mem.num s.hw.mem off n), h1) ∧ did (Mem.num s.hw.mem off n) h1)) ∧
     (s.cpRuns .sc i h →
       let n := if rvF3 i.w = 2 then 4 else 8
       let key := threadKey i.die i.unit i.t
       let g := { h with reservations := SMap.del h.reservations key }
       let ends (g : Hw) (v : Nat) : Prop := exec (.sc i.die i.unit i.t) s = .next
         (s.hwTo ((g.cpDone i (i.x.wx (rvRd i.w) v) i.next).cpOver i.die i.unit))
       ∀ off, h.cpOwnWord s.env i.die a n = .ok off →
         (SMap.find? h.reservations key ≠ some (off / 8 * 8) → ends g 1) ∧
         (SMap.find? h.reservations key = some (off / 8 * 8) →
           let run := runOp (storeN off n (i.x.rx (rvRs2 i.w) % 2 ^ (8 * n))) { g with moved := 0 }
           (∀ h1, run = (.ok (), h1) → ends (h1.chargeMem part) 0) ∧
           (s.hw.sound → ∃ h1, run = (.ok (), h1) ∧ ends (h1.chargeMem part) 0))) ∧
     (∀ afmt off, s.tl.det = false → (s.cpRuns .kaddW i h ∧ afmt = 2) ∨ (s.cpRuns .kaddD i h ∧ afmt = 3) →
       h.cpPlace s.env i.die a (afmtBytes afmt) = .ok (.ok (.here off)) → h.lineBusy i (.here off) = none →
       h.slotsFull i = false →
       let g := (h.cpCount i (.here off)).cpDone i i.x i.next
       let run := runOp (atomicApply 0x10 afmt off [i.x.rx (rvRs2 i.w) % 2 ^ (8 * afmtBytes afmt)] 0) { g with moved := 0 }
       let did (h1 : Hw) : Prop :=
         let g1 := ((h1.chargeMem (g.partOf i.die)).takeTseq i.die i.unit i.t).2
         (afmt = 2 → exec (.kamofaddW i.die i.unit i.t) s = .next (s.hwTo g1)) ∧
         (afmt = 3 → exec (.kamofaddD i.die i.unit i.t) s = .next (s.hwTo g1))
       (∀ old h1, run = (.ok old, h1) → h1.mirq = [] → did h1) ∧
       (plain → ∃ old h1, run = (.ok old, h1) ∧ did h1)))

/-- R407, R408, R411: an instruction that computes writes its registers and goes on where it says; KYIELD also ends
the turn; FENCE.I empties the instruction cache; ECALL stops the thread with cause 1 and a0, behind the instruction.
R520: where a register that the instruction reads fails its check, the thread stops in its place, whatever the
instruction. R414, R415: KWAITF of a set flag returns its COUNT, of another it waits; KPOST of a descriptor that its
target and the ring have room for returns 0 and posts it, without room it returns 1, and for a target it may not name
2. With every word sound they do so. -/
def Obligations.ControlProcessorsComputeWaitAndPost : Prop :=
  (∀ (s : State) (i : CpIns) (h : Hw), s.sealed →
     (∀ x pc, s.cpRuns .other i h → rvOp i.w ≠ 0x73 → cpCompute i = some (x, pc) →
       exec (.cpInstruction i.die i.unit i.t) s = .next (s.hwTo (h.cpDone i x pc))) ∧
     (s.cpRuns .kyield i h →
       exec (.kyield i.die i.unit i.t) s = .next (s.hwTo ((h.cpDone i i.x i.next).cpOver i.die i.unit))) ∧
     (s.cpRuns .fenceI i h →
       let g := h.cpDone i i.x i.next
       exec (.fenceI i.die i.unit i.t) s = .next (s.hwTo (g.setCp i.die i.unit { g.cp i.die i.unit with icache := [] }))) ∧
     (s.cpRuns .ecall i h →
       let b := rkey i.die i.unit 0
       exec (.ecall i.die i.unit i.t) s = .next (s.hwTo (((h.stopThread i.die i.unit i.t 1 0 (i.x.rx 10)).wf
         Reg.cpPcPc b i.t i.next).wf Reg.cpTstatState b i.t 0))) ∧
     (let d := i.die
      let u := i.unit
      let t := i.t
      ∀ p ∈ [(CpClass.load, Instr.cpLoad d u t), (.store, .cpStore d u t), (.amo, .cpAmo d u t), (.lr, .lr d u t),
         (.sc, .sc d u t), (.fence, .cpFence d u t), (.fenceI, .fenceI d u t), (.ecall, .ecall d u t),
         (.kaddW, .kamofaddW d u t), (.kaddD, .kamofaddD d u t), (.kyield, .kyield d u t), (.kwaitf, .kwaitf d u t),
         (.kpost, .kpost d u t), (.other, .cpInstruction d u t)],
        s.cpIssues p.1 i h → h.badSites.contains (.file d u t) = true → exec p.2 s = .next (s.hwTo (h.cpFileFail d u t)))) ∧
  (∀ (s : State) (i : CpIns) (h : Hw), s.sealed →
     let part := h.partOf i.die
     let a := i.x.rx (rvRs1 i.w)
     (s.cpRuns .kwaitf i h →
       let tag := i.x.rx (rvRs2 i.w) % 2 ^ 32
       ∀ off, h.resolve s.env false a 8 = .ok (.here off) → off % 8 = 0 → spDie off = some i.die →
         let run := runOp (loadN off 8) { h with moved := 0 }
         let did (v : Nat) (h1 : Hw) : Prop :=
           let g := h1.chargeMem part
           (bits v 31 0 = tag →
             exec (.kwaitf i.die i.unit i.t) s = .next (s.hwTo (g.cpDone i (i.x.wx (rvRd i.w) (bits v 63 32)) i.next))) ∧
           (bits v 31 0 ≠ tag →
             exec (.kwaitf i.die i.unit i.t) s = .next (s.hwTo ((g.wf Reg.cpPcPc (rkey i.die i.unit 0) i.t i.next).cpWait i
               (.flag (rvRd i.w) off tag g.now i.pc))))
         (∀ v h1, run = (.ok v, h1) → did v h1) ∧
         (s.hw.sound → ∃ h1, run = (.ok (Mem.num s.hw.mem off 8), h1) ∧ did (Mem.num s.hw.mem off 8) h1)) ∧
     (s.cpRuns .kpost i h →
       let v := i.x.rx (rvRs2 i.w)
       let c := v % 2 ^ 32
       ∀ off, h.slotsFull i = false → h.resolve s.env false a 128 = .ok (.here off) → off % 64 = 0 →
         spDie off = some i.die →
         let run := runOp (loadB off 128) { h with moved := 0 }
         let did (bs : List Byte) (h1 : Hw) : Prop :=
           let g := h1.chargeMem part
           let gives (n : Nat) : Hw := g.cpDone i (i.x.wx (rvRd i.w) n) i.next
           let room := g.targetRoom (cDie c) (cUnit c) (bs.headD 0).toNat
           (g.kpostTarget s.env i.die c = false → exec (.kpost i.die i.unit i.t) s = .next (s.hwTo (gives 2))) ∧
           (g.kpostTarget s.env i.die c = true → room = false ∨ g.kpostRoom i.die i.unit = false →
             exec (.kpost i.die i.unit i.t) s = .next (s.hwTo (gives 1))) ∧
           (g.kpostTarget s.env i.die c = true → room = true → g.kpostRoom i.die i.unit = true →
             exec (.kpost i.die i.unit i.t) s = .next (s.hwTo ((gives 0).kpostGo i c (v / 2 ^ 32) bs)))
         (∀ bs h1, run = (.ok bs, h1) → did bs h1) ∧
         (s.hw.sound → ∃ h1, run = (.ok (Mem.read s.hw.mem off 128), h1) ∧ did (Mem.read s.hw.mem off 128) h1)))

/-- R411, R412, R413: START of a stopped thread of a die in a partition clears it and lets it run, STOP halts it with
cause 7, a KWAITF past CP_CTRL.FLAG_TIMEOUT stops it with cause 6 and TIMEOUT; CP_CTRL.ABORT halts every thread that
lives. R411: a thread that stops keeps its cause, its status and its value, waits for nothing, and is not running; no
memory changes. -/
def Obligations.ThreadsStartStopAndKeepTheirCause : Prop :=
  (∀ (s : State) (d u t : Nat), s.sealed → s.hw.dieOn s.env d = true → 7 ≤ u → u ≤ 10 → t < 16 →
     let b := rkey d u 0
     let state := s.hw.threadState d u t
     let limit := s.hw.rf Reg.cpCtrlFlagTimeout b
     ((s.hw.partOf d).isSome = true → state ≠ 1 → state ≠ 2 →
       ∃ h, exec (.cpTstatStart d u t) s = .next h ∧ h.hw.threadState d u t = 1 ∧ h.hw.thread d u t = {} ∧
         h.hw.rf Reg.cpTstatStatus b t = 0 ∧ h.hw.rf Reg.cpTstatCause b t = 0 ∧ h.hw.mem = s.hw.mem ∧
         h.hw.reservations = SMap.del s.hw.reservations (threadKey d u t)) ∧
     (s.hw.threadLive d u t = true → exec (.cpTstatStop d u t) s = .next (s.hwTo (s.hw.stopThread d u t 7 0 0))) ∧
     (∀ rd off tag since pc, (s.hw.thread d u t).wait = some (.flag rd off tag since pc) → state = 2 → limit ≠ 0 →
       exec (.cpFlagTimeout d u t) s = .next (s.hwTo ((s.hw.reach (since + 1000 * limit)).stopThread d u t 6 0x42 0))) ∧
     exec (.cpCtrlAbort d u) s = .next (s.hwTo ((List.range 16).foldl (fun h t =>
       if h.threadLive d u t then h.stopThread d u t 7 0 0 else h) s.hw))) ∧
  (∀ (h : Hw) (d u t cause status v : Nat), 7 ≤ u → u ≤ 10 → t < 16 → cause < 8 → status < 256 → v < 2 ^ 64 →
     let b := rkey d u 0
     let h' := h.stopThread d u t cause status v
     h'.threadState d u t = 3 ∧ h'.rf Reg.cpTstatCause b t = cause ∧ h'.rf Reg.cpTstatStatus b t = status ∧
     h'.rf Reg.cpTvalValue b t = v ∧ (h'.thread d u t).wait = none ∧ (h'.thread d u t).failed = none ∧
     (h'.thread d u t).x = (h.thread d u t).x ∧ (h'.thread d u t).f = (h.thread d u t).f ∧ h'.mem = h.mem)

/-- R419: TIME_SET, on the grandmaster before it first sets SYNCED, gives the counter the written value; at any other
time, and on any other package, it is discarded and raises an event. R424: a package that stays without its parent for
10 ms clears SYNCED. R81: a write to NUM_WATCH.STEP asks for a step boundary. -/
def Obligations.TimeIsSetAndLost : Prop :=
  ∀ (s : State) (v : Word), s.sealed →
    (s.hw.rf Reg.timeCtrlGrandmaster tmB = 1 → s.hw.sync.everSynced = false →
      exec (.timeSet v) s = .next { s with hw := { s.hw with
        now := v.toNat, fabN := max s.hw.fabN ((v.toNat - s.tl.fabOrigin) / s.tl.fabPeriod) } }) ∧
    (s.hw.rf Reg.timeCtrlGrandmaster tmB ≠ 1 ∨ s.hw.sync.everSynced = true →
      exec (.timeSet v) s = .next (s.hwTo (s.hw.regFault 4 (tmB + Reg.timeSet.off)))) ∧
    (∀ t, s.hw.sync.lostAt = some t → s.hw.rf Reg.timeStatusSynced tmB = 1 → s.hw.rf Reg.timeStatusGm tmB = 0 →
      exec .syncLostTimeout s = .next (s.hwTo ((s.hw.reach (t + 10000000)).setSynced false 0xFF))) ∧
    exec .numWatchStep s = .next { s with hw := { s.hw with watchStep := true } }

/-- R430, R431: a CINCH of a LOADED partition whose timeline is IDLE, on a synchronised package that has joined, reads
its span, tells the leader that it is ready and arms the timeline with its period, as it does of a span of endpoints
whose entry and list are on this package, every word being sound. R432: GO sets the origin of an armed timeline, which
runs at once where that has passed; R434, R435: FAIL, and a member's timeout, end the cinch and leave the timeline
IDLE. R431, R432, R434: at the leader a READY of a member that agrees is counted, and the last of them sends GO with
an origin at or after NOT_BEFORE and LEAD ahead, a multiple of 10 ns; a READY that differs, or the leader's timeout,
sends FAIL. -/
def Obligations.CinchesAgreeArmAndStart : Prop :=
  (∀ (s : State) (j : Job) (p : Nat), s.sealed →
     ((s.hw.queue 28 10).find? (fun j => !j.started) = some j → j.body.fld 0 10 8 = p → cinchOk j.body = true →
       s.hw.loaded p = true → (s.tl.part p).st = .idle → s.hw.rf Reg.timeStatusSynced tmB ≠ 0 → s.hw.node?.isSome = true →
       s.hw.rf Reg.spanTblEnable pkgB p ≠ 0 →
       let d := j.body
       let id := d.fld 4 11 0
       let table := s.hw.rf Reg.spanTblBase pkgB p * 2 ^ 17
       let armed (bytes : List Byte) (ends : List Nat) (h : Hw) : Prop :=
         let j' := { j with started := true, since := h.now }
         let c : Cinch := {
           job := j', ckey := d.fld 0x0C 31 0, period := d.fld 8 31 0, lead := orElse (d.fld 0x10 31 0) 10000
           timeout := orElse (d.fld 0x14 31 0) 1000000, notBefore := d.fld 0x18 63 0, span := id
           sig := crc64 bytes, leader := cNode (ends.headD 0), members := (ends.map cNode).eraseDups, accepted := h.now }
         exec .cinch s = .next (s.tlTo (s.tl.setPart p { st := .armed, period := d.fld 8 31 0 })
           (Hw.timeSend { h.putJob 28 10 j' with cinches := SMap.put h.cinches p c } c.leader
             (cinchRecord 1 p c.span c.ckey c.period 0 h.now c.sig 0)))
       (∀ x h, runOp (readSpan s.env table spanCount id 0) s.hw = (.ok x, h) → noDup x.ends = true →
         armed x.bytes x.ends h) ∧
       (∀ a q, s.hw.sound → s.hw.localMem s.env (table + 32 * id) 32 = .ok a →
         let num (x n : Nat) := Mem.num s.hw.mem x n
         let count := num (a + 2) 2
         let list := num (a + 8) 8
         let ends := (upto count).map (fun i => num (q + 4 * i) 4)
         num a 2 = 2 ^ 15 + id → count ≠ 0 → num (a + 16) 16 = 0 → list < 2 ^ 48 → list % 4 = 0 →
         s.hw.localMem s.env list (4 * count) = .ok q →
         (∀ c ∈ ends, c < 2 ^ 24 ∧ s.env.coordOk s.hw.node c = true) → strictAsc ends = true → num (a + 4) 4 = ends.headD 0 →
         ∃ h, h.mem = s.hw.mem ∧ h.now = s.hw.now ∧ armed (Mem.read s.hw.mem q (4 * count)) ends h)) ∧
     (∀ f h c, isTimeRec f 2 = true → s.hw.arrive f (fun _ => true) = (true, h) → recPart f = p →
       SMap.find? h.cinches p = some c → (s.tl.part p).st = .armed → (s.tl.part p).go = false → recKey f = c.ckey →
       let t0 := pay f.payload 0x10 8
       let x := s.tl.part p
       let h1 := { h.wf Reg.dlmCtrlLeader tmB p (b2n (c.leader = h.node)) with
         dlm := SMap.put h.dlm p { ckey := c.ckey, span := c.span, members := c.members, leader := c.leader } }
       (h.now < t0 → exec (.go f) s = .next (s.tlTo (s.tl.setPart p { x with origin := t0, go := true }) h1)) ∧
       (t0 ≤ h.now → exec (.go f) s = .next (s.tlTo (s.tl.setPart p { x with origin := t0, go := true, st := .running })
         (Hw.cinchStart { h1 with partN := SMap.put h1.partN p ((h.now - t0) / x.period) } p true)))) ∧
     (∀ f h c st, isTimeRec f 3 = true → s.hw.arrive f (fun _ => true) = (true, h) → recPart f = p →
       SMap.find? h.cinches p = some c → recKey f = c.ckey → Status.ofCode (pay f.payload 0x0C 1) = some st → st ≠ .mismatch →
       exec (.fail f) s = .next (s.tlTo (s.tl.setPart p {}) ((Hw.finishJob { h with cinches := SMap.del h.cinches p } 28 10
         c.job ⟨st, 0, 0⟩).dropLaunches p))) ∧
     (∀ c, SMap.find? s.hw.cinches p = some c → c.leader ≠ s.hw.node → (s.tl.part p).go = false →
       let h := s.hw.reach (c.accepted + 3000 * c.timeout)
       exec (.cinchMemberTimeout p) s = .next (s.tlTo (s.tl.setPart p {})
         ((Hw.finishJob { h with cinches := SMap.del h.cinches p } 28 10 c.job ⟨.timeout, 0, 0⟩).dropLaunches p)))) ∧
  (∀ (s : State) (p : Nat) (c : Cinch), s.sealed →
     (∀ f h, isTimeRec f 1 = true → recPart f = p → SMap.find? h.cinches p = some c → c.decided = false →
       s.hw.arrive f (fun h => match SMap.find? h.cinches (recPart f) with | some c => c.leader = h.node | none => false)
         = (true, h) →
       let n := cNode (Frame.src f)
       let agrees := recKey f = c.ckey ∧ pay f.payload 8 4 = c.period ∧ pay f.payload 0x18 8 = c.sig
       let c' := { c with ready := natInsert c.ready n }
       (¬ agrees → exec (.ready f) s = .next (s.hwTo (h.cinchTell p c 3 0x30 0 (512 * n)))) ∧
       (agrees → c.members.contains n = true → c'.ready.length = c.members.length →
         exec (.ready f) s = .next (s.hwTo (h.cinchTell p c' 2 0 (alignUp (max c.notBefore (h.now + c.lead)) 10) 0))) ∧
       (agrees → c.members.contains n = true → c'.ready.length ≠ c.members.length →
         exec (.ready f) s = .next (s.hwTo { h with cinches := SMap.put h.cinches p c' }))) ∧
     (SMap.find? s.hw.cinches p = some c → c.leader = s.hw.node → c.decided = false →
       exec (.cinchTimeout p) s = .next (s.tlTo s.tl
         ((s.hw.reach (c.accepted + 1000 * c.timeout)).cinchTell p c 3 0x42 0 0))))

/-- R459 to R463: the leader keeps the lag that a member's record tells; a member keeps a plan record that is newer
than its last switch for its target; DLM_CMD.FORCE at the leader requests the plan, and is discarded with an event
elsewhere. -/
def Obligations.DeadlineRecordsAreKept : Prop :=
  ∀ (s : State), s.sealed →
    (∀ f h, s.hw.arrive f (fun _ => true) = (true, h) →
      let p := recPart f
      let x := h.dlmOf p
      (isTimeRec f 5 = true → h.rf Reg.dlmCtrlLeader tmB p = 1 → recKey f = x.ckey →
        exec (.lag f) s = .next (s.hwTo (h.setDlm p { x with
          lags := SMap.put x.lags (cNode (Frame.src f)) (pay f.payload 8 2) }))) ∧
      (isTimeRec f 6 = true → (s.tl.part p).st = .running → recKey f = x.ckey →
        h.rf Reg.dlmStatusSwitches tmB p < pay f.payload 0x0C 4 →
        exec (.plan f) s = .next (s.hwTo ((h.setDlm p { x with
          pending := some (pay f.payload 0x0A 2 % 2, pay f.payload 0x10 8, pay f.payload 0x0C 4) }).wf
            Reg.dlmStatusPending tmB p 1)))) ∧
    (∀ p plan, p < 8 → plan < 2 →
      (s.hw.rf Reg.dlmCtrlLeader tmB p = 1 →
        exec (.dlmCmdForce p plan) s = .next (s.hwTo (s.hw.requestPlan p plan
          (if (s.tl.part p).st = .running then SMap.get s.hw.partN 0 p else 0) (s.hw.rf Reg.dlmStatusMaxlag tmB p)))) ∧
      (s.hw.rf Reg.dlmCtrlLeader tmB p ≠ 1 →
        exec (.dlmCmdForce p plan) s = .next (s.hwTo (s.hw.regFault 4 (tmB + Reg.dlmCmd.off + Reg.dlmCmd.stride * p)))))

/-- R447, R448, R451: a LOAD that is not refused makes its partition LOADING and issues its RESERVEs, as it does
without RESERVEs, or with a table of them on this package whose every word is sound; a RELEASE of a LOADED partition
waits for its epoch, of a FREE one it completes with OK at once. -/
def Obligations.PartitionsLoadAndRelease : Prop :=
  ∀ (s : State) (j : Job), s.sealed →
    let c := PartD.of j.body
    ((s.hw.queue 28 8).find? (fun j => !j.started &&
        !(([0x40, 0x41, 0x71] : List Nat).contains (j.body.fld 0 7 0))) = some j →
      j.body.fld 0 7 0 = 0x70 → c.reserved = true →
      (∀ d u t n, j.origin ≠ .kpost d u t n) → s.hw.loadRefused s.env c = false →
      let run := runOp (readResv s.env c) s.hw
      let loads (l : List (Nat × Desc)) (h : Hw) : Prop :=
        let j' := { j with started := true, since := h.now }
        let h1 : Hw := { h.putJob 28 8 j' with partJobs := h.partJobs ++ [
          { job := j', part := c.part, isLoad := true, dies := c.dies, at_ := c.at_, waiting := l.map (fun y => y.1) }] }
        exec .load s = .next (s.hwTo (l.foldl (fun h y => h.enqueue y.1 0
          { body := y.2, origin := .load c.part y.1, part := some c.part, beat := none }) (h1.wf Reg.partState pkgB c.part 1)))
      (∀ l h, run = (.ok l, h) → loads l h) ∧
      (c.resv = 0 → loads [] s.hw) ∧
      (∀ a, s.hw.sound → c.resv ≠ 0 → s.hw.localMem s.env c.resv 256 = .ok a →
        let entry (i : Nat) : Desc := BitVec.ofNat 1024 (Mem.num s.hw.mem (a + 64 * i) 64)
        (∀ i < 4, (entry i).fld 0 7 0 = 0 ∨ ((entry i).fld 0 7 0 = 1 ∧ (entry i).fld 0 10 8 = c.part)) →
        ∃ h, h.mem = s.hw.mem ∧
          loads (((upto 4).filter (fun i => (entry i).fld 0 7 0 = 1)).map (fun i => (28 + i, entry i))) h)) ∧
    (s.hw.mgmtJob 0x71 = some j → c.reserved = true → c.dies = 0 → c.spBytes = 0 → c.prog = 0 → c.cores = 0 → c.resv = 0 →
      (∀ d u t n, j.origin ≠ .kpost d u t n) →
      let j' := { j with started := true, since := s.hw.now }
      (s.hw.rf Reg.partState pkgB c.part = 0 → exec .partitionRelease s = .next (s.hwTo (s.hw.partDone j .ok 0))) ∧
      (s.hw.rf Reg.partState pkgB c.part = 2 → exec .partitionRelease s = .next (s.hwTo { s.hw.putJob 28 8 j' with
        partJobs := s.hw.partJobs ++ [{ job := j', part := c.part, isLoad := false, dies := 0, at_ := c.at_ }] })))

/-- R426, R427: a boundary of the fabric timeline is the next of its number, at its time, and the epoch of the mode
and of every block on that timeline; R426: the next boundary of a RUNNING partition's timeline falls PERIOD after the
one before, and boundary 0 of an armed one at its origin; R428: where the next fabric boundary falls at the same
counter value, its changes take force first. R24: a die link that stays down is marked so and is fatal: the event is
raised and all work aborted. -/
def Obligations.BoundariesFallInTurn : Prop :=
  ∀ (s : State), s.sealed → s.hw.power.stopped = false →
    (s.tl.fabOrigin ≤ s.hw.now →
      let n := s.hw.fabN + 1
      let t := s.tl.fabOrigin + n * s.tl.fabPeriod
      let m := Hw.modeEpoch { s.hw.reach t with fabN := n } s.tl
      let x := (m.2.fabricWork ⟨s.fuses, m.1⟩ n t).partEpoch s.fuses m.1 t none
      let e : Env := ⟨s.fuses, x.1⟩
      exec .fabricBoundary s = .next (s.tlTo x.1
        ((((List.range 8).foldl (fun (h : Hw) p => h.fabricPart e n t p) x.2).takeoverEpoch e).settleFabric e))) ∧
    (∀ p, p < 8 → 
      let x := s.tl.part p
      let falls (r : Timelines × Hw) : Prop := exec (.beatBoundary p) s = .next (s.tlTo r.1 r.2)
      let beat (n t : Nat) : Prop :=
        let r := fabricFirst t s.fuses s.tl s.hw
        (s.tl.fabOrigin ≤ s.hw.now → s.tl.fabOrigin + (s.hw.fabN + 1) * s.tl.fabPeriod ≠ t → r = (s.tl, s.hw)) ∧
        (s.tl.fabOrigin ≤ s.hw.now → s.tl.fabOrigin + (s.hw.fabN + 1) * s.tl.fabPeriod = t →
          r = fabricBoundary s.fuses s.tl s.hw) ∧
        (r.1.part p = x → falls (r.2.beatEpoch s.fuses (r.1.setPart p { x with st := .running }) p n t)) ∧
        (r.1.part p ≠ x → falls r)
      (x.st = .running → beat (SMap.get s.hw.partN 0 p + 1) (x.origin + (SMap.get s.hw.partN 0 p + 1) * x.period)) ∧
      (x.st = .armed → x.go = true → beat 0 x.origin) ∧
      (x.st = .idle → exec (.beatBoundary p) s = .next s)) ∧
    (∀ d m far, moduleEnd d m = some far →
      let r := (Hw.fatal { s.hw with linksDown := s.hw.linksDown ++ [(d, far)] } 1 d m).abortAll s.env s.tl
      exec (.dieLinkDown d m) s = .next (s.tlTo r.1 r.2))

/-- R479, R480, R483, R490: a doorbell of an ENABLED ring with a value in range moves the ring's tail or head, and
raises a ring error otherwise, the ring unchanged. R474 to R478: the entry at the head of a submission ring is taken
at the ring's turn once its completion ring has room: one that breaks a rule completes with the status of the first it
breaks, and any other is handed to its unit once that has room and a FENCE is met. -/
def Obligations.RingsMoveAndPostTheirEntries : Prop :=
  (∀ (s : State) (fn k v : Nat), s.sealed → s.hw.served = true → fn ≤ 8 → v < 65536 →
     let b := fkey fn 0
     let h := s.hw
     (k < nSq fn → h.rf Reg.sqStatusState b k = 1 →
       (v < h.rf Reg.sqCfgSize b k → exec (.sqDb fn k v) s = .next { s with hw := h.wf Reg.sqStatusTail b k v }) ∧
       (h.rf Reg.sqCfgSize b k ≤ v → exec (.sqDb fn k v) s = .next (s.hwTo (h.ringError 5 fn)))) ∧
     (k < nSq fn → h.rf Reg.cqStatusState b k = 1 →
       let ok := headOk (h.rf Reg.cqCfgSize b k) (h.rf Reg.cqStatusHead b k) (h.rf Reg.cqStatusTail b k) v
       (ok = true → exec (.cqDb fn k v) s = .next { s with hw := h.wf Reg.cqStatusHead b k v }) ∧
       (ok = false → exec (.cqDb fn k v) s = .next (s.hwTo (h.ringError 5 fn)))) ∧
     (k < nEq fn → h.rf Reg.eqStatusState b k = 1 →
       let ok := headOk (h.rf Reg.eqCfgSize b k) (h.rf Reg.eqStatusHead b k) (h.rf Reg.eqStatusTail b k) v
       let h1 := h.wf Reg.eqStatusHead b k v
       let free := ringFree (h1.rf Reg.eqCfgSize b k) v (h1.rf Reg.eqStatusTail b k)
       (ok = true → free ≠ 0 → h.io.linkUp = true → exec (.eqDb fn k v) s = .next (s.hwTo (h1.pushOverflow fn k))) ∧
       (ok = true → free = 0 ∨ h.io.linkUp = false → exec (.eqDb fn k v) s = .next { s with hw := h1 }) ∧
       (ok = false → exec (.eqDb fn k v) s = .next (s.hwTo (h.ringError 5 fn))))) ∧
  (∀ (s : State) (fn k : Nat), s.sealed → s.hw.io.linkUp = true → fn ≤ 8 → k < nSq fn →
     let b := fkey fn 0
     let h := s.hw
     let head := h.rf Reg.sqStatusHead b k
     h.rf Reg.sqStatusState b k = 1 → head ≠ h.rf Reg.sqStatusTail b k → h.cqRoom fn (h.rf Reg.sqCfgCq b k) = true →
     (h.sqTurn s.env fn k = false → exec (.sqEntryPost fn k) s = .next s) ∧
     (h.sqTurn s.env fn k = true →
     let a := h.rf Reg.sqBaseBase b k * 256 + 256 * head
     let x := SqHead.of (h.hostNum a 32)
     let d : Desc := BitVec.ofNat 1024 (h.hostNum (a + 32) (if x.len = 64 then 64 else 128))
     let o : Origin := .ring fn k x.opid x.nocomp x.int
     (∀ st, leastStatus (h.postCauses s.env fn x d) = some st →
       exec (.sqEntryPost fn k) s = .next (s.hwTo ((h.takeEntry fn k).complete o ⟨st, 0, 0⟩))) ∧
     (leastStatus (h.postCauses s.env fn x d) = none →
       let waits := (x.fence = true ∧ h.rf Reg.sqStatusOutstanding b k ≠ 0) ∨ h.targetRoom x.die x.unit (d.fld 0 7 0) = false
       (waits → exec (.sqEntryPost fn k) s = .next s) ∧
       (¬ waits → exec (.sqEntryPost fn k) s = .next (s.hwTo ((h.takeEntry fn k).postTo x.die x.unit d o
         (if x.die < 24 then h.partOf x.die else fnPart fn)))))))

/-- R468, R471, R482: a transfer between host and device reads its bytes at one end and writes them at the other, and
completes; one that the host link cuts short moves what came before and fails. With every word sound it completes.
R492, R495: entries that no message has told of yet are told of when the delay since the first has passed; a pending
vector that is unmasked sends its message. R470: an invalidation takes its page out of the translation cache. R495,
R498: the host link is lost, comes back, and the reset of a function drops what it had in hand. -/
def Obligations.HostLinkAndTransfers : Prop :=
  (∀ (s : State) (j : Job) (rest : List Job) (link : HostTransfer) (off : Nat), s.sealed → s.hw.queue 28 11 = j :: rest →
     let x := HdmaD.of j.body
     s.hw.hdmaHeld s.env x = false → s.hw.hdmaDecode s.env j x = .ok off →
     let charged (h : Hw) : Hw := h.chargeMem (fnPart j.origin.fn)
     let clean := { s.hw with moved := 0 }
     (x.op ≠ 2 → linkGood link x.bytes = none →
       let run := runOp (storeB off (s.hw.hostRead x.host x.bytes)) clean
       let ends (h : Hw) : Prop :=
         exec (.toDevice link) s = .next (s.hwTo (((charged h).hostMoved j x x.bytes).hdmaEnd s.env j x (.ok ())))
       (∀ h, run = (.ok (), h) → ends h) ∧ (s.hw.sound → ∃ h, run = (.ok (), h) ∧ ends h)) ∧
     (x.op = 2 → linkGood link x.bytes = none →
       let run := runOp (loadB off x.bytes) clean
       let ends (bs : List Byte) (h : Hw) : Prop := exec (.toHost link) s = .next
         (s.hwTo ((((charged h).hostWrite x.host bs).hostMoved j x x.bytes).hdmaEnd s.env j x (.ok ())))
       (∀ bs h, run = (.ok bs, h) → ends bs h) ∧
       (s.hw.sound → ∃ h, run = (.ok (Mem.read s.hw.mem off x.bytes), h) ∧ ends (Mem.read s.hw.mem off x.bytes) h)) ∧
     (∀ n bad h, x.op ≠ 2 → linkGood link x.bytes = some (n, bad) →
       runOp (storeB off (s.hw.hostRead x.host n)) clean = (.ok (), h) →
       exec (.toDevice link) s = .next (s.hwTo (((charged h).hostMoved j x n).linkFail s.env j x bad)))) ∧
  (∀ (s : State), s.sealed →
     (∀ fn k, fn ≤ 8 → k < nSq fn →
       let b := fkey fn 0
       let x := SMap.get s.hw.io.rings {} (cqKey fn k)
       s.hw.rf Reg.cqModInten b k ≠ 0 → s.hw.rf Reg.cqModDelay b k ≠ 0 → x.unsignalled ≠ 0 →
       exec (.msixModerationDelay fn false k) s = .next (s.hwTo (((s.hw.reach (x.first + 1000 * s.hw.rf Reg.cqModDelay b k)).setRing
         (cqKey fn k) { x with unsignalled := 0 }).sendMsi fn (s.hw.rf Reg.cqCfgVector b k)))) ∧
     (∀ fn k, fn ≤ 8 → k < nEq fn →
       let b := fkey fn 0
       let x := SMap.get s.hw.io.rings {} (eqKey fn k)
       s.hw.rf Reg.eqModInten b k ≠ 0 → s.hw.rf Reg.eqModDelay b k ≠ 0 → x.unsignalled ≠ 0 →
       exec (.msixModerationDelay fn true k) s = .next (s.hwTo (((s.hw.reach (x.first + 1000 * s.hw.rf Reg.eqModDelay b k)).setRing
         (eqKey fn k) { x with unsignalled := 0 }).sendMsi fn (s.hw.rf Reg.eqCfgVector b k)))) ∧
     (∀ fn v, s.hw.served = true → fn ≤ 8 → v < nVec fn → exec (.vectorUnmasked fn v) s = .next (s.hwTo (s.hw.unmask fn v))) ∧
     (∀ page, exec (.atsInvalidation page) s = .next { s with hw := { s.hw with
       io := { s.hw.io with atc := s.hw.io.atc.filter (fun x => x ≠ page) } } }) ∧
     (s.hw.io.linkUp = true → exec .dlDown s = .next (s.hwTo (s.hw.linkLost s.env))) ∧
     (∀ fn, s.hw.io.linkUp = true → fn ≤ 8 →
       exec (.flr fn) s = .next (s.hwTo (s.hw.dropFns s.env (fun k => fn = 0 || k = fn))) ∧
       exec (.d3hot fn) s = .next (s.hwTo (s.hw.dropFns s.env (fun k => fn = 0 || k = fn)))) ∧
     (∀ rate width, s.hw.io.linkUp = false → linkForm rate width = true →
       exec (.dlUp rate width) s = .next (s.hwTo (s.hw.linkBack rate width))))

/-- R11, R12, R472, R473: a register access of software through BAR0 reads the addressed register or writes it by its
fields' types, through a function page its registers; R493: a write of 1 to CFG_COMMIT or to a page's commit applies
what is staged. R526, R542, R550: the I3C target answers its offsets, and the TAP reads and writes registers once its
scope is open. -/
def Obligations.SoftwareReachesRegisters : Prop :=
  ∀ (s : State), s.sealed →
    (∀ off n v, s.hw.served = true → off < 0x20000000 →
      exec (.registerWrite ⟨.regs, off, n, false, v⟩) s = .next (s.hwTo (s.hw.busWrite s.env off n v.toNat)) ∧
      (let r := s.hw.busRead s.env off n
       exec (.registerWrite ⟨.regs, off, n, true, v⟩) s = .next (s.hwTo { r.2 with
         mgmt := { r.2.mgmt with regRead := BitVec.ofNat 64 r.1 } }))) ∧
    (∀ fn a, a.bar = .page fn → exec (.registerWrite a) s = .next (s.hwTo (s.hw.pageAccess s.env fn a))) ∧
    (∀ d u, s.hw.served = true → unitExists d u = true →
      exec (.cfgCommit d u) s = .next (s.hwTo (s.hw.commitBlock s.env (rkey d u 0)))) ∧
    (∀ fn, s.hw.served = true → fn ≤ 8 → SMap.find? s.hw.commits (fkey fn 0) = none →
      (5 ≤ s.hw.stage → exec (.fnCommit fn) s = .next (s.hwTo (s.hw.fnApply fn))) ∧
      (s.hw.stage < 5 → exec (.fnCommit fn) s = .next { s with hw := { s.hw with
        commits := SMap.put s.hw.commits (fkey fn 0) [10] } })) ∧
    (∀ off, i3cOffsets.contains off = true → exec (.i3cRead off) s = .next { s with hw := { s.hw with
      mgmt := { s.hw.mgmt with i3c := BitVec.ofNat 64 (s.hw.regWord s.env (pkgB + off)) } } }) ∧
    exec (.jtag .idcode) s = .next { s with hw := { s.hw with mgmt := { s.hw.mgmt with tdo := Config.jtagIdcode } } } ∧
    exec (.jtag .bypass) s = .next s ∧
    (∀ a v, s.hw.scope 0 = true → exec (.jtag (.fullAccess a (some v))) s = .next (s.hwTo (s.hw.busWrite s.env a 8 v.toNat))) ∧
    (∀ a v, s.hw.scope 1 = true → exec (.jtag (.mpDebug a (some v))) s = .next { s with hw := { s.hw with
      mgmt := { s.hw.mgmt with sram := Mem.write s.hw.mgmt.sram a (toBytes 8 v.toNat) } } })

/-- R497, R498, R556, R563: a reset of every die leaves the timelines as after power-on, and keeps what flash and
fuses and host memory hold; without power, or after a thermal trip, none takes effect. R497, R513: RST_CTRL.MP and the
watchdog reset the management processor and load its firmware from flash again; an image that fails, and a second
expiry within 1 s, reset the package. R513: a kick starts the watchdog's period anew. -/
def Obligations.ResetsStartThePackageOrItsManager : Prop :=
  (∀ (s : State) (b : BootEnv) (key : Nat), s.sealed →
     let leaves (i : Instr) (cause : Nat) : Prop :=
       let r := s.hw.resetPackage s.fuses cause b
       exec i s = .next (s.tlTo r.1 r.2) ∧ r.1 = Timelines.fresh ∧ r.2.nv = s.hw.nv ∧ r.2.host = s.hw.host ∧
         r.2.mem = [] ∧ r.2.jobs = []
     leaves (.powerOnReset b) 0 ∧
     (s.hw.power.good = true → s.hw.power.stopped = false →
       leaves (.perst b) 1 ∧ (s.hw.served = true → leaves (.rstCtrlPkg 0xC0DE b) 2)) ∧
     (s.hw.power.good = false ∨ s.hw.power.stopped = true →
       exec (.perst b) s = .next s ∧ exec (.rstCtrlPkg 0xC0DE b) s = .next s) ∧
     (key ≠ 0xC0DE → exec (.rstCtrlPkg key b) s = .next s)) ∧
  (∀ (s : State) (flashOk : Bool) (b : BootEnv), s.sealed → s.hw.served = true →
     let reloads (i : Instr) (cause : Nat) (h : Hw) : Prop :=
       let g := h.resetMp
       (g.flashImage.err flashOk g.nv.fuseSvn = 0 → exec i s = .next (s.tlTo s.tl (g.runImage g.flashImage))) ∧
       (g.flashImage.err flashOk g.nv.fuseSvn ≠ 0 → g.power.good = true → g.power.stopped = false →
         let r := g.resetPackage s.fuses cause b
         exec i s = .next (s.tlTo r.1 r.2))
     reloads (.rstCtrlMp 0xC0DE flashOk b) 2 s.hw ∧
     (let h := s.hw.reach (s.hw.mgmt.kick + orElse (s.hw.rf Reg.wdtPeriod pkgB) 1 * 1000000)
      ((∀ t, h.mgmt.expiry = some t → t + 1000000000 < h.now) →
        reloads (.watchdogExpiry flashOk b) 3 { h with mgmt := { h.mgmt with expiry := some h.now } }) ∧
      (∀ t, h.mgmt.expiry = some t → h.now ≤ t + 1000000000 → h.power.good = true → h.power.stopped = false →
        let r := h.resetPackage s.fuses 3 b
        exec (.watchdogExpiry flashOk b) s = .next (s.tlTo r.1 r.2))) ∧
     exec .wdtKick s = .next { s with hw := { s.hw with mgmt := { s.hw.mgmt with kick := s.hw.now } } })

/-- R500, R501, R504, R361: stage VERIFY runs the image of flash or goes to RECOVERY with the error; stage MEM trains
the memories; stage CLEAR clears the scratchpads; stage LINKS ends when no enabled port is still training. R507, R508:
RCV_CTRL.GO in stage RECOVERY checks the image in host memory and runs it, or keeps the error; FW_UPD.START checks the
image in device memory and writes it to flash. -/
def Obligations.BootStagesAndImagesAreTaken : Prop :=
  (∀ (s : State), s.sealed →
     (∀ flashOk, s.hw.stage = 1 →
       let err := s.hw.flashImage.err flashOk s.hw.nv.fuseSvn
       (err = 0 → exec (.bootVerify flashOk) s = .next (s.hwTo ((s.hw.runImage s.hw.flashImage).toStage 3))) ∧
       (err ≠ 0 → exec (.bootVerify flashOk) s = .next (s.hwTo ((s.hw.bootErr err).toStage 2)))) ∧
     (∀ t, s.hw.stage = 3 →
       let h := (s.hw.trainStacks t).trainChannels t
       ((upto 8).find? (fun n => !(bit t.hbmOk.toNat n)) = none →
         exec (.bootMemTrain t) s = .next (s.hwTo ((h.wf Reg.pkgMemTopTop pkgB 0 (trainedGib t * 512)).toStage 4))) ∧
       (∀ n, (upto 8).find? (fun n => !(bit t.hbmOk.toNat n)) = some n →
         exec (.bootMemTrain t) s = .next (s.hwTo (h.fatal 3 (28 + n / 2) n)))) ∧
     (s.hw.stage = 4 → s.hw.clears = [] →
       let ds := (upto 24).filter (fun d => s.env.cdie d && !(bit (s.hw.rf Reg.cdiePwrOff pkgB) d))
       (ds = [] → exec .bootClear s = .next (s.hwTo s.hw.enterLinks)) ∧
       (ds ≠ [] → exec .bootClear s = .next (s.hwTo (ds.foldl (fun h d => h.startClear d .boot) s.hw)))) ∧
     (s.hw.stage = 5 →
       ((∀ p, p < 48 → s.hw.portBusy s.env p = false) → exec .bootLinks s = .next (s.hwTo (s.hw.toStage 6))) ∧
       (∀ p, p < 48 → s.hw.portBusy s.env p = true → exec .bootLinks s = .next s))) ∧
  (∀ (s : State) (flashOk : Bool), s.sealed →
     (s.hw.stage = 2 →
       let b := fkey 0 0
       let len := s.hw.rf Reg.rcvCtrlLen b
       let i : Image := ⟨Mem.slice s.hw.host (s.hw.rf Reg.rcvHostAddr b) len, 0⟩
       let err := if len ≠ i.bodyLen + 8192 then 7 else i.err true s.hw.nv.fuseSvn
       let h := (s.hw.wf Reg.rcvStatusErr b 0 err).bootErr err
       (err = 0 → h.rf Reg.rcvCtrlPersist b ≠ 1 →
         exec (.rcvCtrlGo true flashOk) s = .next (s.hwTo (((h.runImage i).wf Reg.rcvStatusState b 0 3).toStage 3))) ∧
       (err = 0 → h.rf Reg.rcvCtrlPersist b = 1 → exec (.rcvCtrlGo true true) s = .next
         (s.hwTo ((((h.writeFlash (some i)).runImage i).wf Reg.rcvStatusState b 0 3).toStage 3))) ∧
       (err ≠ 0 → exec (.rcvCtrlGo true flashOk) s = .next (s.hwTo (h.wf Reg.rcvStatusState b 0 0))) ∧
       exec (.rcvCtrlGo false flashOk) s = .next (s.hwTo
         (((s.hw.wf Reg.rcvStatusErr b 0 6).bootErr 6).wf Reg.rcvStatusState b 0 0))) ∧
     (s.hw.served = true →
       let a := s.hw.rf Reg.fwUpdAddrAddr pkgB
       let len := Nat.min 0x1000000 (Mem.num s.hw.mem (a + 8) 4 + 8192)
       let i : Image := ⟨Mem.slice s.hw.mem a len, 0⟩
       a + len ≤ s.hw.rf Reg.pkgMemTopTop pkgB * 2 ^ 21 → s.hw.goodBytes a len = len →
       let err := i.err true s.hw.nv.fuseSvn
       (err = 0 → exec (.fwUpdStart true true) s = .next (s.hwTo ((s.hw.writeFlash (some i)).wf Reg.fwUpdErr pkgB 0 0)) ∧
         exec (.fwUpdStart true false) s = .next (s.hwTo ((s.hw.writeFlash none).wf Reg.fwUpdErr pkgB 0 8))) ∧
       (err ≠ 0 → exec (.fwUpdStart true flashOk) s = .next (s.hwTo (s.hw.wf Reg.fwUpdErr pkgB 0 err)))))

/-- R506, R509, R510: JOIN_CMD.GO in stage JOIN sets the fabric timeline's period and origin and joins the package; a
number or a period out of range, and a number that a neighbour has, are errors. R515: CDIE_PWR.OFF takes free dies
off. R514: a read of DBG_NONCE_0 makes a nonce, and a token is accepted or refused, the nonce void in either case. -/
def Obligations.JoinPowerStatesAndDebugUnlock : Prop :=
  ∀ (s : State), s.sealed →
    (s.hw.stage = 6 →
      let node := s.hw.rf Reg.joinNodeNode pkgB
      let period := s.hw.rf Reg.joinBeatPeriod pkgB
      let origin := s.hw.rf Reg.joinOriginOrigin pkgB
      (node < 16416 → 1000 ≤ period → (∀ p, p < 48 → s.hw.nbIs node p = false) →
        exec .joinCmdGo s = .next (s.tlTo { s.tl with fabPeriod := period, fabOrigin := origin } s.hw.joined)) ∧
      (16416 ≤ node ∨ period < 1000 → exec .joinCmdGo s = .next (s.tlTo s.tl (s.hw.bootErr 16))) ∧
      (node < 16416 → 1000 ≤ period → (∃ p, p < 48 ∧ s.hw.nbIs node p = true) →
        exec .joinCmdGo s = .next (s.tlTo s.tl (s.hw.bootErr 17)))) ∧
    (s.hw.served = true →
      (∀ off, exec (.cdiePwrWrite off) s = .next (s.hwTo (s.hw.setDiesOff s.env off.toNat))) ∧
      exec .dbgNonceRead s = .next (s.hwTo { s.hw.newNonce with
        mgmt := { s.hw.newNonce.mgmt with regRead := BitVec.ofNat 64 (s.hw.newNonce.reg Reg.dbgNonce pkgB 0) } }) ∧
      (let a := s.hw.rf Reg.dbgTokenAddr pkgB
       let h : Hw := { s.hw with mgmt := { s.hw.mgmt with nonceValid := false } }
       (s.hw.tokenOk a = true → exec .dbgCtrlSubmit s = .next (s.hwTo
         ((h.wf Reg.dbgCtrlState pkgB 0 1).wf Reg.dbgCtrlScope pkgB 0 (h.hostNum (a + 0x68) 1)))) ∧
       (s.hw.tokenOk a = false → exec .dbgCtrlSubmit s = .next (s.hwTo (h.wf Reg.dbgCtrlState pkgB 0 2)))))

/-- R512, R466: the mailbox answers the SPDM requests in their order, with an unexpected-request error before it; in
an established session IDE_KM stops a stream's encryption; discovery names the protocols. R466, R501: in stage ROM a
configuration request is answered with Request Retry Status; after it, offset 0 of a function reads the vendor and the
function's device number. -/
def Obligations.MailboxAndConfigurationAreAnswered : Prop :=
  (∀ (s : State) (r : List Byte), s.sealed → s.hw.doeOn = true →
     let h := s.hw
     let m := h.mgmt
     let nonce := h.randomBytes 32
     let no (i : Instr) : Prop := exec i s = .next (s.hwTo (h.spdmError 4))
     exec (.getVersion r) s = .next (s.hwTo (Hw.doeReply { h with mgmt := { m with
       spdmVersion := true, spdmCaps := false, spdmAlgs := false, spdmSession := 0 } }
         ([0x10, 0x04, 0, 0, 0, 1] ++ toBytes 2 0x1400))) ∧
     (m.spdmVersion = true → exec (.getCapabilities r) s = .next (s.hwTo (Hw.doeReply { h with mgmt := { m with spdmCaps := true } }
       (spdmHead 0x61 0 0 ++ Config.doeBytes 0x61 r)))) ∧
     (m.spdmVersion = true → m.spdmCaps = true → exec (.negotiateAlgorithms r) s = .next (s.hwTo (Hw.doeReply
       { h with mgmt := { m with spdmAlgs := true } } (spdmHead 0x63 0 0 ++ Config.doeBytes 0x63 r)))) ∧
     (m.spdmAlgs = true →
       exec (.getDigests r) s = .next (s.hwTo (h.doeReply (spdmHead 0x01 0 1 ++ Config.sha3 h.certChain))) ∧
       (reqByte r 2 % 16 = 0 → reqByte r 4 + 256 * reqByte r 5 ≤ h.certChain.length →
         let off := reqByte r 4 + 256 * reqByte r 5
         let part := (h.certChain.drop off).take (reqByte r 6 + 256 * reqByte r 7)
         exec (.getCertificate r) s = .next (s.hwTo (h.doeReply (spdmHead 0x02 0 0 ++ toBytes 2 part.length ++
           toBytes 2 (h.certChain.length - off - part.length) ++ part)))) ∧
       (reqByte r 2 % 16 = 0 → exec (.challenge r) s = .next (s.hwTo (nonce.2.spdmSigned r
         (spdmHead 0x03 0 1 ++ Config.sha3 nonce.2.certChain ++ nonce.1 ++ Config.doeBytes 0x03 r)))) ∧
       (reqByte r 3 = 0 → exec (.getMeasurements r) s = .next (s.hwTo (nonce.2.spdmSigned r
         (spdmHead 0x60 nonce.2.measured.length 0 ++ nonce.1)))) ∧
       exec (.keyExchange r) s = .next (s.hwTo (Hw.spdmSigned { nonce.2 with mgmt := { nonce.2.mgmt with spdmSession := 1 } } r
         (spdmHead 0x64 0 0 ++ nonce.1 ++ Config.mlKem r nonce.2.mgmt.draws)))) ∧
     (m.spdmSession = 1 → exec (.finish r) s = .next (s.hwTo (Hw.doeReply { h with mgmt := { m with spdmSession := 2 } }
       (spdmHead 0x65 0 0)))) ∧
     (m.spdmSession = 2 →
       exec (.endSession r) s = .next (s.hwTo (Hw.doeReply { h with mgmt := { m with spdmSession := 0 } } (spdmHead 0x6C 0 0))) ∧
       (reqByte r 0 = 5 → reqByte r 2 ≤ 8 → exec (.ideKm r) s = .next (s.hwTo (Hw.doeReply { h with io := { h.io with
         ideGo := h.io.ideGo.filter (· ≠ reqByte r 2) } } (Config.doeBytes 0x106 r))))) ∧
     (m.spdmVersion = false → no (.getCapabilities r)) ∧ (m.spdmCaps = false → no (.negotiateAlgorithms r)) ∧
     (m.spdmAlgs = false → no (.challenge r) ∧ no (.keyExchange r) ∧ no (.getMeasurements r)) ∧
     (m.spdmSession ≠ 1 → no (.finish r)) ∧ (m.spdmSession ≠ 2 → no (.endSession r) ∧ no (.ideKm r)) ∧
     (reqByte r 0 < 3 → exec (.doeDiscovery r) s = .next (s.hwTo (h.doeReply
       [0x01, 0x00, BitVec.ofNat 8 (reqByte r 0), BitVec.ofNat 8 ((reqByte r 0 + 1) % 3)])))) ∧
  (∀ (s : State) (fn : Nat) (w : Option (BitVec 32)), s.sealed → fn < 9 → s.hw.io.linkUp = true →
     let answers (v : Option (BitVec 32)) : State := { s with hw := { s.hw with mgmt := { s.hw.mgmt with cfgRead := v } } }
     (s.hw.stage = 0 → exec (.configurationRequest fn 0 w) s = .next (answers none)) ∧
     (s.hw.stage ≠ 0 → exec (.configurationRequest fn 0 none) s = .next (answers (some
       (BitVec.ofNat 32 (s.hw.rf Reg.pkgIdVendor pkgB + (if fn = 0 then 0x0320 else 0x0321) * 2 ^ 16))))) ∧
     (∀ x, s.hw.stage ≠ 0 → exec (.configurationRequest fn 0 (some x)) s = .next s))

/-- R556, R563: when PWRGD falls, or a rail stays below its tolerance for more than 10 µs, the outputs go off and the
host link and the ports stop. R562, R563: a sensor at 115 °C trips the package. -/
def Obligations.PowerLossAndThermalTrip : Prop :=
  ∀ (s : State), s.sealed →
    (s.hw.power.good = true →
      let h : Hw := { s.hw with power := { s.hw.power with good := false, outputsOff := true, thermtrip := false } }
      let g := (if s.hw.io.linkUp then h.linkLost s.env else h).portsOff
      exec .pwrgdFall s = .next (s.hwTo g) ∧ (∀ rail t, 10 < t → exec (.railFault rail t) s = .next (s.hwTo g))) ∧
    (∀ rail t, t ≤ 10 → exec (.railFault rail t) s = .next s) ∧
    (∀ x, s.hw.power.stopped = false →
      let h0 := ((s.hw.wf Reg.thermStatusTjMax pkgB 0 (ofSigned 8 x.hottest)).wf Reg.thermStatusHotDie pkgB 0 x.hotDie)
      let temps := (upto 8).map (fun n => Nat.min 255 (x.stackTemps.getD n 0))
      let h1 := temps.zipIdx.foldl (fun (h : Hw) t =>
        h.wf Reg.hbmStatusTemp (rkey (28 + t.2 / 2) (2 + t.2 % 2) 0) 0 t.1)
        (h0.wf Reg.thermStatusHbmMax pkgB 0 (temps.foldl Nat.max 0))
      let h : Hw := { h1 with power := { h1.power with coldest := x.coldest } }
      (115 ≤ x.hottest → exec (.sensorRead x) s = .next (s.hwTo (h.trip x.hotDie))) ∧
      (x.hottest < 115 → h.mgmt.held = none → exec (.sensorRead x) s = .next (s.hwTo h))) ∧
    (∀ x, s.hw.power.stopped = true → exec (.sensorRead x) s = .next s)

/-- R558 to R561: each demand rises one level at a time while its measure is at its limit and falls one level while it
is well below; the level in force is the largest demand. R557, R558: an AVSBus poll that succeeds stores what it read
and moves the request by at most 10 mV, and one that fails three times is a fault. -/
def Obligations.ThrottlingFollowsItsDemands : Prop :=
  ∀ (s : State) (r : PowerRead), s.sealed →
    let h := s.hw
    let p := h.power
    let sets (x : Power) : State := s.hwTo (Hw.setLevel { h with power := x })
    let hot := h.throtT ≤ h.tjMax ∨ 95 ≤ h.rf Reg.thermStatusHbmMax pkgB
    let high := h.peak < r.fast ∨ h.sustained < r.slow ∨ 4800 < r.current
    (∀ a, exec (.throt a) s = .next (sets { p with throt := a })) ∧
    (hot → ¬ high → exec (.throttleRise r) s = .next (sets { p with thermalDemand := min 15 (p.thermalDemand + 1) })) ∧
    (¬ hot → high → p.avsFault = false →
      exec (.throttleRise r) s = .next (sets { p with powerDemand := min 15 (p.powerDemand + 1) })) ∧
    (¬ hot → ¬ high → exec (.throttleRise r) s = .next (sets p)) ∧
    (h.tjMax < h.throtT - 3 → h.rf Reg.thermStatusHbmMax pkgB < 92 → 97 * 4800 ≤ 100 * r.current →
      exec (.throttleFall r) s = .next (sets { p with thermalDemand := p.thermalDemand - 1 })) ∧
    (92 ≤ h.rf Reg.thermStatusHbmMax pkgB → 97 * 4800 ≤ 100 * r.current →
      exec (.throttleFall r) s = .next (sets p)) ∧
    (∀ x, p.stopped = false →
      let h1 := (h.incSat Reg.avsStatusRetries pkgB 0 (min 2 x.failed)).wf Reg.avsStatusFault pkgB 0 (b2n (3 ≤ x.failed))
      let h2 := Hw.setLevel { h1 with power := { h1.power with avsFault := decide (3 ≤ x.failed) } }
      (3 ≤ x.failed → exec (.avsPoll x) s = .next (s.hwTo h2)) ∧
      (x.failed < 3 →
        let h3 := ((h2.wf Reg.pwrStatusPower pkgB 0 (min 65535 x.power)).wf Reg.pwrStatusIcore pkgB 0
          (min 65535 x.current)).wf Reg.pwrStatusVcore pkgB 0 (min 65535 x.millivolts)
        exec (.avsPoll x) s = .next (s.hwTo (h3.wf Reg.pwrStatusVreq pkgB 0
          (if h3.vcoreNow ≤ h3.vcoreGoal then min h3.vcoreGoal (h3.vcoreNow + 10) else max h3.vcoreGoal (h3.vcoreNow - 10))))))

/-- Reset leaves the fabric timeline with a period of 100,000 ns at origin 0 and eight idle partition timelines, no
memory listed, no command waiting, and the registers at the values their tables give. -/
def Obligations.ResetLeavesTheStatedValues : Prop :=
  let s := State.reset
  let h := s.hw
  s.pending = [] ∧ s.tl.legal ∧ s.tl.allIdle ∧ s.tl.det = false ∧ s.sealed ∧ h.mem = [] ∧ h.now = 0 ∧ h.stage = 0 ∧
  (∀ d, d < 24 → h.rf Reg.coreCtrlFlagTimeout (rkey d 0 0) = 10000 ∧ h.rf Reg.deCtrlFlagTimeout (rkey d 4 0) = 10000 ∧
    h.rf Reg.deCollTimeout (rkey d 4 0) = 10000 ∧ h.rf Reg.cpCtrlFlagTimeout (rkey d 7 0) = 10000 ∧
    h.rf Reg.cpCqLog2n (rkey d 7 0) = 8) ∧
  (∀ d, d < 32 → 28 ≤ d → h.rf Reg.migCtrlPromoteMin (migB d) = 256 ∧ h.rf Reg.migCtrlInterval (migB d) = 1000 ∧
    h.rf Reg.migCtrlMaxSwaps (migB d) = 16 ∧ h.rf Reg.fatomCtrlDefer pkgB = 2) ∧
  (∀ d, d < 28 → 24 ≤ d → h.rf Reg.xptCtrlRetryLimit (xptB d) = 8 ∧ h.rf Reg.xptCtrlAgeLimit (xptB d) = 625 ∧
    h.rf Reg.swBufCap (swB d) = 65536 ∧ h.rf Reg.swArbQBulk (swB d) = 16 ∧ h.rf Reg.xptRaLbBlocks (xptB d) = 8192) ∧
  (∀ p, p < 8 → h.rf Reg.shareInject pkgB p = 1 ∧ h.rf Reg.dlmCtrlLagBeats tmB p = 8 ∧ h.rf Reg.partState pkgB p = 0) ∧
  h.rf Reg.timeStatusDepth tmB = 255 ∧ h.rf Reg.fabricBeatPeriod tmB = 100000 ∧ h.rf Reg.pkgIdDevice pkgB = 0x320 ∧
  h.rf Reg.wdtPeriod pkgB = 1000 ∧ h.rf Reg.pwrLimitPeak pkgB = 4800 ∧ h.rf Reg.thermCfgThrotT pkgB = 98 ∧
  h.rf Reg.pkgNodeValid pkgB = 0

/-- A step always answers a next state; it takes the command at the front of the queue, if any, and no other, never
changes a fuse, and leaves no mirrored write in hand. -/
def Obligations.EveryStepCompletesAndTakesOneCommand : Prop :=
  ∀ (s : State), s.sealed → ∃ t, step s = .next t ∧ t.pending = s.pending.tail ∧ t.fuses = s.fuses ∧ t.sealed

/-- R426, R430: in every step timelines stay legal: eight partitions, and a period of 1 µs or more, that fits its
register, for the fabric and for every partition that is armed or running. -/
def Obligations.TimelinesStayLegal : Prop :=
  ∀ (s t : State), s.tl.legal → step s = .next t → t.tl.legal

/-- R426, R429, R510: the fabric timeline's period and origin change only when the package joins, and at a reset of
every die, which gives them their reset values. -/
def Obligations.FabricTimelineChangesOnlyAtJoinAndReset : Prop :=
  ∀ (s t : State), step s = .next t →
    (t.tl.fabPeriod = s.tl.fabPeriod ∧ t.tl.fabOrigin = s.tl.fabOrigin) ∨
    (t.tl.fabPeriod = 100000 ∧ t.tl.fabOrigin = 0) ∨
    (s.pending.head? = some .joinCmdGo ∧ s.hw.stage = 6 ∧ t.tl.fabPeriod = s.hw.rf Reg.joinBeatPeriod pkgB ∧
      t.tl.fabOrigin = s.hw.rf Reg.joinOriginOrigin pkgB)

/-- R444: the mode DETERMINISTIC changes only at a boundary of the fabric timeline at which no partition's timeline is
ARMED or RUNNING, or at a reset of every die, which clears it. -/
def Obligations.ModeChangesOnlyWithIdleTimelines : Prop :=
  ∀ (s t : State), step s = .next t → t.tl.det ≠ s.tl.det →
    (s.pending.head? = some .fabricBoundary ∧ s.tl.allIdle) ∨ t.tl = Timelines.fresh

/-- R426, R432, R434: the timeline of a RUNNING partition keeps its period and origin for as long as it runs, and it
stops only by becoming IDLE; an ARMED one keeps its period. -/
def Obligations.RunningTimelinesKeepPeriodAndOrigin : Prop :=
  ∀ (s t : State) (p : Nat), step s = .next t → t.tl.part p = s.tl.part p ∨ (t.tl.part p).st = .idle ∨
    ((s.tl.part p).st = .idle ∧ (t.tl.part p).st = .armed) ∨
    ((s.tl.part p).st = .armed ∧ (t.tl.part p).period = (s.tl.part p).period ∧
      ((s.tl.part p).go = true → (t.tl.part p).origin = (s.tl.part p).origin))

/-- R128: a store writes its bytes and no other, and memory keeps its canonical form: a byte outside the store reads
as before whether the store succeeds or fails, and one inside a store that succeeds reads as stored; a load changes no
byte. -/
def Obligations.StoresWriteTheirBytesAndNoOther : Prop :=
  ∀ (h g : Hw) (a : Nat) (bs : List Byte) (r : Except Fail Unit), Mem.wf h.mem = true → runOp (storeB a bs) h = (r, g) →
    Mem.wf g.mem = true ∧ (∀ x, (x < a ∨ a + bs.length ≤ x) → Mem.get g.mem x = Mem.get h.mem x) ∧
    (r = .ok () → ∀ i, i < bs.length → Mem.get g.mem (a + i) = bs.getD i 0) ∧
    (∀ n, (runOp (loadB a n) h).2.mem = h.mem)
end

