-- ==== Sys2Proof/Laws/SMap.lean ====
section
/-! SUPPORT. Sparse maps: what a lookup finds after each update, and that the canonical form is kept. -/

namespace Sys2Proof.Machine

theorem SMap.find?_put {α : Type} (m : SMap α) (k q : Nat) (v : α) :
    SMap.find? (SMap.put m k v) q = if q = k then some v else SMap.find? m q := by
  induction m with
  | nil => by_cases hq : q = k <;> simp [SMap.put, SMap.find?, hq]; exact fun e => hq e.symm
  | cons p m ih =>
    obtain ⟨j, w⟩ := p
    simp only [SMap.put]
    by_cases hq : q = k
    · subst hq
      split
      · simp [SMap.find?]
      · split
        · simp [SMap.find?]
        · rename_i h2; simp [SMap.find?, ih, Ne.symm h2]
    · have hk : ¬ k = q := fun e => hq e.symm
      split
      · simp [SMap.find?, hk]
      · split
        · rename_i h2; subst h2; simp [SMap.find?, hk]
        · simp [SMap.find?, ih, hq]

@[simp] theorem SMap.find?_put_self {α : Type} (m : SMap α) (k : Nat) (v : α) :
    SMap.find? (SMap.put m k v) k = some v := by simp [SMap.find?_put]

theorem SMap.get_put {α : Type} (m : SMap α) (d : α) (k q : Nat) (v : α) :
    SMap.get (SMap.put m k v) d q = if q = k then v else SMap.get m d q := by
  simp only [SMap.get, SMap.find?_put]; split <;> simp

@[simp] theorem SMap.get_put_self {α : Type} (m : SMap α) (d : α) (k : Nat) (v : α) :
    SMap.get (SMap.put m k v) d k = v := by simp [SMap.get_put]

/-- Of two writes at one key the second stands. -/
@[simp] theorem SMap.put_put {α : Type} (m : SMap α) (k : Nat) (v w : α) :
    SMap.put (SMap.put m k v) k w = SMap.put m k w := by
  induction m with
  | nil => simp [SMap.put]
  | cons p m ih =>
    obtain ⟨j, x⟩ := p
    simp only [SMap.put]
    split
    · simp [SMap.put]
    · rename_i h1
      split
      · simp [SMap.put]
      · rename_i h2; simp [SMap.put, h1, h2, ih]

/-- The keys of a canonical map lie above the key of its head. -/
theorem SMap.find?_below {α : Type} [DecidableEq α] (d : α) (m : SMap α) (j k : Nat) (w : α)
    (h : SMap.wfD d ((j, w) :: m) = true) (hk : k ≤ j) : SMap.find? m k = none := by
  induction m generalizing j w with
  | nil => rfl
  | cons p m ih =>
    obtain ⟨i, x⟩ := p
    simp only [SMap.wfD, Bool.and_eq_true, decide_eq_true_eq] at h
    have hne : ¬ i = k := by omega
    simp only [SMap.find?, if_neg hne]
    exact ih i x h.2 (by omega)

theorem SMap.wfD_tail {α : Type} [DecidableEq α] (d : α) (p : Nat × α) (m : SMap α)
    (h : SMap.wfD d (p :: m) = true) : SMap.wfD d m = true := by
  cases m with
  | nil => rfl
  | cons q m => simp only [SMap.wfD, Bool.and_eq_true] at h; exact h.2

/-- A lookup after a canonical update. -/
theorem SMap.get_putD {α : Type} [DecidableEq α] (d : α) (m : SMap α) (k q : Nat) (v : α)
    (h : SMap.wfD d m = true) :
    SMap.get (SMap.putD d m k v) d q = if q = k then v else SMap.get m d q := by
  induction m with
  | nil =>
    simp only [SMap.putD]; split
    · simp [SMap.get, SMap.find?]; intros; simp_all
    · by_cases hq : q = k <;> simp [SMap.get, SMap.find?, hq, eq_comm (a := k)]
  | cons p m ih =>
    obtain ⟨j, w⟩ := p
    have ih := ih (SMap.wfD_tail d _ m h)
    simp only [SMap.putD]
    split
    · rename_i hkj
      split
      · rename_i hv
        by_cases hq : q = k
        · have hb := SMap.find?_below d m j k w h (by omega)
          have : ¬ j = k := by omega
          simp [SMap.get, SMap.find?, hq, hb, this, hv]
        · simp [hq]
      · by_cases hq : q = k <;> simp [SMap.get, SMap.find?, hq, eq_comm (a := k)]
    · split
      · rename_i hkj; subst hkj
        split
        · rename_i hv
          by_cases hq : q = k
          · have hb := SMap.find?_below d m k k w h (by omega)
            simp [SMap.get, hq, hb, hv]
          · have : ¬ k = q := fun e => hq e.symm
            simp [SMap.get, SMap.find?, hq, this]
        · by_cases hq : q = k
          · simp [SMap.get, SMap.find?, hq]
          · have : ¬ k = q := fun e => hq e.symm
            simp [SMap.get, SMap.find?, hq, this]
      · by_cases hj : j = q
        · subst hj
          have : ¬ j = k := by omega
          simp [SMap.get, SMap.find?, this]
        · simp only [SMap.get, SMap.find?, if_neg hj] at ih ⊢
          exact ih

/-- A canonical update lists nothing below both its key and the head. -/
theorem SMap.wfD_cons {α : Type} [DecidableEq α] (d : α) (j : Nat) (w : α) (m : SMap α) :
    SMap.wfD d ((j, w) :: m) = true ↔ (w ≠ d ∧ SMap.wfD d m = true ∧ ∀ p ∈ m.head?, j < p.1) := by
  cases m with
  | nil => simp [SMap.wfD]
  | cons q m =>
    simp only [SMap.wfD, Bool.and_eq_true, decide_eq_true_eq, List.head?_cons, Option.mem_some_iff, forall_eq']
    tauto

theorem SMap.head_putD {α : Type} [DecidableEq α] (d : α) (m : SMap α) (k i : Nat) (v : α) (hk : i < k)
    (hm : SMap.wfD d m = true) (h : ∀ p ∈ m.head?, i < p.1) : ∀ p ∈ (SMap.putD d m k v).head?, i < p.1 := by
  cases m with
  | nil => simp only [SMap.putD]; split <;> simp [hk]
  | cons q m =>
    obtain ⟨j, w⟩ := q
    have hj : i < j := h (j, w) (by simp)
    simp only [SMap.putD]
    split
    · split <;> simp [hk, hj]
    · split
      · split
        · intro p hp
          have := ((SMap.wfD_cons d j w m).1 hm).2.2 p hp
          omega
        · simp [hk]
      · simp [hj]

/-- A canonical update keeps the canonical form. -/
theorem SMap.wfD_putD {α : Type} [DecidableEq α] (d : α) (m : SMap α) (k : Nat) (v : α)
    (h : SMap.wfD d m = true) : SMap.wfD d (SMap.putD d m k v) = true := by
  induction m with
  | nil => simp only [SMap.putD]; split <;> simp_all [SMap.wfD]
  | cons p m ih =>
    obtain ⟨j, w⟩ := p
    have hm := SMap.wfD_tail d _ m h
    have hc := (SMap.wfD_cons d j w m).1 h
    simp only [SMap.putD]
    split
    · split
      · exact h
      · rename_i hv; exact (SMap.wfD_cons d k v _).2 ⟨hv, h, by simp; omega⟩
    · split
      · rename_i hkj; subst hkj
        split
        · exact hm
        · rename_i hv; exact (SMap.wfD_cons d k v m).2 ⟨hv, hm, hc.2.2⟩
      · exact (SMap.wfD_cons d j w _).2 ⟨hc.1, ih hm, SMap.head_putD d m k j v (by omega) hm hc.2.2⟩

/-- Removing cells keeps the canonical form. -/
theorem SMap.wfD_filter {α : Type} [DecidableEq α] (d : α) (f : Nat × α → Bool) (m : SMap α)
    (h : SMap.wfD d m = true) : SMap.wfD d (m.filter f) = true := by
  have key : ∀ (m : SMap α) (i : Nat), SMap.wfD d m = true → (∀ p ∈ m.head?, i < p.1) →
      SMap.wfD d (m.filter f) = true ∧ ∀ p ∈ (m.filter f).head?, i < p.1 := by
    intro m
    induction m with
    | nil => intro i _ _; simp [SMap.wfD]
    | cons p m ih =>
      intro i hm hi
      obtain ⟨j, w⟩ := p
      have hc := (SMap.wfD_cons d j w m).1 hm
      have hij : i < j := hi (j, w) (by simp)
      have hj := ih j hc.2.1 hc.2.2
      cases hf : f (j, w) with
      | true =>
        rw [List.filter_cons_of_pos hf]
        exact ⟨(SMap.wfD_cons d j w _).2 ⟨hc.1, hj.1, hj.2⟩, by simp [hij]⟩
      | false =>
        rw [List.filter_cons_of_neg (by simp [hf])]
        exact ⟨hj.1, fun p hp => by have := hj.2 p hp; omega⟩
  cases m with
  | nil => rfl
  | cons p m =>
    obtain ⟨j, w⟩ := p
    cases hf : f (j, w) with
    | true =>
      rw [List.filter_cons_of_pos hf]
      have hc := (SMap.wfD_cons d j w m).1 h
      have hj := key m j hc.2.1 hc.2.2
      exact (SMap.wfD_cons d j w _).2 ⟨hc.1, hj.1, hj.2⟩
    | false =>
      rw [List.filter_cons_of_neg (by simp [hf])]
      have hc := (SMap.wfD_cons d j w m).1 h
      exact (key m j hc.2.1 hc.2.2).1

end Sys2Proof.Machine
end

