-- ==== Sys2Proof/Laws/Mem.lean ====
section
/-! SUPPORT. Memory: a read after a write, and that every memory operation keeps the canonical form. -/

namespace Sys2Proof.Machine

theorem Mem.get_set (m : Mem) (a x : Nat) (b : Byte) (h : Mem.wf m = true) :
    Mem.get (Mem.set m a b) x = if x = a then b else Mem.get m x := SMap.get_putD 0 m a x b h

theorem Mem.wf_set (m : Mem) (a : Nat) (b : Byte) (h : Mem.wf m = true) : Mem.wf (Mem.set m a b) = true :=
  SMap.wfD_putD 0 m a b h

theorem Mem.wf_write (l : List Byte) : ∀ (m : Mem) (a : Nat), Mem.wf m = true → Mem.wf (Mem.write m a l) = true := by
  induction l with
  | nil => intro m a h; exact h
  | cons b l ih => intro m a h; exact ih _ _ (Mem.wf_set m a b h)

/-- Inside the written bytes the new ones are read, outside the old ones. -/
theorem Mem.get_write (l : List Byte) : ∀ (m : Mem) (a x : Nat), Mem.wf m = true →
    Mem.get (Mem.write m a l) x = if a ≤ x ∧ x < a + l.length then l.getD (x - a) 0 else Mem.get m x := by
  induction l with
  | nil => intro m a x _; simp [Mem.write]
  | cons b l ih =>
    intro m a x h
    rw [Mem.write, ih _ _ _ (Mem.wf_set m a b h), Mem.get_set m a x b h]
    by_cases h1 : x = a
    · subst h1; simp
    · by_cases h2 : a ≤ x ∧ x < a + (l.length + 1)
      · have h3 : a + 1 ≤ x ∧ x < a + 1 + l.length := by omega
        have h4 : x - a = (x - (a + 1)) + 1 := by omega
        simp [h2, h3, h4]
      · have h3 : ¬ (a + 1 ≤ x ∧ x < a + 1 + l.length) := by omega
        rw [if_neg h3, if_neg h1, if_neg (by simpa using h2)]

theorem Mem.wf_clear (m : Mem) (a n : Nat) (h : Mem.wf m = true) : Mem.wf (Mem.clear m a n) = true :=
  SMap.wfD_filter 0 _ m h

/-- The bytes written one by one, each at its own address. -/
theorem Mem.wf_foldl_set (l : List (Nat × Byte)) : ∀ m : Mem, Mem.wf m = true →
    Mem.wf (l.foldl (fun (m : Mem) (p : Nat × Byte) => Mem.set m p.1 p.2) m) = true := by
  induction l with
  | nil => intro m h; exact h
  | cons p l ih => intro m h; exact ih _ (Mem.wf_set m p.1 p.2 h)

theorem Mem.get_foldl_set (l : List (Nat × Byte)) (x : Nat) (hx : ∀ p ∈ l, p.1 ≠ x) : ∀ m : Mem, Mem.wf m = true →
    Mem.get (l.foldl (fun (m : Mem) (p : Nat × Byte) => Mem.set m p.1 p.2) m) x = Mem.get m x := by
  induction l with
  | nil => intro m _; rfl
  | cons p l ih =>
    intro m hm
    rw [List.foldl_cons, ih (fun q hq => hx q (List.mem_cons_of_mem _ hq)) _ (Mem.wf_set m p.1 p.2 hm), Mem.get_set m _ _ _ hm,
      if_neg (fun h => hx p List.mem_cons_self h.symm)]

theorem Mem.foldl_set_zipIdx (bs : List Byte) : ∀ (m : Mem) (a n : Nat),
    ((bs.zipIdx n).map (fun (p : Byte × Nat) => (a + p.2, p.1))).foldl
      (fun (m : Mem) (p : Nat × Byte) => Mem.set m p.1 p.2) m = Mem.write m (a + n) bs := by
  induction bs with
  | nil => intro m a n; rfl
  | cons b bs ih => intro m a n; simp only [List.zipIdx_cons, List.map_cons, List.foldl_cons, Mem.write]; rw [ih]; rfl

end Sys2Proof.Machine
end

