-- ==== Sys2Proof/Laws/State.lean ====
section
/-! SUPPORT. What each named update of the hardware leaves of every field: one lemma per field per update. -/

namespace Sys2Proof.Machine

/-! `Hw.setReg` -/

@[simp] theorem Hw.setReg_now (h : Hw) (r : RegRow) (base i v : Nat) : (h.setReg r base i v).now = h.now := rfl
@[simp] theorem Hw.setReg_fabN (h : Hw) (r : RegRow) (base i v : Nat) : (h.setReg r base i v).fabN = h.fabN := rfl
@[simp] theorem Hw.setReg_partN (h : Hw) (r : RegRow) (base i v : Nat) : (h.setReg r base i v).partN = h.partN := rfl
@[simp] theorem Hw.setReg_staged (h : Hw) (r : RegRow) (base i v : Nat) : (h.setReg r base i v).staged = h.staged := rfl
@[simp] theorem Hw.setReg_commits (h : Hw) (r : RegRow) (base i v : Nat) : (h.setReg r base i v).commits = h.commits := rfl
@[simp] theorem Hw.setReg_mem (h : Hw) (r : RegRow) (base i v : Nat) : (h.setReg r base i v).mem = h.mem := rfl
@[simp] theorem Hw.setReg_host (h : Hw) (r : RegRow) (base i v : Nat) : (h.setReg r base i v).host = h.host := rfl
@[simp] theorem Hw.setReg_badWords (h : Hw) (r : RegRow) (base i v : Nat) : (h.setReg r base i v).badWords = h.badWords := rfl
@[simp] theorem Hw.setReg_corrWords (h : Hw) (r : RegRow) (base i v : Nat) : (h.setReg r base i v).corrWords = h.corrWords := rfl
@[simp] theorem Hw.setReg_heldPokes (h : Hw) (r : RegRow) (base i v : Nat) : (h.setReg r base i v).heldPokes = h.heldPokes := rfl
@[simp] theorem Hw.setReg_badLines (h : Hw) (r : RegRow) (base i v : Nat) : (h.setReg r base i v).badLines = h.badLines := rfl
@[simp] theorem Hw.setReg_badSites (h : Hw) (r : RegRow) (base i v : Nat) : (h.setReg r base i v).badSites = h.badSites := rfl
@[simp] theorem Hw.setReg_corrSites (h : Hw) (r : RegRow) (base i v : Nat) : (h.setReg r base i v).corrSites = h.corrSites := rfl
@[simp] theorem Hw.setReg_mapFault (h : Hw) (r : RegRow) (base i v : Nat) : (h.setReg r base i v).mapFault = h.mapFault := rfl
@[simp] theorem Hw.setReg_mapDown (h : Hw) (r : RegRow) (base i v : Nat) : (h.setReg r base i v).mapDown = h.mapDown := rfl
@[simp] theorem Hw.setReg_migSince (h : Hw) (r : RegRow) (base i v : Nat) : (h.setReg r base i v).migSince = h.migSince := rfl
@[simp] theorem Hw.setReg_pages (h : Hw) (r : RegRow) (base i v : Nat) : (h.setReg r base i v).pages = h.pages := rfl
@[simp] theorem Hw.setReg_swaps (h : Hw) (r : RegRow) (base i v : Nat) : (h.setReg r base i v).swaps = h.swaps := rfl
@[simp] theorem Hw.setReg_scrubs (h : Hw) (r : RegRow) (base i v : Nat) : (h.setReg r base i v).scrubs = h.scrubs := rfl
@[simp] theorem Hw.setReg_wins (h : Hw) (r : RegRow) (base i v : Nat) : (h.setReg r base i v).wins = h.wins := rfl
@[simp] theorem Hw.setReg_moved (h : Hw) (r : RegRow) (base i v : Nat) : (h.setReg r base i v).moved = h.moved := rfl
@[simp] theorem Hw.setReg_mirq (h : Hw) (r : RegRow) (base i v : Nat) : (h.setReg r base i v).mirq = h.mirq := rfl
@[simp] theorem Hw.setReg_mirHold (h : Hw) (r : RegRow) (base i v : Nat) : (h.setReg r base i v).mirHold = h.mirHold := rfl
@[simp] theorem Hw.setReg_nextMir (h : Hw) (r : RegRow) (base i v : Nat) : (h.setReg r base i v).nextMir = h.nextMir := rfl
@[simp] theorem Hw.setReg_txq (h : Hw) (r : RegRow) (base i v : Nat) : (h.setReg r base i v).txq = h.txq := rfl
@[simp] theorem Hw.setReg_txFlows (h : Hw) (r : RegRow) (base i v : Nat) : (h.setReg r base i v).txFlows = h.txFlows := rfl
@[simp] theorem Hw.setReg_rxFlows (h : Hw) (r : RegRow) (base i v : Nat) : (h.setReg r base i v).rxFlows = h.rxFlows := rfl
@[simp] theorem Hw.setReg_arrived (h : Hw) (r : RegRow) (base i v : Nat) : (h.setReg r base i v).arrived = h.arrived := rfl
@[simp] theorem Hw.setReg_reorder (h : Hw) (r : RegRow) (base i v : Nat) : (h.setReg r base i v).reorder = h.reorder := rfl
@[simp] theorem Hw.setReg_ready (h : Hw) (r : RegRow) (base i v : Nat) : (h.setReg r base i v).ready = h.ready := rfl
@[simp] theorem Hw.setReg_failures (h : Hw) (r : RegRow) (base i v : Nat) : (h.setReg r base i v).failures = h.failures := rfl
@[simp] theorem Hw.setReg_inject (h : Hw) (r : RegRow) (base i v : Nat) : (h.setReg r base i v).inject = h.inject := rfl
@[simp] theorem Hw.setReg_ports (h : Hw) (r : RegRow) (base i v : Nat) : (h.setReg r base i v).ports = h.ports := rfl
@[simp] theorem Hw.setReg_switches (h : Hw) (r : RegRow) (base i v : Nat) : (h.setReg r base i v).switches = h.switches := rfl
@[simp] theorem Hw.setReg_egress (h : Hw) (r : RegRow) (base i v : Nat) : (h.setReg r base i v).egress = h.egress := rfl
@[simp] theorem Hw.setReg_originals (h : Hw) (r : RegRow) (base i v : Nat) : (h.setReg r base i v).originals = h.originals := rfl
@[simp] theorem Hw.setReg_nextOrig (h : Hw) (r : RegRow) (base i v : Nat) : (h.setReg r base i v).nextOrig = h.nextOrig := rfl
@[simp] theorem Hw.setReg_satLocal (h : Hw) (r : RegRow) (base i v : Nat) : (h.setReg r base i v).satLocal = h.satLocal := rfl
@[simp] theorem Hw.setReg_satGlobal (h : Hw) (r : RegRow) (base i v : Nat) : (h.setReg r base i v).satGlobal = h.satGlobal := rfl
@[simp] theorem Hw.setReg_stages (h : Hw) (r : RegRow) (base i v : Nat) : (h.setReg r base i v).stages = h.stages := rfl
@[simp] theorem Hw.setReg_stageUsed (h : Hw) (r : RegRow) (base i v : Nat) : (h.setReg r base i v).stageUsed = h.stageUsed := rfl
@[simp] theorem Hw.setReg_linksDown (h : Hw) (r : RegRow) (base i v : Nat) : (h.setReg r base i v).linksDown = h.linksDown := rfl
@[simp] theorem Hw.setReg_sampleAt (h : Hw) (r : RegRow) (base i v : Nat) : (h.setReg r base i v).sampleAt = h.sampleAt := rfl
@[simp] theorem Hw.setReg_mcExtra (h : Hw) (r : RegRow) (base i v : Nat) : (h.setReg r base i v).mcExtra = h.mcExtra := rfl
@[simp] theorem Hw.setReg_stus (h : Hw) (r : RegRow) (base i v : Nat) : (h.setReg r base i v).stus = h.stus := rfl
@[simp] theorem Hw.setReg_stuCmds (h : Hw) (r : RegRow) (base i v : Nat) : (h.setReg r base i v).stuCmds = h.stuCmds := rfl
@[simp] theorem Hw.setReg_groups (h : Hw) (r : RegRow) (base i v : Nat) : (h.setReg r base i v).groups = h.groups := rfl
@[simp] theorem Hw.setReg_colls (h : Hw) (r : RegRow) (base i v : Nat) : (h.setReg r base i v).colls = h.colls := rfl
@[simp] theorem Hw.setReg_mirrorRecs (h : Hw) (r : RegRow) (base i v : Nat) : (h.setReg r base i v).mirrorRecs = h.mirrorRecs := rfl
@[simp] theorem Hw.setReg_mirrors (h : Hw) (r : RegRow) (base i v : Nat) : (h.setReg r base i v).mirrors = h.mirrors := rfl
@[simp] theorem Hw.setReg_opens (h : Hw) (r : RegRow) (base i v : Nat) : (h.setReg r base i v).opens = h.opens := rfl
@[simp] theorem Hw.setReg_closedX (h : Hw) (r : RegRow) (base i v : Nat) : (h.setReg r base i v).closedX = h.closedX := rfl
@[simp] theorem Hw.setReg_xrets (h : Hw) (r : RegRow) (base i v : Nat) : (h.setReg r base i v).xrets = h.xrets := rfl
@[simp] theorem Hw.setReg_reqs (h : Hw) (r : RegRow) (base i v : Nat) : (h.setReg r base i v).reqs = h.reqs := rfl
@[simp] theorem Hw.setReg_nextOpid (h : Hw) (r : RegRow) (base i v : Nat) : (h.setReg r base i v).nextOpid = h.nextOpid := rfl
@[simp] theorem Hw.setReg_tseq (h : Hw) (r : RegRow) (base i v : Nat) : (h.setReg r base i v).tseq = h.tseq := rfl
@[simp] theorem Hw.setReg_defer (h : Hw) (r : RegRow) (base i v : Nat) : (h.setReg r base i v).defer = h.defer := rfl
@[simp] theorem Hw.setReg_rgn (h : Hw) (r : RegRow) (base i v : Nat) : (h.setReg r base i v).rgn = h.rgn := rfl
@[simp] theorem Hw.setReg_rgnNext (h : Hw) (r : RegRow) (base i v : Nat) : (h.setReg r base i v).rgnNext = h.rgnNext := rfl
@[simp] theorem Hw.setReg_rgnLate (h : Hw) (r : RegRow) (base i v : Nat) : (h.setReg r base i v).rgnLate = h.rgnLate := rfl
@[simp] theorem Hw.setReg_reservations (h : Hw) (r : RegRow) (base i v : Nat) : (h.setReg r base i v).reservations = h.reservations := rfl
@[simp] theorem Hw.setReg_jobs (h : Hw) (r : RegRow) (base i v : Nat) : (h.setReg r base i v).jobs = h.jobs := rfl
@[simp] theorem Hw.setReg_nextTag (h : Hw) (r : RegRow) (base i v : Nat) : (h.setReg r base i v).nextTag = h.nextTag := rfl
@[simp] theorem Hw.setReg_kposts (h : Hw) (r : RegRow) (base i v : Nat) : (h.setReg r base i v).kposts = h.kposts := rfl
@[simp] theorem Hw.setReg_io (h : Hw) (r : RegRow) (base i v : Nat) : (h.setReg r base i v).io = h.io := rfl
@[simp] theorem Hw.setReg_cps (h : Hw) (r : RegRow) (base i v : Nat) : (h.setReg r base i v).cps = h.cps := rfl
@[simp] theorem Hw.setReg_cores (h : Hw) (r : RegRow) (base i v : Nat) : (h.setReg r base i v).cores = h.cores := rfl
@[simp] theorem Hw.setReg_fed (h : Hw) (r : RegRow) (base i v : Nat) : (h.setReg r base i v).fed = h.fed := rfl
@[simp] theorem Hw.setReg_plc (h : Hw) (r : RegRow) (base i v : Nat) : (h.setReg r base i v).plc = h.plc := rfl
@[simp] theorem Hw.setReg_routes (h : Hw) (r : RegRow) (base i v : Nat) : (h.setReg r base i v).routes = h.routes := rfl
@[simp] theorem Hw.setReg_keepers (h : Hw) (r : RegRow) (base i v : Nat) : (h.setReg r base i v).keepers = h.keepers := rfl
@[simp] theorem Hw.setReg_landed (h : Hw) (r : RegRow) (base i v : Nat) : (h.setReg r base i v).landed = h.landed := rfl
@[simp] theorem Hw.setReg_replayEv (h : Hw) (r : RegRow) (base i v : Nat) : (h.setReg r base i v).replayEv = h.replayEv := rfl
@[simp] theorem Hw.setReg_clears (h : Hw) (r : RegRow) (base i v : Nat) : (h.setReg r base i v).clears = h.clears := rfl
@[simp] theorem Hw.setReg_sync (h : Hw) (r : RegRow) (base i v : Nat) : (h.setReg r base i v).sync = h.sync := rfl
@[simp] theorem Hw.setReg_cinches (h : Hw) (r : RegRow) (base i v : Nat) : (h.setReg r base i v).cinches = h.cinches := rfl
@[simp] theorem Hw.setReg_dlm (h : Hw) (r : RegRow) (base i v : Nat) : (h.setReg r base i v).dlm = h.dlm := rfl
@[simp] theorem Hw.setReg_acct (h : Hw) (r : RegRow) (base i v : Nat) : (h.setReg r base i v).acct = h.acct := rfl
@[simp] theorem Hw.setReg_partJobs (h : Hw) (r : RegRow) (base i v : Nat) : (h.setReg r base i v).partJobs = h.partJobs := rfl
@[simp] theorem Hw.setReg_watch (h : Hw) (r : RegRow) (base i v : Nat) : (h.setReg r base i v).watch = h.watch := rfl
@[simp] theorem Hw.setReg_watchStep (h : Hw) (r : RegRow) (base i v : Nat) : (h.setReg r base i v).watchStep = h.watchStep := rfl
@[simp] theorem Hw.setReg_nv (h : Hw) (r : RegRow) (base i v : Nat) : (h.setReg r base i v).nv = h.nv := rfl
@[simp] theorem Hw.setReg_mgmt (h : Hw) (r : RegRow) (base i v : Nat) : (h.setReg r base i v).mgmt = h.mgmt := rfl
@[simp] theorem Hw.setReg_power (h : Hw) (r : RegRow) (base i v : Nat) : (h.setReg r base i v).power = h.power := rfl
@[simp] theorem Hw.setReg_freeCount (h : Hw) (r : RegRow) (base i v : Nat) : (h.setReg r base i v).freeCount = h.freeCount := rfl

/-! `Hw.wf` -/

@[simp] theorem Hw.wf_now (h : Hw) (f : FieldRef) (base i v : Nat) : (h.wf f base i v).now = h.now := rfl
@[simp] theorem Hw.wf_fabN (h : Hw) (f : FieldRef) (base i v : Nat) : (h.wf f base i v).fabN = h.fabN := rfl
@[simp] theorem Hw.wf_partN (h : Hw) (f : FieldRef) (base i v : Nat) : (h.wf f base i v).partN = h.partN := rfl
@[simp] theorem Hw.wf_staged (h : Hw) (f : FieldRef) (base i v : Nat) : (h.wf f base i v).staged = h.staged := rfl
@[simp] theorem Hw.wf_commits (h : Hw) (f : FieldRef) (base i v : Nat) : (h.wf f base i v).commits = h.commits := rfl
@[simp] theorem Hw.wf_mem (h : Hw) (f : FieldRef) (base i v : Nat) : (h.wf f base i v).mem = h.mem := rfl
@[simp] theorem Hw.wf_host (h : Hw) (f : FieldRef) (base i v : Nat) : (h.wf f base i v).host = h.host := rfl
@[simp] theorem Hw.wf_badWords (h : Hw) (f : FieldRef) (base i v : Nat) : (h.wf f base i v).badWords = h.badWords := rfl
@[simp] theorem Hw.wf_corrWords (h : Hw) (f : FieldRef) (base i v : Nat) : (h.wf f base i v).corrWords = h.corrWords := rfl
@[simp] theorem Hw.wf_heldPokes (h : Hw) (f : FieldRef) (base i v : Nat) : (h.wf f base i v).heldPokes = h.heldPokes := rfl
@[simp] theorem Hw.wf_badLines (h : Hw) (f : FieldRef) (base i v : Nat) : (h.wf f base i v).badLines = h.badLines := rfl
@[simp] theorem Hw.wf_badSites (h : Hw) (f : FieldRef) (base i v : Nat) : (h.wf f base i v).badSites = h.badSites := rfl
@[simp] theorem Hw.wf_corrSites (h : Hw) (f : FieldRef) (base i v : Nat) : (h.wf f base i v).corrSites = h.corrSites := rfl
@[simp] theorem Hw.wf_mapFault (h : Hw) (f : FieldRef) (base i v : Nat) : (h.wf f base i v).mapFault = h.mapFault := rfl
@[simp] theorem Hw.wf_mapDown (h : Hw) (f : FieldRef) (base i v : Nat) : (h.wf f base i v).mapDown = h.mapDown := rfl
@[simp] theorem Hw.wf_migSince (h : Hw) (f : FieldRef) (base i v : Nat) : (h.wf f base i v).migSince = h.migSince := rfl
@[simp] theorem Hw.wf_pages (h : Hw) (f : FieldRef) (base i v : Nat) : (h.wf f base i v).pages = h.pages := rfl
@[simp] theorem Hw.wf_swaps (h : Hw) (f : FieldRef) (base i v : Nat) : (h.wf f base i v).swaps = h.swaps := rfl
@[simp] theorem Hw.wf_scrubs (h : Hw) (f : FieldRef) (base i v : Nat) : (h.wf f base i v).scrubs = h.scrubs := rfl
@[simp] theorem Hw.wf_wins (h : Hw) (f : FieldRef) (base i v : Nat) : (h.wf f base i v).wins = h.wins := rfl
@[simp] theorem Hw.wf_moved (h : Hw) (f : FieldRef) (base i v : Nat) : (h.wf f base i v).moved = h.moved := rfl
@[simp] theorem Hw.wf_mirq (h : Hw) (f : FieldRef) (base i v : Nat) : (h.wf f base i v).mirq = h.mirq := rfl
@[simp] theorem Hw.wf_mirHold (h : Hw) (f : FieldRef) (base i v : Nat) : (h.wf f base i v).mirHold = h.mirHold := rfl
@[simp] theorem Hw.wf_nextMir (h : Hw) (f : FieldRef) (base i v : Nat) : (h.wf f base i v).nextMir = h.nextMir := rfl
@[simp] theorem Hw.wf_txq (h : Hw) (f : FieldRef) (base i v : Nat) : (h.wf f base i v).txq = h.txq := rfl
@[simp] theorem Hw.wf_txFlows (h : Hw) (f : FieldRef) (base i v : Nat) : (h.wf f base i v).txFlows = h.txFlows := rfl
@[simp] theorem Hw.wf_rxFlows (h : Hw) (f : FieldRef) (base i v : Nat) : (h.wf f base i v).rxFlows = h.rxFlows := rfl
@[simp] theorem Hw.wf_arrived (h : Hw) (f : FieldRef) (base i v : Nat) : (h.wf f base i v).arrived = h.arrived := rfl
@[simp] theorem Hw.wf_reorder (h : Hw) (f : FieldRef) (base i v : Nat) : (h.wf f base i v).reorder = h.reorder := rfl
@[simp] theorem Hw.wf_ready (h : Hw) (f : FieldRef) (base i v : Nat) : (h.wf f base i v).ready = h.ready := rfl
@[simp] theorem Hw.wf_failures (h : Hw) (f : FieldRef) (base i v : Nat) : (h.wf f base i v).failures = h.failures := rfl
@[simp] theorem Hw.wf_inject (h : Hw) (f : FieldRef) (base i v : Nat) : (h.wf f base i v).inject = h.inject := rfl
@[simp] theorem Hw.wf_ports (h : Hw) (f : FieldRef) (base i v : Nat) : (h.wf f base i v).ports = h.ports := rfl
@[simp] theorem Hw.wf_switches (h : Hw) (f : FieldRef) (base i v : Nat) : (h.wf f base i v).switches = h.switches := rfl
@[simp] theorem Hw.wf_egress (h : Hw) (f : FieldRef) (base i v : Nat) : (h.wf f base i v).egress = h.egress := rfl
@[simp] theorem Hw.wf_originals (h : Hw) (f : FieldRef) (base i v : Nat) : (h.wf f base i v).originals = h.originals := rfl
@[simp] theorem Hw.wf_nextOrig (h : Hw) (f : FieldRef) (base i v : Nat) : (h.wf f base i v).nextOrig = h.nextOrig := rfl
@[simp] theorem Hw.wf_satLocal (h : Hw) (f : FieldRef) (base i v : Nat) : (h.wf f base i v).satLocal = h.satLocal := rfl
@[simp] theorem Hw.wf_satGlobal (h : Hw) (f : FieldRef) (base i v : Nat) : (h.wf f base i v).satGlobal = h.satGlobal := rfl
@[simp] theorem Hw.wf_stages (h : Hw) (f : FieldRef) (base i v : Nat) : (h.wf f base i v).stages = h.stages := rfl
@[simp] theorem Hw.wf_stageUsed (h : Hw) (f : FieldRef) (base i v : Nat) : (h.wf f base i v).stageUsed = h.stageUsed := rfl
@[simp] theorem Hw.wf_linksDown (h : Hw) (f : FieldRef) (base i v : Nat) : (h.wf f base i v).linksDown = h.linksDown := rfl
@[simp] theorem Hw.wf_sampleAt (h : Hw) (f : FieldRef) (base i v : Nat) : (h.wf f base i v).sampleAt = h.sampleAt := rfl
@[simp] theorem Hw.wf_mcExtra (h : Hw) (f : FieldRef) (base i v : Nat) : (h.wf f base i v).mcExtra = h.mcExtra := rfl
@[simp] theorem Hw.wf_stus (h : Hw) (f : FieldRef) (base i v : Nat) : (h.wf f base i v).stus = h.stus := rfl
@[simp] theorem Hw.wf_stuCmds (h : Hw) (f : FieldRef) (base i v : Nat) : (h.wf f base i v).stuCmds = h.stuCmds := rfl
@[simp] theorem Hw.wf_groups (h : Hw) (f : FieldRef) (base i v : Nat) : (h.wf f base i v).groups = h.groups := rfl
@[simp] theorem Hw.wf_colls (h : Hw) (f : FieldRef) (base i v : Nat) : (h.wf f base i v).colls = h.colls := rfl
@[simp] theorem Hw.wf_mirrorRecs (h : Hw) (f : FieldRef) (base i v : Nat) : (h.wf f base i v).mirrorRecs = h.mirrorRecs := rfl
@[simp] theorem Hw.wf_mirrors (h : Hw) (f : FieldRef) (base i v : Nat) : (h.wf f base i v).mirrors = h.mirrors := rfl
@[simp] theorem Hw.wf_opens (h : Hw) (f : FieldRef) (base i v : Nat) : (h.wf f base i v).opens = h.opens := rfl
@[simp] theorem Hw.wf_closedX (h : Hw) (f : FieldRef) (base i v : Nat) : (h.wf f base i v).closedX = h.closedX := rfl
@[simp] theorem Hw.wf_xrets (h : Hw) (f : FieldRef) (base i v : Nat) : (h.wf f base i v).xrets = h.xrets := rfl
@[simp] theorem Hw.wf_reqs (h : Hw) (f : FieldRef) (base i v : Nat) : (h.wf f base i v).reqs = h.reqs := rfl
@[simp] theorem Hw.wf_nextOpid (h : Hw) (f : FieldRef) (base i v : Nat) : (h.wf f base i v).nextOpid = h.nextOpid := rfl
@[simp] theorem Hw.wf_tseq (h : Hw) (f : FieldRef) (base i v : Nat) : (h.wf f base i v).tseq = h.tseq := rfl
@[simp] theorem Hw.wf_defer (h : Hw) (f : FieldRef) (base i v : Nat) : (h.wf f base i v).defer = h.defer := rfl
@[simp] theorem Hw.wf_rgn (h : Hw) (f : FieldRef) (base i v : Nat) : (h.wf f base i v).rgn = h.rgn := rfl
@[simp] theorem Hw.wf_rgnNext (h : Hw) (f : FieldRef) (base i v : Nat) : (h.wf f base i v).rgnNext = h.rgnNext := rfl
@[simp] theorem Hw.wf_rgnLate (h : Hw) (f : FieldRef) (base i v : Nat) : (h.wf f base i v).rgnLate = h.rgnLate := rfl
@[simp] theorem Hw.wf_reservations (h : Hw) (f : FieldRef) (base i v : Nat) : (h.wf f base i v).reservations = h.reservations := rfl
@[simp] theorem Hw.wf_jobs (h : Hw) (f : FieldRef) (base i v : Nat) : (h.wf f base i v).jobs = h.jobs := rfl
@[simp] theorem Hw.wf_nextTag (h : Hw) (f : FieldRef) (base i v : Nat) : (h.wf f base i v).nextTag = h.nextTag := rfl
@[simp] theorem Hw.wf_kposts (h : Hw) (f : FieldRef) (base i v : Nat) : (h.wf f base i v).kposts = h.kposts := rfl
@[simp] theorem Hw.wf_io (h : Hw) (f : FieldRef) (base i v : Nat) : (h.wf f base i v).io = h.io := rfl
@[simp] theorem Hw.wf_cps (h : Hw) (f : FieldRef) (base i v : Nat) : (h.wf f base i v).cps = h.cps := rfl
@[simp] theorem Hw.wf_cores (h : Hw) (f : FieldRef) (base i v : Nat) : (h.wf f base i v).cores = h.cores := rfl
@[simp] theorem Hw.wf_fed (h : Hw) (f : FieldRef) (base i v : Nat) : (h.wf f base i v).fed = h.fed := rfl
@[simp] theorem Hw.wf_plc (h : Hw) (f : FieldRef) (base i v : Nat) : (h.wf f base i v).plc = h.plc := rfl
@[simp] theorem Hw.wf_routes (h : Hw) (f : FieldRef) (base i v : Nat) : (h.wf f base i v).routes = h.routes := rfl
@[simp] theorem Hw.wf_keepers (h : Hw) (f : FieldRef) (base i v : Nat) : (h.wf f base i v).keepers = h.keepers := rfl
@[simp] theorem Hw.wf_landed (h : Hw) (f : FieldRef) (base i v : Nat) : (h.wf f base i v).landed = h.landed := rfl
@[simp] theorem Hw.wf_replayEv (h : Hw) (f : FieldRef) (base i v : Nat) : (h.wf f base i v).replayEv = h.replayEv := rfl
@[simp] theorem Hw.wf_clears (h : Hw) (f : FieldRef) (base i v : Nat) : (h.wf f base i v).clears = h.clears := rfl
@[simp] theorem Hw.wf_sync (h : Hw) (f : FieldRef) (base i v : Nat) : (h.wf f base i v).sync = h.sync := rfl
@[simp] theorem Hw.wf_cinches (h : Hw) (f : FieldRef) (base i v : Nat) : (h.wf f base i v).cinches = h.cinches := rfl
@[simp] theorem Hw.wf_dlm (h : Hw) (f : FieldRef) (base i v : Nat) : (h.wf f base i v).dlm = h.dlm := rfl
@[simp] theorem Hw.wf_acct (h : Hw) (f : FieldRef) (base i v : Nat) : (h.wf f base i v).acct = h.acct := rfl
@[simp] theorem Hw.wf_partJobs (h : Hw) (f : FieldRef) (base i v : Nat) : (h.wf f base i v).partJobs = h.partJobs := rfl
@[simp] theorem Hw.wf_watch (h : Hw) (f : FieldRef) (base i v : Nat) : (h.wf f base i v).watch = h.watch := rfl
@[simp] theorem Hw.wf_watchStep (h : Hw) (f : FieldRef) (base i v : Nat) : (h.wf f base i v).watchStep = h.watchStep := rfl
@[simp] theorem Hw.wf_nv (h : Hw) (f : FieldRef) (base i v : Nat) : (h.wf f base i v).nv = h.nv := rfl
@[simp] theorem Hw.wf_mgmt (h : Hw) (f : FieldRef) (base i v : Nat) : (h.wf f base i v).mgmt = h.mgmt := rfl
@[simp] theorem Hw.wf_power (h : Hw) (f : FieldRef) (base i v : Nat) : (h.wf f base i v).power = h.power := rfl
@[simp] theorem Hw.wf_freeCount (h : Hw) (f : FieldRef) (base i v : Nat) : (h.wf f base i v).freeCount = h.freeCount := rfl

/-! `Hw.inc` -/

@[simp] theorem Hw.inc_now (h : Hw) (f : FieldRef) (base i n : Nat) : (h.inc f base i n).now = h.now := rfl
@[simp] theorem Hw.inc_fabN (h : Hw) (f : FieldRef) (base i n : Nat) : (h.inc f base i n).fabN = h.fabN := rfl
@[simp] theorem Hw.inc_partN (h : Hw) (f : FieldRef) (base i n : Nat) : (h.inc f base i n).partN = h.partN := rfl
@[simp] theorem Hw.inc_staged (h : Hw) (f : FieldRef) (base i n : Nat) : (h.inc f base i n).staged = h.staged := rfl
@[simp] theorem Hw.inc_commits (h : Hw) (f : FieldRef) (base i n : Nat) : (h.inc f base i n).commits = h.commits := rfl
@[simp] theorem Hw.inc_mem (h : Hw) (f : FieldRef) (base i n : Nat) : (h.inc f base i n).mem = h.mem := rfl
@[simp] theorem Hw.inc_host (h : Hw) (f : FieldRef) (base i n : Nat) : (h.inc f base i n).host = h.host := rfl
@[simp] theorem Hw.inc_badWords (h : Hw) (f : FieldRef) (base i n : Nat) : (h.inc f base i n).badWords = h.badWords := rfl
@[simp] theorem Hw.inc_corrWords (h : Hw) (f : FieldRef) (base i n : Nat) : (h.inc f base i n).corrWords = h.corrWords := rfl
@[simp] theorem Hw.inc_heldPokes (h : Hw) (f : FieldRef) (base i n : Nat) : (h.inc f base i n).heldPokes = h.heldPokes := rfl
@[simp] theorem Hw.inc_badLines (h : Hw) (f : FieldRef) (base i n : Nat) : (h.inc f base i n).badLines = h.badLines := rfl
@[simp] theorem Hw.inc_badSites (h : Hw) (f : FieldRef) (base i n : Nat) : (h.inc f base i n).badSites = h.badSites := rfl
@[simp] theorem Hw.inc_corrSites (h : Hw) (f : FieldRef) (base i n : Nat) : (h.inc f base i n).corrSites = h.corrSites := rfl
@[simp] theorem Hw.inc_mapFault (h : Hw) (f : FieldRef) (base i n : Nat) : (h.inc f base i n).mapFault = h.mapFault := rfl
@[simp] theorem Hw.inc_mapDown (h : Hw) (f : FieldRef) (base i n : Nat) : (h.inc f base i n).mapDown = h.mapDown := rfl
@[simp] theorem Hw.inc_migSince (h : Hw) (f : FieldRef) (base i n : Nat) : (h.inc f base i n).migSince = h.migSince := rfl
@[simp] theorem Hw.inc_pages (h : Hw) (f : FieldRef) (base i n : Nat) : (h.inc f base i n).pages = h.pages := rfl
@[simp] theorem Hw.inc_swaps (h : Hw) (f : FieldRef) (base i n : Nat) : (h.inc f base i n).swaps = h.swaps := rfl
@[simp] theorem Hw.inc_scrubs (h : Hw) (f : FieldRef) (base i n : Nat) : (h.inc f base i n).scrubs = h.scrubs := rfl
@[simp] theorem Hw.inc_wins (h : Hw) (f : FieldRef) (base i n : Nat) : (h.inc f base i n).wins = h.wins := rfl
@[simp] theorem Hw.inc_moved (h : Hw) (f : FieldRef) (base i n : Nat) : (h.inc f base i n).moved = h.moved := rfl
@[simp] theorem Hw.inc_mirq (h : Hw) (f : FieldRef) (base i n : Nat) : (h.inc f base i n).mirq = h.mirq := rfl
@[simp] theorem Hw.inc_mirHold (h : Hw) (f : FieldRef) (base i n : Nat) : (h.inc f base i n).mirHold = h.mirHold := rfl
@[simp] theorem Hw.inc_nextMir (h : Hw) (f : FieldRef) (base i n : Nat) : (h.inc f base i n).nextMir = h.nextMir := rfl
@[simp] theorem Hw.inc_txq (h : Hw) (f : FieldRef) (base i n : Nat) : (h.inc f base i n).txq = h.txq := rfl
@[simp] theorem Hw.inc_txFlows (h : Hw) (f : FieldRef) (base i n : Nat) : (h.inc f base i n).txFlows = h.txFlows := rfl
@[simp] theorem Hw.inc_rxFlows (h : Hw) (f : FieldRef) (base i n : Nat) : (h.inc f base i n).rxFlows = h.rxFlows := rfl
@[simp] theorem Hw.inc_arrived (h : Hw) (f : FieldRef) (base i n : Nat) : (h.inc f base i n).arrived = h.arrived := rfl
@[simp] theorem Hw.inc_reorder (h : Hw) (f : FieldRef) (base i n : Nat) : (h.inc f base i n).reorder = h.reorder := rfl
@[simp] theorem Hw.inc_ready (h : Hw) (f : FieldRef) (base i n : Nat) : (h.inc f base i n).ready = h.ready := rfl
@[simp] theorem Hw.inc_failures (h : Hw) (f : FieldRef) (base i n : Nat) : (h.inc f base i n).failures = h.failures := rfl
@[simp] theorem Hw.inc_inject (h : Hw) (f : FieldRef) (base i n : Nat) : (h.inc f base i n).inject = h.inject := rfl
@[simp] theorem Hw.inc_ports (h : Hw) (f : FieldRef) (base i n : Nat) : (h.inc f base i n).ports = h.ports := rfl
@[simp] theorem Hw.inc_switches (h : Hw) (f : FieldRef) (base i n : Nat) : (h.inc f base i n).switches = h.switches := rfl
@[simp] theorem Hw.inc_egress (h : Hw) (f : FieldRef) (base i n : Nat) : (h.inc f base i n).egress = h.egress := rfl
@[simp] theorem Hw.inc_originals (h : Hw) (f : FieldRef) (base i n : Nat) : (h.inc f base i n).originals = h.originals := rfl
@[simp] theorem Hw.inc_nextOrig (h : Hw) (f : FieldRef) (base i n : Nat) : (h.inc f base i n).nextOrig = h.nextOrig := rfl
@[simp] theorem Hw.inc_satLocal (h : Hw) (f : FieldRef) (base i n : Nat) : (h.inc f base i n).satLocal = h.satLocal := rfl
@[simp] theorem Hw.inc_satGlobal (h : Hw) (f : FieldRef) (base i n : Nat) : (h.inc f base i n).satGlobal = h.satGlobal := rfl
@[simp] theorem Hw.inc_stages (h : Hw) (f : FieldRef) (base i n : Nat) : (h.inc f base i n).stages = h.stages := rfl
@[simp] theorem Hw.inc_stageUsed (h : Hw) (f : FieldRef) (base i n : Nat) : (h.inc f base i n).stageUsed = h.stageUsed := rfl
@[simp] theorem Hw.inc_linksDown (h : Hw) (f : FieldRef) (base i n : Nat) : (h.inc f base i n).linksDown = h.linksDown := rfl
@[simp] theorem Hw.inc_sampleAt (h : Hw) (f : FieldRef) (base i n : Nat) : (h.inc f base i n).sampleAt = h.sampleAt := rfl
@[simp] theorem Hw.inc_mcExtra (h : Hw) (f : FieldRef) (base i n : Nat) : (h.inc f base i n).mcExtra = h.mcExtra := rfl
@[simp] theorem Hw.inc_stus (h : Hw) (f : FieldRef) (base i n : Nat) : (h.inc f base i n).stus = h.stus := rfl
@[simp] theorem Hw.inc_stuCmds (h : Hw) (f : FieldRef) (base i n : Nat) : (h.inc f base i n).stuCmds = h.stuCmds := rfl
@[simp] theorem Hw.inc_groups (h : Hw) (f : FieldRef) (base i n : Nat) : (h.inc f base i n).groups = h.groups := rfl
@[simp] theorem Hw.inc_colls (h : Hw) (f : FieldRef) (base i n : Nat) : (h.inc f base i n).colls = h.colls := rfl
@[simp] theorem Hw.inc_mirrorRecs (h : Hw) (f : FieldRef) (base i n : Nat) : (h.inc f base i n).mirrorRecs = h.mirrorRecs := rfl
@[simp] theorem Hw.inc_mirrors (h : Hw) (f : FieldRef) (base i n : Nat) : (h.inc f base i n).mirrors = h.mirrors := rfl
@[simp] theorem Hw.inc_opens (h : Hw) (f : FieldRef) (base i n : Nat) : (h.inc f base i n).opens = h.opens := rfl
@[simp] theorem Hw.inc_closedX (h : Hw) (f : FieldRef) (base i n : Nat) : (h.inc f base i n).closedX = h.closedX := rfl
@[simp] theorem Hw.inc_xrets (h : Hw) (f : FieldRef) (base i n : Nat) : (h.inc f base i n).xrets = h.xrets := rfl
@[simp] theorem Hw.inc_reqs (h : Hw) (f : FieldRef) (base i n : Nat) : (h.inc f base i n).reqs = h.reqs := rfl
@[simp] theorem Hw.inc_nextOpid (h : Hw) (f : FieldRef) (base i n : Nat) : (h.inc f base i n).nextOpid = h.nextOpid := rfl
@[simp] theorem Hw.inc_tseq (h : Hw) (f : FieldRef) (base i n : Nat) : (h.inc f base i n).tseq = h.tseq := rfl
@[simp] theorem Hw.inc_defer (h : Hw) (f : FieldRef) (base i n : Nat) : (h.inc f base i n).defer = h.defer := rfl
@[simp] theorem Hw.inc_rgn (h : Hw) (f : FieldRef) (base i n : Nat) : (h.inc f base i n).rgn = h.rgn := rfl
@[simp] theorem Hw.inc_rgnNext (h : Hw) (f : FieldRef) (base i n : Nat) : (h.inc f base i n).rgnNext = h.rgnNext := rfl
@[simp] theorem Hw.inc_rgnLate (h : Hw) (f : FieldRef) (base i n : Nat) : (h.inc f base i n).rgnLate = h.rgnLate := rfl
@[simp] theorem Hw.inc_reservations (h : Hw) (f : FieldRef) (base i n : Nat) : (h.inc f base i n).reservations = h.reservations := rfl
@[simp] theorem Hw.inc_jobs (h : Hw) (f : FieldRef) (base i n : Nat) : (h.inc f base i n).jobs = h.jobs := rfl
@[simp] theorem Hw.inc_nextTag (h : Hw) (f : FieldRef) (base i n : Nat) : (h.inc f base i n).nextTag = h.nextTag := rfl
@[simp] theorem Hw.inc_kposts (h : Hw) (f : FieldRef) (base i n : Nat) : (h.inc f base i n).kposts = h.kposts := rfl
@[simp] theorem Hw.inc_io (h : Hw) (f : FieldRef) (base i n : Nat) : (h.inc f base i n).io = h.io := rfl
@[simp] theorem Hw.inc_cps (h : Hw) (f : FieldRef) (base i n : Nat) : (h.inc f base i n).cps = h.cps := rfl
@[simp] theorem Hw.inc_cores (h : Hw) (f : FieldRef) (base i n : Nat) : (h.inc f base i n).cores = h.cores := rfl
@[simp] theorem Hw.inc_fed (h : Hw) (f : FieldRef) (base i n : Nat) : (h.inc f base i n).fed = h.fed := rfl
@[simp] theorem Hw.inc_plc (h : Hw) (f : FieldRef) (base i n : Nat) : (h.inc f base i n).plc = h.plc := rfl
@[simp] theorem Hw.inc_routes (h : Hw) (f : FieldRef) (base i n : Nat) : (h.inc f base i n).routes = h.routes := rfl
@[simp] theorem Hw.inc_keepers (h : Hw) (f : FieldRef) (base i n : Nat) : (h.inc f base i n).keepers = h.keepers := rfl
@[simp] theorem Hw.inc_landed (h : Hw) (f : FieldRef) (base i n : Nat) : (h.inc f base i n).landed = h.landed := rfl
@[simp] theorem Hw.inc_replayEv (h : Hw) (f : FieldRef) (base i n : Nat) : (h.inc f base i n).replayEv = h.replayEv := rfl
@[simp] theorem Hw.inc_clears (h : Hw) (f : FieldRef) (base i n : Nat) : (h.inc f base i n).clears = h.clears := rfl
@[simp] theorem Hw.inc_sync (h : Hw) (f : FieldRef) (base i n : Nat) : (h.inc f base i n).sync = h.sync := rfl
@[simp] theorem Hw.inc_cinches (h : Hw) (f : FieldRef) (base i n : Nat) : (h.inc f base i n).cinches = h.cinches := rfl
@[simp] theorem Hw.inc_dlm (h : Hw) (f : FieldRef) (base i n : Nat) : (h.inc f base i n).dlm = h.dlm := rfl
@[simp] theorem Hw.inc_acct (h : Hw) (f : FieldRef) (base i n : Nat) : (h.inc f base i n).acct = h.acct := rfl
@[simp] theorem Hw.inc_partJobs (h : Hw) (f : FieldRef) (base i n : Nat) : (h.inc f base i n).partJobs = h.partJobs := rfl
@[simp] theorem Hw.inc_watch (h : Hw) (f : FieldRef) (base i n : Nat) : (h.inc f base i n).watch = h.watch := rfl
@[simp] theorem Hw.inc_watchStep (h : Hw) (f : FieldRef) (base i n : Nat) : (h.inc f base i n).watchStep = h.watchStep := rfl
@[simp] theorem Hw.inc_nv (h : Hw) (f : FieldRef) (base i n : Nat) : (h.inc f base i n).nv = h.nv := rfl
@[simp] theorem Hw.inc_mgmt (h : Hw) (f : FieldRef) (base i n : Nat) : (h.inc f base i n).mgmt = h.mgmt := rfl
@[simp] theorem Hw.inc_power (h : Hw) (f : FieldRef) (base i n : Nat) : (h.inc f base i n).power = h.power := rfl
@[simp] theorem Hw.inc_freeCount (h : Hw) (f : FieldRef) (base i n : Nat) : (h.inc f base i n).freeCount = h.freeCount := rfl

/-! `Hw.incSat` -/

@[simp] theorem Hw.incSat_now (h : Hw) (f : FieldRef) (base i n : Nat) : (h.incSat f base i n).now = h.now := rfl
@[simp] theorem Hw.incSat_fabN (h : Hw) (f : FieldRef) (base i n : Nat) : (h.incSat f base i n).fabN = h.fabN := rfl
@[simp] theorem Hw.incSat_partN (h : Hw) (f : FieldRef) (base i n : Nat) : (h.incSat f base i n).partN = h.partN := rfl
@[simp] theorem Hw.incSat_staged (h : Hw) (f : FieldRef) (base i n : Nat) : (h.incSat f base i n).staged = h.staged := rfl
@[simp] theorem Hw.incSat_commits (h : Hw) (f : FieldRef) (base i n : Nat) : (h.incSat f base i n).commits = h.commits := rfl
@[simp] theorem Hw.incSat_mem (h : Hw) (f : FieldRef) (base i n : Nat) : (h.incSat f base i n).mem = h.mem := rfl
@[simp] theorem Hw.incSat_host (h : Hw) (f : FieldRef) (base i n : Nat) : (h.incSat f base i n).host = h.host := rfl
@[simp] theorem Hw.incSat_badWords (h : Hw) (f : FieldRef) (base i n : Nat) : (h.incSat f base i n).badWords = h.badWords := rfl
@[simp] theorem Hw.incSat_corrWords (h : Hw) (f : FieldRef) (base i n : Nat) : (h.incSat f base i n).corrWords = h.corrWords := rfl
@[simp] theorem Hw.incSat_heldPokes (h : Hw) (f : FieldRef) (base i n : Nat) : (h.incSat f base i n).heldPokes = h.heldPokes := rfl
@[simp] theorem Hw.incSat_badLines (h : Hw) (f : FieldRef) (base i n : Nat) : (h.incSat f base i n).badLines = h.badLines := rfl
@[simp] theorem Hw.incSat_badSites (h : Hw) (f : FieldRef) (base i n : Nat) : (h.incSat f base i n).badSites = h.badSites := rfl
@[simp] theorem Hw.incSat_corrSites (h : Hw) (f : FieldRef) (base i n : Nat) : (h.incSat f base i n).corrSites = h.corrSites := rfl
@[simp] theorem Hw.incSat_mapFault (h : Hw) (f : FieldRef) (base i n : Nat) : (h.incSat f base i n).mapFault = h.mapFault := rfl
@[simp] theorem Hw.incSat_mapDown (h : Hw) (f : FieldRef) (base i n : Nat) : (h.incSat f base i n).mapDown = h.mapDown := rfl
@[simp] theorem Hw.incSat_migSince (h : Hw) (f : FieldRef) (base i n : Nat) : (h.incSat f base i n).migSince = h.migSince := rfl
@[simp] theorem Hw.incSat_pages (h : Hw) (f : FieldRef) (base i n : Nat) : (h.incSat f base i n).pages = h.pages := rfl
@[simp] theorem Hw.incSat_swaps (h : Hw) (f : FieldRef) (base i n : Nat) : (h.incSat f base i n).swaps = h.swaps := rfl
@[simp] theorem Hw.incSat_scrubs (h : Hw) (f : FieldRef) (base i n : Nat) : (h.incSat f base i n).scrubs = h.scrubs := rfl
@[simp] theorem Hw.incSat_wins (h : Hw) (f : FieldRef) (base i n : Nat) : (h.incSat f base i n).wins = h.wins := rfl
@[simp] theorem Hw.incSat_moved (h : Hw) (f : FieldRef) (base i n : Nat) : (h.incSat f base i n).moved = h.moved := rfl
@[simp] theorem Hw.incSat_mirq (h : Hw) (f : FieldRef) (base i n : Nat) : (h.incSat f base i n).mirq = h.mirq := rfl
@[simp] theorem Hw.incSat_mirHold (h : Hw) (f : FieldRef) (base i n : Nat) : (h.incSat f base i n).mirHold = h.mirHold := rfl
@[simp] theorem Hw.incSat_nextMir (h : Hw) (f : FieldRef) (base i n : Nat) : (h.incSat f base i n).nextMir = h.nextMir := rfl
@[simp] theorem Hw.incSat_txq (h : Hw) (f : FieldRef) (base i n : Nat) : (h.incSat f base i n).txq = h.txq := rfl
@[simp] theorem Hw.incSat_txFlows (h : Hw) (f : FieldRef) (base i n : Nat) : (h.incSat f base i n).txFlows = h.txFlows := rfl
@[simp] theorem Hw.incSat_rxFlows (h : Hw) (f : FieldRef) (base i n : Nat) : (h.incSat f base i n).rxFlows = h.rxFlows := rfl
@[simp] theorem Hw.incSat_arrived (h : Hw) (f : FieldRef) (base i n : Nat) : (h.incSat f base i n).arrived = h.arrived := rfl
@[simp] theorem Hw.incSat_reorder (h : Hw) (f : FieldRef) (base i n : Nat) : (h.incSat f base i n).reorder = h.reorder := rfl
@[simp] theorem Hw.incSat_ready (h : Hw) (f : FieldRef) (base i n : Nat) : (h.incSat f base i n).ready = h.ready := rfl
@[simp] theorem Hw.incSat_failures (h : Hw) (f : FieldRef) (base i n : Nat) : (h.incSat f base i n).failures = h.failures := rfl
@[simp] theorem Hw.incSat_inject (h : Hw) (f : FieldRef) (base i n : Nat) : (h.incSat f base i n).inject = h.inject := rfl
@[simp] theorem Hw.incSat_ports (h : Hw) (f : FieldRef) (base i n : Nat) : (h.incSat f base i n).ports = h.ports := rfl
@[simp] theorem Hw.incSat_switches (h : Hw) (f : FieldRef) (base i n : Nat) : (h.incSat f base i n).switches = h.switches := rfl
@[simp] theorem Hw.incSat_egress (h : Hw) (f : FieldRef) (base i n : Nat) : (h.incSat f base i n).egress = h.egress := rfl
@[simp] theorem Hw.incSat_originals (h : Hw) (f : FieldRef) (base i n : Nat) : (h.incSat f base i n).originals = h.originals := rfl
@[simp] theorem Hw.incSat_nextOrig (h : Hw) (f : FieldRef) (base i n : Nat) : (h.incSat f base i n).nextOrig = h.nextOrig := rfl
@[simp] theorem Hw.incSat_satLocal (h : Hw) (f : FieldRef) (base i n : Nat) : (h.incSat f base i n).satLocal = h.satLocal := rfl
@[simp] theorem Hw.incSat_satGlobal (h : Hw) (f : FieldRef) (base i n : Nat) : (h.incSat f base i n).satGlobal = h.satGlobal := rfl
@[simp] theorem Hw.incSat_stages (h : Hw) (f : FieldRef) (base i n : Nat) : (h.incSat f base i n).stages = h.stages := rfl
@[simp] theorem Hw.incSat_stageUsed (h : Hw) (f : FieldRef) (base i n : Nat) : (h.incSat f base i n).stageUsed = h.stageUsed := rfl
@[simp] theorem Hw.incSat_linksDown (h : Hw) (f : FieldRef) (base i n : Nat) : (h.incSat f base i n).linksDown = h.linksDown := rfl
@[simp] theorem Hw.incSat_sampleAt (h : Hw) (f : FieldRef) (base i n : Nat) : (h.incSat f base i n).sampleAt = h.sampleAt := rfl
@[simp] theorem Hw.incSat_mcExtra (h : Hw) (f : FieldRef) (base i n : Nat) : (h.incSat f base i n).mcExtra = h.mcExtra := rfl
@[simp] theorem Hw.incSat_stus (h : Hw) (f : FieldRef) (base i n : Nat) : (h.incSat f base i n).stus = h.stus := rfl
@[simp] theorem Hw.incSat_stuCmds (h : Hw) (f : FieldRef) (base i n : Nat) : (h.incSat f base i n).stuCmds = h.stuCmds := rfl
@[simp] theorem Hw.incSat_groups (h : Hw) (f : FieldRef) (base i n : Nat) : (h.incSat f base i n).groups = h.groups := rfl
@[simp] theorem Hw.incSat_colls (h : Hw) (f : FieldRef) (base i n : Nat) : (h.incSat f base i n).colls = h.colls := rfl
@[simp] theorem Hw.incSat_mirrorRecs (h : Hw) (f : FieldRef) (base i n : Nat) : (h.incSat f base i n).mirrorRecs = h.mirrorRecs := rfl
@[simp] theorem Hw.incSat_mirrors (h : Hw) (f : FieldRef) (base i n : Nat) : (h.incSat f base i n).mirrors = h.mirrors := rfl
@[simp] theorem Hw.incSat_opens (h : Hw) (f : FieldRef) (base i n : Nat) : (h.incSat f base i n).opens = h.opens := rfl
@[simp] theorem Hw.incSat_closedX (h : Hw) (f : FieldRef) (base i n : Nat) : (h.incSat f base i n).closedX = h.closedX := rfl
@[simp] theorem Hw.incSat_xrets (h : Hw) (f : FieldRef) (base i n : Nat) : (h.incSat f base i n).xrets = h.xrets := rfl
@[simp] theorem Hw.incSat_reqs (h : Hw) (f : FieldRef) (base i n : Nat) : (h.incSat f base i n).reqs = h.reqs := rfl
@[simp] theorem Hw.incSat_nextOpid (h : Hw) (f : FieldRef) (base i n : Nat) : (h.incSat f base i n).nextOpid = h.nextOpid := rfl
@[simp] theorem Hw.incSat_tseq (h : Hw) (f : FieldRef) (base i n : Nat) : (h.incSat f base i n).tseq = h.tseq := rfl
@[simp] theorem Hw.incSat_defer (h : Hw) (f : FieldRef) (base i n : Nat) : (h.incSat f base i n).defer = h.defer := rfl
@[simp] theorem Hw.incSat_rgn (h : Hw) (f : FieldRef) (base i n : Nat) : (h.incSat f base i n).rgn = h.rgn := rfl
@[simp] theorem Hw.incSat_rgnNext (h : Hw) (f : FieldRef) (base i n : Nat) : (h.incSat f base i n).rgnNext = h.rgnNext := rfl
@[simp] theorem Hw.incSat_rgnLate (h : Hw) (f : FieldRef) (base i n : Nat) : (h.incSat f base i n).rgnLate = h.rgnLate := rfl
@[simp] theorem Hw.incSat_reservations (h : Hw) (f : FieldRef) (base i n : Nat) : (h.incSat f base i n).reservations = h.reservations := rfl
@[simp] theorem Hw.incSat_jobs (h : Hw) (f : FieldRef) (base i n : Nat) : (h.incSat f base i n).jobs = h.jobs := rfl
@[simp] theorem Hw.incSat_nextTag (h : Hw) (f : FieldRef) (base i n : Nat) : (h.incSat f base i n).nextTag = h.nextTag := rfl
@[simp] theorem Hw.incSat_kposts (h : Hw) (f : FieldRef) (base i n : Nat) : (h.incSat f base i n).kposts = h.kposts := rfl
@[simp] theorem Hw.incSat_io (h : Hw) (f : FieldRef) (base i n : Nat) : (h.incSat f base i n).io = h.io := rfl
@[simp] theorem Hw.incSat_cps (h : Hw) (f : FieldRef) (base i n : Nat) : (h.incSat f base i n).cps = h.cps := rfl
@[simp] theorem Hw.incSat_cores (h : Hw) (f : FieldRef) (base i n : Nat) : (h.incSat f base i n).cores = h.cores := rfl
@[simp] theorem Hw.incSat_fed (h : Hw) (f : FieldRef) (base i n : Nat) : (h.incSat f base i n).fed = h.fed := rfl
@[simp] theorem Hw.incSat_plc (h : Hw) (f : FieldRef) (base i n : Nat) : (h.incSat f base i n).plc = h.plc := rfl
@[simp] theorem Hw.incSat_routes (h : Hw) (f : FieldRef) (base i n : Nat) : (h.incSat f base i n).routes = h.routes := rfl
@[simp] theorem Hw.incSat_keepers (h : Hw) (f : FieldRef) (base i n : Nat) : (h.incSat f base i n).keepers = h.keepers := rfl
@[simp] theorem Hw.incSat_landed (h : Hw) (f : FieldRef) (base i n : Nat) : (h.incSat f base i n).landed = h.landed := rfl
@[simp] theorem Hw.incSat_replayEv (h : Hw) (f : FieldRef) (base i n : Nat) : (h.incSat f base i n).replayEv = h.replayEv := rfl
@[simp] theorem Hw.incSat_clears (h : Hw) (f : FieldRef) (base i n : Nat) : (h.incSat f base i n).clears = h.clears := rfl
@[simp] theorem Hw.incSat_sync (h : Hw) (f : FieldRef) (base i n : Nat) : (h.incSat f base i n).sync = h.sync := rfl
@[simp] theorem Hw.incSat_cinches (h : Hw) (f : FieldRef) (base i n : Nat) : (h.incSat f base i n).cinches = h.cinches := rfl
@[simp] theorem Hw.incSat_dlm (h : Hw) (f : FieldRef) (base i n : Nat) : (h.incSat f base i n).dlm = h.dlm := rfl
@[simp] theorem Hw.incSat_acct (h : Hw) (f : FieldRef) (base i n : Nat) : (h.incSat f base i n).acct = h.acct := rfl
@[simp] theorem Hw.incSat_partJobs (h : Hw) (f : FieldRef) (base i n : Nat) : (h.incSat f base i n).partJobs = h.partJobs := rfl
@[simp] theorem Hw.incSat_watch (h : Hw) (f : FieldRef) (base i n : Nat) : (h.incSat f base i n).watch = h.watch := rfl
@[simp] theorem Hw.incSat_watchStep (h : Hw) (f : FieldRef) (base i n : Nat) : (h.incSat f base i n).watchStep = h.watchStep := rfl
@[simp] theorem Hw.incSat_nv (h : Hw) (f : FieldRef) (base i n : Nat) : (h.incSat f base i n).nv = h.nv := rfl
@[simp] theorem Hw.incSat_mgmt (h : Hw) (f : FieldRef) (base i n : Nat) : (h.incSat f base i n).mgmt = h.mgmt := rfl
@[simp] theorem Hw.incSat_power (h : Hw) (f : FieldRef) (base i n : Nat) : (h.incSat f base i n).power = h.power := rfl
@[simp] theorem Hw.incSat_freeCount (h : Hw) (f : FieldRef) (base i n : Nat) : (h.incSat f base i n).freeCount = h.freeCount := rfl

/-! `Hw.setCore` -/

@[simp] theorem Hw.setCore_now (h : Hw) (d k : Nat) (c : Core) : (h.setCore d k c).now = h.now := rfl
@[simp] theorem Hw.setCore_fabN (h : Hw) (d k : Nat) (c : Core) : (h.setCore d k c).fabN = h.fabN := rfl
@[simp] theorem Hw.setCore_partN (h : Hw) (d k : Nat) (c : Core) : (h.setCore d k c).partN = h.partN := rfl
@[simp] theorem Hw.setCore_regs (h : Hw) (d k : Nat) (c : Core) : (h.setCore d k c).regs = h.regs := rfl
@[simp] theorem Hw.setCore_staged (h : Hw) (d k : Nat) (c : Core) : (h.setCore d k c).staged = h.staged := rfl
@[simp] theorem Hw.setCore_commits (h : Hw) (d k : Nat) (c : Core) : (h.setCore d k c).commits = h.commits := rfl
@[simp] theorem Hw.setCore_mem (h : Hw) (d k : Nat) (c : Core) : (h.setCore d k c).mem = h.mem := rfl
@[simp] theorem Hw.setCore_host (h : Hw) (d k : Nat) (c : Core) : (h.setCore d k c).host = h.host := rfl
@[simp] theorem Hw.setCore_badWords (h : Hw) (d k : Nat) (c : Core) : (h.setCore d k c).badWords = h.badWords := rfl
@[simp] theorem Hw.setCore_corrWords (h : Hw) (d k : Nat) (c : Core) : (h.setCore d k c).corrWords = h.corrWords := rfl
@[simp] theorem Hw.setCore_heldPokes (h : Hw) (d k : Nat) (c : Core) : (h.setCore d k c).heldPokes = h.heldPokes := rfl
@[simp] theorem Hw.setCore_badLines (h : Hw) (d k : Nat) (c : Core) : (h.setCore d k c).badLines = h.badLines := rfl
@[simp] theorem Hw.setCore_badSites (h : Hw) (d k : Nat) (c : Core) : (h.setCore d k c).badSites = h.badSites := rfl
@[simp] theorem Hw.setCore_corrSites (h : Hw) (d k : Nat) (c : Core) : (h.setCore d k c).corrSites = h.corrSites := rfl
@[simp] theorem Hw.setCore_mapFault (h : Hw) (d k : Nat) (c : Core) : (h.setCore d k c).mapFault = h.mapFault := rfl
@[simp] theorem Hw.setCore_mapDown (h : Hw) (d k : Nat) (c : Core) : (h.setCore d k c).mapDown = h.mapDown := rfl
@[simp] theorem Hw.setCore_migSince (h : Hw) (d k : Nat) (c : Core) : (h.setCore d k c).migSince = h.migSince := rfl
@[simp] theorem Hw.setCore_pages (h : Hw) (d k : Nat) (c : Core) : (h.setCore d k c).pages = h.pages := rfl
@[simp] theorem Hw.setCore_swaps (h : Hw) (d k : Nat) (c : Core) : (h.setCore d k c).swaps = h.swaps := rfl
@[simp] theorem Hw.setCore_scrubs (h : Hw) (d k : Nat) (c : Core) : (h.setCore d k c).scrubs = h.scrubs := rfl
@[simp] theorem Hw.setCore_wins (h : Hw) (d k : Nat) (c : Core) : (h.setCore d k c).wins = h.wins := rfl
@[simp] theorem Hw.setCore_moved (h : Hw) (d k : Nat) (c : Core) : (h.setCore d k c).moved = h.moved := rfl
@[simp] theorem Hw.setCore_mirq (h : Hw) (d k : Nat) (c : Core) : (h.setCore d k c).mirq = h.mirq := rfl
@[simp] theorem Hw.setCore_mirHold (h : Hw) (d k : Nat) (c : Core) : (h.setCore d k c).mirHold = h.mirHold := rfl
@[simp] theorem Hw.setCore_nextMir (h : Hw) (d k : Nat) (c : Core) : (h.setCore d k c).nextMir = h.nextMir := rfl
@[simp] theorem Hw.setCore_txq (h : Hw) (d k : Nat) (c : Core) : (h.setCore d k c).txq = h.txq := rfl
@[simp] theorem Hw.setCore_txFlows (h : Hw) (d k : Nat) (c : Core) : (h.setCore d k c).txFlows = h.txFlows := rfl
@[simp] theorem Hw.setCore_rxFlows (h : Hw) (d k : Nat) (c : Core) : (h.setCore d k c).rxFlows = h.rxFlows := rfl
@[simp] theorem Hw.setCore_arrived (h : Hw) (d k : Nat) (c : Core) : (h.setCore d k c).arrived = h.arrived := rfl
@[simp] theorem Hw.setCore_reorder (h : Hw) (d k : Nat) (c : Core) : (h.setCore d k c).reorder = h.reorder := rfl
@[simp] theorem Hw.setCore_ready (h : Hw) (d k : Nat) (c : Core) : (h.setCore d k c).ready = h.ready := rfl
@[simp] theorem Hw.setCore_failures (h : Hw) (d k : Nat) (c : Core) : (h.setCore d k c).failures = h.failures := rfl
@[simp] theorem Hw.setCore_inject (h : Hw) (d k : Nat) (c : Core) : (h.setCore d k c).inject = h.inject := rfl
@[simp] theorem Hw.setCore_ports (h : Hw) (d k : Nat) (c : Core) : (h.setCore d k c).ports = h.ports := rfl
@[simp] theorem Hw.setCore_switches (h : Hw) (d k : Nat) (c : Core) : (h.setCore d k c).switches = h.switches := rfl
@[simp] theorem Hw.setCore_egress (h : Hw) (d k : Nat) (c : Core) : (h.setCore d k c).egress = h.egress := rfl
@[simp] theorem Hw.setCore_originals (h : Hw) (d k : Nat) (c : Core) : (h.setCore d k c).originals = h.originals := rfl
@[simp] theorem Hw.setCore_nextOrig (h : Hw) (d k : Nat) (c : Core) : (h.setCore d k c).nextOrig = h.nextOrig := rfl
@[simp] theorem Hw.setCore_satLocal (h : Hw) (d k : Nat) (c : Core) : (h.setCore d k c).satLocal = h.satLocal := rfl
@[simp] theorem Hw.setCore_satGlobal (h : Hw) (d k : Nat) (c : Core) : (h.setCore d k c).satGlobal = h.satGlobal := rfl
@[simp] theorem Hw.setCore_stages (h : Hw) (d k : Nat) (c : Core) : (h.setCore d k c).stages = h.stages := rfl
@[simp] theorem Hw.setCore_stageUsed (h : Hw) (d k : Nat) (c : Core) : (h.setCore d k c).stageUsed = h.stageUsed := rfl
@[simp] theorem Hw.setCore_linksDown (h : Hw) (d k : Nat) (c : Core) : (h.setCore d k c).linksDown = h.linksDown := rfl
@[simp] theorem Hw.setCore_sampleAt (h : Hw) (d k : Nat) (c : Core) : (h.setCore d k c).sampleAt = h.sampleAt := rfl
@[simp] theorem Hw.setCore_mcExtra (h : Hw) (d k : Nat) (c : Core) : (h.setCore d k c).mcExtra = h.mcExtra := rfl
@[simp] theorem Hw.setCore_stus (h : Hw) (d k : Nat) (c : Core) : (h.setCore d k c).stus = h.stus := rfl
@[simp] theorem Hw.setCore_stuCmds (h : Hw) (d k : Nat) (c : Core) : (h.setCore d k c).stuCmds = h.stuCmds := rfl
@[simp] theorem Hw.setCore_groups (h : Hw) (d k : Nat) (c : Core) : (h.setCore d k c).groups = h.groups := rfl
@[simp] theorem Hw.setCore_colls (h : Hw) (d k : Nat) (c : Core) : (h.setCore d k c).colls = h.colls := rfl
@[simp] theorem Hw.setCore_mirrorRecs (h : Hw) (d k : Nat) (c : Core) : (h.setCore d k c).mirrorRecs = h.mirrorRecs := rfl
@[simp] theorem Hw.setCore_mirrors (h : Hw) (d k : Nat) (c : Core) : (h.setCore d k c).mirrors = h.mirrors := rfl
@[simp] theorem Hw.setCore_opens (h : Hw) (d k : Nat) (c : Core) : (h.setCore d k c).opens = h.opens := rfl
@[simp] theorem Hw.setCore_closedX (h : Hw) (d k : Nat) (c : Core) : (h.setCore d k c).closedX = h.closedX := rfl
@[simp] theorem Hw.setCore_xrets (h : Hw) (d k : Nat) (c : Core) : (h.setCore d k c).xrets = h.xrets := rfl
@[simp] theorem Hw.setCore_reqs (h : Hw) (d k : Nat) (c : Core) : (h.setCore d k c).reqs = h.reqs := rfl
@[simp] theorem Hw.setCore_nextOpid (h : Hw) (d k : Nat) (c : Core) : (h.setCore d k c).nextOpid = h.nextOpid := rfl
@[simp] theorem Hw.setCore_tseq (h : Hw) (d k : Nat) (c : Core) : (h.setCore d k c).tseq = h.tseq := rfl
@[simp] theorem Hw.setCore_defer (h : Hw) (d k : Nat) (c : Core) : (h.setCore d k c).defer = h.defer := rfl
@[simp] theorem Hw.setCore_rgn (h : Hw) (d k : Nat) (c : Core) : (h.setCore d k c).rgn = h.rgn := rfl
@[simp] theorem Hw.setCore_rgnNext (h : Hw) (d k : Nat) (c : Core) : (h.setCore d k c).rgnNext = h.rgnNext := rfl
@[simp] theorem Hw.setCore_rgnLate (h : Hw) (d k : Nat) (c : Core) : (h.setCore d k c).rgnLate = h.rgnLate := rfl
@[simp] theorem Hw.setCore_reservations (h : Hw) (d k : Nat) (c : Core) : (h.setCore d k c).reservations = h.reservations := rfl
@[simp] theorem Hw.setCore_jobs (h : Hw) (d k : Nat) (c : Core) : (h.setCore d k c).jobs = h.jobs := rfl
@[simp] theorem Hw.setCore_nextTag (h : Hw) (d k : Nat) (c : Core) : (h.setCore d k c).nextTag = h.nextTag := rfl
@[simp] theorem Hw.setCore_kposts (h : Hw) (d k : Nat) (c : Core) : (h.setCore d k c).kposts = h.kposts := rfl
@[simp] theorem Hw.setCore_io (h : Hw) (d k : Nat) (c : Core) : (h.setCore d k c).io = h.io := rfl
@[simp] theorem Hw.setCore_cps (h : Hw) (d k : Nat) (c : Core) : (h.setCore d k c).cps = h.cps := rfl
@[simp] theorem Hw.setCore_fed (h : Hw) (d k : Nat) (c : Core) : (h.setCore d k c).fed = h.fed := rfl
@[simp] theorem Hw.setCore_plc (h : Hw) (d k : Nat) (c : Core) : (h.setCore d k c).plc = h.plc := rfl
@[simp] theorem Hw.setCore_routes (h : Hw) (d k : Nat) (c : Core) : (h.setCore d k c).routes = h.routes := rfl
@[simp] theorem Hw.setCore_keepers (h : Hw) (d k : Nat) (c : Core) : (h.setCore d k c).keepers = h.keepers := rfl
@[simp] theorem Hw.setCore_landed (h : Hw) (d k : Nat) (c : Core) : (h.setCore d k c).landed = h.landed := rfl
@[simp] theorem Hw.setCore_replayEv (h : Hw) (d k : Nat) (c : Core) : (h.setCore d k c).replayEv = h.replayEv := rfl
@[simp] theorem Hw.setCore_clears (h : Hw) (d k : Nat) (c : Core) : (h.setCore d k c).clears = h.clears := rfl
@[simp] theorem Hw.setCore_sync (h : Hw) (d k : Nat) (c : Core) : (h.setCore d k c).sync = h.sync := rfl
@[simp] theorem Hw.setCore_cinches (h : Hw) (d k : Nat) (c : Core) : (h.setCore d k c).cinches = h.cinches := rfl
@[simp] theorem Hw.setCore_dlm (h : Hw) (d k : Nat) (c : Core) : (h.setCore d k c).dlm = h.dlm := rfl
@[simp] theorem Hw.setCore_acct (h : Hw) (d k : Nat) (c : Core) : (h.setCore d k c).acct = h.acct := rfl
@[simp] theorem Hw.setCore_partJobs (h : Hw) (d k : Nat) (c : Core) : (h.setCore d k c).partJobs = h.partJobs := rfl
@[simp] theorem Hw.setCore_watch (h : Hw) (d k : Nat) (c : Core) : (h.setCore d k c).watch = h.watch := rfl
@[simp] theorem Hw.setCore_watchStep (h : Hw) (d k : Nat) (c : Core) : (h.setCore d k c).watchStep = h.watchStep := rfl
@[simp] theorem Hw.setCore_nv (h : Hw) (d k : Nat) (c : Core) : (h.setCore d k c).nv = h.nv := rfl
@[simp] theorem Hw.setCore_mgmt (h : Hw) (d k : Nat) (c : Core) : (h.setCore d k c).mgmt = h.mgmt := rfl
@[simp] theorem Hw.setCore_power (h : Hw) (d k : Nat) (c : Core) : (h.setCore d k c).power = h.power := rfl
@[simp] theorem Hw.setCore_freeCount (h : Hw) (d k : Nat) (c : Core) : (h.setCore d k c).freeCount = h.freeCount := rfl

/-! `Hw.setQueue` -/

@[simp] theorem Hw.setQueue_now (h : Hw) (d u : Nat) (q : List Job) : (h.setQueue d u q).now = h.now := rfl
@[simp] theorem Hw.setQueue_fabN (h : Hw) (d u : Nat) (q : List Job) : (h.setQueue d u q).fabN = h.fabN := rfl
@[simp] theorem Hw.setQueue_partN (h : Hw) (d u : Nat) (q : List Job) : (h.setQueue d u q).partN = h.partN := rfl
@[simp] theorem Hw.setQueue_regs (h : Hw) (d u : Nat) (q : List Job) : (h.setQueue d u q).regs = h.regs := rfl
@[simp] theorem Hw.setQueue_staged (h : Hw) (d u : Nat) (q : List Job) : (h.setQueue d u q).staged = h.staged := rfl
@[simp] theorem Hw.setQueue_commits (h : Hw) (d u : Nat) (q : List Job) : (h.setQueue d u q).commits = h.commits := rfl
@[simp] theorem Hw.setQueue_mem (h : Hw) (d u : Nat) (q : List Job) : (h.setQueue d u q).mem = h.mem := rfl
@[simp] theorem Hw.setQueue_host (h : Hw) (d u : Nat) (q : List Job) : (h.setQueue d u q).host = h.host := rfl
@[simp] theorem Hw.setQueue_badWords (h : Hw) (d u : Nat) (q : List Job) : (h.setQueue d u q).badWords = h.badWords := rfl
@[simp] theorem Hw.setQueue_corrWords (h : Hw) (d u : Nat) (q : List Job) : (h.setQueue d u q).corrWords = h.corrWords := rfl
@[simp] theorem Hw.setQueue_heldPokes (h : Hw) (d u : Nat) (q : List Job) : (h.setQueue d u q).heldPokes = h.heldPokes := rfl
@[simp] theorem Hw.setQueue_badLines (h : Hw) (d u : Nat) (q : List Job) : (h.setQueue d u q).badLines = h.badLines := rfl
@[simp] theorem Hw.setQueue_badSites (h : Hw) (d u : Nat) (q : List Job) : (h.setQueue d u q).badSites = h.badSites := rfl
@[simp] theorem Hw.setQueue_corrSites (h : Hw) (d u : Nat) (q : List Job) : (h.setQueue d u q).corrSites = h.corrSites := rfl
@[simp] theorem Hw.setQueue_mapFault (h : Hw) (d u : Nat) (q : List Job) : (h.setQueue d u q).mapFault = h.mapFault := rfl
@[simp] theorem Hw.setQueue_mapDown (h : Hw) (d u : Nat) (q : List Job) : (h.setQueue d u q).mapDown = h.mapDown := rfl
@[simp] theorem Hw.setQueue_migSince (h : Hw) (d u : Nat) (q : List Job) : (h.setQueue d u q).migSince = h.migSince := rfl
@[simp] theorem Hw.setQueue_pages (h : Hw) (d u : Nat) (q : List Job) : (h.setQueue d u q).pages = h.pages := rfl
@[simp] theorem Hw.setQueue_swaps (h : Hw) (d u : Nat) (q : List Job) : (h.setQueue d u q).swaps = h.swaps := rfl
@[simp] theorem Hw.setQueue_scrubs (h : Hw) (d u : Nat) (q : List Job) : (h.setQueue d u q).scrubs = h.scrubs := rfl
@[simp] theorem Hw.setQueue_wins (h : Hw) (d u : Nat) (q : List Job) : (h.setQueue d u q).wins = h.wins := rfl
@[simp] theorem Hw.setQueue_moved (h : Hw) (d u : Nat) (q : List Job) : (h.setQueue d u q).moved = h.moved := rfl
@[simp] theorem Hw.setQueue_mirq (h : Hw) (d u : Nat) (q : List Job) : (h.setQueue d u q).mirq = h.mirq := rfl
@[simp] theorem Hw.setQueue_mirHold (h : Hw) (d u : Nat) (q : List Job) : (h.setQueue d u q).mirHold = h.mirHold := rfl
@[simp] theorem Hw.setQueue_nextMir (h : Hw) (d u : Nat) (q : List Job) : (h.setQueue d u q).nextMir = h.nextMir := rfl
@[simp] theorem Hw.setQueue_txq (h : Hw) (d u : Nat) (q : List Job) : (h.setQueue d u q).txq = h.txq := rfl
@[simp] theorem Hw.setQueue_txFlows (h : Hw) (d u : Nat) (q : List Job) : (h.setQueue d u q).txFlows = h.txFlows := rfl
@[simp] theorem Hw.setQueue_rxFlows (h : Hw) (d u : Nat) (q : List Job) : (h.setQueue d u q).rxFlows = h.rxFlows := rfl
@[simp] theorem Hw.setQueue_arrived (h : Hw) (d u : Nat) (q : List Job) : (h.setQueue d u q).arrived = h.arrived := rfl
@[simp] theorem Hw.setQueue_reorder (h : Hw) (d u : Nat) (q : List Job) : (h.setQueue d u q).reorder = h.reorder := rfl
@[simp] theorem Hw.setQueue_ready (h : Hw) (d u : Nat) (q : List Job) : (h.setQueue d u q).ready = h.ready := rfl
@[simp] theorem Hw.setQueue_failures (h : Hw) (d u : Nat) (q : List Job) : (h.setQueue d u q).failures = h.failures := rfl
@[simp] theorem Hw.setQueue_inject (h : Hw) (d u : Nat) (q : List Job) : (h.setQueue d u q).inject = h.inject := rfl
@[simp] theorem Hw.setQueue_ports (h : Hw) (d u : Nat) (q : List Job) : (h.setQueue d u q).ports = h.ports := rfl
@[simp] theorem Hw.setQueue_switches (h : Hw) (d u : Nat) (q : List Job) : (h.setQueue d u q).switches = h.switches := rfl
@[simp] theorem Hw.setQueue_egress (h : Hw) (d u : Nat) (q : List Job) : (h.setQueue d u q).egress = h.egress := rfl
@[simp] theorem Hw.setQueue_originals (h : Hw) (d u : Nat) (q : List Job) : (h.setQueue d u q).originals = h.originals := rfl
@[simp] theorem Hw.setQueue_nextOrig (h : Hw) (d u : Nat) (q : List Job) : (h.setQueue d u q).nextOrig = h.nextOrig := rfl
@[simp] theorem Hw.setQueue_satLocal (h : Hw) (d u : Nat) (q : List Job) : (h.setQueue d u q).satLocal = h.satLocal := rfl
@[simp] theorem Hw.setQueue_satGlobal (h : Hw) (d u : Nat) (q : List Job) : (h.setQueue d u q).satGlobal = h.satGlobal := rfl
@[simp] theorem Hw.setQueue_stages (h : Hw) (d u : Nat) (q : List Job) : (h.setQueue d u q).stages = h.stages := rfl
@[simp] theorem Hw.setQueue_stageUsed (h : Hw) (d u : Nat) (q : List Job) : (h.setQueue d u q).stageUsed = h.stageUsed := rfl
@[simp] theorem Hw.setQueue_linksDown (h : Hw) (d u : Nat) (q : List Job) : (h.setQueue d u q).linksDown = h.linksDown := rfl
@[simp] theorem Hw.setQueue_sampleAt (h : Hw) (d u : Nat) (q : List Job) : (h.setQueue d u q).sampleAt = h.sampleAt := rfl
@[simp] theorem Hw.setQueue_mcExtra (h : Hw) (d u : Nat) (q : List Job) : (h.setQueue d u q).mcExtra = h.mcExtra := rfl
@[simp] theorem Hw.setQueue_stus (h : Hw) (d u : Nat) (q : List Job) : (h.setQueue d u q).stus = h.stus := rfl
@[simp] theorem Hw.setQueue_stuCmds (h : Hw) (d u : Nat) (q : List Job) : (h.setQueue d u q).stuCmds = h.stuCmds := rfl
@[simp] theorem Hw.setQueue_groups (h : Hw) (d u : Nat) (q : List Job) : (h.setQueue d u q).groups = h.groups := rfl
@[simp] theorem Hw.setQueue_colls (h : Hw) (d u : Nat) (q : List Job) : (h.setQueue d u q).colls = h.colls := rfl
@[simp] theorem Hw.setQueue_mirrorRecs (h : Hw) (d u : Nat) (q : List Job) : (h.setQueue d u q).mirrorRecs = h.mirrorRecs := rfl
@[simp] theorem Hw.setQueue_mirrors (h : Hw) (d u : Nat) (q : List Job) : (h.setQueue d u q).mirrors = h.mirrors := rfl
@[simp] theorem Hw.setQueue_opens (h : Hw) (d u : Nat) (q : List Job) : (h.setQueue d u q).opens = h.opens := rfl
@[simp] theorem Hw.setQueue_closedX (h : Hw) (d u : Nat) (q : List Job) : (h.setQueue d u q).closedX = h.closedX := rfl
@[simp] theorem Hw.setQueue_xrets (h : Hw) (d u : Nat) (q : List Job) : (h.setQueue d u q).xrets = h.xrets := rfl
@[simp] theorem Hw.setQueue_reqs (h : Hw) (d u : Nat) (q : List Job) : (h.setQueue d u q).reqs = h.reqs := rfl
@[simp] theorem Hw.setQueue_nextOpid (h : Hw) (d u : Nat) (q : List Job) : (h.setQueue d u q).nextOpid = h.nextOpid := rfl
@[simp] theorem Hw.setQueue_tseq (h : Hw) (d u : Nat) (q : List Job) : (h.setQueue d u q).tseq = h.tseq := rfl
@[simp] theorem Hw.setQueue_defer (h : Hw) (d u : Nat) (q : List Job) : (h.setQueue d u q).defer = h.defer := rfl
@[simp] theorem Hw.setQueue_rgn (h : Hw) (d u : Nat) (q : List Job) : (h.setQueue d u q).rgn = h.rgn := rfl
@[simp] theorem Hw.setQueue_rgnNext (h : Hw) (d u : Nat) (q : List Job) : (h.setQueue d u q).rgnNext = h.rgnNext := rfl
@[simp] theorem Hw.setQueue_rgnLate (h : Hw) (d u : Nat) (q : List Job) : (h.setQueue d u q).rgnLate = h.rgnLate := rfl
@[simp] theorem Hw.setQueue_reservations (h : Hw) (d u : Nat) (q : List Job) : (h.setQueue d u q).reservations = h.reservations := rfl
@[simp] theorem Hw.setQueue_nextTag (h : Hw) (d u : Nat) (q : List Job) : (h.setQueue d u q).nextTag = h.nextTag := rfl
@[simp] theorem Hw.setQueue_kposts (h : Hw) (d u : Nat) (q : List Job) : (h.setQueue d u q).kposts = h.kposts := rfl
@[simp] theorem Hw.setQueue_io (h : Hw) (d u : Nat) (q : List Job) : (h.setQueue d u q).io = h.io := rfl
@[simp] theorem Hw.setQueue_cps (h : Hw) (d u : Nat) (q : List Job) : (h.setQueue d u q).cps = h.cps := rfl
@[simp] theorem Hw.setQueue_cores (h : Hw) (d u : Nat) (q : List Job) : (h.setQueue d u q).cores = h.cores := rfl
@[simp] theorem Hw.setQueue_fed (h : Hw) (d u : Nat) (q : List Job) : (h.setQueue d u q).fed = h.fed := rfl
@[simp] theorem Hw.setQueue_plc (h : Hw) (d u : Nat) (q : List Job) : (h.setQueue d u q).plc = h.plc := rfl
@[simp] theorem Hw.setQueue_routes (h : Hw) (d u : Nat) (q : List Job) : (h.setQueue d u q).routes = h.routes := rfl
@[simp] theorem Hw.setQueue_keepers (h : Hw) (d u : Nat) (q : List Job) : (h.setQueue d u q).keepers = h.keepers := rfl
@[simp] theorem Hw.setQueue_landed (h : Hw) (d u : Nat) (q : List Job) : (h.setQueue d u q).landed = h.landed := rfl
@[simp] theorem Hw.setQueue_replayEv (h : Hw) (d u : Nat) (q : List Job) : (h.setQueue d u q).replayEv = h.replayEv := rfl
@[simp] theorem Hw.setQueue_clears (h : Hw) (d u : Nat) (q : List Job) : (h.setQueue d u q).clears = h.clears := rfl
@[simp] theorem Hw.setQueue_sync (h : Hw) (d u : Nat) (q : List Job) : (h.setQueue d u q).sync = h.sync := rfl
@[simp] theorem Hw.setQueue_cinches (h : Hw) (d u : Nat) (q : List Job) : (h.setQueue d u q).cinches = h.cinches := rfl
@[simp] theorem Hw.setQueue_dlm (h : Hw) (d u : Nat) (q : List Job) : (h.setQueue d u q).dlm = h.dlm := rfl
@[simp] theorem Hw.setQueue_acct (h : Hw) (d u : Nat) (q : List Job) : (h.setQueue d u q).acct = h.acct := rfl
@[simp] theorem Hw.setQueue_partJobs (h : Hw) (d u : Nat) (q : List Job) : (h.setQueue d u q).partJobs = h.partJobs := rfl
@[simp] theorem Hw.setQueue_watch (h : Hw) (d u : Nat) (q : List Job) : (h.setQueue d u q).watch = h.watch := rfl
@[simp] theorem Hw.setQueue_watchStep (h : Hw) (d u : Nat) (q : List Job) : (h.setQueue d u q).watchStep = h.watchStep := rfl
@[simp] theorem Hw.setQueue_nv (h : Hw) (d u : Nat) (q : List Job) : (h.setQueue d u q).nv = h.nv := rfl
@[simp] theorem Hw.setQueue_mgmt (h : Hw) (d u : Nat) (q : List Job) : (h.setQueue d u q).mgmt = h.mgmt := rfl
@[simp] theorem Hw.setQueue_power (h : Hw) (d u : Nat) (q : List Job) : (h.setQueue d u q).power = h.power := rfl
@[simp] theorem Hw.setQueue_freeCount (h : Hw) (d u : Nat) (q : List Job) : (h.setQueue d u q).freeCount = h.freeCount := rfl

/-! `Hw.reach` -/

@[simp] theorem Hw.reach_fabN (h : Hw) (t : Nat) : (h.reach t).fabN = h.fabN := rfl
@[simp] theorem Hw.reach_partN (h : Hw) (t : Nat) : (h.reach t).partN = h.partN := rfl
@[simp] theorem Hw.reach_regs (h : Hw) (t : Nat) : (h.reach t).regs = h.regs := rfl
@[simp] theorem Hw.reach_staged (h : Hw) (t : Nat) : (h.reach t).staged = h.staged := rfl
@[simp] theorem Hw.reach_commits (h : Hw) (t : Nat) : (h.reach t).commits = h.commits := rfl
@[simp] theorem Hw.reach_mem (h : Hw) (t : Nat) : (h.reach t).mem = h.mem := rfl
@[simp] theorem Hw.reach_host (h : Hw) (t : Nat) : (h.reach t).host = h.host := rfl
@[simp] theorem Hw.reach_badWords (h : Hw) (t : Nat) : (h.reach t).badWords = h.badWords := rfl
@[simp] theorem Hw.reach_corrWords (h : Hw) (t : Nat) : (h.reach t).corrWords = h.corrWords := rfl
@[simp] theorem Hw.reach_heldPokes (h : Hw) (t : Nat) : (h.reach t).heldPokes = h.heldPokes := rfl
@[simp] theorem Hw.reach_badLines (h : Hw) (t : Nat) : (h.reach t).badLines = h.badLines := rfl
@[simp] theorem Hw.reach_badSites (h : Hw) (t : Nat) : (h.reach t).badSites = h.badSites := rfl
@[simp] theorem Hw.reach_corrSites (h : Hw) (t : Nat) : (h.reach t).corrSites = h.corrSites := rfl
@[simp] theorem Hw.reach_mapFault (h : Hw) (t : Nat) : (h.reach t).mapFault = h.mapFault := rfl
@[simp] theorem Hw.reach_mapDown (h : Hw) (t : Nat) : (h.reach t).mapDown = h.mapDown := rfl
@[simp] theorem Hw.reach_migSince (h : Hw) (t : Nat) : (h.reach t).migSince = h.migSince := rfl
@[simp] theorem Hw.reach_pages (h : Hw) (t : Nat) : (h.reach t).pages = h.pages := rfl
@[simp] theorem Hw.reach_swaps (h : Hw) (t : Nat) : (h.reach t).swaps = h.swaps := rfl
@[simp] theorem Hw.reach_scrubs (h : Hw) (t : Nat) : (h.reach t).scrubs = h.scrubs := rfl
@[simp] theorem Hw.reach_wins (h : Hw) (t : Nat) : (h.reach t).wins = h.wins := rfl
@[simp] theorem Hw.reach_moved (h : Hw) (t : Nat) : (h.reach t).moved = h.moved := rfl
@[simp] theorem Hw.reach_mirq (h : Hw) (t : Nat) : (h.reach t).mirq = h.mirq := rfl
@[simp] theorem Hw.reach_mirHold (h : Hw) (t : Nat) : (h.reach t).mirHold = h.mirHold := rfl
@[simp] theorem Hw.reach_nextMir (h : Hw) (t : Nat) : (h.reach t).nextMir = h.nextMir := rfl
@[simp] theorem Hw.reach_txq (h : Hw) (t : Nat) : (h.reach t).txq = h.txq := rfl
@[simp] theorem Hw.reach_txFlows (h : Hw) (t : Nat) : (h.reach t).txFlows = h.txFlows := rfl
@[simp] theorem Hw.reach_rxFlows (h : Hw) (t : Nat) : (h.reach t).rxFlows = h.rxFlows := rfl
@[simp] theorem Hw.reach_arrived (h : Hw) (t : Nat) : (h.reach t).arrived = h.arrived := rfl
@[simp] theorem Hw.reach_reorder (h : Hw) (t : Nat) : (h.reach t).reorder = h.reorder := rfl
@[simp] theorem Hw.reach_ready (h : Hw) (t : Nat) : (h.reach t).ready = h.ready := rfl
@[simp] theorem Hw.reach_failures (h : Hw) (t : Nat) : (h.reach t).failures = h.failures := rfl
@[simp] theorem Hw.reach_inject (h : Hw) (t : Nat) : (h.reach t).inject = h.inject := rfl
@[simp] theorem Hw.reach_ports (h : Hw) (t : Nat) : (h.reach t).ports = h.ports := rfl
@[simp] theorem Hw.reach_switches (h : Hw) (t : Nat) : (h.reach t).switches = h.switches := rfl
@[simp] theorem Hw.reach_egress (h : Hw) (t : Nat) : (h.reach t).egress = h.egress := rfl
@[simp] theorem Hw.reach_originals (h : Hw) (t : Nat) : (h.reach t).originals = h.originals := rfl
@[simp] theorem Hw.reach_nextOrig (h : Hw) (t : Nat) : (h.reach t).nextOrig = h.nextOrig := rfl
@[simp] theorem Hw.reach_satLocal (h : Hw) (t : Nat) : (h.reach t).satLocal = h.satLocal := rfl
@[simp] theorem Hw.reach_satGlobal (h : Hw) (t : Nat) : (h.reach t).satGlobal = h.satGlobal := rfl
@[simp] theorem Hw.reach_stages (h : Hw) (t : Nat) : (h.reach t).stages = h.stages := rfl
@[simp] theorem Hw.reach_stageUsed (h : Hw) (t : Nat) : (h.reach t).stageUsed = h.stageUsed := rfl
@[simp] theorem Hw.reach_linksDown (h : Hw) (t : Nat) : (h.reach t).linksDown = h.linksDown := rfl
@[simp] theorem Hw.reach_sampleAt (h : Hw) (t : Nat) : (h.reach t).sampleAt = h.sampleAt := rfl
@[simp] theorem Hw.reach_mcExtra (h : Hw) (t : Nat) : (h.reach t).mcExtra = h.mcExtra := rfl
@[simp] theorem Hw.reach_stus (h : Hw) (t : Nat) : (h.reach t).stus = h.stus := rfl
@[simp] theorem Hw.reach_stuCmds (h : Hw) (t : Nat) : (h.reach t).stuCmds = h.stuCmds := rfl
@[simp] theorem Hw.reach_groups (h : Hw) (t : Nat) : (h.reach t).groups = h.groups := rfl
@[simp] theorem Hw.reach_colls (h : Hw) (t : Nat) : (h.reach t).colls = h.colls := rfl
@[simp] theorem Hw.reach_mirrorRecs (h : Hw) (t : Nat) : (h.reach t).mirrorRecs = h.mirrorRecs := rfl
@[simp] theorem Hw.reach_mirrors (h : Hw) (t : Nat) : (h.reach t).mirrors = h.mirrors := rfl
@[simp] theorem Hw.reach_opens (h : Hw) (t : Nat) : (h.reach t).opens = h.opens := rfl
@[simp] theorem Hw.reach_closedX (h : Hw) (t : Nat) : (h.reach t).closedX = h.closedX := rfl
@[simp] theorem Hw.reach_xrets (h : Hw) (t : Nat) : (h.reach t).xrets = h.xrets := rfl
@[simp] theorem Hw.reach_reqs (h : Hw) (t : Nat) : (h.reach t).reqs = h.reqs := rfl
@[simp] theorem Hw.reach_nextOpid (h : Hw) (t : Nat) : (h.reach t).nextOpid = h.nextOpid := rfl
@[simp] theorem Hw.reach_tseq (h : Hw) (t : Nat) : (h.reach t).tseq = h.tseq := rfl
@[simp] theorem Hw.reach_defer (h : Hw) (t : Nat) : (h.reach t).defer = h.defer := rfl
@[simp] theorem Hw.reach_rgn (h : Hw) (t : Nat) : (h.reach t).rgn = h.rgn := rfl
@[simp] theorem Hw.reach_rgnNext (h : Hw) (t : Nat) : (h.reach t).rgnNext = h.rgnNext := rfl
@[simp] theorem Hw.reach_rgnLate (h : Hw) (t : Nat) : (h.reach t).rgnLate = h.rgnLate := rfl
@[simp] theorem Hw.reach_reservations (h : Hw) (t : Nat) : (h.reach t).reservations = h.reservations := rfl
@[simp] theorem Hw.reach_jobs (h : Hw) (t : Nat) : (h.reach t).jobs = h.jobs := rfl
@[simp] theorem Hw.reach_nextTag (h : Hw) (t : Nat) : (h.reach t).nextTag = h.nextTag := rfl
@[simp] theorem Hw.reach_kposts (h : Hw) (t : Nat) : (h.reach t).kposts = h.kposts := rfl
@[simp] theorem Hw.reach_io (h : Hw) (t : Nat) : (h.reach t).io = h.io := rfl
@[simp] theorem Hw.reach_cps (h : Hw) (t : Nat) : (h.reach t).cps = h.cps := rfl
@[simp] theorem Hw.reach_cores (h : Hw) (t : Nat) : (h.reach t).cores = h.cores := rfl
@[simp] theorem Hw.reach_fed (h : Hw) (t : Nat) : (h.reach t).fed = h.fed := rfl
@[simp] theorem Hw.reach_plc (h : Hw) (t : Nat) : (h.reach t).plc = h.plc := rfl
@[simp] theorem Hw.reach_routes (h : Hw) (t : Nat) : (h.reach t).routes = h.routes := rfl
@[simp] theorem Hw.reach_keepers (h : Hw) (t : Nat) : (h.reach t).keepers = h.keepers := rfl
@[simp] theorem Hw.reach_landed (h : Hw) (t : Nat) : (h.reach t).landed = h.landed := rfl
@[simp] theorem Hw.reach_replayEv (h : Hw) (t : Nat) : (h.reach t).replayEv = h.replayEv := rfl
@[simp] theorem Hw.reach_clears (h : Hw) (t : Nat) : (h.reach t).clears = h.clears := rfl
@[simp] theorem Hw.reach_sync (h : Hw) (t : Nat) : (h.reach t).sync = h.sync := rfl
@[simp] theorem Hw.reach_cinches (h : Hw) (t : Nat) : (h.reach t).cinches = h.cinches := rfl
@[simp] theorem Hw.reach_dlm (h : Hw) (t : Nat) : (h.reach t).dlm = h.dlm := rfl
@[simp] theorem Hw.reach_acct (h : Hw) (t : Nat) : (h.reach t).acct = h.acct := rfl
@[simp] theorem Hw.reach_partJobs (h : Hw) (t : Nat) : (h.reach t).partJobs = h.partJobs := rfl
@[simp] theorem Hw.reach_watch (h : Hw) (t : Nat) : (h.reach t).watch = h.watch := rfl
@[simp] theorem Hw.reach_watchStep (h : Hw) (t : Nat) : (h.reach t).watchStep = h.watchStep := rfl
@[simp] theorem Hw.reach_nv (h : Hw) (t : Nat) : (h.reach t).nv = h.nv := rfl
@[simp] theorem Hw.reach_mgmt (h : Hw) (t : Nat) : (h.reach t).mgmt = h.mgmt := rfl
@[simp] theorem Hw.reach_power (h : Hw) (t : Nat) : (h.reach t).power = h.power := rfl
@[simp] theorem Hw.reach_freeCount (h : Hw) (t : Nat) : (h.reach t).freeCount = h.freeCount := rfl

/-! `Hw.send` -/

@[simp] theorem Hw.send_now (h : Hw) (f : TxFrame) : (h.send f).now = h.now := rfl
@[simp] theorem Hw.send_fabN (h : Hw) (f : TxFrame) : (h.send f).fabN = h.fabN := rfl
@[simp] theorem Hw.send_partN (h : Hw) (f : TxFrame) : (h.send f).partN = h.partN := rfl
@[simp] theorem Hw.send_regs (h : Hw) (f : TxFrame) : (h.send f).regs = h.regs := rfl
@[simp] theorem Hw.send_staged (h : Hw) (f : TxFrame) : (h.send f).staged = h.staged := rfl
@[simp] theorem Hw.send_commits (h : Hw) (f : TxFrame) : (h.send f).commits = h.commits := rfl
@[simp] theorem Hw.send_mem (h : Hw) (f : TxFrame) : (h.send f).mem = h.mem := rfl
@[simp] theorem Hw.send_host (h : Hw) (f : TxFrame) : (h.send f).host = h.host := rfl
@[simp] theorem Hw.send_badWords (h : Hw) (f : TxFrame) : (h.send f).badWords = h.badWords := rfl
@[simp] theorem Hw.send_corrWords (h : Hw) (f : TxFrame) : (h.send f).corrWords = h.corrWords := rfl
@[simp] theorem Hw.send_heldPokes (h : Hw) (f : TxFrame) : (h.send f).heldPokes = h.heldPokes := rfl
@[simp] theorem Hw.send_badLines (h : Hw) (f : TxFrame) : (h.send f).badLines = h.badLines := rfl
@[simp] theorem Hw.send_badSites (h : Hw) (f : TxFrame) : (h.send f).badSites = h.badSites := rfl
@[simp] theorem Hw.send_corrSites (h : Hw) (f : TxFrame) : (h.send f).corrSites = h.corrSites := rfl
@[simp] theorem Hw.send_mapFault (h : Hw) (f : TxFrame) : (h.send f).mapFault = h.mapFault := rfl
@[simp] theorem Hw.send_mapDown (h : Hw) (f : TxFrame) : (h.send f).mapDown = h.mapDown := rfl
@[simp] theorem Hw.send_migSince (h : Hw) (f : TxFrame) : (h.send f).migSince = h.migSince := rfl
@[simp] theorem Hw.send_pages (h : Hw) (f : TxFrame) : (h.send f).pages = h.pages := rfl
@[simp] theorem Hw.send_swaps (h : Hw) (f : TxFrame) : (h.send f).swaps = h.swaps := rfl
@[simp] theorem Hw.send_scrubs (h : Hw) (f : TxFrame) : (h.send f).scrubs = h.scrubs := rfl
@[simp] theorem Hw.send_wins (h : Hw) (f : TxFrame) : (h.send f).wins = h.wins := rfl
@[simp] theorem Hw.send_moved (h : Hw) (f : TxFrame) : (h.send f).moved = h.moved := rfl
@[simp] theorem Hw.send_mirq (h : Hw) (f : TxFrame) : (h.send f).mirq = h.mirq := rfl
@[simp] theorem Hw.send_mirHold (h : Hw) (f : TxFrame) : (h.send f).mirHold = h.mirHold := rfl
@[simp] theorem Hw.send_nextMir (h : Hw) (f : TxFrame) : (h.send f).nextMir = h.nextMir := rfl
@[simp] theorem Hw.send_txFlows (h : Hw) (f : TxFrame) : (h.send f).txFlows = h.txFlows := rfl
@[simp] theorem Hw.send_rxFlows (h : Hw) (f : TxFrame) : (h.send f).rxFlows = h.rxFlows := rfl
@[simp] theorem Hw.send_arrived (h : Hw) (f : TxFrame) : (h.send f).arrived = h.arrived := rfl
@[simp] theorem Hw.send_reorder (h : Hw) (f : TxFrame) : (h.send f).reorder = h.reorder := rfl
@[simp] theorem Hw.send_ready (h : Hw) (f : TxFrame) : (h.send f).ready = h.ready := rfl
@[simp] theorem Hw.send_failures (h : Hw) (f : TxFrame) : (h.send f).failures = h.failures := rfl
@[simp] theorem Hw.send_inject (h : Hw) (f : TxFrame) : (h.send f).inject = h.inject := rfl
@[simp] theorem Hw.send_ports (h : Hw) (f : TxFrame) : (h.send f).ports = h.ports := rfl
@[simp] theorem Hw.send_switches (h : Hw) (f : TxFrame) : (h.send f).switches = h.switches := rfl
@[simp] theorem Hw.send_egress (h : Hw) (f : TxFrame) : (h.send f).egress = h.egress := rfl
@[simp] theorem Hw.send_originals (h : Hw) (f : TxFrame) : (h.send f).originals = h.originals := rfl
@[simp] theorem Hw.send_nextOrig (h : Hw) (f : TxFrame) : (h.send f).nextOrig = h.nextOrig := rfl
@[simp] theorem Hw.send_satLocal (h : Hw) (f : TxFrame) : (h.send f).satLocal = h.satLocal := rfl
@[simp] theorem Hw.send_satGlobal (h : Hw) (f : TxFrame) : (h.send f).satGlobal = h.satGlobal := rfl
@[simp] theorem Hw.send_stages (h : Hw) (f : TxFrame) : (h.send f).stages = h.stages := rfl
@[simp] theorem Hw.send_stageUsed (h : Hw) (f : TxFrame) : (h.send f).stageUsed = h.stageUsed := rfl
@[simp] theorem Hw.send_linksDown (h : Hw) (f : TxFrame) : (h.send f).linksDown = h.linksDown := rfl
@[simp] theorem Hw.send_sampleAt (h : Hw) (f : TxFrame) : (h.send f).sampleAt = h.sampleAt := rfl
@[simp] theorem Hw.send_mcExtra (h : Hw) (f : TxFrame) : (h.send f).mcExtra = h.mcExtra := rfl
@[simp] theorem Hw.send_stus (h : Hw) (f : TxFrame) : (h.send f).stus = h.stus := rfl
@[simp] theorem Hw.send_stuCmds (h : Hw) (f : TxFrame) : (h.send f).stuCmds = h.stuCmds := rfl
@[simp] theorem Hw.send_groups (h : Hw) (f : TxFrame) : (h.send f).groups = h.groups := rfl
@[simp] theorem Hw.send_colls (h : Hw) (f : TxFrame) : (h.send f).colls = h.colls := rfl
@[simp] theorem Hw.send_mirrorRecs (h : Hw) (f : TxFrame) : (h.send f).mirrorRecs = h.mirrorRecs := rfl
@[simp] theorem Hw.send_mirrors (h : Hw) (f : TxFrame) : (h.send f).mirrors = h.mirrors := rfl
@[simp] theorem Hw.send_opens (h : Hw) (f : TxFrame) : (h.send f).opens = h.opens := rfl
@[simp] theorem Hw.send_closedX (h : Hw) (f : TxFrame) : (h.send f).closedX = h.closedX := rfl
@[simp] theorem Hw.send_xrets (h : Hw) (f : TxFrame) : (h.send f).xrets = h.xrets := rfl
@[simp] theorem Hw.send_reqs (h : Hw) (f : TxFrame) : (h.send f).reqs = h.reqs := rfl
@[simp] theorem Hw.send_nextOpid (h : Hw) (f : TxFrame) : (h.send f).nextOpid = h.nextOpid := rfl
@[simp] theorem Hw.send_tseq (h : Hw) (f : TxFrame) : (h.send f).tseq = h.tseq := rfl
@[simp] theorem Hw.send_defer (h : Hw) (f : TxFrame) : (h.send f).defer = h.defer := rfl
@[simp] theorem Hw.send_rgn (h : Hw) (f : TxFrame) : (h.send f).rgn = h.rgn := rfl
@[simp] theorem Hw.send_rgnNext (h : Hw) (f : TxFrame) : (h.send f).rgnNext = h.rgnNext := rfl
@[simp] theorem Hw.send_rgnLate (h : Hw) (f : TxFrame) : (h.send f).rgnLate = h.rgnLate := rfl
@[simp] theorem Hw.send_reservations (h : Hw) (f : TxFrame) : (h.send f).reservations = h.reservations := rfl
@[simp] theorem Hw.send_jobs (h : Hw) (f : TxFrame) : (h.send f).jobs = h.jobs := rfl
@[simp] theorem Hw.send_nextTag (h : Hw) (f : TxFrame) : (h.send f).nextTag = h.nextTag := rfl
@[simp] theorem Hw.send_kposts (h : Hw) (f : TxFrame) : (h.send f).kposts = h.kposts := rfl
@[simp] theorem Hw.send_io (h : Hw) (f : TxFrame) : (h.send f).io = h.io := rfl
@[simp] theorem Hw.send_cps (h : Hw) (f : TxFrame) : (h.send f).cps = h.cps := rfl
@[simp] theorem Hw.send_cores (h : Hw) (f : TxFrame) : (h.send f).cores = h.cores := rfl
@[simp] theorem Hw.send_fed (h : Hw) (f : TxFrame) : (h.send f).fed = h.fed := rfl
@[simp] theorem Hw.send_plc (h : Hw) (f : TxFrame) : (h.send f).plc = h.plc := rfl
@[simp] theorem Hw.send_routes (h : Hw) (f : TxFrame) : (h.send f).routes = h.routes := rfl
@[simp] theorem Hw.send_keepers (h : Hw) (f : TxFrame) : (h.send f).keepers = h.keepers := rfl
@[simp] theorem Hw.send_landed (h : Hw) (f : TxFrame) : (h.send f).landed = h.landed := rfl
@[simp] theorem Hw.send_replayEv (h : Hw) (f : TxFrame) : (h.send f).replayEv = h.replayEv := rfl
@[simp] theorem Hw.send_clears (h : Hw) (f : TxFrame) : (h.send f).clears = h.clears := rfl
@[simp] theorem Hw.send_sync (h : Hw) (f : TxFrame) : (h.send f).sync = h.sync := rfl
@[simp] theorem Hw.send_cinches (h : Hw) (f : TxFrame) : (h.send f).cinches = h.cinches := rfl
@[simp] theorem Hw.send_dlm (h : Hw) (f : TxFrame) : (h.send f).dlm = h.dlm := rfl
@[simp] theorem Hw.send_acct (h : Hw) (f : TxFrame) : (h.send f).acct = h.acct := rfl
@[simp] theorem Hw.send_partJobs (h : Hw) (f : TxFrame) : (h.send f).partJobs = h.partJobs := rfl
@[simp] theorem Hw.send_watch (h : Hw) (f : TxFrame) : (h.send f).watch = h.watch := rfl
@[simp] theorem Hw.send_watchStep (h : Hw) (f : TxFrame) : (h.send f).watchStep = h.watchStep := rfl
@[simp] theorem Hw.send_nv (h : Hw) (f : TxFrame) : (h.send f).nv = h.nv := rfl
@[simp] theorem Hw.send_mgmt (h : Hw) (f : TxFrame) : (h.send f).mgmt = h.mgmt := rfl
@[simp] theorem Hw.send_power (h : Hw) (f : TxFrame) : (h.send f).power = h.power := rfl
@[simp] theorem Hw.send_freeCount (h : Hw) (f : TxFrame) : (h.send f).freeCount = h.freeCount := rfl

@[simp] theorem Hw.reach_now (h : Hw) (t : Nat) : (h.reach t).now = max h.now t := rfl
@[simp] theorem Hw.setCore_cores (h : Hw) (d k : Nat) (c : Core) :
    (h.setCore d k c).cores = SMap.put h.cores (coreKey d k) c := rfl
@[simp] theorem Hw.setQueue_jobs (h : Hw) (d u : Nat) (q : List Job) :
    (h.setQueue d u q).jobs = SMap.put h.jobs (ukey d u) q := rfl

@[simp] theorem Hw.reach_core (h : Hw) (t d k : Nat) : (h.reach t).core d k = h.core d k := rfl
@[simp] theorem Hw.wf_core (h : Hw) (f : FieldRef) (base i v d k : Nat) : (h.wf f base i v).core d k = h.core d k := rfl

/-! The state a command leaves. -/

@[simp] theorem State.hwTo_hw (s : State) (h : Hw) : (s.hwTo h).hw = h.seal := rfl
@[simp] theorem State.hwTo_tl (s : State) (h : Hw) : (s.hwTo h).tl = s.tl := rfl
@[simp] theorem State.hwTo_fuses (s : State) (h : Hw) : (s.hwTo h).fuses = s.fuses := rfl
@[simp] theorem State.hwTo_pending (s : State) (h : Hw) : (s.hwTo h).pending = s.pending := rfl
@[simp] theorem State.tlTo_hw (s : State) (t : Timelines) (h : Hw) : (s.tlTo t h).hw = h.seal := rfl
@[simp] theorem State.tlTo_tl (s : State) (t : Timelines) (h : Hw) : (s.tlTo t h).tl = t := rfl
@[simp] theorem State.tlTo_fuses (s : State) (t : Timelines) (h : Hw) : (s.tlTo t h).fuses = s.fuses := rfl
@[simp] theorem State.tlTo_pending (s : State) (t : Timelines) (h : Hw) : (s.tlTo t h).pending = s.pending := rfl

end Sys2Proof.Machine
end

