-- ==== Sys2Proof/Laws/Ops.lean ====
section
/-! SUPPORT. The shared operations: what a command's state is, what a core's record becomes, and everything the access of
one word of scratchpad can do. -/

namespace Sys2Proof.Machine

/-! Commands. -/

theorem onHw_eq (f : Env → Hw → Hw) (s : State) : onHw f s = .next (s.hwTo (f s.env s.hw)) := rfl

theorem onTl_eq (f : Fuses → Timelines → Hw → Timelines × Hw) (s : State) :
    onTl f s = .next (s.tlTo (f s.fuses s.tl s.hw).1 (f s.fuses s.tl s.hw).2) := rfl

/-- With no mirrored write in hand and no failing entry met, nothing is sent and nothing is raised. -/
theorem Hw.seal_of_nil (h : Hw) (hm : h.mirq = []) (hf : h.mapFault = none) : h.seal = h := by
  simp [Hw.seal, hm, Hw.mapFatal, hf]

theorem State.hwTo_of_nil (s : State) (h : Hw) (hm : h.mirq = []) (hf : h.mapFault = none) :
    s.hwTo h = { s with hw := h } := by
  simp [State.hwTo, Hw.seal_of_nil h hm hf]

theorem Hw.foldl_mirq {α : Type} (f : Hw → α → Hw) (hf : ∀ h x, (f h x).mirq = h.mirq) (l : List α) :
    ∀ h : Hw, (l.foldl f h).mirq = h.mirq := by
  induction l with
  | nil => intro h; rfl
  | cons x l ih => intro h; rw [List.foldl_cons, ih, hf]

/-- Sending the mirrored writes leaves none in hand. -/
theorem Hw.mirrorOut_mirq (h : Hw) (o : Owner) : (h.mirrorOut o).mirq = [] := by
  unfold Hw.mirrorOut
  rw [Hw.foldl_mirq]
  intro h x
  dsimp only
  split
  · rw [Hw.foldl_mirq]
    · rfl
    · intro h y; rfl
  · rfl

theorem Hw.setRing_mirq (h : Hw) (k : Nat) (x : RingX) : (h.setRing k x).mirq = h.mirq := rfl

theorem Hw.raise_mirq (h : Hw) (cls : Nat) (part : Option Nat) (src : Nat) (body : List Byte) (n : Nat) :
    (h.raise cls part src body n).mirq = h.mirq := by
  have hs : ∀ (h : Hw) (fn v : Nat), (h.sendMsi fn v).mirq = h.mirq := by
    intro h fn v; unfold Hw.sendMsi; repeat (first | rfl | split)
  have hm : ∀ (h : Hw) (a b c d : Nat) (e f : Bool), (h.moderate a b c d e f).mirq = h.mirq := by
    intro h a b c d e f; unfold Hw.moderate; dsimp only
    repeat (first | rfl | (rw [hs]) | split)
  have hp : ∀ (h : Hw) (fn k : Nat) (f : Bool → List Byte), (h.pushEvent fn k f).mirq = h.mirq := by
    intro h fn k f; unfold Hw.pushEvent; dsimp only
    rw [hm]; rfl
  have ho : ∀ (h : Hw) (fn k : Nat), (h.pushOverflow fn k).mirq = h.mirq := by
    intro h fn k; unfold Hw.pushOverflow; dsimp only
    repeat (first | rfl | (rw [hp]; rfl) | split)
  unfold Hw.raise
  dsimp only
  rw [Hw.foldl_mirq]
  intro h x
  split
  · unfold Hw.deliver
    dsimp only
    repeat (first | rfl | (rw [Hw.foldl_mirq _ (fun h y => hp h _ _ _), ho]) | split)
  · rfl

theorem Hw.fatal_mirq (h : Hw) (k d i : Nat) : (h.fatal k d i).mirq = h.mirq := by
  unfold Hw.fatal Hw.portsOff
  simp only [Hw.wf_mirq, Hw.raise_mirq]

theorem Hw.mapFatal_mirq (h : Hw) : h.mapFatal.mirq = h.mirq := by
  unfold Hw.mapFatal; split
  · rw [Hw.fatal_mirq]
  · rfl

/-- After a command no mirrored write is in hand. -/
theorem Hw.seal_mirq (h : Hw) : h.seal.mirq = [] := by
  unfold Hw.seal
  rw [Hw.mapFatal_mirq]
  split
  · rename_i hm; simpa using hm
  · exact Hw.mirrorOut_mirq h .free

/-! Cores. -/

@[simp] theorem Hw.core_setCore (h : Hw) (d k : Nat) (c : Core) : (h.setCore d k c).core d k = c := by
  simp [Hw.core, Hw.setCore]

theorem Hw.core_setCore_ne (h : Hw) (d k d' k' : Nat) (c : Core) (hk : coreKey d' k' ≠ coreKey d k) :
    (h.setCore d k c).core d' k' = h.core d' k' := by
  simp [Hw.core, Hw.setCore, SMap.get_put, hk]

theorem Core.next_setS (c : Core) (r : Nat) (v : Word) : (c.setS r v).next = c.wrote r v := by
  unfold Core.setS Core.next Core.wrote; split <;> simp_all

/-- The command of an instruction that the core would issue does what the instruction does. -/
theorem onInsn_of (opc d k : Nat) (f : Env → Core → Insn → Hw → Hw) (s : State) (i : Insn)
    (h : s.hw.insn? s.env d k = some i) (ho : i.opc = opc) :
    onInsn opc d k f s.env s.hw = f s.env (s.hw.core d k) i s.hw := by simp [onInsn, h, ho]

/-- An instruction that the core would issue is the word at its index, decoded, in a running core that can read it. -/
theorem Hw.insn?_some (h : Hw) (e : Env) (d k : Nat) (i : Insn) (hi : h.insn? e d k = some i) :
    (h.core d k).st = .running ∧ h.dieOn e d = true ∧ k < 4 ∧ (h.core d k).index < 4096 ∧
      h.issueBad d k = false ∧ i = Insn.of (h.progWord d k (h.core d k).index) ∧ opcOk i.opc = true ∧ i.res = 0 := by
  unfold Hw.insn? at hi
  simp only [Bool.and_eq_true, decide_eq_true_eq, Bool.not_eq_true', Option.ite_none_right_eq_some, Option.some.injEq] at hi
  obtain ⟨⟨⟨⟨⟨h1, h2⟩, h3⟩, h4⟩, h0⟩, ⟨h5, h6⟩, h7⟩ := hi
  subst h7
  exact ⟨h1, h2, h3, h4, h0, rfl, h5, h6⟩

/-- A program with empty queues that stops by itself ends at once, with what it stopped with. -/
theorem Hw.stopAt_drained (h : Hw) (d k : Nat) (st : Status) (v : Nat) (hst : (h.core d k).st ≠ .idle)
    (hf : (h.core d k).fail = none) (hd : (h.core d k).drained = true) :
    h.stopAt d k st v = (h.setCore d k { h.core d k with
      st := .stopping, fail := some ⟨(h.core d k).nextIssue, st, (h.core d k).index, v⟩ }).endProgram d k
        ⟨st, v, (h.core d k).index⟩ := by
  simp only [Hw.stopAt, Hw.settle, Core.stop, Hw.core_setCore, hf, if_neg hst]
  have hd' : ({ h.core d k with
    st := .stopping, fail := some ⟨(h.core d k).nextIssue, st, (h.core d k).index, v⟩ } : Core).drained = true := hd
  rw [if_pos hd']

/-! One word of scratchpad. -/

theorem spWin_not_dev (d a : Nat) : isDev (spWin d + a) = false :=
  decide_eq_false (by unfold spWin spBase; omega)

theorem wordsOf_word (g : Nat) (h : g % 8 = 0) : wordsOf g 8 = [g] := by
  have h1 : (g + 8 - 1) / 8 - g / 8 + 1 = 1 := by omega
  have h2 : g / 8 * 8 = g := by omega
  have h3 : List.range 1 = [0] := rfl
  simp only [wordsOf, upto, h1, h3, if_neg (show ¬ (8 = 0) by omega), List.map_cons, List.map_nil, Nat.add_zero, h2]

theorem Hw.mapOk_of_not_dev (h : Hw) (a n : Nat) (ha : isDev a = false) : h.mapOk a n = true := by
  unfold Hw.mapOk
  rw [List.all_eq_true]
  intro s _
  cases s <;> simp [ha]

theorem Hw.touch_of_not_dev (h : Hw) (a n : Nat) (ha : isDev a = false) : h.touch a n = h := by
  simp [Hw.touch, ha]

theorem Hw.countCorrected_mem (h : Hw) (a : Nat) : (h.countCorrected a).mem = h.mem := by
  unfold Hw.countCorrected; split <;> rfl

theorem Hw.countCorrected_mirq (h : Hw) (a : Nat) : (h.countCorrected a).mirq = h.mirq := by
  unfold Hw.countCorrected; split <;> rfl

@[simp] theorem Hw.wordRead_mem (h : Hw) (a : Nat) : (h.wordRead a).mem = h.mem := by
  unfold Hw.wordRead; split
  · exact Hw.countCorrected_mem h a
  · rfl

@[simp] theorem Hw.wordRead_mirq (h : Hw) (a : Nat) : (h.wordRead a).mirq = h.mirq := by
  unfold Hw.wordRead; split
  · exact Hw.countCorrected_mirq h a
  · rfl

@[simp] theorem Hw.wordRead_now (h : Hw) (a : Nat) : (h.wordRead a).now = h.now := by
  unfold Hw.wordRead Hw.countCorrected; split
  · split
    · simp only [Hw.incSat_now]
    · simp only [Hw.incSat_now]
  · rfl

@[simp] theorem Hw.wordRead_fabN (h : Hw) (a : Nat) : (h.wordRead a).fabN = h.fabN := by
  unfold Hw.wordRead Hw.countCorrected; split
  · split
    · simp only [Hw.incSat_fabN]
    · simp only [Hw.incSat_fabN]
  · rfl

@[simp] theorem Hw.wordRead_partN (h : Hw) (a : Nat) : (h.wordRead a).partN = h.partN := by
  unfold Hw.wordRead Hw.countCorrected; split
  · split
    · simp only [Hw.incSat_partN]
    · simp only [Hw.incSat_partN]
  · rfl

@[simp] theorem Hw.wordRead_clears (h : Hw) (a : Nat) : (h.wordRead a).clears = h.clears := by
  unfold Hw.wordRead Hw.countCorrected; split
  · split
    · simp only [Hw.incSat_clears]
    · simp only [Hw.incSat_clears]
  · rfl

@[simp] theorem Hw.wordRead_badWords (h : Hw) (a : Nat) : (h.wordRead a).badWords = h.badWords := by
  unfold Hw.wordRead Hw.countCorrected; split
  · split
    · simp only [Hw.incSat_badWords]
    · simp only [Hw.incSat_badWords]
  · rfl

@[simp] theorem Hw.wordRead_badLines (h : Hw) (a : Nat) : (h.wordRead a).badLines = h.badLines := by
  unfold Hw.wordRead Hw.countCorrected; split
  · split
    · simp only [Hw.incSat_badLines]
    · simp only [Hw.incSat_badLines]
  · rfl

@[simp] theorem Hw.wordRead_corrWords (h : Hw) (a : Nat) : (h.wordRead a).corrWords = h.corrWords := by
  unfold Hw.wordRead Hw.countCorrected; split
  · split
    · simp only [Hw.incSat_corrWords]
    · simp only [Hw.incSat_corrWords]
  · rfl

@[simp] theorem Hw.wordRead_lineBad (h : Hw) (a w : Nat) : (h.wordRead a).lineBad w = h.lineBad w := by
  simp [Hw.lineBad]

@[simp] theorem Hw.wordRead_jobs (h : Hw) (a : Nat) : (h.wordRead a).jobs = h.jobs := by
  unfold Hw.wordRead Hw.countCorrected; split
  · split
    · simp only [Hw.incSat_jobs]
    · simp only [Hw.incSat_jobs]
  · rfl

@[simp] theorem Hw.wordRead_partJobs (h : Hw) (a : Nat) : (h.wordRead a).partJobs = h.partJobs := by
  unfold Hw.wordRead Hw.countCorrected; split
  · split
    · simp only [Hw.incSat_partJobs]
    · simp only [Hw.incSat_partJobs]
  · rfl

@[simp] theorem Hw.wordRead_cores (h : Hw) (a : Nat) : (h.wordRead a).cores = h.cores := by
  unfold Hw.wordRead Hw.countCorrected; split
  · split <;> rfl
  · rfl

@[simp] theorem Hw.wordRead_core (h : Hw) (a d k : Nat) : (h.wordRead a).core d k = h.core d k := by
  simp [Hw.core]

/-! Operations in sequence. -/

theorem runOp_pure {α : Type} (a : α) (h : Hw) : runOp (pure a) h = (.ok a, h) := rfl

/-- An operation that succeeds gives its result and its hardware to the next. -/
theorem runOp_bind {α β : Type} (m : Op α) (f : α → Op β) (h g : Hw) (a : α) (hm : runOp m h = (.ok a, g)) (b : β) (k : Hw)
    (hf : runOp (f a) g = (.ok b, k)) : runOp (m >>= f) h = (.ok b, k) := by
  have h1 : m h = .ok a g := by
    unfold runOp EStateM.run at hm
    cases hx : m h with
    | ok x y => rw [hx] at hm; cases hm; rfl
    | error e y => rw [hx] at hm; cases e <;> cases hm
  have h2 : f a g = .ok b k := by
    unfold runOp EStateM.run at hf
    cases hx : f a g with
    | ok x y => rw [hx] at hf; cases hf; rfl
    | error e y => rw [hx] at hf; cases e <;> cases hf
  simp only [runOp, EStateM.run, bind, EStateM.bind, h1, h2]

/-! Loads and stores of any extent. -/

theorem Hw.foldl_mem {α : Type} (f : Hw → α → Hw) (hf : ∀ h x, (f h x).mem = h.mem) (l : List α) :
    ∀ h : Hw, (l.foldl f h).mem = h.mem := by
  induction l with
  | nil => intro h; rfl
  | cons x l ih => intro h; rw [List.foldl_cons, ih, hf]

theorem Hw.lookUp_mem (h : Hw) (a n : Nat) : (h.lookUp a n).mem = h.mem := by
  unfold Hw.lookUp; split <;> rfl

theorem Hw.touch_mem (h : Hw) (a n : Nat) : (h.touch a n).mem = h.mem := by
  unfold Hw.touch; split
  · rfl
  · dsimp only
    rw [Hw.foldl_mem, Hw.lookUp_mem]; intro h x; rfl

theorem Hw.countUncorrected_mem (h : Hw) (a : Nat) : (h.countUncorrected a).mem = h.mem := by
  unfold Hw.countUncorrected; split
  · rfl
  · dsimp only; split <;> rfl

theorem Hw.noteMirror_mem (h : Hw) (a : Nat) (bs : List Byte) : (h.noteMirror a bs).mem = h.mem := by
  unfold Hw.noteMirror; split
  · rfl
  · split
    · split <;> rfl
    · rfl

/-- What a load answers: it is held by a clear, or meets a failing page map entry or word, or reads its bytes and counts
what it corrected. -/
theorem runOp_loadB (a n : Nat) (h : Hw) : runOp (loadB a n) h =
    if h.clearing a n = true then (.error .held, h)
    else
      let g := h.touch a n
      if g.mapOk a n = false then (.error (.st .aborted), g)
      else
        let g' := ((wordsOf a n).filter (fun w => g.corrWords.contains w)).foldl Hw.countCorrected g
        match (wordsOf a n).find? (fun w => g'.badWords.contains w || g'.lineBad w) with
        | some w => (.error (.ecc (if g'.badWords.contains w then w else w / 64 * 64)), g'.countUncorrected w)
        | none => (.ok (Mem.read g'.mem a n), g') := by
  unfold runOp EStateM.run loadB
  cases hc : h.clearing a n
  · cases hk : (h.touch a n).mapOk a n
    · simp [hk]
    · dsimp only
      simp only [Bool.false_eq_true, if_false, hk, Bool.not_true, Bool.true_eq_false]
      generalize (List.foldl Hw.countCorrected (h.touch a n) _) = g
      cases List.find? (fun w => g.badWords.contains w || g.lineBad w) (wordsOf a n) <;> rfl
  · rfl

/-- A good word of a scratchpad window reads as its bytes; a corrected one is counted. -/
theorem runOp_loadN_word (h : Hw) (g : Nat) (hd : isDev g = false) (ha : g % 8 = 0) (hg : h.wordGood g) :
    runOp (loadN g 8) h = (.ok (Mem.num h.mem g 8), h.wordRead g) := by
  obtain ⟨hc, hb⟩ := hg
  have hl : h.lineBad g = false := by simp [Hw.lineBad, hd]
  have h1 : ([g].filter (fun w => h.corrWords.contains w)).foldl Hw.countCorrected h = h.wordRead g := by
    rw [Hw.wordRead]
    by_cases hw : g ∈ h.corrWords <;> simp [hw]
  have h2 : runOp (loadB g 8) h = (.ok (Mem.read h.mem g 8), h.wordRead g) := by
    rw [runOp_loadB]
    simp only [hc, Hw.touch_of_not_dev h g 8 hd, Hw.mapOk_of_not_dev h g 8 hd, Bool.true_eq_false, Bool.false_eq_true,
      if_false, wordsOf_word g ha, h1]
    simp [-List.contains_eq_mem, Hw.wordRead_lineBad, hl, hb]
  exact runOp_bind _ _ _ _ _ h2 _ _ (runOp_pure _ _)

/-- A load changes no byte of memory. -/
theorem loadB_mem (a n : Nat) (h : Hw) : (runOp (loadB a n) h).2.mem = h.mem := by
  rw [runOp_loadB]
  split
  · rfl
  · dsimp only
    split
    · exact Hw.touch_mem h a n
    · split
      · rw [Hw.countUncorrected_mem, Hw.foldl_mem _ Hw.countCorrected_mem, Hw.touch_mem]
      · rw [Hw.foldl_mem _ Hw.countCorrected_mem, Hw.touch_mem]

/-- What a store answers: it is held by a clear; it meets a failing page map entry; it writes its bytes; or it meets a failing grain that it does not cover,
and writes the bytes of the others. -/
theorem runOp_storeB (a : Nat) (bs : List Byte) (h : Hw) : runOp (storeB a bs) h =
    if h.clearing a bs.length = true then (.error .held, h)
    else
      let g := h.touch a bs.length
      if g.mapOk a bs.length = false then (.error (.st .aborted), g)
      else
      let g' := ((g.mendedBy a bs.length).foldl Hw.countCorrected g).written a bs
      match (grainsOf a bs.length).find? (g.stuck a bs.length) with
      | none => (.ok (), g'.noteMirror a bs)
      | some w =>
        let l := g.opened a bs
        let g2 := if l.isEmpty then g' else g'.noteMirror (l.headD (0, 0)).1 (l.map (fun p => p.2))
        let w' := (g2.grainBad w (grainOf a)).getD w
        (.error (.ecc w'), g2.countUncorrected w') := by
  unfold runOp EStateM.run storeB
  cases hc : h.clearing a bs.length
  · cases hk : (h.touch a bs.length).mapOk a bs.length
    · simp [hc, hk]
    · dsimp only
      simp only [Bool.false_eq_true, if_false, hc, hk, Bool.not_true, Bool.true_eq_false]
      cases List.find? ((h.touch a bs.length).stuck a bs.length) (grainsOf a bs.length) <;> rfl
  · simp [hc]

/-- Every byte of an extent lies in one of its grains. -/
theorem mem_grainsOf (a n w : Nat) (h1 : a ≤ w) (h2 : w < a + n) : w / grainOf a * grainOf a ∈ grainsOf a n := by
  have hn : n ≠ 0 := by omega
  have hg : 0 < grainOf a := by unfold grainOf; split <;> omega
  unfold grainsOf
  rw [if_neg hn]
  refine List.mem_map.2 ⟨w / grainOf a - a / grainOf a, ?_, ?_⟩
  · have : a / grainOf a ≤ w / grainOf a := Nat.div_le_div_right h1
    have : w / grainOf a ≤ (a + n - 1) / grainOf a := Nat.div_le_div_right (by omega)
    simp [upto]; omega
  · have : a / grainOf a ≤ w / grainOf a := Nat.div_le_div_right h1
    congr 1; omega

theorem Hw.countCorrected_grainBad (h : Hw) (a g n : Nat) : (h.countCorrected a).grainBad g n = h.grainBad g n := by
  have h1 : (h.countCorrected a).badWords = h.badWords := by unfold Hw.countCorrected; split <;> rfl
  have h2 : (h.countCorrected a).badLines = h.badLines := by unfold Hw.countCorrected; split <;> rfl
  simp only [Hw.grainBad, Hw.lineBad, h1, h2]; rfl

theorem Hw.opened_foldl (l : List Nat) (a : Nat) (bs : List Byte) : ∀ h : Hw,
    (l.foldl Hw.countCorrected h).opened a bs = h.opened a bs := by
  induction l with
  | nil => intro h; rfl
  | cons x l ih =>
    intro h
    rw [List.foldl_cons, ih]
    simp only [Hw.opened, Hw.admits, Hw.stuck, Hw.countCorrected_grainBad]

/-- With no failing grain every byte is written. -/
theorem Hw.opened_all (h : Hw) (a : Nat) (bs : List Byte) (hs : ∀ g ∈ grainsOf a bs.length, h.stuck a bs.length g = false) :
    h.opened a bs = bs.zipIdx.map (fun (p : Byte × Nat) => (a + p.2, p.1)) := by
  unfold Hw.opened
  apply List.filter_eq_self.2
  intro p hp
  obtain ⟨q, hq, rfl⟩ := List.mem_map.1 hp
  have hlt : q.2 < bs.length := by have := (List.mem_zipIdx hq).2.1; simpa using this
  have hm := mem_grainsOf a bs.length (a + q.2) (by omega) (by omega)
  simp only [Hw.admits, Bool.and_eq_true, List.contains_iff_mem, hm, true_and, hs _ hm, Bool.not_false]

/-- What memory holds after a store, however it ends. -/
theorem storeB_mem (a : Nat) (bs : List Byte) (h : Hw) : (runOp (storeB a bs) h).2.mem = h.mem ∨
    (runOp (storeB a bs) h).2.mem = ((h.touch a bs.length).opened a bs).foldl
      (fun (m : Mem) (p : Nat × Byte) => Mem.set m p.1 p.2) h.mem := by
  rw [runOp_storeB]
  split
  · left; rfl
  · dsimp only
    split
    · left; exact Hw.touch_mem h a bs.length
    right
    generalize hg : h.touch a bs.length = g
    have hm : g.mem = h.mem := by rw [← hg, Hw.touch_mem]
    have hw : (((g.mendedBy a bs.length).foldl Hw.countCorrected g).written a bs).mem = (g.opened a bs).foldl
        (fun (m : Mem) (p : Nat × Byte) => Mem.set m p.1 p.2) h.mem := by
      show List.foldl _ ((List.foldl Hw.countCorrected g (g.mendedBy a bs.length)).mem) ((List.foldl Hw.countCorrected g (g.mendedBy a bs.length)).opened a bs) = _
      rw [Hw.opened_foldl, Hw.foldl_mem _ Hw.countCorrected_mem, hm]
    split
    · rw [Hw.noteMirror_mem, hw]
    · rw [Hw.countUncorrected_mem]
      split
      · exact hw
      · rw [Hw.noteMirror_mem, hw]

/-- A store keeps memory in its canonical form. -/
theorem storeB_wf (a : Nat) (bs : List Byte) (h : Hw) (hm : Mem.wf h.mem = true) : Mem.wf (runOp (storeB a bs) h).2.mem = true := by
  rcases storeB_mem a bs h with h1 | h1 <;> rw [h1]
  · exact hm
  · exact Mem.wf_foldl_set _ _ hm

/-- A store that succeeds leaves memory as its bytes written in order. -/
theorem storeB_ok (a : Nat) (bs : List Byte) (h g : Hw) (hs : runOp (storeB a bs) h = (.ok (), g)) : g.mem = Mem.write h.mem a bs := by
  have e : g = (runOp (storeB a bs) h).2 := by rw [hs]
  rw [runOp_storeB] at hs e
  split at hs
  · cases hs
  · rename_i hc
    rw [if_neg hc] at e
    dsimp only at hs e
    split at hs
    · cases hs
    split at hs
    · rename_i hf
      cases hs
      have hs := List.find?_eq_none.1 hf
      rw [Hw.noteMirror_mem]
      show List.foldl _ ((List.foldl Hw.countCorrected _ _).mem) ((List.foldl Hw.countCorrected _ _).opened a bs) = _
      rw [Hw.opened_foldl, Hw.foldl_mem _ Hw.countCorrected_mem, Hw.touch_mem, Hw.opened_all _ _ _ (fun g hg => by simpa using hs g hg), Mem.foldl_set_zipIdx]
      rfl
    · cases hs

theorem toBytes_length (n v : Nat) : (toBytes n v).length = n := by
  induction n generalizing v with
  | zero => rfl
  | succ n ih => simp [toBytes, ih]

/-- The word `v` written over a word of a scratchpad window: nothing failing is left in it, and a reservation of it is
lost. -/
theorem runOp_storeN_word (h : Hw) (g v : Nat) (hd : isDev g = false) (ha : g % 8 = 0) (hc : h.clearing g 8 = false) :
    runOp (storeN g 8 v) h = (.ok (), { h with
      mem := Mem.write h.mem g (toBytes 8 v)
      reservations := h.reservations.filter (fun (r : Nat × Nat) => r.2 ≠ g)
      badWords := h.badWords.filter (fun w => w / 8 * 8 ≠ g)
      badLines := h.badLines.filter (fun w => w / 8 * 8 ≠ g)
      corrWords := h.corrWords.filter (fun w => w ≠ g) }) := by
  have h4 : grainOf g = 8 := by simp [grainOf, hd]
  have h3 : List.range 1 = [0] := rfl
  have hg : grainsOf g 8 = [g] := by
    have h1 : (g + 8 - 1) / 8 - g / 8 + 1 = 1 := by omega
    have h2 : g / 8 * 8 = g := by omega
    simp only [grainsOf, h4, h1, upto, h3, if_neg (show ¬ (8 = 0) by omega), List.map_cons, List.map_nil, Nat.add_zero, h2]
  have hs : ∀ w, h.stuck g 8 w = false ∨ w ≠ g := by
    intro w
    by_cases hw : w = g
    · left; subst hw; simp [Hw.stuck, h4]
    · exact .inr hw
  have hadm : ∀ w, h.admits g 8 w = decide (w / 8 * 8 = g) := by
    intro w
    simp only [Hw.admits, hg, h4]
    by_cases hw : w / 8 * 8 = g
    · rcases hs g with h | h
      · simp [hw, h]
      · exact absurd rfl h
    · simp [hw]
  have hst : h.stuck g 8 g = false := by rcases hs g with h | h; exact h; exact absurd rfl h
  have hm : h.mendedBy g 8 = [] := by
    simp only [Hw.mendedBy, wordsOf_word g ha]
    simp [covers]
  have hop : h.opened g (toBytes 8 v) = (toBytes 8 v).zipIdx.map (fun (p : Byte × Nat) => (g + p.2, p.1)) := by
    apply Hw.opened_all
    rw [toBytes_length, hg]
    intro w hw
    rw [List.mem_singleton.1 hw]; exact hst
  unfold storeN
  rw [runOp_storeB, toBytes_length, if_neg (by simp [hc]), Hw.touch_of_not_dev h g 8 hd]
  simp only [Hw.mapOk_of_not_dev h g 8 hd, Bool.true_eq_false, if_false]
  simp only [hg, List.find?_cons, hst, List.find?_nil, hm, List.foldl_nil]
  have hnm : ∀ x : Hw, x.noteMirror g (toBytes 8 v) = x := by
    intro x; simp [Hw.noteMirror, hd]
  rw [hnm]
  simp only [Hw.written, hop, Mem.foldl_set_zipIdx, toBytes_length, hadm, wordsOf_word g ha, Nat.add_zero]
  congr 2
  all_goals
    apply List.filter_congr
    intro x hx
    first
    | (simp; done)
    | (have h0 : x = g → x / 8 * 8 = g := fun h => by rw [h]; exact Nat.div_mul_cancel (Nat.dvd_of_mod_eq_zero ha)
       by_cases h2 : x = g
       · rw [h2] at h0 ⊢; simp [h0 rfl]
       · simp [h2])

end Sys2Proof.Machine
end

