-- ==== Sys2Proof/Laws/Regs.lean ====
section
/-! SUPPORT. Registers: what a field reads after a write to it, to another field of its register, and to another
register. -/

namespace Sys2Proof.Machine

theorem bits_eq (v hi lo : Nat) : bits v hi lo = v / 2 ^ lo % 2 ^ (hi + 1 - lo) := by
  simp [bits, Nat.shiftRight_eq_div_pow]

theorem bits_lt (v hi lo : Nat) : bits v hi lo < 2 ^ (hi + 1 - lo) := by
  rw [bits_eq]; exact Nat.mod_lt _ (Nat.two_pow_pos _)

/-- A word cut to 64 bits keeps its fields. -/
theorem bits_mod64 (v hi lo : Nat) (h : hi < 64) (hl : lo ≤ hi) : bits (v % 2 ^ 64) hi lo = bits v hi lo := by
  apply Nat.eq_of_testBit_eq
  intro i
  simp only [bits_eq, Nat.testBit_mod_two_pow, Nat.testBit_div_two_pow]
  by_cases hi' : i < hi + 1 - lo
  · have : i + lo < 64 := by omega
    simp [hi', this]
  · simp [hi']

/-- A word is its bits above a field, the field, and the bits below it. -/
theorem word_split (v hi lo : Nat) (hl : lo ≤ hi) :
    v = (v / 2 ^ (hi + 1) * 2 ^ (hi + 1 - lo) + bits v hi lo) * 2 ^ lo + v % 2 ^ lo := by
  have h1 : v / 2 ^ lo / 2 ^ (hi + 1 - lo) = v / 2 ^ (hi + 1) := by
    rw [Nat.div_div_eq_div_mul, ← Nat.pow_add]; congr 2; omega
  have h2 := Nat.div_add_mod (v / 2 ^ lo) (2 ^ (hi + 1 - lo))
  have h3 := Nat.div_add_mod v (2 ^ lo)
  rw [h1] at h2
  rw [bits_eq, Nat.mul_comm (v / 2 ^ (hi + 1)), h2, Nat.mul_comm, h3]

theorem setBits_eq (v hi lo x : Nat) (hl : lo ≤ hi) : setBits v hi lo x =
    (v / 2 ^ (hi + 1) * 2 ^ (hi + 1 - lo) + x % 2 ^ (hi + 1 - lo)) * 2 ^ lo + v % 2 ^ lo := by
  have h := word_split v hi lo hl
  unfold setBits
  dsimp only
  rw [Nat.shiftLeft_eq, Nat.shiftLeft_eq]
  generalize v / 2 ^ (hi + 1) * 2 ^ (hi + 1 - lo) = q at h ⊢
  generalize bits v hi lo = b at h ⊢
  generalize x % 2 ^ (hi + 1 - lo) = y
  generalize v % 2 ^ lo = r at h ⊢
  rw [h, Nat.add_mul, Nat.add_mul]
  omega

/-- A field reads what was set, cut to its width. -/
theorem bits_setBits (v hi lo x : Nat) (hl : lo ≤ hi) : bits (setBits v hi lo x) hi lo = x % 2 ^ (hi + 1 - lo) := by
  rw [setBits_eq v hi lo x hl, bits_eq, Nat.mul_comm _ (2 ^ lo), Nat.mul_add_div (Nat.two_pow_pos _),
    Nat.div_eq_of_lt (Nat.mod_lt _ (Nat.two_pow_pos _)), Nat.add_zero, Nat.mul_comm, Nat.mul_add_mod]
  exact Nat.mod_eq_of_lt (Nat.mod_lt _ (Nat.two_pow_pos _))

/-- A field below the one that was set keeps its value. -/
theorem bits_setBits_below (v hi lo x hi' lo' : Nat) (hl : lo ≤ hi) (h : hi' < lo) (hl' : lo' ≤ hi') :
    bits (setBits v hi lo x) hi' lo' = bits v hi' lo' := by
  rw [setBits_eq v hi lo x hl]
  generalize v / 2 ^ (hi + 1) * 2 ^ (hi + 1 - lo) + x % 2 ^ (hi + 1 - lo) = q
  apply Nat.eq_of_testBit_eq
  intro i
  simp only [bits_eq, Nat.testBit_mod_two_pow, Nat.testBit_div_two_pow]
  by_cases hi' : i < hi' + 1 - lo'
  · have h1 : i + lo' < lo := by omega
    rw [Nat.mul_comm, Nat.testBit_two_pow_mul_add q (Nat.mod_lt _ (Nat.two_pow_pos _))]
    simp [hi', h1, Nat.testBit_mod_two_pow]
  · simp [hi']

/-- A field above the one that was set keeps its value. -/
theorem bits_setBits_above (v hi lo x hi' lo' : Nat) (hl : lo ≤ hi) (h : hi < lo') :
    bits (setBits v hi lo x) hi' lo' = bits v hi' lo' := by
  have h1 : setBits v hi lo x / 2 ^ (hi + 1) = v / 2 ^ (hi + 1) := by
    have e : 2 ^ (hi + 1) = 2 ^ (hi + 1 - lo) * 2 ^ lo := by rw [← Nat.pow_add]; congr 1; omega
    rw [setBits_eq v hi lo x hl, e, Nat.mul_comm (2 ^ (hi + 1 - lo)), ← Nat.div_div_eq_div_mul,
      Nat.mul_comm _ (2 ^ lo), Nat.mul_add_div (Nat.two_pow_pos _), Nat.div_eq_of_lt (Nat.mod_lt _ (Nat.two_pow_pos _)),
      Nat.add_zero, Nat.mul_comm _ (2 ^ (hi + 1 - lo)), Nat.mul_add_div (Nat.two_pow_pos _),
      Nat.div_eq_of_lt (Nat.mod_lt _ (Nat.two_pow_pos _)), Nat.add_zero]
  have e : 2 ^ lo' = 2 ^ (hi + 1) * 2 ^ (lo' - (hi + 1)) := by rw [← Nat.pow_add]; congr 1; omega
  rw [bits_eq, bits_eq, e, ← Nat.div_div_eq_div_mul, ← Nat.div_div_eq_div_mul, h1]

/-- A register reads the word written to its address, and keeps its word when another is written. -/
theorem Hw.reg_setReg (h : Hw) (r r' : RegRow) (b b' i i' v : Nat) :
    (h.setReg r b i v).reg r' b' i' =
      if b' + r'.off + r'.stride * i' = b + r.off + r.stride * i then v % 2 ^ 64 else h.reg r' b' i' := by
  simp only [Hw.reg, Hw.setReg, SMap.find?_put]
  by_cases ha : b' + r'.off + r'.stride * i' = b + r.off + r.stride * i
  · simp only [if_pos ha, BitVec.toNat_ofNat]
  · simp only [if_neg ha]

/-- A field reads what was written to it, cut to its width. -/
theorem Hw.rf_wf (h : Hw) (f : FieldRef) (b i v : Nat) (hl : f.lo ≤ f.hi) (hh : f.hi < 64) :
    (h.wf f b i v).rf f b i = v % 2 ^ (f.hi + 1 - f.lo) := by
  simp only [Hw.rf, Hw.wf, Hw.reg_setReg, if_true]
  rw [bits_mod64 _ _ _ hh hl, bits_setBits _ _ _ _ hl]

/-- A field of another register keeps its value. -/
theorem Hw.rf_wf_reg (h : Hw) (f g : FieldRef) (b b' i i' v : Nat)
    (ha : b' + g.row.off + g.row.stride * i' ≠ b + f.row.off + f.row.stride * i) :
    (h.wf f b i v).rf g b' i' = h.rf g b' i' := by
  simp only [Hw.rf, Hw.wf, Hw.reg_setReg, if_neg ha]

/-- Another field of the register keeps its value. -/
theorem Hw.rf_wf_field (h : Hw) (f g : FieldRef) (b i v : Nat) (hr : g.row = f.row) (hl : f.lo ≤ f.hi) (hg : g.lo ≤ g.hi)
    (hg' : g.hi < 64) (hd : f.hi < g.lo ∨ g.hi < f.lo) : (h.wf f b i v).rf g b i = h.rf g b i := by
  simp only [Hw.rf, Hw.wf, Hw.reg_setReg, hr, if_true]
  rw [bits_mod64 _ _ _ hg' hg]
  rcases hd with hd | hd
  · exact bits_setBits_above _ _ _ _ _ _ hl hd
  · exact bits_setBits_below _ _ _ _ _ _ hl hd hg

end Sys2Proof.Machine
end

