-- ==== Sys2Proof/Laws/Sound.lean ====
section
/-! SUPPORT. Accesses of any extent while every store is sound: a load answers its bytes, a store writes them, and each
leaves the stores sound, so that the accesses of an operation follow one another. -/

namespace Sys2Proof.Machine

theorem Hw.mapOk_of_sound (h : Hw) (hs : h.sound) (a n : Nat) : h.mapOk a n = true := by
  simp [Hw.mapOk, hs.2.2.1]

/-- What `sound` reads does not change in a fold of what leaves it alone. -/
theorem Hw.foldl_sound {α : Type} (f : Hw → α → Hw) (hf : ∀ h x, h.sound → (f h x).sound) (l : List α) :
    ∀ h : Hw, h.sound → (l.foldl f h).sound := by
  induction l with
  | nil => intro h hs; exact hs
  | cons x l ih => intro h hs; exact ih _ (hf h x hs)

theorem Hw.touch_sound (h : Hw) (hs : h.sound) (a n : Nat) : (h.touch a n).sound := by
  unfold Hw.touch; split
  · exact hs
  · have hl : (h.lookUp a n).sound := by rw [Hw.lookUp, Hw.mapOk_of_sound h hs]; exact hs
    have hp : ∀ (g : Hw) (p : Nat) (x : Page), g.sound → (g.setPage p x).sound := fun g p x hg => hg
    exact Hw.foldl_sound _ (fun g i hg => hp g _ _ hg) _ _ hl

theorem Hw.countCorrected_sound (h : Hw) (a : Nat) (hs : h.sound) : (h.countCorrected a).sound := by
  unfold Hw.countCorrected; split <;> exact hs

theorem Hw.written_sound (h : Hw) (hs : h.sound) (a : Nat) (bs : List Byte) : (h.written a bs).sound := by
  obtain ⟨h1, h2, h3, h4⟩ := hs
  simp [Hw.sound, Hw.written, h1, h2, h3, h4]

theorem Hw.noteMirror_sound (h : Hw) (hs : h.sound) (a : Nat) (bs : List Byte) : (h.noteMirror a bs).sound := by
  unfold Hw.noteMirror; repeat (first | exact hs | split)

/-- Of sound stores a load answers its bytes, changes no byte, and leaves the stores sound. -/
theorem loadB_sound (h : Hw) (hs : h.sound) (a n : Nat) :
    ∃ g, runOp (loadB a n) h = (.ok (Mem.read h.mem a n), g) ∧ g.sound ∧ g.mem = h.mem := by
  have ht := Hw.touch_sound h hs a n
  have hg := Hw.foldl_sound _ Hw.countCorrected_sound
    ((wordsOf a n).filter (fun w => (h.touch a n).corrWords.contains w)) _ ht
  refine ⟨_, ?_, hg, by rw [Hw.foldl_mem _ Hw.countCorrected_mem, Hw.touch_mem]⟩
  have hc : h.clearing a n = false := by simp [Hw.clearing, hs.2.2.2]
  rw [runOp_loadB]
  simp only [hc, Hw.mapOk_of_sound _ ht, Bool.false_eq_true, Bool.true_eq_false, if_false, Hw.lineBad, hg.1, hg.2.1,
    List.contains_nil, Bool.and_false, Bool.or_false]
  rw [List.find?_eq_none.2 (by simp)]
  rw [Hw.foldl_mem _ Hw.countCorrected_mem, Hw.touch_mem]

/-- Of sound stores a number loads as its bytes give it. -/
theorem loadN_sound (h : Hw) (hs : h.sound) (a n : Nat) :
    ∃ g, runOp (loadN a n) h = (.ok (ofBytes (Mem.read h.mem a n)), g) ∧ g.sound ∧ g.mem = h.mem := by
  obtain ⟨g, hr, hg, hm⟩ := loadB_sound h hs a n
  exact ⟨g, runOp_bind _ _ _ _ _ hr _ _ (runOp_pure _ _), hg, hm⟩

/-- Into sound stores a store completes, writes exactly its bytes, and leaves the stores sound. -/
theorem storeB_sound (h : Hw) (hs : h.sound) (a : Nat) (bs : List Byte) :
    ∃ g, runOp (storeB a bs) h = (.ok (), g) ∧ g.sound ∧
      g.mem = (bs.zipIdx.map (fun (p : Byte × Nat) => (a + p.2, p.1))).foldl
        (fun (m : Mem) (p : Nat × Byte) => Mem.set m p.1 p.2) h.mem := by
  have ht := Hw.touch_sound h hs a bs.length
  have hst : ∀ g, (h.touch a bs.length).stuck a bs.length g = false := by
    intro g
    have : (h.touch a bs.length).grainBad g (grainOf a) = none := by
      simp [Hw.grainBad, Hw.lineBad, ht.1, ht.2.1, List.find?_eq_none.2]
    simp [Hw.stuck, this]
  have hc : h.clearing a bs.length = false := by simp [Hw.clearing, hs.2.2.2]
  have hg := Hw.foldl_sound _ Hw.countCorrected_sound ((h.touch a bs.length).mendedBy a bs.length) _ ht
  refine ⟨_, ?_, Hw.noteMirror_sound _ (Hw.written_sound _ hg a bs) a bs, ?_⟩
  · rw [runOp_storeB]
    simp only [hc, Hw.mapOk_of_sound _ ht, Bool.false_eq_true, Bool.true_eq_false, if_false]
    rw [List.find?_eq_none.2 (by simp [hst])]
  · rw [Hw.noteMirror_mem]
    show List.foldl _ ((List.foldl Hw.countCorrected (h.touch a bs.length) _).mem)
      ((List.foldl Hw.countCorrected (h.touch a bs.length) _).opened a bs) = _
    rw [Hw.opened_foldl, Hw.foldl_mem _ Hw.countCorrected_mem, Hw.touch_mem, Hw.opened_all _ _ _ (fun g _ => hst g)]

end Sys2Proof.Machine
end

