-- ==== Sys2Proof/WellFormed.lean ====
section
/-! DEFINITION. Well-formedness of commands: the dies, units, ports, partitions, functions and offsets a command names
are ones the package has (R20, R28, R466). -/

namespace Sys2Proof

/-- C-dies, F-dies and M-dies (R20). -/
def cdieWf (die : Nat) : Bool := die < 24
def fdieWf (die : Nat) : Bool := 24 ≤ die && die < 28
def mdieWf (die : Nat) : Bool := 28 ≤ die && die < 32

/-- A core, a copy engine, a control processor, a thread of one, a stitch unit, a memory controller (R28). -/
def coreWf (die core : Nat) : Bool := cdieWf die && core < 4
def copyWf (die unit : Nat) : Bool := cdieWf die && (unit = 5 || unit = 6)
def cpWf (die unit : Nat) : Bool := cdieWf die && 7 ≤ unit && unit < 11
def threadWf (die unit thread : Nat) : Bool := cpWf die unit && thread < 16
def stitchWf (die unit : Nat) : Bool := fdieWf die && unit < 8
def memCtlWf (die unit : Nat) : Bool := mdieWf die && 2 ≤ unit && unit < 8

/-- A unit of R28 that is not reserved. -/
def unitWf (die unit : Nat) : Bool :=
  if die < 24 then unit ≤ 11 else if die < 28 then unit ≤ 10 else if die = 28 then unit ≤ 12
  else die < 32 && unit ≤ 7

/-- A fabric port, a partition, a function: 0 the PF, v + 1 VF v (R213, R446, R466). -/
def portWf (port : Nat) : Bool := port < 48
def partWf (part : Nat) : Bool := part < 8
def fnWf (fn : Nat) : Bool := fn < 9

/-- A frame carries whole granules of 64 payload bytes, at most 64 of them (R246). -/
def frameWf (f : Frame) : Bool := f.payload.length % 64 = 0 && f.payload.length ≤ 4096

/-- A register access is 4 or 8 bytes wide, or another width that is discarded (R11, R472). -/
def accessWf (a : Access) : Bool :=
  a.bytes ≤ 64 && (match a.bar with | .regs => a.off < 0x20000000 | .page fn => fnWf fn && a.off < 0x10000)

/-- Whoever waits exists. -/
def waiterWf : Waiter → Bool
  | .core die core => coreWf die core
  | .stream die core => coreWf die core
  | .dispatch die => cdieWf die
  | .window part => partWf part
  | .thread die unit thread => threadWf die unit thread

/-- Where a frame ages out exists (R264). -/
def placeWf : AgePlace → Bool
  | .egress port cls => portWf port && cls < 4
  | .arriving die => fdieWf die

/-- The command names what the package has. -/
def Instr.wf : Instr → Bool
  | .registerWrite access => accessWf access
  | .cfgCommit die unit => unitWf die unit
  | .fnCommit fn => fnWf fn
  | .fabricBoundary => true
  | .beatBoundary part => partWf part
  | .dieLinkDown die module => die < 32 && module < 16
  | .launch die core => coreWf die core
  | .nop die core => coreWf die core
  | .halt die core => coreWf die core
  | .ldi die core => coreWf die core
  | .ldih die core => coreWf die core
  | .add die core => coreWf die core
  | .sub die core => coreWf die core
  | .and die core => coreWf die core
  | .or die core => coreWf die core
  | .shl die core => coreWf die core
  | .shr die core => coreWf die core
  | .ld die core => coreWf die core
  | .st die core => coreWf die core
  | .beq die core => coreWf die core
  | .bne die core => coreWf die core
  | .bltu die core => coreWf die core
  | .jmp die core => coreWf die core
  | .mma die core => coreWf die core
  | .vop die core => coreWf die core
  | .post die core => coreWf die core
  | .waitf die core => coreWf die core
  | .gate die core => coreWf die core
  | .setf die core => coreWf die core
  | .fence die core => coreWf die core
  | .beat die core => coreWf die core
  | .replay die core => coreWf die core
  | .reservedOpc die core => coreWf die core
  | .flagRecheck waiter => waiterWf waiter
  | .gateDeadline die core => coreWf die core
  | .coreFlagTimeout die core => coreWf die core
  | .mmaProduct die core => coreWf die core
  | .sparseScan die core => coreWf die core
  | .arraySwap die core => coreWf die core
  | .vopAdd die core => coreWf die core
  | .vopSub die core => coreWf die core
  | .vopMul die core => coreWf die core
  | .vopMax die core => coreWf die core
  | .vopMin die core => coreWf die core
  | .scale die core => coreWf die core
  | .convert die core => coreWf die core
  | .rowsum die core => coreWf die core
  | .rowmax die core => coreWf die core
  | .rowmin die core => coreWf die core
  | .argmax die core => coreWf die core
  | .exp2 die core => coreWf die core
  | .log2 die core => coreWf die core
  | .recip die core => coreWf die core
  | .rsqrt die core => coreWf die core
  | .tanh die core => coreWf die core
  | .softmax die core => coreWf die core
  | .sigmoid die core => coreWf die core
  | .rmsnorm die core => coreWf die core
  | .layernorm die core => coreWf die core
  | .xent die core => coreWf die core
  | .fadd64 die core => coreWf die core
  | .rowsum64 die core => coreWf die core
  | .coreCtrlAbort die core => coreWf die core
  | .copy die unit => copyWf die unit
  | .transpose die unit => copyWf die unit
  | .permute die unit => copyWf die unit
  | .gather die unit => copyWf die unit
  | .scatterStore die unit => copyWf die unit
  | .scatterAdd die unit => copyWf die unit
  | .ceCtrlAbort die unit => copyWf die unit
  | .clearEnd die => cdieWf die
  | .route die => cdieWf die
  | .combine die => cdieWf die
  | .deFlagTimeout die => cdieWf die
  | .deCtrlAbort die => cdieWf die
  | .verify part bank => partWf part && bank < 2
  | .verifyDone part => partWf part
  | .plcPopEnd part => partWf part
  | .reserve die => mdieWf die
  | .unreserve die => mdieWf die
  | .alloc die => mdieWf die
  | .keeperRelease die => mdieWf die
  | .free die => mdieWf die
  | .allocSeqTimeout die => mdieWf die
  | .kprCtrlAbort die => mdieWf die
  | .laneSignal port => portWf port
  | .backoffExpiry port => portWf port
  | .dataBlock port block => portWf port && block.body.length = 1280 && block.corrected ≤ 2
  | .controlBlock port block => portWf port && block.body.length = 1280 && block.corrected ≤ 2
  | .controlBlockTimeout port => portWf port
  | .frameTransmit die => fdieWf die
  | .switchForward die point => fdieWf die && point < 32
  | .egressArbitration port => portWf port
  | .ack frame => frameWf frame
  | .ackRecordSend die => fdieWf die
  | .resendTimeout die => fdieWf die
  | .levelSample _ => true
  | .xchSend die => fdieWf die
  | .xchOpen die => fdieWf die
  | .xchReturn die => fdieWf die
  | .xchClose die => fdieWf die
  | .exchHdr frame => frameWf frame
  | .exchRow frame => frameWf frame
  | .exchRet frame => frameWf frame
  | .multicastFrame frame => frameWf frame
  | .multicastCopy die => fdieWf die
  | .stuCmdClaim die unit ctx => stitchWf die unit && ctx < 32
  | .stuCmdRelease die unit ctx => stitchWf die unit && ctx < 32
  | .claimClearEnd die unit ctx => stitchWf die unit && ctx < 32
  | .stitchInput frame => frameWf frame
  | .chunkRun die unit => stitchWf die unit
  | .stuNop die unit => stitchWf die unit
  | .stuEnd die unit => stitchWf die unit
  | .gloop die unit => stitchWf die unit
  | .ldg die unit => stitchWf die unit
  | .stg die unit => stitchWf die unit
  | .ldc die unit => stitchWf die unit
  | .mov die unit => stitchWf die unit
  | .rsum die unit => stitchWf die unit
  | .rmax die unit => stitchWf die unit
  | .rmin die unit => stitchWf die unit
  | .rcnt die unit => stitchWf die unit
  | .stuAdd die unit => stitchWf die unit
  | .stuMul die unit => stitchWf die unit
  | .stuMax die unit => stitchWf die unit
  | .stuMin die unit => stitchWf die unit
  | .gcat die unit => stitchWf die unit
  | .msort die unit => stitchWf die unit
  | .filt die unit => stitchWf die unit
  | .topk die unit => stitchWf die unit
  | .emit die unit => stitchWf die unit
  | .allreduce die => cdieWf die
  | .reduce die => cdieWf die
  | .allgather die => cdieWf die
  | .broadcast die => cdieWf die
  | .bundle die => cdieWf die
  | .setup => true
  | .setupUp frame => frameWf frame
  | .setupDown frame => frameWf frame
  | .groupRelease => true
  | .contrib frame => frameWf frame
  | .result frame => frameWf frame
  | .signature frame => frameWf frame
  | .data frame => frameWf frame
  | .deCollTimeout die => cdieWf die
  | .pinHbm => true
  | .pinDdr => true
  | .unpin => true
  | .moveHbm => true
  | .moveDdr => true
  | .pageSwap die => mdieWf die
  | .counterPolicy die => mdieWf die
  | .winRun => true
  | .fetch part => partWf part
  | .experts part => partWf part
  | .wait part => partWf part
  | .loop part => partWf part
  | .winBeat part => partWf part
  | .winEnd part => partWf part
  | .migFlagTimeout part => partWf part
  | .migCtrlAbort => true
  | .patrolScrub die unit => memCtlWf die unit
  | .refresh die unit => memCtlWf die unit
  | .write frame => frameWf frame
  | .readReq frame => frameWf frame
  | .readResp frame => frameWf frame
  | .atomicAdd frame => frameWf frame
  | .atomicAnd frame => frameWf frame
  | .atomicOr frame => frameWf frame
  | .atomicXor frame => frameWf frame
  | .atomicMin frame => frameWf frame
  | .atomicMax frame => frameWf frame
  | .atomicMinu frame => frameWf frame
  | .atomicMaxu frame => frameWf frame
  | .atomicSwap frame => frameWf frame
  | .atomicCas frame => frameWf frame
  | .atomicFadd frame => frameWf frame
  | .regionTableLoaded die => fdieWf die
  | .cpLoad die unit thread => threadWf die unit thread
  | .cpStore die unit thread => threadWf die unit thread
  | .cpAmo die unit thread => threadWf die unit thread
  | .lr die unit thread => threadWf die unit thread
  | .sc die unit thread => threadWf die unit thread
  | .cpFence die unit thread => threadWf die unit thread
  | .fenceI die unit thread => threadWf die unit thread
  | .ecall die unit thread => threadWf die unit thread
  | .cpInstruction die unit thread => threadWf die unit thread
  | .kamofaddW die unit thread => threadWf die unit thread
  | .kamofaddD die unit thread => threadWf die unit thread
  | .kyield die unit thread => threadWf die unit thread
  | .kwaitf die unit thread => threadWf die unit thread
  | .kpost die unit thread => threadWf die unit thread
  | .cpFlagTimeout die unit thread => threadWf die unit thread
  | .cpTstatStart die unit thread => threadWf die unit thread
  | .cpTstatStop die unit thread => threadWf die unit thread
  | .cpCtrlAbort die unit => cpWf die unit
  | .timeSet _ => true
  | .syncLostTimeout => true
  | .cinch => true
  | .ready frame => frameWf frame
  | .go frame => frameWf frame
  | .fail frame => frameWf frame
  | .cinchTimeout part => partWf part
  | .cinchMemberTimeout part => partWf part
  | .numWatchStep => true
  | .load => true
  | .partitionRelease => true
  | .lag frame => frameWf frame
  | .plan frame => frameWf frame
  | .dlmCmdForce part mode => partWf part && mode < 8
  | .sqDb fn _ value => fnWf fn && value < 65536
  | .sqEntryPost fn _ => fnWf fn
  | .cqDb fn _ value => fnWf fn && value < 65536
  | .eqDb fn _ value => fnWf fn && value < 65536
  | .msixModerationDelay fn _ _ => fnWf fn
  | .toDevice _ => true
  | .toHost _ => true
  | .atsInvalidation _ => true
  | .dlDown => true
  | .flr fn => fnWf fn
  | .d3hot fn => fnWf fn
  | .powerOnReset _ => true
  | .perst _ => true
  | .rstCtrlPkg key _ => key < 65536
  | .rstCtrlMp key _ _ => key < 65536
  | .bootVerify _ => true
  | .bootMemTrain train => train.channels.length = 16
  | .bootClear => true
  | .bootLinks => true
  | .rcvCtrlGo _ _ => true
  | .fwUpdStart _ _ => true
  | .joinCmdGo => true
  | .wdtKick => true
  | .watchdogExpiry _ _ => true
  | .dbgNonceRead => true
  | .dbgCtrlSubmit => true
  | .cdiePwrWrite _ => true
  | .getVersion _ => true
  | .getCapabilities _ => true
  | .negotiateAlgorithms _ => true
  | .getDigests _ => true
  | .getCertificate _ => true
  | .challenge _ => true
  | .getMeasurements _ => true
  | .keyExchange _ => true
  | .finish _ => true
  | .endSession _ => true
  | .loopbackEnd port _ => portWf port
  | .probe port _ => portWf port
  | .probeTimeout port => portWf port
  | .burnTimeout port => portWf port
  | .xptLbStart port depth => portWf port && depth < 8
  | .memLbStart die unit depth => memCtlWf die unit && depth < 4
  | .pwrgdFall => true
  | .railFault rail _ => rail < 16
  | .throt _ => true
  | .sensorRead _ => true
  | .throttleRise _ => true
  | .throttleFall _ => true
  | .avsPoll _ => true
  | .i3cRead off => off % 8 = 0
  | .ageOut place => placeWf place
  | .dlUp rate width => rate < 16 && width < 32
  | .configurationRequest fn off _ => fnWf fn && off % 4 = 0 && off < 4096
  | .ideKm _ => true
  | .doeDiscovery _ => true
  | .jtag _ => true
  | .vectorUnmasked fn _ => fnWf fn

end Sys2Proof
end

