-- ==== Sys2Proof/Tests/Slice0.lean ====
section
/-! SUPPORT. Tests of the model against the manual's own words, and for each statement with hypotheses a state and
operands that meet them. Every state is `State.reset` with a few fields set by the helpers below. -/

set_option Elab.async false

namespace Sys2Proof.Tests

open Sys2Proof.Machine

/-- Reset, with other hardware. -/
def st (h : Hw) : State := { State.reset with hw := h }

/-- A package in stage READY: node 0, every C-die awake and in partition 0, which is LOADED, 384 GiB of memory, link up. -/
def hwA : Hw :=
  let h := (((Hw.fresh fusesDefault {}).toStage 7).wf Reg.pkgNodeValid pkgB 0 1).wf Reg.cdiePwrAwake pkgB 0 0xFFFFFF
  let h := ((h.wf Reg.pkgMemTopTop pkgB 0 0x30000).wf Reg.partState pkgB 0 2).wf Reg.partDies pkgB 0 0xFFFFFF
  { h with io := { h.io with linkUp := true } }

/-- Does a command, given on this hardware, answer a next state whose hardware meets `p`. -/
def after (c : Instr) (h : Hw) (p : Hw → Bool) : Bool :=
  match exec c (st h) with
  | .next t => p t.hw
  | _ => false

/-- Does an operation succeed. -/
def good {α : Type} (r : Except Fail α × Hw) : Bool :=
  match r.1 with
  | .ok _ => true
  | .error _ => false

theorem good_some {α : Type} {r : Except Fail α × Hw} (h : good r = true) : ∃ x g, r = (.ok x, g) := by
  obtain ⟨a, g⟩ := r
  cases a with
  | ok x => exact ⟨x, g, rfl⟩
  | error f => simp [good] at h

/-! Tile programs (03_compute_core.md). -/

/-- An instruction word by its fields (R116). -/
def word (opc sd sa sb unit imm : Nat) : Word :=
  BitVec.ofNat 64 (opc * 2 ^ 56 + sd * 2 ^ 51 + sa * 2 ^ 46 + sb * 2 ^ 41 + unit * 2 ^ 36 + imm)

/-- Core 0 of C-die 0 is `c`, running, with instruction `w` at its index. -/
def hwI (c : Core) (w : Word) : Hw :=
  ({ hwA with regs := SMap.putD 0 hwA.regs (rkey 0 0 (0x80000 + 8 * c.index)) w }).setCore 0 0 { c with st := .running }

/-- A core whose register s2 holds `a` and s3 holds `b`. -/
def c23 (a b : Word) : Core := { regs := [(2, a), (3, b)] }

/-- Register s1 of core 0 after instruction `w` on s2 = a and s3 = b. -/
def s1After (i : Instr) (a b : Word) (w : Word) (v : Word) : Bool :=
  after i (hwI (c23 a b) w) (fun h => (h.core 0 0).s 1 = v ∧ (h.core 0 0).index = 1)

theorem test_ldi_sign_extends : s1After (.ldi 0 0) 0 0 (word 0x02 1 2 3 0 0xFFFFFFFE) (-2) = true := by decide +kernel
theorem test_ldih_keeps_low_half : after (.ldih 0 0) (hwI { regs := [(1, 0xFFFFFFFF00000007#64)] } (word 0x03 1 0 0 0 0x12345678))
    (fun h => (h.core 0 0).s 1 = 0x1234567800000007#64) = true := by decide +kernel
theorem test_add_wraps : s1After (.add 0 0) (-1) 3 (word 0x04 1 2 3 0 0xFFFFFFFF) 1 = true := by decide +kernel
theorem test_sub_wraps : s1After (.sub 0 0) 2 3 (word 0x05 1 2 3 0 9) (-1) = true := by decide +kernel
theorem test_and : s1After (.and 0 0) 12 10 (word 0x06 1 2 3 0 0) 8 = true := by decide +kernel
theorem test_or : s1After (.or 0 0) 12 10 (word 0x07 1 2 3 0 0) 14 = true := by decide +kernel
theorem test_shl_count_mod_64 : s1After (.shl 0 0) 3 63 (word 0x08 1 2 3 0 2) 6 = true := by decide +kernel
theorem test_shr_is_logical : s1After (.shr 0 0) (-1) 60 (word 0x09 1 2 3 0 0) 15 = true := by decide +kernel
theorem test_s0_discards : after (.ldi 0 0) (hwI {} (word 0x02 0 0 0 0 7)) (fun h => (h.core 0 0).s 0 = 0) = true := by decide +kernel
theorem test_bltu_is_unsigned : after (.bltu 0 0) (hwI (c23 1 (-1)) (word 0x12 0 2 3 0 0xFF)) (fun h => (h.core 0 0).index = 0xFF) = true := by
  decide +kernel
theorem test_beq_falls_through : after (.beq 0 0) (hwI (c23 1 2) (word 0x10 0 2 3 0 9)) (fun h => (h.core 0 0).index = 1) = true := by decide +kernel
theorem test_bne_taken_backwards : after (.bne 0 0) (hwI { c23 1 2 with index := 4095 } (word 0x11 0 2 3 0 0xFFFFFFFF))
    (fun h => (h.core 0 0).index = 4094) = true := by decide +kernel
theorem test_st_is_little_endian : after (.st 0 0) (hwI (c23 8 0x0102030405060708#64) (word 0x0B 0 2 3 0 8))
    (fun h => Mem.read h.mem (spWin 0 + 16) 8 = [8, 7, 6, 5, 4, 3, 2, 1]) = true := by decide +kernel
theorem test_ld_is_little_endian : after (.ld 0 0) { hwI (c23 8 0) (word 0x0A 1 2 0 0 0) with mem := [(spWin 0 + 9, 0x12)] }
    (fun h => (h.core 0 0).s 1 = 0x1200) = true := by decide +kernel
theorem test_misaligned_load_stops : after (.ld 0 0) (hwI (c23 4 0) (word 0x0A 1 2 0 0 0)) (fun h => (h.core 0 0).st = .idle) = true := by decide +kernel
theorem test_reserved_opcode_stops : after (.reservedOpc 0 0) (hwI {} (word 0x0C 0 0 0 0 0)) (fun h => (h.core 0 0).st = .idle) = true := by decide +kernel

theorem witness_instruction_issues : ∀ o ∈ [0x00, 0x02, 0x03, 0x04, 0x05, 0x06, 0x07, 0x08, 0x09, 0x10, 0x11, 0x12, 0x13],
    (st (hwI (c23 1 1) (word o 31 2 3 31 0xFFFFFFFF))).sealed ∧
    (hwI (c23 1 1) (word o 31 2 3 31 0xFFFFFFFF)).insn? (st (hwI (c23 1 1) (word o 31 2 3 31 0xFFFFFFFF))).env 0 0 =
      some ⟨o, 31, 2, 3, 31, 0, 0xFFFFFFFF⟩ := by
  unfold State.sealed; decide +kernel

/-- A target before the store, its last place, and the first after it; branches taken and not. -/
theorem witness_branch_targets :
    ((0 : Int) + (BitVec.ofNat 32 0xFFFFFFFF).toInt < 0) ∧ ((0 : Int) + (BitVec.ofNat 32 4095).toInt < 4096) ∧
    (4096 ≤ (0 : Int) + (BitVec.ofNat 32 4096).toInt) ∧ (c23 1 1).s 2 = (c23 1 1).s 3 ∧ (c23 1 2).s 2 ≠ (c23 1 2).s 3 ∧
    ((c23 1 2).s 2).toNat < ((c23 1 2).s 3).toNat := by decide +kernel

theorem witness_smap_wf : SMap.wfD 0 (c23 1 1).regs = true := by decide

/-- The last word below 0x1000_0000, for each instruction that reaches memory. -/
theorem witness_word_instructions : ∀ o ∈ [0x0A, 0x0B, 0x2A, 0x28],
    let h := hwI (c23 0x0FFFFFF8 7) (word o 1 2 3 0 0)
    (st h).sealed ∧ (st h).issues 0 0 o ⟨o, 1, 2, 3, 0, 0, 0⟩ ∧ Mem.wf h.mem = true ∧
    (((h.core 0 0).s 2 + (BitVec.ofNat 32 0).signExtend 64).toNat = 0x0FFFFFF8) ∧ h.wordGood (spWin 0 + 0x0FFFFFF8) ∧
    h.clearing (spWin 0 + 0x0FFFFFF8) 8 = false ∧ (h.core 0 0).drained = true := by
  unfold State.sealed State.issues Hw.wordGood; decide +kernel

/-- Core 0 of C-die 0 runs, has nothing queued and has not failed. -/
def runsFree (h : Hw) : Prop :=
  (st h).sealed ∧ (h.core 0 0).drained = true ∧ (h.core 0 0).fail = none ∧ (h.core 0 0).st = .running

/-- A misaligned word, and the first word that reaches 0x1000_0000. -/
theorem witness_bad_addresses : ∀ o ∈ [0x0A, 0x0B, 0x28, 0x2A], ∀ a ∈ [1, 0x10000000],
    runsFree (hwI (c23 (BitVec.ofNat 64 a) 0) (word o 1 2 3 0 0)) ∧
    (a % 8 ≠ 0 ∨ 0x10000000 < a + 8) ∧
    (hwI (c23 (BitVec.ofNat 64 a) 0) (word o 1 2 3 0 0)).insn? (st hwA).env 0 0 = some ⟨o, 1, 2, 3, 0, 0, 0⟩ := by
  unfold runsFree State.sealed; decide +kernel

/-- A POST to units 3 and 7, a GATE with bit 24 set, a FENCE with bit 3 set. -/
theorem witness_bad_fields : ∀ x ∈ [(0x22, 3, 0), (0x22, 7, 0), (0x29, 0, 0x1000000), (0x2B, 0, 8)],
    runsFree (hwI (c23 0 0) (word x.1 1 2 3 x.2.1 x.2.2)) ∧
    (hwI (c23 0 0) (word x.1 1 2 3 x.2.1 x.2.2)).insn? (st hwA).env 0 0 = some ⟨x.1, 1, 2, 3, x.2.1, 0, x.2.2⟩ := by
  unfold runsFree State.sealed; decide +kernel

theorem witness_reserved_opcode : runsFree (hwI (c23 0 0) (word 0x0C 0 0 0 0 0)) ∧
    (hwI (c23 0 0) (word 0x0C 0 0 0 0 0)).dieOn (st hwA).env 0 = true ∧
    (hwI (c23 0 0) (word 0x0C 0 0 0 0 0)).insn? (st hwA).env 0 0 = none := by
  unfold runsFree State.sealed; decide +kernel

/-- A descriptor from the values at its byte offsets; wider fields are given whole. -/
def desc (l : List (Nat × Nat)) : Desc := BitVec.ofNat 1024 ((l.map (fun x => x.2 * 2 ^ (8 * x.1))).sum)

/-- Memory with `n` bytes of `v` at `a`. -/
def memAt (a n v : Nat) : Mem := Mem.write [] a (toBytes n v)

/-- An instruction issues on core 0 of C-die 0. -/
def issuesOn (h : Hw) (o : Nat) : Prop := (st h).sealed ∧ (st h).issues 0 0 o (Insn.of (h.progWord 0 0 (h.core 0 0).index))

/-- A core with tag 5 in s3 and the flag at 0x40 in s2, and hardware whose flag there holds `tag` and `count`. -/
def hwFlag (o imm tag count : Nat) (s : CoreSt) : Hw :=
  let h := hwI (c23 0x40 5) (word o 1 2 3 0 imm)
  { h.setCore 0 0 { h.core 0 0 with st := s } with mem := memAt (spWin 0 + 0x40) 8 (tag + count * 2 ^ 32) }

theorem test_waitf_copies_count : after (.waitf 0 0) (hwFlag 0x28 0 5 9 .running)
    (fun h => (h.core 0 0).s 1 = 9 ∧ (h.core 0 0).index = 1) = true := by decide +kernel
theorem test_waitf_waits_for_tag : after (.waitf 0 0) (hwFlag 0x28 0 4 9 .running) (fun h => (h.core 0 0).st = .flagWait) = true := by
  decide +kernel
theorem test_gate_threshold_not_met_without_deadline : after (.gate 0 0) (hwFlag 0x29 10 5 9 .running)
    (fun h => (h.core 0 0).s 1 = 9) = true := by decide +kernel
theorem test_gate_zero_threshold_means_512 : after (.gate 0 0) (hwFlag 0x29 0x10000 5 511 .running)
    (fun h => (h.core 0 0).st = .gateWait ∧ (h.core 0 0).deadline = 391) = true := by decide +kernel

theorem witness_waitf :
    (∀ tag ∈ [5, 4], let h := hwFlag 0x28 0 tag 9 .running
      issuesOn h 0x28 ∧ h.wordGood (spWin 0 + 0x40) ∧ Mem.num h.mem (spWin 0 + 0x40) 8 % 2 ^ 32 = tag) ∧
    (∀ tag ∈ [5, 4], let h := hwFlag 0x28 0 tag 9 .flagWait
      (h.core 0 0).st = .flagWait ∧ h.wordGood (spWin 0 + 0x40) ∧ Mem.num h.mem (spWin 0 + 0x40) 8 % 2 ^ 32 = tag ∧
      h.rf Reg.coreCtrlFlagTimeout (rkey 0 0 0) ≠ 0 ∧ (h.core 0 0).drained = true ∧ (h.core 0 0).fail = none) := by
  unfold issuesOn State.sealed State.issues Hw.wordGood; decide +kernel

theorem witness_gate :
    (let h := hwFlag 0x29 9 5 9 .running; issuesOn h 0x29 ∧ h.wordGood (spWin 0 + 0x40)) ∧
    (let h := hwFlag 0x29 0x10A0A 5 9 .running; issuesOn h 0x29 ∧ h.wordGood (spWin 0 + 0x40)) ∧
    (let h := hwFlag 0x29 0x10A0A 5 9 .gateWait; (h.core 0 0).st = .gateWait ∧ h.wordGood (spWin 0 + 0x40)) := by
  unfold issuesOn State.sealed State.issues Hw.wordGood; decide +kernel

def someOp (d : Desc) : CoreOp := { issue := 3, index := 1, desc := d, rows := 1, step := 0, beat := 0 }
def somePost (handed : Bool) : PostRec := { issue := 4, index := 1, unit := 5, desc := 0, beat := 0, handed := handed }

theorem witness_fence_and_halt :
    (∀ imm ∈ [0, 7], issuesOn (hwI {} (word 0x2B 0 0 0 0 imm)) 0x2B) ∧
    (issuesOn (hwI { vectorQ := [someOp 0] } (word 0x2B 0 0 0 0 2)) 0x2B) ∧
    (issuesOn (hwI { late := true } (word 0x01 0 0 0 0 6)) 0x01) ∧ (issuesOn (hwI { replayed := true } (word 0x01 0 0 0 0 6)) 0x01) ∧
    (issuesOn (hwI {} (word 0x01 0 0 0 0 6)) 0x01) ∧ hwA.partOf 0 = some 0 ∧ ¬ (0 + 1 ≤ hwA.beatOf (st hwA).env 0) ∧
    (issuesOn (hwI { posts := [somePost true] } (word 0x01 0 0 0 0 6)) 0x01) := by
  unfold issuesOn State.sealed State.issues; decide +kernel

theorem witness_beat :
    (let h := { hwI {} (word 0x2C 0 0 0 0 0) with fabN := 1, now := 100005 }
     issuesOn h 0x2C ∧ (h.core 0 0).beat < h.beatOf (st h).env 0) ∧
    (let h := hwI {} (word 0x2C 0 0 0 0 0); issuesOn h 0x2C ∧ h.beatOf (st h).env 0 ≤ (h.core 0 0).beat) := by
  unfold issuesOn State.sealed State.issues; decide +kernel

theorem test_beat_waits_for_the_boundary : after (.beat 0 0) (hwI {} (word 0x2C 0 0 0 0 0)) (fun h => (h.core 0 0).st = .beatWait) = true := by
  decide +kernel
theorem test_halt_ends_idle : after (.halt 0 0) (hwI {} (word 0x01 0 0 0 0 6)) (fun h => (h.core 0 0).st = .idle) = true := by decide +kernel

def launch (start : Nat) : LaunchRec := ⟨start, (List.range 8).map (fun i => BitVec.ofNat 64 (10 + i)), .ring 1 0 7 false false, some 0⟩

theorem witness_program_ends : (∃ l, ({ cur := some (launch 2) } : Core).cur = some l) ∧ ({} : Core).cur = none := ⟨⟨_, rfl⟩, rfl⟩

theorem witness_abort :
    ((st hwA).sealed ∧ hwA.dieOn (st hwA).env 0 = true ∧ (hwA.core 0 0).st = .idle) ∧
    (let h := hwI { posts := [somePost true, somePost false] } 0
     (st h).sealed ∧ h.dieOn (st h).env 0 = true ∧ (h.core 0 0).st ≠ .idle ∧ (h.core 0 0).posts.filter (fun p => p.handed) ≠ []) ∧
    (let h := hwI { posts := [somePost false] } 0
     (st h).sealed ∧ h.dieOn (st h).env 0 = true ∧ (h.core 0 0).st ≠ .idle ∧ (h.core 0 0).posts.filter (fun p => p.handed) = []) := by
  unfold State.sealed; decide +kernel

theorem witness_replay :
    (let h := hwI { arrayQ := [someOp 0] } (word 0x30 0 0 0 0 1); issuesOn h 0x30 ∧ h.partOf 0 = some 0 ∧ (h.core 0 0).drained = false) ∧
    (let h := (hwI {} (word 0x30 0 0 0 0 1)).setCore 0 1 { st := .running }
     issuesOn h 0x30 ∧ (h.core 0 0).drained = true ∧ (h.setCore 0 0 { h.core 0 0 with st := .replayWait, since := h.now }).allAtReplay 0 = false) ∧
    (let h := hwI {} (word 0x30 0 0 0 0 1)
     let g := h.setCore 0 0 { h.core 0 0 with st := .replayWait, since := h.now }
     issuesOn h 0x30 ∧ (h.core 0 0).drained = true ∧ g.allAtReplay 0 = true ∧ g.jobIsLocal 0 = true) := by
  unfold issuesOn State.sealed State.issues; decide +kernel

/-- A product of 1 × 1 × 1 in FP32 and BF16, without K, and a vector addition of one FP32 element; s2 points at them. -/
def mmaD (k : Nat) : Desc := desc [(0, 1 + 1 * 256 + 1 * 4096), (4, 1), (8, k), (0x0C, 1), (0x10, 0x1000), (0x14, 0x100), (0x18, 0x2000), (0x1C, 0x100),
  (0x20, 0x3000), (0x24, 0x100)]
def vopD (op n : Nat) : Desc := desc [(0, op), (4, 1), (8, n), (0x0C, 0x1000), (0x10, 4), (0x14, 0x2000), (0x18, 4), (0x1C, 0x3000), (0x20, 4)]

/-- Core 0 at an instruction whose descriptor `d` lies at 0x40 of the scratchpad. -/
def hwD (o unit : Nat) (d : Desc) (c : Core) : Hw :=
  { hwI { c with regs := [(2, 0x40)] } (word o 1 2 0 unit 0) with mem := memAt (spWin 0 + 0x40) 128 d.toNat }

def vopRows (d : Desc) : VopD := VopD.of d (d.fld 4 31 0)
def mmaRows (d : Desc) : MmaD := MmaD.of d (d.fld 4 31 0)

theorem witness_operations_queue :
    (issuesOn (hwD 0x20 0 (mmaD 1) { arrayQ := [someOp 0, someOp 0] }) 0x20) ∧
    (issuesOn (hwD 0x21 0 (vopD 0x10 1) { vectorQ := [someOp 0, someOp 0, someOp 0, someOp 0] }) 0x21) ∧
    (∀ k ∈ [0, 1], let h := hwD 0x20 0 (mmaD k) {}
      issuesOn h 0x20 ∧ good (runOp (readDesc 0 (h.core 0 0) (Insn.of (h.progWord 0 0 0)) 64) h) = true ∧
      good (runOp ((mmaRows (mmaD k)).flagsRead (spWin 0) 0) h) = true ∧ (mmaRows (mmaD k)).ok 0 = true ∧
      (mmaRows (mmaD k)).extentsOk 0 0 0 = true ∧ h.sound ∧ (mmaRows (mmaD k)).empty = (k == 0) ∧ (mmaRows (mmaD k)).handsOver = false) ∧
    (∀ n ∈ [0, 1], let h := hwD 0x21 0 (vopD 0x10 n) {}
      issuesOn h 0x21 ∧ good (runOp (readDesc 0 (h.core 0 0) (Insn.of (h.progWord 0 0 0)) 64) h) = true ∧
      (vopRows (vopD 0x10 n)).ok 0 = true ∧ h.sound) := by
  unfold issuesOn State.sealed State.issues Hw.sound; decide +kernel

theorem test_vop_queues : after (.vop 0 0) (hwD 0x21 0 (vopD 0x10 1) {}) (fun h => (h.core 0 0).vectorQ.map (fun o => o.desc.fld 0 7 0) = [0x10]) = true := by
  decide +kernel

theorem witness_launch_and_post :
    (let h := hwA.setCore 0 0 { launches := [launch 2] }
     (st h).sealed ∧ h.dieOn (st h).env 0 = true ∧ h.launchHeld (st h).env 0 = false ∧ (h.core 0 0).st = .idle ∧
     (h.core 0 0).launches = [launch 2] ∧ (launch 2).args.length = 8) ∧
    (issuesOn (hwD 0x22 5 0 { posts := List.replicate 8 (somePost true) }) 0x22) ∧
    (∀ u ∈ [5, 6], let h := hwD 0x22 u (mmaD 1) {}
      issuesOn h 0x22 ∧ good (runOp (readDesc 0 (h.core 0 0) (Insn.of (h.progWord 0 0 0)) 128) h) = true) := by
  unfold issuesOn State.sealed State.issues; decide +kernel

theorem test_launch_loads_arguments : after (.launch 0 0) (hwA.setCore 0 0 { launches := [launch 2], regs := [(9, 4)] })
    (fun h => (h.core 0 0).s 1 = 10 ∧ (h.core 0 0).s 8 = 17 ∧ (h.core 0 0).s 9 = 0 ∧ (h.core 0 0).index = 2) = true := by decide +kernel

theorem witness_nans : (∀ f ∈ [Fmt.fp64, Fmt.fp32, Fmt.bf16, Fmt.e5m2],
    let v := 2 ^ (f.enc.man + f.enc.ex) + (2 ^ f.enc.ex - 1) * 2 ^ f.enc.man + 1
    v / 2 ^ f.enc.man % 2 ^ f.enc.ex = 2 ^ f.enc.ex - 1 ∧ v % 2 ^ f.enc.man ≠ 0) ∧ 0xFF % 128 = 127 := by decide +kernel

theorem witness_argmax : ∀ y ∈ ([.fin false 1 0, .inf true, .fin true 1 0] : List FVal), y ≠ .nan := by decide +kernel

/-- The vector operation at the head of core 0's queue: `op` on one element of format `f` at 0x1000 and 0x2000, with its
result of format `g` at 0x3000; both elements are `x` and `y`. -/
def vopOn (op f yf g x y : Nat) : CoreOp × Hw :=
  let d := desc [(0, op + f * 256 + yf * 4096 + g * 65536), (4, 1), (8, 1), (0x0C, 0x1000), (0x10, 8), (0x14, 0x2000), (0x18, 8), (0x1C, 0x3000), (0x20, 8)]
  let o := someOp d
  (o, { hwA.setCore 0 0 { st := .running, vectorQ := [o] } with mem := Mem.write (memAt (spWin 0 + 0x1000) 8 x) (spWin 0 + 0x2000) (toBytes 8 y) })

/-- What the operation writes. -/
def vopWrites (i : Instr) (x : CoreOp × Hw) (n v : Nat) : Bool :=
  after i x.2 (fun h => Mem.num h.mem (spWin 0 + 0x3000) n = v ∧ (h.core 0 0).vectorQ = [])

theorem test_vop_add : vopWrites (.vopAdd 0 0) (vopOn 0x10 0 0 0 0x3F800000 0x40000000) 4 0x40400000 = true := by decide +kernel
theorem test_vop_max_zeros : vopWrites (.vopMax 0 0) (vopOn 0x13 0 0 0 0x80000000 0) 4 0 = true := by decide +kernel
theorem test_convert_to_bf16_is_rne : vopWrites (.convert 0 0) (vopOn 0x16 0 0 1 0x3F818000 0) 2 0x3F82 = true := by decide +kernel
theorem test_fadd64 : vopWrites (.fadd64 0 0) (vopOn 0x30 8 8 8 0x3FF0000000000000 0x3FF0000000000000) 8 0x4000000000000000 = true := by decide +kernel
theorem test_softmax_of_one : vopWrites (.softmax 0 0) (vopOn 0x28 0 0 0 0xC0A00000 0) 4 0x3F800000 = true := by decide +kernel

theorem witness_vector_operations : ∀ x ∈ [(0x10, 0, 0, 0), (0x11, 0, 0, 0), (0x12, 0, 0, 0), (0x13, 0, 0, 0), (0x14, 0, 0, 0), (0x15, 0, 0, 0), (0x16, 0, 0, 1),
      (0x18, 0, 0, 0), (0x19, 0, 0, 0), (0x1A, 0, 0, 0), (0x1B, 0, 0, 6), (0x20, 0, 0, 0), (0x21, 0, 0, 0), (0x22, 0, 0, 0), (0x23, 0, 0, 0), (0x24, 0, 0, 0),
      (0x28, 0, 0, 0), (0x29, 0, 0, 0), (0x2A, 0, 0, 0), (0x2B, 0, 0, 0), (0x30, 8, 8, 8), (0x31, 8, 0, 8), (0x2C, 0, 6, 8)],
    let r := vopOn x.1 x.2.1 x.2.2.1 x.2.2.2 0x3F800000 0
    let v := VopD.of r.1.desc r.1.rows
    (st r.2).sealed ∧ (r.2.core 0 0).vectorQ = [r.1] ∧ r.2.dieOn (st r.2).env 0 = true ∧ v.op = x.1 ∧
    stepped v.xStep r.1.step v.xF = Fmt.ofCode x.2.1 ∧ stepped v.yStep r.1.step v.yF = Fmt.ofCode x.2.2.1 ∧
    stepped v.oStep r.1.step v.oF = Fmt.ofCode x.2.2.2 ∧
    r.2.sound ∧ good (runOp (v.run (spWin 0) ((Fmt.ofCode x.2.1).getD .fp32) ((Fmt.ofCode x.2.2.1).getD .fp32)
      ((Fmt.ofCode x.2.2.2).getD .fp32)) r.2) = true := by
  unfold State.sealed Hw.sound; decide +kernel

theorem witness_core_runs : ((hwI {} 0).core 0 0).st = .running := by decide +kernel

/-- A product at the head of core 0's array queue. -/
def mmaOn (o : CoreOp) : Hw := hwA.setCore 0 0 { st := .running, arrayQ := [o] }

/-- The product of one BF16 element by another, both 1, in FP32. -/
def onePlusOne : Hw :=
  { mmaOn (someOp (mmaD 1)) with mem := Mem.write (memAt (spWin 0 + 0x1000) 2 0x3F80) (spWin 0 + 0x2000) (toBytes 2 0x3F80) }

theorem test_product_of_ones : after (.mmaProduct 0 0) onePlusOne
    (fun h => Mem.num h.mem (spWin 0 + 0x3000) 4 = 0x3F800000 ∧ (h.core 0 0).arrayQ = []) = true := by decide +kernel

theorem witness_product :
    let m := mmaRows (mmaD 1)
    (st onePlusOne).sealed ∧ onePlusOne.sound ∧ (onePlusOne.core 0 0).arrayQ = [someOp (mmaD 1)] ∧
    onePlusOne.dieOn (st onePlusOne).env 0 = true ∧ m.sparse = false ∧ m.stream = false ∧ m.empty = false ∧
    m.toDispatch = false ∧ m.m ≠ 0 ∧ (onePlusOne.core 0 0).shadow = none ∧ onePlusOne.scanGate (st onePlusOne).env 0 0 (someOp (mmaD 1)) = none ∧
    stepped m.aStep 0 m.aF = some .bf16 ∧ Fmt.ofCode m.bF = some .bf16 ∧ stepped m.cStep 0 m.cF = some .fp32 := by
  unfold State.sealed Hw.sound; decide +kernel

/-- The product with its mask and bias read: its passes have begun. -/
def begunOp : CoreOp := { someOp (mmaD 1) with run := some { mask := [], bias := [] } }

theorem witness_swap :
    let h := { onePlusOne with cores := (mmaOn begunOp).cores }
    let o := begunOp
    (st h).sealed ∧ h.sound ∧ (h.core 0 0).arrayQ = [o] ∧ h.dieOn (st h).env 0 = true ∧ h.scanGate (st h).env 0 0 o = none ∧
    (o.prod 0 (h.cycleExact (st h).env 0 0) { mask := [], bias := [] }).any (fun p => p.passes.length = 1 &&
      p.passes.all (fun x => !(p.streams x))) = true := by
  unfold State.sealed Hw.sound; decide +kernel

theorem test_swap_makes_the_tile_active : after (.arraySwap 0 0) { onePlusOne with cores := (mmaOn begunOp).cores }
    (fun h => (h.core 0 0).active.any (fun t => t.issue = 3 && t.tile = 0 && t.fault.isNone)) = true := by decide +kernel

/-- The same product with STREAM: its one chunk waits for tag 5 in the flag at 0x40, unset here. -/
def streamOp : CoreOp := { someOp (desc [(0, 1 + 1 * 256 + 1 * 4096 + 2 ^ 28), (4, 1), (8, 1), (0x0C, 1), (0x10, 0x1000), (0x14, 0x100),
  (0x18, 0x2000), (0x1C, 0x100), (0x20, 0x3000), (0x24, 0x100), (0x3C, 0x80)]) with
    flags := [(0x40, 5, 0, 1)], run := some { mask := [], bias := [] } }

theorem witness_streaming_product :
    (st (mmaOn streamOp)).sealed ∧ (mmaOn streamOp).sound ∧ (mmaOn streamOp).flagAt (spWin 0 + 0x40) 5 = none ∧
    (streamOp.prod 0 false { mask := [], bias := [] }).any (fun p => p.passes.all (fun x => p.streams x &&
      streamOp.flags.find? (fun y => y.2.2.1 ≤ x.k0 && x.k0 < y.2.2.1 + y.2.2.2) = some (0x40, 5, 0, 1))) = true := by
  unfold State.sealed Hw.sound; decide +kernel

theorem test_unset_flag_parks_the_product : after (.mmaProduct 0 0) (mmaOn streamOp)
    (fun h => (h.core 0 0).arrayQ.map (fun o => o.since) = [1] ∧ (h.core 0 0).active = none) = true := by decide +kernel

/-- The same product, SPARSE with E4M3 weights: not scanned, or scanned with a fault. -/
def sparseD : Desc := desc [(0, 1 + 2 * 256 + 2 * 4096 + 2 ^ 25), (4, 1), (8, 1), (0x0C, 1), (0x10, 0x1000), (0x14, 0x100), (0x18, 0x2000),
  (0x20, 0x3000), (0x24, 0x100)]

theorem witness_scan :
    (let o := someOp sparseD
     let h := mmaOn o
     let m := MmaD.of o.desc o.rows
     (st h).sealed ∧ h.sound ∧ (h.core 0 0).arrayQ = [o] ∧ h.dieOn (st h).env 0 = true ∧ m.sparse = true ∧ o.scanned = false ∧
     o.scanFault = none ∧ Fmt.ofCode m.bF = some .e4m3) ∧
    (let o := { someOp sparseD with scanned := true, scanFault := some (.sparseFormat, 0) }
     let m := MmaD.of o.desc o.rows
     (st (mmaOn o)).sealed ∧ ((mmaOn o).core 0 0).arrayQ = [o] ∧ (mmaOn o).dieOn (st (mmaOn o)).env 0 = true ∧
     m.sparse = true ∧ m.empty = false ∧ m.toDispatch = false) := by
  unfold State.sealed Hw.sound; decide +kernel

theorem test_scan_of_zeros_is_sparse_format : after (.sparseScan 0 0) (mmaOn (someOp sparseD))
    (fun h => (h.core 0 0).arrayQ.map (fun o => (o.scanned, o.scanFault)) = [(true, some (.sparseFormat, 0))]) = true := by
  decide +kernel

/-! Copy engines and clears (04_scratchpad_and_copies.md). -/

/-- Copy engine 5 of C-die 0 with one descriptor at its head. -/
def jobOn (d : Desc) : Job := { body := d, origin := .internal, part := some 0, beat := none, tag := 1 }
def hwJ (die unit : Nat) (j : Job) : Hw := { hwA with jobs := SMap.put hwA.jobs (ukey die unit) [j], nextTag := 2 }

/-- An operation of a copy engine on one FP32 element, from 0x1000 to 0x2000 of C-die 0's scratchpad, with its index at
0x3000, or with the arrival flag at 0x40. -/
def copyD (op flag : Nat) : Desc :=
  desc ([(0, op + (if op = 3 then 0xE4 * 65536 else 0) + flag * 2 ^ 24), (8, 1), (0x0C, 1), (0x10, 1), (0x14, 1), (0x18, spWin 0 + 0x1000), (0x20, spWin 0 + 0x2000)]
    ++ (if 4 ≤ op then [(0x50, spWin 0 + 0x3000), (0x58, 1)] else []) ++ (if flag = 1 then [(0x5C, 5), (0x60, spWin 0 + 0x40)] else []))

def hwCopy (op flag : Nat) : Hw := { hwJ 0 5 (jobOn (copyD op flag)) with mem := memAt (spWin 0 + 0x1000) 4 0x3F800000 }

def copies (i : Instr) (op : Nat) : Bool :=
  after i (hwCopy op 0) (fun h => Mem.num h.mem (spWin 0 + 0x2000) 4 = 0x3F800000 ∧ h.queue 0 5 = [])

theorem test_copy : copies (.copy 0 5) 1 = true := by decide +kernel
theorem test_transpose : copies (.transpose 0 5) 2 = true := by decide +kernel
theorem test_permute : copies (.permute 0 5) 3 = true := by decide +kernel
theorem test_gather : copies (.gather 0 5) 4 = true := by decide +kernel
theorem test_scatter_store : copies (.scatterStore 0 5) 5 = true := by decide +kernel
theorem test_scatter_add : copies (.scatterAdd 0 5) 6 = true := by decide +kernel
theorem test_copy_writes_its_flag : after (.copy 0 5) (hwCopy 1 1)
    (fun h => Mem.num h.mem (spWin 0 + 0x40) 8 = 5 + 2 ^ 32) = true := by decide +kernel

theorem witness_copy_engine : ∀ op ∈ [1, 2, 3, 4, 5, 6], ∀ flag ∈ [0, 1],
    let h := hwCopy op flag
    let j := jobOn (copyD op flag)
    let r := runOp (copyRun (st h).env 0 5 j) { h with moved := 0 }
    let j' := { j with started := true, result := some (.ok, if flag = 1 then 1 else 0) }
    (st h).sealed ∧ h.dieOn (st h).env 0 = true ∧ h.queue 0 5 = [j] ∧ j.result = none ∧ good r = true ∧ Status.good .ok = true ∧
    r.2.answered (.job 0 5 j.tag) = true ∧ firstFail (r.2.reqsOf (.job 0 5 j.tag)) = none ∧
    (flag = 0 → copyFlag (st h).env 0 5 (r.2.chargeMem j.part) j' = none) ∧
    (flag = 1 → copyFlag (st h).env 0 5 (r.2.chargeMem j.part) j' = some (.here (spWin 0 + 0x40), 5, 1)) := by
  unfold State.sealed; decide +kernel

/-- Every operation's extents resolve to places of this package, with every word sound. -/
theorem witness_copy_is_local : ∀ op ∈ [1, 2, 3, 4, 5, 6], ∀ flag ∈ [0, 1],
    let h := hwCopy op flag
    let c := CopyD.of (copyD op flag)
    h.sound ∧ h.mirrors = [] ∧ h.reqsOf (.job 0 5 1) = [] ∧
    (match (runOp (c.decode (st h).env) h).1 with
     | .ok (some p) => (match p.s, p.d, p.i with | .here _, .here _, .here _ => true | _, _, _ => false)
     | _ => false) = true ∧
    (flag = 1 → h.flagPlace (st h).env c.flagAddr = .ok (.here (spWin 0 + 0x40))) := by
  unfold Hw.sound; decide +kernel

theorem witness_copy_abort :
    ((st hwA).sealed ∧ hwA.dieOn (st hwA).env 0 = true ∧ hwA.queue 0 5 = []) ∧
    (let h := hwCopy 1 0
     (st h).sealed ∧ h.dieOn (st h).env 0 = true ∧ h.queue 0 5 = [jobOn (copyD 1 0)] ∧ copyFlag (st h).env 0 5 h (jobOn (copyD 1 0)) = none) := by
  unfold State.sealed; decide +kernel

def hwWake : Hw := { hwA with clears := [(23, .wake)], mem := memAt (spWin 23) 8 7 }

theorem witness_clear : hwWake.heldPokes = [] ∧ hwWake.defer = [] ∧ (st hwWake).sealed ∧ Mem.wf hwWake.mem = true ∧ SMap.find? hwWake.clears 23 = some .wake := by
  unfold State.sealed; decide +kernel
theorem test_clear_zeroes_the_window : after (.clearEnd 23) hwWake (fun h => h.mem = []) = true := by decide +kernel

/-! The dispatch engine, expert placement, Keeper (06 to 08). -/

/-- A ROUTE of one token over two experts, both at replica 0, K = 1. -/
def routeD : Desc := desc [(0, 1 + 256), (4, 1), (8, 2), (0x10, 0x1000), (0x14, 8), (0x24, 0x2000), (0x28, 0x3000), (0x2C, 0x4000), (0x1C, 0x3F800000)]
def combineD : Desc := desc [(0, 2 + 256), (4, 1), (8, 1), (0x0C, 0x2000), (0x10, 0x1000), (0x14, 4), (0x20, 0x4000), (0x24, 4), (0x38, 0x40), (0x3C, 5)]

def hwRoute : Hw := ((hwJ 0 4 (jobOn routeD)).wf Reg.plcStatusInForce pkgB 0 1).setPlc 0 { active := [(0, [coordOf 0 1 4]), (1, [coordOf 0 2 4])] }
def hwCombine : Hw := { hwJ 0 4 (jobOn combineD) with mem := memAt (spWin 0 + 0x40) 8 (5 + 2 ^ 32) }

theorem witness_route :
    let r := RouteD.of routeD
    (st hwRoute).sealed ∧ hwRoute.sound ∧ hwRoute.dieOn (st hwRoute).env 0 = true ∧ hwRoute.queue 0 4 = [jobOn routeD] ∧ r.op = 1 ∧
    r.ok = true ∧ r.e = 2 ∧ r.feed = false ∧ SMap.find? hwRoute.routes 0 = none ∧ hwRoute.partOf 0 = some 0 ∧
    hwRoute.rf Reg.plcStatusInForce pkgB 0 = 1 ∧ (∀ x < 2, SMap.get (hwRoute.plcOf 0).active [] x ≠ []) := by
  unfold State.sealed Hw.sound; decide +kernel

/-- A ROUTE whose rows a product of core 0 gives; the product has ended, and the bank is copied. -/
def fedD : Desc := desc [(0, 1 + 256 + 2 ^ 18), (8, 2), (0x10, 0x100000), (0x14, 8), (0x24, 0x200000), (0x28, 0x300000),
  (0x2C, 0x400000), (0x1C, 0x3F800000)]
def hwFed : Hw :=
  { hwJ 0 4 (jobOn fedD) with
    fed := [(0, ⟨0, 1, [], true, .ok, 0⟩)]
    routes := [(0, { part := 0, set := [(0, [coordOf 0 1 4]), (1, [coordOf 0 2 4])], half := 0, switches := 0, bias := [] })] }

theorem witness_fed_route :
    let r := RouteD.of fedD
    (st hwFed).sealed ∧ hwFed.sound ∧ r.op = 1 ∧ r.ok = true ∧ r.e = 2 ∧ r.feed = true ∧ r.core = 0 ∧
    (SMap.find? hwFed.fed 0).any (fun f => f.core = 0 && f.ended && f.status.good) = true ∧
    (SMap.find? hwFed.routes 0).any (fun b => SMap.get b.set [] 0 ≠ [] && SMap.get b.set [] 1 ≠ []) = true := by
  unfold State.sealed Hw.sound; decide +kernel

theorem witness_combine :
    let c := CombineD.of combineD
    let j := jobOn combineD
    (st hwCombine).sealed ∧ hwCombine.dieOn (st hwCombine).env 0 = true ∧ hwCombine.queue 0 4 = [j] ∧ c.op = 2 ∧
    c.ok (hwCombine.stepOf j.origin) = true ∧ c.t ≠ 0 ∧ c.d ≠ 0 ∧ c.k ≠ 0 ∧ (hwCombine.flagAt (spWin 0 + c.retFlag) c.retTag).isSome = true ∧
    good (runOp (c.run 0 j.origin (hwCombine.stepOf j.origin)) hwCombine) = true ∧ hwCombine.sound ∧ c.t = 1 ∧
    (∀ k < c.k, Mem.num hwCombine.mem (spWin 0 + c.routeIn + 16 * k + 4) 4 < 2 ^ 31) := by
  unfold State.sealed Hw.sound; decide +kernel

theorem test_route_dispatches_one_pair : after (.route 0) hwRoute (fun h => h.rf Reg.dePairsPairs (rkey 0 4 0) 0 = 1 ∧ h.queue 0 4 = []) = true := by
  decide +kernel

def hwWaits (d : Desc) : Hw := hwJ 0 4 { jobOn d with started := true }

theorem witness_dispatch_timeout :
    (let h := hwWaits combineD
     (st h).sealed ∧ h.dieOn (st h).env 0 = true ∧ h.queue 0 4 = [{ jobOn combineD with started := true }] ∧
     h.rf Reg.deCtrlFlagTimeout (rkey 0 4 0) ≠ 0 ∧ h.deWaits 0 { jobOn combineD with started := true } = true) ∧
    (let h := hwWaits routeD
     let j := { jobOn routeD with started := true }
     h.colls = [] ∧ (Hw.finishJob { h with routes := SMap.del h.routes 0, fed := SMap.del h.fed 0 } 0 4 j ⟨.aborted, h.deCount 0 j, 0⟩).queue 0 4 = []) := by
  unfold State.sealed; decide +kernel

/-- A bank of one expert with no place, its header sound, for partition 7. -/
def hwBank : Hw :=
  let h := hwA.setPlc 7 { verify := some 1 }
  { (h.wf Reg.plcBank1Base pkgB 7 1) with mem := memAt 4096 12 (0x30 + 2 ^ 32 + 3 * 2 ^ 64) }

/-- The same bank with a header that names 65,537 entries. -/
def hwBadBank : Hw := { hwBank with mem := memAt 4096 12 (0x30 + 65537 * 2 ^ 32 + 3 * 2 ^ 64) }

theorem witness_placement :
    (st hwBank).sealed ∧ (hwBank.plcOf 7).verify = some 1 ∧ (hwBank.plcVerify (st hwBank).env 7 1).1 = 0 ∧
    hwBank.plcHeld 7 = false ∧ hwBank.badSites = [] ∧ (hwBadBank.plcOf 7).verify = some 1 ∧ (hwBadBank.plcVerify (st hwBadBank).env 7 1).1 = 1 := by
  unfold State.sealed; decide +kernel

theorem test_verify_marks_busy : after (.verify 7 1) hwA (fun h => h.rf Reg.plcStatusVerifyBusy pkgB 7 = 1) = true := by decide +kernel

/-- Keeper of M-die 29: partition 0 has reserved 4 MiB of device memory in classes of 256 B and 1 KiB, with one buffer out. -/
def kbuf : KBuf := { gen := 1, owners := [coordOf 0 0 7, coordOf 0 28 8], shares := [true, true], group := 0 }
def resv0 : Resv := { base := 0, size := 0x400000, budget := 4096, groups := 2, sizes := [256, 1024], counts := [2, 6], bufs := [(0, kbuf)], live := [(0, (256, 1))] }
def hwK (d : Desc) (r : Option Resv) : Hw :=
  (hwJ 29 0 (jobOn d)).setKeeper 29 { resv := match r with | some r => [(0, r)] | none => [] }

def reserveD : Desc := desc [(0, 1), (8, 0), (0x10, 0x400000), (0x18, 4096), (0x20, 2), (0x24, 2), (0x28, 1), (0x2A, 4)]
def allocD (n : Nat) : Desc := desc [(0, 3 + 1 * 2 ^ 12), (8, n), (0x10, 0x800000), (0x18, 64), (0x20, coordOf 0 0 7)]

theorem witness_reserve :
    let h := hwK reserveD none
    let c := KprD.of reserveD
    (st h).sealed ∧ h.queue 29 0 = [jobOn reserveD] ∧ h.kpostForeign .internal c.part = false ∧ h.partDown .internal c.part = false ∧ c.op = 1 ∧
    c.reserveOk = true ∧ SMap.find? (h.keeper 29).resv c.part = none ∧ slabSum (c.sizes.take c.classes) (classCounts c.c c.d (c.sizes.take c.classes)) ≤ c.b ∧
    h.regionOk (st h).env c.part c.a c.b = true ∧ h.regions.any (fun r => extOverlap c.a c.b r.1 r.2) = false ∧
    (classCounts c.c c.d (c.sizes.take c.classes)).sum + ((h.keeper 29).resv.map (fun r => r.2.counts.sum)).sum ≤ 33554432 := by
  unfold State.sealed; decide +kernel

theorem witness_unreserve :
    let h := hwK (desc [(0, 2)]) (some resv0)
    (st h).sealed ∧ h.queue 29 0 = [jobOn (desc [(0, 2)])] ∧ (KprD.of (desc [(0, 2)])).op = 2 ∧ ({ KprD.of (desc [(0, 2)]) with part := 0 } : KprD).bare = true ∧
    (h.keeper 29).held.filter (fun q => q.body.fld 0 10 8 = 0) = [] := by
  unfold State.sealed; decide +kernel

/-- 3,840 bytes fill the budget of 4,096 beside the 256 that are out; one more passes it. -/
theorem witness_alloc : ∀ n ∈ [3840, 3841],
    let h := hwK (allocD n) (some resv0)
    let c := KprD.of (allocD n)
    (st h).sealed ∧ h.queue 29 0 = [jobOn (allocD n)] ∧ (st h).tl.det = false ∧ c.op = 3 ∧ c.allocOk h (st h).env = true ∧
    h.allocRoom (st h).env 29 c = true ∧ h.kpostForeign .internal c.part = false ∧ h.partDown .internal c.part = false ∧
    SMap.find? (h.keeper 29).resv c.part = some resv0 ∧
    (chainClasses resv0.sizes c.a).any (fun x => bit (h.rf Reg.kprPartFailed (rkey 29 0 0) c.part) x) = false ∧ c.a ≠ 0 ∧
    (h.keeper 29).held = [] ∧ h.allocHeld (st h).env 29 c = false ∧ h.badSites = [] ∧
    resv0.live.length < resv0.groups ∧ (resv0.liveBytes + c.a ≤ resv0.budget ↔ n = 3840) := by
  unfold State.sealed; decide +kernel

/-- The same ALLOC of a class that is marked as failed. -/
theorem witness_alloc_of_a_failed_class :
    let h := (hwK (allocD 300) (some resv0)).wf Reg.kprPartFailed (rkey 29 0 0) 0 3
    (chainClasses resv0.sizes (KprD.of (allocD 300)).a).any (fun x => bit (h.rf Reg.kprPartFailed (rkey 29 0 0) 0) x) = true ∧
    h.allocRoom (st h).env 29 (KprD.of (allocD 300)) = true ∧ h.allocHeld (st h).env 29 (KprD.of (allocD 300)) = false := by
  decide +kernel

theorem test_alloc_writes_result : after (.alloc 29) (hwK (allocD 300) (some resv0))
    (fun h => Mem.num h.mem 0x800000 8 ≠ 0 ∧ h.queue 29 0 = []) = true := by decide +kernel

theorem witness_shares : ∀ op ∈ [4, 5],
    let d := desc [(0, op), (8, handleOf 1 0 0 1 0)]
    let h := hwK d (some resv0)
    let c := KprD.of d
    (st h).sealed ∧ h.queue 29 0 = [jobOn d] ∧ ({ c with part := 0, a := 0 } : KprD).bare = true ∧ c.op = op ∧
    h.buffer 29 c.a = some (c.part, 0, resv0, kbuf) ∧ bit (h.rf Reg.kprPartFailed (rkey 29 0 0) c.part) 0 = false ∧
    kbuf.owners.findIdx (fun o => o = h.requester .internal) = 1 ∧ kbuf.shares.getD 1 false = true ∧ 1 + 1 = kbuf.owners.length ∧ kbuf.marked = false ∧
    h.kpostForeign .internal c.part = false ∧ h.partDown .internal c.part = false ∧ h.badSites = [] := by
  unfold State.sealed; decide +kernel

theorem witness_held_alloc :
    let j := jobOn (allocD 8 + BitVec.ofNat 1024 (2 ^ 32))
    let h := hwA.setKeeper 31 { held := [j] }
    (st h).sealed ∧ (h.keeper 31).held = [j] ∧ (h.keeper 31).nextOf (j.body.fld 0 10 8) < j.body.fld 4 31 0 ∧ h.rf Reg.kprCtrlSeqTimeout (rkey 31 0 0) ≠ 0 := by
  unfold State.sealed; decide +kernel

/-! Links, fabric, switches (09, 10, 19, 20). -/

def hwPort (p state : Nat) (x : Port) : Hw := (hwA.setPf Reg.xptPortState p state).setPort p x

theorem witness_ports_train :
    ((st hwA).sealed ∧ hwA.portOn (st hwA).env 47 = true ∧ hwA.pf Reg.xptPortState 47 = pDown ∧ (hwA.port 47).until_ = none ∧
      (hwA.port 47).loop.any (fun d => d ≤ 4) = false) ∧
    ((hwPort 0 0 { until_ := some 9 }).port 0).until_ = some 9 ∧ (hwPort 47 4 {}).pf Reg.xptPortState 47 ≠ pDown := by
  unfold State.sealed; decide +kernel

theorem test_lane_signal_trains : after (.laneSignal 47) hwA (fun h => h.pf Reg.xptPortState 47 = pTraining) = true := by decide +kernel
theorem test_port_without_blocks_goes_down : after (.controlBlockTimeout 47) (hwPort 47 4 {}) (fun h => h.pf Reg.xptPortState 47 = pDown) = true := by
  decide +kernel

/-- A block of the link: control blocks have number 0. -/
def block (kind number : Nat) : LinkBlock := ⟨BitVec.ofNat 40 (kind + number * 4), List.replicate 1280 0, 0, false, false, 0⟩

theorem witness_link_blocks :
    (∀ x ∈ [(4, 0, 5, 0), (4, 1, 0, 0), (1, 1, 0, 62), (1, 1, 0, 63)],
      let h := hwPort 0 x.1 { ctlRun := x.2.2.2 }
      (st h).sealed ∧ h.portOn (st h).env 0 = true ∧ h.pf Reg.xptPortState 0 ≠ pDown ∧
      (h.blockIn (st h).env 0 (block x.2.1 x.2.2.1)).1 = true ∧
      ((h.blockIn (st h).env 0 (block x.2.1 x.2.2.1)).2.pf Reg.xptPortState 0 = x.1) ∧
      ((h.blockIn (st h).env 0 (block x.2.1 x.2.2.1)).2.port 0).ctlRun = x.2.2.2) := by
  unfold State.sealed; decide +kernel

theorem test_64_control_blocks_end_training : after (.controlBlock 0 (block 1 0)) (hwPort 0 1 { ctlRun := 63 })
    (fun h => h.pf Reg.xptPortState 0 = pLoopback) = true := by decide +kernel

/-- A frame as it comes, its check not looked at again: type, source, destination, ARG and payload. -/
def frame (typ src dst arg : Nat) (p : List Byte) : Frame :=
  ⟨BitVec.ofNat 256 (typ + p.length / 64 * 2 ^ 16 + src * 2 ^ 64 + dst * 2 ^ 96 + arg * 2 ^ 192), p, 0, 0⟩
def payload (l : List (Nat × Nat)) (n : Nat) : List Byte := toBytes n ((l.map (fun x => x.2 * 2 ^ (8 * x.1))).sum)

def probeF (far : Nat) : Frame :=
  let f := frame 10 0 0 (far * 256) (payload [] 64)
  { f with e2e := BitVec.ofNat 32 (Frame.e2eOf f) }

/-- Port 3 of node 0, looped back: the far end is port `far` of node 0 too, and it is the `second` end's turn or not. -/
def hwLoop (far : Nat) (second : Bool) : Hw := (hwPort 3 pLoopback { second := second }).setPf Reg.xptPortNbPort 3 far

theorem witness_ports_prove :
    (∀ x ∈ [(9, false), (2, true), (9, true), (2, false)], let h := hwLoop x.1 x.2
      (st h).sealed ∧ h.pf Reg.xptPortState 3 = pLoopback ∧ (h.port 3).loop ≠ some 5 ∧ h.node = (h.farNode 3).getD 0 ∧
      (3 < h.pf Reg.xptPortNbPort 3 ↔ x.1 = 9) ∧ (h.port 3).second = x.2) ∧
    (∀ far ∈ [0, 1], let h := hwPort 3 pProbing { probes := [probeF far] }
      (h.port 3).probes.contains (probeF far) = true ∧ (probeF far).e2e.toNat = Frame.e2eOf (probeF far) ∧
      bit (Frame.arg (probeF far)) 8 = (far == 1)) ∧
    (let h := hwPort 3 pProbing { probing := true, probesOut := [1] }
     (h.port 3).probing = true ∧ (h.port 3).probesOut ≠ [] ∧ h.pf Reg.xptPortState 3 = pProbing ∧ h.pf Reg.xptBurnConverged 3 ≠ 1) := by
  unfold State.sealed; decide +kernel

/-- The end looped first passes with as many corrected codewords as the threshold and fails with one more; then the
second end has its turn, after which the port is probed. -/
theorem test_loop_back_threshold :
    let n := hwA.xf Reg.xptRaLbCorrMax 3
    after (.loopbackEnd 3 ⟨0, n, 0⟩) (hwLoop 9 false) (fun h => (h.port 3).second ∧ h.pf Reg.xptPortState 3 = pLoopback) = true ∧
    after (.loopbackEnd 3 ⟨0, n + 1, 0⟩) (hwLoop 9 false) (fun h => h.pf Reg.xptPortState 3 = pDown) = true ∧
    after (.loopbackEnd 3 ⟨9, n + 1, 0⟩) (hwLoop 9 true) (fun h => h.pf Reg.xptPortState 3 = pProbing) = true := by
  decide +kernel

theorem witness_loop_backs :
    ((st hwA).sealed ∧ hwA.served = true ∧ ((hwA.setPf Reg.xptLbDepth 47 5).port 47).loop = none ∧
      (hwA.setPf Reg.xptLbDepth 47 5).pf Reg.xptPortState 47 = pDown) ∧ hwA.rf Reg.ddrStatusInUse (rkey 31 7 0) = 0 ∧
    (hwA.wf Reg.ddrStatusInUse (rkey 28 4 0) 0 1).rf Reg.ddrStatusInUse (rkey 28 4 0) ≠ 0 := by
  unfold State.sealed; decide +kernel
theorem test_loop_back_of_no_depth_is_refused : after (.xptLbStart 47 7) hwA (fun h => h.pf Reg.xptLbResult 47 = 4) = true := by decide +kernel

/-- A frame in sequence at the owner of its flow, waiting to be delivered. -/
def hwIn (h : Hw) (f : Frame) : Hw := { h with ready := [(flowKey (cDie (Frame.src f)) (cNode (Frame.src f)), [f])] }

/-- A frame to node 1 at the source owner on F-die 24, which has one path to it. -/
def txOne : TxFrame := { typ := 1, cls := 0, src := coordOf 0 0 5, dst := coordOf 1 28 8, payload := payload [] 64 }
def hwTx : Hw :=
  let p := hwA.localPort (memberOf 0) (memberOf 1)
  (({ hwA with txq := [(24, [txOne])] }.setPf Reg.xptPortState p pUp).setPf Reg.xptPortWeight p 8).setPort p { target := 16, credits := [8, 8, 8, 8] }

theorem witness_transmit :
    (st hwTx).sealed ∧ (hwTx.txChoose 24).1 = some (0, txOne, .go) ∧
    (Hw.transmit { (hwTx.txChoose 24).2 with txq := [(24, [])] } (st hwTx).tl.det 24 txOne).isSome = true ∧
    (let h := hwTx.wf Reg.pkgNodeValid pkgB 0 0; (h.txChoose 24).1 = some (0, txOne, .fail)) := by
  unfold State.sealed; decide +kernel

def ackF : Frame := frame 5 (coordOf 1 24 8) (coordOf 0 24 8) 0 (payload [] 64)

theorem witness_acknowledgement :
    ((st (hwIn hwA ackF)).sealed ∧ Frame.typ ackF = 5 ∧ ((hwIn hwA ackF).arrive ackF (fun _ => true)).1 = true) ∧
    (let h := { hwA with txFlows := [(flowKey 0 1, { inc := 0, next := 8, recs := [⟨7, txOne, 3, 0⟩] })] }
     h.oldestRec 24 = some (flowKey 0 1, 7, 3)) ∧
    (∀ n ∈ [1, 32], let x : RxFlow := { waiting := n, valid := true }
      let h := { hwTx with rxFlows := [(flowKey 0 1, x)] }
      h.rxFlows = [(flowKey 0 1, x)] ∧ flowKey 0 1 / 65536 < 32 ∧ 0 < x.waiting ∧
      (h.path false 24 (h.coord 24 8) (coordOf 1 24 8) 0 0).isSome = true) := by
  unfold State.sealed; decide +kernel

theorem test_ack_is_sent_at_32 : after (.ackRecordSend 24) { hwTx with rxFlows := [(flowKey 0 1, { waiting := 32, valid := true })] }
    (fun h => (h.rxFlow (flowKey 0 1)).waiting = 0 ∧ h.now = 0) = true := by decide +kernel

/-- A frame of another package for this one, at F-die 24. -/
def hereF : Frame := frame 1 (coordOf 1 0 5) (coordOf 0 28 8) 0 (payload [] 64)

def bufOf (f : Frame) : Buf := { die := 24, point := 12, frame := f }

theorem witness_switch_forward :
    let h := { hwA with switches := [(24, { inq := [(12, [hereF])] })] }
    (st h).sealed ∧ (SMap.get (SMap.get h.switches {} 24).inq [] 12).find? (fun f =>
      h.egressOf 24 f ≠ .nowhere || h.aged 24 f || !Frame.wellFormed f) = some hereF ∧
    h.chargeShared 24 12 hereF = true ∧ h.guardRoom 24 12 hereF = true ∧ Frame.wellFormed hereF = true ∧ h.aged 24 hereF = false ∧
    (let full := { h.wf Reg.swBufCap (swB 24) 0 1 with arrived := List.replicate 512 (bufOf hereF) }
     full.chargeShared 24 12 hereF = false ∧ full.guardRoom 24 12 hereF = false) := by
  unfold State.sealed; decide +kernel

/-- A frame that stands at the package port of F-die 24 leaves it. -/
theorem test_package_port_delivers : after (.egressArbitration 48) { hwA with egress := [(egressKey 48 1, [bufOf hereF])] }
    (fun h => h.arrived = [bufOf hereF] ∧ SMap.get h.egress [] (egressKey 48 1) = []) = true := by decide +kernel


theorem witness_egress :
    (∀ c ∈ [0, 1],
      let h := { hwPort 5 pUp { credits := [9, 9, 9, 9] } with egress := [(egressKey 5 c, [bufOf (frame (if c = 0 then 5 else 1) (coordOf 0 0 5) (coordOf 1 28 8) 0 (payload [] 64))])] }
      let h := (upto 4).foldl (fun h c => h.dropAgedHead 5 c (SMap.get h.egress [] (egressKey 5 c)).length) h
      h.pf Reg.xptPortState 5 = pUp ∧ (h.sendable 5 0).isSome = (c == 0) ∧
      (c = 1 → (drr 3 (fun q => h.sendable 5 (q + 1)) (fun q => h.quantum (portDie 5) q) (h.port 5).arb).1 = some 0)) := by
  decide +kernel

/-- A frame older than AGE_LIMIT by its age, at counter 0. -/
def oldF : Frame := ⟨BitVec.ofNat 256 (1 + 2 ^ 16 + 0x8000 * 2 ^ 48 + coordOf 0 0 5 * 2 ^ 64 + coordOf 1 28 8 * 2 ^ 96), payload [] 64, 0, 0⟩

theorem witness_age_out :
    (let h := { hwA with egress := [(egressKey 5 1, [bufOf oldF])] }
     SMap.get h.egress [] (egressKey 5 1) = [bufOf oldF] ∧ h.aged (portDie 5) (bufOf oldF).frame = true) ∧
    (let h := { hwA with arrived := [bufOf oldF] }
     h.arrived.find? (fun b => b.die = 24 && h.aged 24 b.frame) = some (bufOf oldF)) := by decide +kernel

theorem test_aged_frame_is_counted : after (.ageOut (.arriving 24)) { hwA with arrived := [bufOf oldF] }
    (fun h => h.rf Reg.xptDropAged (xptB 24) = 1 ∧ h.arrived = []) = true := by decide +kernel

/-- A COLL frame for the multicast entry 3 of F-die 24, whose key is 9. -/
def mcF : Frame := frame 9 (coordOf 0 0 4) (coordOf 0 24 9) (3 + 9 * 1024) (payload [] 64)
def hwMc (n : Nat) : Hw :=
  let a := rkey 24 9 (0x40000 + 0x80 * 3)
  let regs := SMap.putD 0 hwA.regs a (BitVec.ofNat 64 (2 ^ 31 * n + n * 2 ^ 16 + 9 + 7 * 2 ^ 32))
  { hwA with arrived := [bufOf mcF], ready := (hwIn hwA mcF).ready, regs := if n = 0 then regs else SMap.putD 0 regs (a + 8) (BitVec.ofNat 64 (coordOf 1 24 9)) }

theorem witness_multicast_frame : ∀ n ∈ [0, 1],
    let h := hwMc n
    (st h).sealed ∧ Frame.typ mcF = 9 ∧ cUnit (Frame.dst mcF) = 9 ∧ cDie (Frame.dst mcF) = 24 ∧ h.arrived.find? (fun b => b.frame = mcF) = some (bufOf mcF) ∧
    (h.arrive mcF (fun h => n = 0 || h.mcRoom mcF 24)).1 = true ∧
    (h.arrive mcF (fun h => n = 0 || h.mcRoom mcF 24)).2.mcEntry 24 (bits (Frame.arg mcF) 9 0) (bits (Frame.arg mcF) 25 10) =
      (if n = 0 then none else some (7, [coordOf 1 24 9])) := by
  unfold State.sealed; decide +kernel

def origOne : McOrig := { id := 2, die := 24, inDie := 24, point := 12, frame := mcF, tag := 7, copies := [(0, coordOf 1 24 9, false)] }

theorem witness_multicast_copy :
    let h := { hwTx with originals := [origOne] }
    let x := origOne.copyFor (h.coord 24 9) 0 (coordOf 1 24 9)
    (st h).sealed ∧ h.copyHeld 24 origOne = false ∧ h.copyReady (st h).tl.det 24 x = true ∧
    (let h := { (h.inc Reg.swMcCopies (swB 24) 0 1) with originals := [{ origOne with copies := [(0, coordOf 1 24 9, true)] }] }
     h.judgeTx 24 false x ≠ TxVerdict.fail ∧ (h.transmit (st h).tl.det 24 x).isSome = true) := by
  unfold State.sealed; decide +kernel

theorem test_missed_multicast_is_counted : after (.multicastFrame mcF) (hwMc 0) (fun h => h.rf Reg.swMcMissed (swB 24) = 1) = true := by decide +kernel

/-- XCH_SEND of a dispatch output without lists, at 0x1000 of C-die 0's scratchpad, XCH_OPEN of one landing entry, XCH_RETURN
and XCH_CLOSE of exchange 77. -/
def sendD : Desc := desc [(0, 0x11), (8, spWin 0 + 0x1000), (0x10, spWin 0 + 0x2000), (0x20, spWin 0 + 0x3000), (0x28, spWin 0 + 0x40), (0x30, 77)]
def openD : Desc := desc [(0, 0x12), (4, 1), (8, 77), (0x0C, 1), (0x10, spWin 0 + 0x4000)]
def returnD : Desc := desc [(0, 0x13), (4, 77), (0x10, spWin 0 + 0x1000)]
def closeD : Desc := desc [(0, 0x14), (8, 77)]

def entDone : XEnt := { expert := 0, replica := 0, total := 0, slot := 0, tag := 0, done := true }
def xopen (e : XEnt) : XOpen := { part := 0, nsrc := 1, table := spWin 0 + 0x4000, ents := [e] }
def hwX (d : Desc) (o : Option XOpen) : Hw :=
  { hwJ 24 8 (jobOn d) with opens := match o with | some x => [(77, x)] | none => [], mem := memAt (spWin 0 + 0x1000) 4 0x20 }

theorem witness_send :
    let h := hwX sendD none
    let j := jobOn sendD
    let a := runOp (readExt (st h).env (spWin 0 + 0x1000) 32) h
    (st h).sealed ∧ (h.queue 24 8).find? (fun j => !j.started && (j.body.fld 0 7 0 < 0x11 || 0x14 < j.body.fld 0 7 0)) = none ∧
    h.xchJob 24 0x11 = some j ∧ h.sendOk (st h).env sendD = true ∧ h.kpostForeign j.origin (sendD.fld 0 16 14) = false ∧
    h.loaded (sendD.fld 0 16 14) = true ∧ h.sendReach (st h).env sendD = true ∧ h.sound ∧
    h.localMem (st h).env (spWin 0 + 0x1000) 32 = .ok (spWin 0 + 0x1000) ∧
    h.localMem (st h).env (spWin 0 + 0x1020) 0 = .ok (spWin 0 + 0x1020) ∧ (match a.1 with | .ok p => pay p 0 4 == 0x20 && pay p 4 4 == 0 | .error _ => false) = true ∧
    good (runOp (readExt (st h).env (spWin 0 + 0x1020) 0) a.2) = true := by
  unfold State.sealed Hw.sound; decide +kernel

theorem witness_open_and_close :
    (let h := hwX openD none
     let d := openD
     (st h).sealed ∧ h.xchJob 24 0x12 = some (jobOn d) ∧ d.fld 0 31 11 = 0 ∧ d.fld 0x18 319 0 = 0 ∧ d.fld 4 31 0 = 1 ∧ d.fld 0x0C 31 0 = 1 ∧
     SMap.find? h.opens (d.fld 8 31 0) = none ∧ h.loaded (d.fld 0 10 8) = true ∧ good (runOp (readExt (st h).env (d.fld 0x10 63 0) 64) h) = true ∧
     h.kpostForeign .internal 0 = false ∧ h.sound ∧ h.localMem (st h).env (d.fld 0x10 63 0) 64 = .ok (spWin 0 + 0x4000)) ∧
    (let h := hwX closeD none
     h.xchJob 24 0x14 = some (jobOn closeD) ∧ closeD.fld 0 31 8 = 0 ∧ closeD.fld 4 31 0 = 0 ∧ closeD.fld 0x0C 415 0 = 0 ∧
     SMap.find? h.settleLandings.opens 77 = none) ∧
    (let h := hwX closeD (some (xopen entDone))
     h.xchJob 24 0x14 = some (jobOn closeD) ∧ SMap.find? h.settleLandings.opens 77 = some (xopen entDone) ∧
     h.settleLandings.kpostForeign .internal 0 = false) := by
  unfold State.sealed Hw.sound; decide +kernel

theorem test_open_then_close : after (.xchOpen 24) (hwX openD none) (fun h =>
    (SMap.find? h.opens 77).isSome ∧ after (.xchClose 24) (h.putJob 24 8 (jobOn closeD)) (fun _ => true)) = true := by decide +kernel

/-- An exchange whose one landed row came from coordinate 9 of node 1, which asked for 64 bytes of it back. -/
def entTagged : XEnt := { entDone with tags := some (spWin 0 + 0x5000), next := 1, landed := [0] }
def srcOne : XSrc := ⟨coordOf 1 9 4, 1, 0, false, 16, 64, 2 ^ 63 + 2 ^ 48 + spWin 0, 64, []⟩
def xSrc : XOpen := { xopen entTagged with srcs := [srcOne] }
def hwRet : Hw := { hwX returnD (some xSrc) with mem := memAt (spWin 0 + 0x5008) 4 (coordOf 1 9 4) }

theorem witness_return :
    (let h := hwX returnD (some (xopen entDone))
     let d := returnD
     (st h).sealed ∧ h.queue 24 8 = [jobOn d] ∧ d.fld 0 7 0 = 0x13 ∧ d.fld 0 31 9 = 0 ∧ d.fld 0x24 223 0 = 0 ∧
     h.flagFieldOk (st h).env (d.fld 0 8 8) (d.fld 0x18 63 0) (d.fld 0x20 31 0) = true ∧ h.addrOk (st h).env (d.fld 0x10 63 0) = true ∧
     SMap.find? h.opens (d.fld 4 31 0) = some (xopen entDone) ∧ (xopen entDone).ents[d.fld 8 31 0]? = some entDone ∧ (xopen entDone).closing = false ∧
     (returnFrames (st h).env (xopen entDone) entDone d (h.coord 24 8) (.job 24 8 1) h).2.1 = none ∧
     h.kpostForeign .internal 0 = false ∧ entDone.done = true) ∧
    (let h := hwRet
     let n := 64
     h.sound ∧ entTagged.tags = some (spWin 0 + 0x5000) ∧ entTagged.count = 1 ∧ entTagged.done = true ∧
     ((xSrc.srcs.find? (fun q => q.coord = Mem.num h.mem (spWin 0 + 0x5008) 4)).map (fun q => q.retBytes)) = some n ∧
     h.localMem (st h).env (spWin 0 + 0x1000) n = .ok (spWin 0 + 0x1000) ∧
     (returnFrames (st h).env xSrc entTagged returnD (h.coord 24 8) (.job 24 8 1) h).1.length = 1) ∧
    (let h := { hwX returnD none with closedX := [77] }
     SMap.find? h.opens 77 = none ∧ h.closedX.contains 77 = true) := by
  unfold State.sealed Hw.sound; decide +kernel

def hdrF : Frame := frame 2 (coordOf 1 0 4) (coordOf 0 24 8) 0 (payload [(0, 77)] 64)
def rowF : Frame := frame 3 (coordOf 1 0 4) (coordOf 0 24 8) 0 (payload [] 64)
def retF : Frame := frame 4 (coordOf 1 24 8) (coordOf 0 24 8) (spWin 0 + 0x1000) (payload [(0, 7)] 64)
def xret (pairs : Nat) : XRet :=
  { src := coordOf 0 24 8, lo := spWin 0 + 0x1000, stride := 64, bytes := 64, pairs := pairs, flag := spWin 0 + 0x40, tag := 5, job := 1 }

theorem witness_exchange_frames :
    (let h := hwIn (hwX openD (some (xopen entDone))) hdrF
     (st h).sealed ∧ Frame.typ hdrF = 2 ∧ (h.arrive hdrF (fun h => h.xtagKnown 77)).1 = true) ∧
    (let h := { hwIn (hwX openD none) rowF with closedX := [77], rxFlows := [(flowKey 0 1, { valid := true, xtags := [(0, 77)] })] }
     Frame.typ rowF = 3 ∧ (h.arrive rowF (fun h => h.rowReady rowF)).1 = true ∧ (h.arrive rowF (fun h => h.rowReady rowF)).2.xtagOf rowF = some 77) ∧
    (∀ pairs ∈ [1, 2],
      let h := { hwIn hwA retF with xrets := [xret pairs] }
      let r := h.arrive retF (fun h => !h.clearing (Frame.arg retF) retF.payload.length)
      Frame.typ retF = 4 ∧ r.1 = true ∧ r.2.xrets = [xret pairs] ∧ (xret pairs).src = Frame.dst retF ∧ (xret pairs).lo = Frame.arg retF ∧
      (match r.2.localMem (st h).env (Frame.arg retF) 64 with
        | .ok off => good (runOp (storeB off (retF.payload.take 64)) r.2) | .error _ => false) = true ∧ r.2.sound) := by
  unfold State.sealed Hw.sound; decide +kernel

theorem test_last_returned_row_sets_the_flag : after (.exchRet retF) { hwIn hwA retF with xrets := [xret 1] }
    (fun h => Mem.num h.mem (spWin 0 + 0x40) 8 = 5 + 2 ^ 32 ∧ Mem.num h.mem (spWin 0 + 0x1000) 1 = 7) = true := by decide +kernel

/-! Stitch programs and collectives (11, 12). -/

/-- A context of stitch unit 0 of F-die 24: one input of FP32 from die 0 of node 1, depth 1, 16 elements; its program. -/
def stuE (elems : Nat) : BitVec 2048 :=
  BitVec.ofNat 2048 (9 + 1 * 2 ^ 32 + 1 * 2 ^ 40 + elems * 2 ^ 48 + coordOf 0 24 9 * 2 ^ 96 + coordOf 1 0 4 * 2 ^ (8 * 0x80))
def stuX (elems : Nat) (prog : List Word) (s : StuSet) : StuCtx :=
  { entry := stuE elems, prog := prog, first := 0, slots := 1, sets := [s], clearing := false }

/-- Granule 0 is a sound preamble of a contribution; 16 lanes of 1.0 follow. -/
def inF (n : Nat) : Frame :=
  frame 9 (coordOf 1 0 4) (coordOf 0 24 0) (1 + 9 * 1024) (payload [] 64 ++ (List.replicate (16 * n) [0, 0, 0x80, 0x3F]).flatten)

def hwS (x : StuCtx) (r : Option StuRun) : Hw := (hwA.setStu 24 0 { ctxs := [(1, x)], run := r }).entPut 24 0 1 0x18 31 0 (2 ^ 31)

theorem witness_stitch_commands :
    (st hwA).sealed ∧ (hwA.stuCmds.filter (fun x => x.1 = 27 && x.2.1 = 7)).length < 64 ∧
    64 ≤ (({ hwA with stuCmds := List.replicate 64 (27, 7, 1, 63) } : Hw).stuCmds.filter (fun x => x.1 = 27 && x.2.1 = 7)).length ∧
    (let h := hwS { stuX 16 [] {} with clearing := true } none
     SMap.find? (h.stu 24 0).ctxs 1 = some { stuX 16 [] {} with clearing := true }) := by
  unfold State.sealed; decide +kernel

theorem test_65th_claim_is_discarded : after (.stuCmdClaim 27 7 63) { hwA with stuCmds := List.replicate 64 (27, 7, 1, 63) }
    (fun h => h.stuCmds.length = 64) = true := by decide +kernel

/-- An input that its context takes, one of another source, one of a chunk before NEXT, and a second one that differs. -/
theorem witness_stitch_inputs :
    (let h := hwIn (hwS (stuX 16 [] {}) none) (inF 1)
     (st h).sealed ∧ Frame.typ (inF 1) = 9 ∧ onFdie (Frame.dst (inF 1)) = true ∧ (h.arrive (inF 1) (fun h => h.stuJudge 24 0 (inF 1) ≠ .wait)).1 = true ∧
     (h.arrive (inF 1) (fun h => h.stuJudge 24 0 (inF 1) ≠ .wait)).2.stuJudge 24 0 (inF 1) = .take 0 0) ∧
    (let h := hwIn hwA (inF 1)
     (h.arrive (inF 1) (fun h => h.stuJudge 24 0 (inF 1) ≠ .wait)).2.stuJudge 24 0 (inF 1) = .badCtx) ∧
    (let h := hwIn ((hwS (stuX 16 [] {}) none).entPut 24 0 1 0x18 21 0 1) (inF 1)
     (h.arrive (inF 1) (fun h => h.stuJudge 24 0 (inF 1) ≠ .wait)).2.stuJudge 24 0 (inF 1) = .stale) ∧
    (let h := hwIn (hwS (stuX 16 [] { chunk := some 0, ins := [(0, inF 1)] }) none) (inF 1)
     (h.arrive (inF 1) (fun h => h.stuJudge 24 0 (inF 1) ≠ .wait)).2.stuJudge 24 0 (inF 1) = .same) ∧
    (let g : Frame := { inF 1 with hdr := (inF 1).hdr + BitVec.ofNat 256 (2 ^ 128) }
     let h := hwIn (hwS (stuX 16 [] { chunk := some 0, ins := [(0, g)] }) none) (inF 1)
     (h.arrive (inF 1) (fun h => h.stuJudge 24 0 (inF 1) ≠ .wait)).2.stuJudge 24 0 (inF 1) = .dup) := by
  unfold State.sealed; decide +kernel

theorem witness_chunk_run :
    let x := stuX 16 [] { chunk := some 0, ins := [(0, inF 1)] }
    let h := hwS x none
    let t := StuEnt.of x.entry
    (st h).sealed ∧ (h.stu 24 0).run = none ∧ (h.stu 24 0).ctxs = [(1, x)] ∧ (h.chunkReady 24 0 1 x).isSome = true ∧
    h.badSites = [] ∧
    checkInputs ((x.inputs 0).map (fun f => Pre.of f.payload)) ((x.inputs 0).zipIdx.map (fun (p : Frame × Nat) =>
      decide (Frame.len p.1 = 1 + ceilDiv (t.elems * (t.fmtOf p.2).bytes) 64))) t.srcs = none := by
  unfold State.sealed; decide +kernel

/-- Unit 0 of F-die 24 runs a program of one instruction word on chunk 0, in a GLOOP of one instruction. -/
def stuW (opc vd va vb sub imm : Nat) : Word := BitVec.ofNat 64 (opc * 2 ^ 56 + vd * 2 ^ 51 + va * 2 ^ 46 + vb * 2 ^ 41 + sub * 2 ^ 32 + imm)
def hwR (elems : Nat) (w : Word) (r : StuRun) : Hw := hwS (stuX elems [w, 0] { chunk := some 0, ins := [(0, inF 1)] }) (some r)

theorem witness_stitch_lanes : ∀ o ∈ [0x00, 0x08, 0x0A, 0x0B, 0x10, 0x11, 0x12, 0x13, 0x18, 0x19, 0x1A, 0x1B, 0x09],
    let h := hwR 16 (stuW o 1 2 3 0 0) { ctx := 1, chunk := 0, gloop := some (0, 1, 0) }
    (st h).sealed ∧ ((h.stuAt 24 0).map (fun x => (x.2.2.1.opc, x.2.1.lane, Fmt.ofCode x.2.1.ent.outFmt))) = some (o, Fmt.fp32, some Fmt.fp32) := by
  unfold State.sealed; decide +kernel

/-- The FP64 lanes of LDC: an input of FP64 elements. -/
theorem witness_stitch_fp64 :
    let x := { stuX 8 [stuW 0x0A 1 0 0 0 0x3F800000] {} with entry := stuE 8 ||| BitVec.ofNat 2048 (8 * 2 ^ 44 + 8 * 2 ^ 256) }
    (((hwS x (some { ctx := 1, chunk := 0 })).stuAt 24 0).map (fun x => (x.2.2.1.opc, x.2.1.lane))) = some (0x0A, Fmt.fp64) := by
  decide +kernel

theorem test_rsum_adds_inputs : after (.rsum 24 0) (hwR 16 (stuW 0x10 1 0 0 0 0) { ctx := 1, chunk := 0, gloop := some (0, 1, 0) })
    (fun h => ((h.stu 24 0).run.map (fun r => SMap.get r.regs [] 1)) = some (List.replicate 16 0x3F800000)) = true := by decide +kernel

theorem witness_stitch_control :
    (∀ o ∈ [0x01, 0x02, 0x20, 0x22], let h := hwR 0 (stuW o 1 2 3 0 0) { ctx := 1, chunk := 0 }
      (st h).sealed ∧ ((h.stuAt 24 0).map (fun x => x.2.2.1.opc)) = some o) ∧
    (∀ o ∈ [0x20, 0x21, 0x22, 0x23],
      let h := hwS (stuX 0 [stuW o 1 2 3 0 0x10008] { chunk := some 0, ins := [(0, frame 9 (coordOf 1 0 4) (coordOf 0 24 0) (1 + 9 * 1024) (payload [] 128))] })
        (some { ctx := 1, chunk := 0 })
      ((h.stuAt 24 0).map (fun x => (x.2.2.1.opc, (recordOp x.2.1 x.1 x.2.2.1).isSome))) = some (o, true)) ∧
    (let h := hwR 0 (stuW 0x28 0 0 0 0 0) { ctx := 1, chunk := 0, olen := some 1 }
     ((h.stuAt 24 0).map (fun x => (x.2.2.1.opc, x.1.olen))) = some (0x28, some 1)) := by
  unfold State.sealed; decide +kernel

/-- A group of one endpoint, the dispatch engine of C-die 0, in switch form; `move` says whether it moves data. -/
def groupOne (move : Bool) : Group :=
  { part := 0, move := move, red := 0, inFmt := 0, outFmt := 0, depth := 2, degree := 2, stage := 0x8000, stageSize := 4096, at_ := 0, levels := 1
    digest := 0, ends := [coordOf 0 0 4], tops := [coordOf 0 0 4, coordOf 0 0 4]
    hosts := [{ host := coordOf 0 0 4, tree := 0, level := 0, nodes := [{ level := 1, kids := [(coordOf 1 0 4, true)] }], parent := none }]
    agents := [{ die := 0, rank := 0 }], job := none, form := some 0 }
def hwG (move : Bool) (j : Option Job) : Hw :=
  { (match j with | some j => hwJ 0 4 j | none => hwA) with groups := [(9, groupOne move)] }
def collD (op : Nat) : Desc := desc [(0, op), (4, 9), (0x0C, if op = 0x11 ∨ op = 0x13 then coordOf 0 0 4 else 0), (0x10, spWin 0 + 0x1000), (0x18, if op = 0x14 then 0 else spWin 0 + 0x2000)]
def runOne (seq : Nat) : CollRun := { die := 0, gkey := 9, opseq := seq, tag := some 1, sig := 0, chunks := 1 }

theorem witness_collectives_begin :
    (∀ op ∈ [0x10, 0x11, 0x12, 0x13, 0x14],
      let move := op == 0x12 || op == 0x13
      let h := hwG move (some (jobOn (collD op)))
      let a : GMember := { die := 0, rank := 0 }
      (st h).sealed ∧ h.dieOn (st h).env 0 = true ∧ h.queue 0 4 = [jobOn (collD op)] ∧ (CollD.of (collD op)).op = op ∧
      h.colls.find? (fun r => r.die = 0 && r.tag = some 1) = none ∧ h.group 9 = some (groupOne move) ∧
      (groupOne move).agents.find? (fun a => a.die = 0) = some a ∧ (groupOne move).form.isSome = true ∧ a.failed = false ∧
      good (runOp (decodeColl (st h).env (groupOne move) (CollD.of (collD op)) 0 (h.coord 0 4) a 1) h) = true) ∧
    (let h := { hwG false (some (jobOn (collD 0x10))) with colls := [runOne 0] }
     h.colls.find? (fun r => r.die = 0 && r.tag = some 1) = some (runOne 0)) := by
  unfold State.sealed; decide +kernel

/-- A collective of four elements, rows or bytes; a bundle of two FP32 tensors of two elements, the second contributing zero,
its table at 0x4000. -/
def collFour (op : Nat) : Desc :=
  if op = 0x14 then desc [(0, op), (4, 9), (8, 2), (0x10, spWin 0 + 0x4000)]
  else if op = 0x12 then desc [(0, op + 2 ^ 10), (4, 9), (8, 4), (0x10, spWin 0 + 0x1000), (0x18, spWin 0 + 0x2000), (0x20, 8), (0x24, 8), (0x28, 8), (0x2C, 4), (0x30, 0x40)]
  else desc [(0, op), (4, 9), (8, 4), (0x0C, if op = 0x11 ∨ op = 0x13 then coordOf 0 0 4 else 0), (0x10, spWin 0 + 0x1000), (0x18, spWin 0 + 0x2000)]
def tableTwo : Mem :=
  let e (src dst size z : Nat) : List Byte := toBytes 8 src ++ toBytes 8 dst ++ toBytes 4 size ++ toBytes 4 z ++ toBytes 8 0
  Mem.write [] (spWin 0 + 0x4000) (e (spWin 0 + 0x1000) (spWin 0 + 0x2000) 2 0 ++ e 0 (spWin 0 + 0x3000) 2 1)

theorem witness_collectives_of_four :
    (∀ op ∈ [0x10, 0x11, 0x12, 0x13],
      let c := CollD.of (collFour op)
      let h := hwG (op == 0x12 || op == 0x13) (some (jobOn (collFour op)))
      let n := if op = 0x12 then 32 else if op = 0x13 then 4 else 16
      h.sound ∧ c.op = op ∧ c.ok = true ∧ c.zero = false ∧ c.count = 4 ∧ ((groupOne false).fmts 1).inF.bytes = 4 ∧
      h.collLoc (st h).env c.src n = .ok (spWin 0 + 0x1000) ∧ h.collLoc (st h).env c.dst n = .ok (spWin 0 + 0x2000) ∧
      (op = 0x12 → c.rowBytes = 8 ∧ 1 * c.rowBytes ≤ c.dstStride ∧ c.rowBytes % c.band = 0 ∧ c.pieces = true ∧ c.pflags + 16 ≤ 0x10000000)) ∧
    (let c := CollD.of (collFour 0x14)
     let h := { hwG false (some (jobOn (collFour 0x14))) with mem := tableTwo }
     let word (a n : Nat) := Mem.num h.mem (spWin 0 + 0x4000 + a) n
     h.sound ∧ c.ok = true ∧ h.collLoc (st h).env c.src 64 = .ok (spWin 0 + 0x4000) ∧ word 20 4 = 0 ∧ word 52 4 = 1 ∧ word 32 8 = 0 ∧
     (∀ i < 2, word (32 * i + 24) 8 = 0 ∧ word (32 * i + 16) 4 = 2 ∧
       h.collLoc (st h).env (word (32 * i + 8) 8) 8 = .ok (spWin 0 + 0x2000 + 0x1000 * i)) ∧
     h.collLoc (st h).env (word 0 8) 8 = .ok (spWin 0 + 0x1000) ∧ 4 ≤ 2 * ((groupOne false).fmts 1).elems) := by
  unfold Hw.sound; decide +kernel

/-- A chunk for the agent of C-die 0 in group 9, of a role, with a preamble that says nothing else. -/
def chunkF (role : Nat) (down : Bool) : Frame :=
  frame 9 (coordOf 1 0 4) (coordOf 0 0 4) (9 * 1024) (payload [(0x11, role + 8 * down.toNat)] 128)

theorem witness_chunks :
    (∀ x ∈ [(0, false), (1, true), (2, false), (2, true), (3, true)],
      let f := chunkF x.1 x.2
      let h := { hwIn (hwG (x.1 == 3) none) f with colls := [{ runOne 0 with sigs := [(0, 0)] }] }
      (st h).sealed ∧ isChunk f x.1 = true ∧ h.chunkFor f = .run (groupOne (x.1 == 3)) { runOne 0 with sigs := [(0, 0)] } ∧
      (h.arrive f (fun h => match h.chunkFor f with
        | .wait => false | .drop => true | .run g r => if x.1 = 1 then resultCan g r f else if x.1 = 3 then dataCan g r f else true)).1 = true ∧
      (Pre.of f.payload).idx < (runOne 0).chunks ∧ (Pre.of f.payload).status = 0 ∧ (Pre.of f.payload).down = x.2 ∧
      (Pre.of f.payload).rank < (groupOne true).ends.length ∧ (runOne 0).got.contains 0 = false ∧
      ((runOne 0).senders 1).contains 0 = true ∧ (SMap.get (runOne 0).landed [] 0).contains 0 = false ∧
      (runOne 0).held.contains f = false) ∧
    (((groupOne false).hostAt 0 0).any (fun x => x.kids.any (fun k => k.1 = coordOf 1 0 4)) = true) ∧
    good (runOp ((runOne 0).writeMove 1 0 0 ((chunkF 3 true).payload.drop 64)) (hwG true none)) = true := by
  unfold State.sealed; decide +kernel

theorem witness_groups :
    (let j := jobOn (desc [(0, 0x40)])
     (st (hwJ 28 8 j)).sealed ∧ (hwJ 28 8 j).mgmtJob 0x40 = some j) ∧
    (∀ kind ∈ [1, 2],
      let f := frame 9 (coordOf 1 28 8) (coordOf 0 28 8) 0 (payload [(0, kind), (2, 9)] 64)
      let h := hwIn (hwG false none) f
      isSetup f kind = true ∧ (h.arrive f (fun h => (h.group (setupKey f)).isSome)).1 = true) ∧
    (let d := desc [(0, 0x41), (4, 9)]
     (hwJ 28 8 (jobOn d)).mgmtJob 0x41 = some (jobOn d) ∧ d.fld 0 31 11 = 0 ∧ d.fld 4 31 16 = 0 ∧ d.fld 4 15 0 ≠ 0 ∧ d.fld 8 63 0 = 0 ∧
     d.fld 0x18 319 0 = 0 ∧ (hwJ 28 8 (jobOn d)).loaded (d.fld 0 10 8) = true) := by
  unfold State.sealed; decide +kernel

theorem witness_collective_timeout :
    (st hwA).sealed ∧ hwA.rf Reg.deCollTimeout (rkey 0 4 0) ≠ 0 ∧ hwA.dieOn (st hwA).env 0 = true ∧
    ({ hwG false none with colls := [runOne 0] } : Hw).colls.find? (fun r => r.die = 0) = some (runOne 0) ∧
    (let j := { jobOn (collD 0x14) with started := true }
     (hwJ 0 4 j).colls = [] ∧ (hwJ 0 4 j).queue 0 4 = [j] ∧ 0x10 ≤ j.body.fld 0 7 0 ∧ j.body.fld 0 7 0 ≤ 0x14) := by
  unfold State.sealed; decide +kernel

theorem test_collective_gives_up : after (.deCollTimeout 0) { hwG false (some (jobOn (collD 0x10))) with colls := [runOne 0] }
    (fun h => h.rf Reg.deCollFailTimeouts (rkey 0 4 0) = 1) = true := by decide +kernel

/-! Memory tiers and window programs (13). -/

def pageD (op : Nat) (first len : Nat) : Desc := desc [(0, op), (8, first), (0x10, len)]

theorem witness_page_commands :
    (∀ op ∈ [1, 2, 3, 4, 5], ∀ len ∈ [0, 2 ^ 21], let d := pageD op 0 len
      let h := hwJ 28 1 (jobOn d)
      (st h).sealed ∧ (h.queue 28 1).find? (fun j => j.body.fld 0 7 0 ≠ 0x10 && !j.started) = some (jobOn d) ∧ (PageD.of d).op = op ∧
      (PageD.of d).ok h = true ∧ h.loaded (PageD.of d).part = true ∧ (PageD.of d).length = len ∧
      h.kpostForeign .internal (PageD.of d).part = false) ∧
    (let d := pageD (1 + 7 * 256) 0 0
     (PageD.of d).ok hwA = true ∧ hwA.kpostForeign (jobOn d).origin 7 = false ∧ hwA.loaded (PageD.of d).part = false ∧
     hwA.kpostForeign (.kpost 0 7 0 0) 7 = true) ∧
    (∀ op ∈ [1, 2, 3, 4, 5], (PageD.of (pageD op (0x30000 * 2 ^ 21) (2 ^ 21))).ok hwA = false) := by
  unfold State.sealed; decide +kernel

/-- Two pages at each home; page 1 of M-die 28 lies in DDR and has been read 300 times. -/
def hwPages : Hw := { (hwA.wf Reg.pkgMemTopTop pkgB 0 8).wf Reg.migCtrlAuto (migB 28) 0 1 with pages := [(4, { frame := 49152, count := 300 })] }

theorem witness_swap_and_policy :
    (let h := { hwPages with swaps := [(28, [⟨1, 0, none⟩])] }
     (st h).sealed ∧ SMap.get h.swaps [] 28 = [⟨1, 0, none⟩] ∧ h.queue 28 1 = [] ∧ h.pageBad (pageNo 28 1) = none ∧ h.pageBad (pageNo 28 0) = none ∧
     h.corrWords = [] ∧ h.badSites = [] ∧ h.regions = []) ∧
    (hwPages.rf Reg.migCtrlAuto (migB 28) ≠ 0 ∧ (st hwPages).tl.det = false ∧ SMap.get hwPages.swaps [] 28 = [] ∧
      hwPages.policyPairs 28 (hwPages.rf Reg.migCtrlMaxSwaps (migB 28)) [] = [(1, 0)] ∧
      ({ hwPages with pages := [] } : Hw).policyPairs 28 (hwPages.rf Reg.migCtrlMaxSwaps (migB 28)) [] = []) := by
  unfold State.sealed; decide +kernel

theorem test_swap_moves_no_address : after (.pageSwap 28) { hwPages with swaps := [(28, [⟨1, 0, none⟩])], mem := memAt 0x800000 4 7 }
    (fun h => Mem.num h.mem 0x800000 4 = 7 ∧ (h.page 4).frame = 0) = true := by decide +kernel

def hwScrub (x : Nat) : Hw :=
  { (hwA.wf Reg.migCtrlScrub (migB 31) 0 1).wf Reg.hbmStatusState (rkey 31 2 0) 0 2 with
    badWords := if x = 1 then [pageNo 31 0 * 2 ^ 21 + 8] else [], corrWords := if x = 2 then [pageNo 31 0 * 2 ^ 21 + 8] else []
    pages := if x = 0 then [(pageNo 31 0, { frame := 49152 })] else [] }

theorem witness_scrub : ∀ x ∈ [0, 1, 2],
    let h := hwScrub x
    let place := h.nextLine 31 2 (SMap.get h.scrubs 0 (ukey 31 2))
    (st h).sealed ∧ h.memUp 31 2 = true ∧ h.rf Reg.migCtrlScrub (migB 31) ≠ 0 ∧ h.lineAt 31 place = (if x = 0 then none else some (pageNo 31 0 * 2 ^ 21)) ∧
    (h.grainBad (pageNo 31 0 * 2 ^ 21) 64 = if x = 1 then some (pageNo 31 0 * 2 ^ 21 + 8) else none) := by
  unfold State.sealed; decide +kernel

theorem test_scrub_mends : after (.patrolScrub 31 2) (hwScrub 2) (fun h => h.corrWords = []) = true := by decide +kernel

/-- A window program of two slots of 4 KiB at device address 0x10000, its flags in C-die 0's scratchpad; WIN_RUN at 0x8000. -/
def winD : Desc := desc [(0, 0x10), (4, 3), (8, 0x8000)]
def winHead : Nat := 0x50 + 2 * 2 ^ 32 + 0x10000 * 2 ^ 64 + 4096 * 2 ^ 128 + 2 * 2 ^ 160 + (spWin 0 + 0x100) * 2 ^ 192 + (spWin 0 + 0x200) * 2 ^ 256
def hwWin (j : Job) (r : Option WinRun) : Hw :=
  { hwJ 28 1 j with mem := memAt 0x8000 64 winHead, wins := match r with | some r => [(0, r)] | none => [] }
def winOne : WinRun :=
  { tag := 1, runid := 3, prog := 0x8000, nsteps := 2, window := 0x10000, slotBytes := 4096, nslots := 2, release := spWin 0 + 0x100, arrive := spWin 0 + 0x200 }
def stepD (l : List (Nat × Nat)) : BitVec 512 := BitVec.ofNat 512 ((l.map (fun x => x.2 * 2 ^ (8 * x.1))).sum)

theorem witness_window_start :
    let h := hwWin (jobOn winD) none
    let d := winD
    let a := runOp (loadB 0x8000 64) { h with moved := 0 }
    (st h).sealed ∧ h.queue 28 1 = [jobOn d] ∧ d.fld 0 7 0 = 0x10 ∧ d.fld 0 10 8 = 0 ∧ SMap.find? h.wins 0 = none ∧ d.fld 0 31 11 = 0 ∧ d.fld 4 31 16 = 0 ∧
    d.fld 0x10 383 0 = 0 ∧ d.fld 8 63 0 % 64 = 0 ∧ h.loaded 0 = true ∧
    (match h.resolve (st h).env true 0x8000 64 with | .ok (.here off) => off == 0x8000 && isDev off | _ => false) = true ∧
    (match a.1 with | .ok bs => ((a.2.chargeMem (some 0)).winHeader (st h).env 0 1 3 0x8000 bs).isSome | .error _ => false) = true ∧
    h.kpostForeign .internal 0 = false ∧ h.sound ∧ (h.winHeader (st h).env 0 1 3 0x8000 (Mem.read h.mem 0x8000 64)).isSome = true := by
  unfold State.sealed Hw.sound; decide +kernel

theorem witness_window_end :
    let j := { jobOn winD with started := true }
    (st (hwWin j (some winOne))).sealed ∧ (hwWin j (some winOne)).queue 28 1 = [j] ∧ winOne.tag = j.tag ∧
    (StepD.of (stepD [(0, 6)])).op = 6 ∧ winOne.index < winOne.nsteps ∧ hwA.rf Reg.migWinFlagTimeout (migB 28) ≠ 0 ∧
    (Hw.finishJob { hwWin j (some winOne) with wins := [] } 28 1 j ⟨.aborted, 0, 0⟩).queue 28 1 = [] := by
  unfold State.sealed; decide +kernel

/-- FETCH of no rows to slot 1, its first use and a later one; EXPERTS on a flag that is set; WAIT; LOOP of two; BEAT. -/
theorem witness_window_steps :
    (let d := stepD [(0, 1 + 2 ^ 16)]
     let h := hwWin { jobOn winD with started := true } (some { winOne with step := some d })
     (st h).sealed ∧ SMap.find? h.wins 0 = some { winOne with step := some d } ∧ (StepD.of d).op = 1 ∧ (h.winFree 0 { winOne with step := some d } 1 1).1 = some true ∧
     (h.winFree 0 { winOne with step := some d } 1 2).1 = some false ∧
     (h.winUse (st h).env 0 { winOne with step := some d } (StepD.of d) 1 1 (StepD.of d).src).1.isSome = true) ∧
    (let d := stepD [(0, 2), (0x28, spWin 0 + 0x300), (0x30, 5), (0x38, spWin 0 + 0x400)]
     let r := { winOne with step := some d }
     let h := { (hwWin { jobOn winD with started := true } (some r)).wf Reg.plcStatusInForce pkgB 0 1 with mem := memAt (spWin 0 + 0x300) 8 5 }
     (StepD.of d).op = 2 ∧ (match h.winFlag (st h).env (StepD.of d).tflag 8 with | .ok off => (h.winReadFlag 0 off (StepD.of d).ttag).1 == some true | .error _ => false) = true ∧
     h.rf Reg.plcStatusInForce pkgB 0 ≠ 0 ∧ h.rf Reg.plcStatusGen pkgB 0 = (StepD.of d).gen ∧
     (h.winRunOp 0 (do
        let x ← winRecords (st h).env r (StepD.of d) (h.plcBank 0 (h.rf Reg.plcStatusInForceBank pkgB 0))
        winPutRecords (st h).env (StepD.of d) x.1
        pure x)).1.isSome = true) ∧
    (let d := StepD.of (stepD [(0, 1 + 2 ^ 16), (4, 2), (8, 32), (0x0C, 64), (0x10, 32), (0x18, 0x20000)])
     let h := hwWin { jobOn winD with started := true } (some winOne)
     h.sound ∧ d.op = 1 ∧ d.xform = 0 ∧ d.slot = 1 ∧ (h.winFree 0 winOne 1 1).1 = some true ∧
     ∀ i < 2, h.localMem (st h).env (d.src + i * d.c) d.b = .ok (0x20000 + 64 * i) ∧
       h.localMem (st h).env (winOne.window + d.slot * winOne.slotBytes + i * d.d) d.b = .ok (0x11000 + 32 * i)) ∧
    (let d := StepD.of (stepD [(0, 2), (0x28, spWin 0 + 0x300), (0x30, 5), (0x38, spWin 0 + 0x400), (0x20, spWin 0 + 0x500)])
     let h := { (hwWin { jobOn winD with started := true } (some winOne)).wf Reg.plcBank0Base pkgB 0 1 with mem := memAt 0x1004 4 1 }
     h.sound ∧ h.plcBank 0 0 = 0x1000 ∧ h.localMem (st h).env 0x1000 128 = .ok 0x1000 ∧ Mem.num h.mem 0x1004 4 = 1 ∧
     h.localMem (st h).env 0x1080 128 = .ok 0x1080 ∧ (∀ i < 8, h.localMem (st h).env (d.totals + 4 * i) 4 = .ok (spWin 0 + 0x500 + 4 * i)) ∧
     h.localMem (st h).env d.records 144 = .ok (spWin 0 + 0x400)) ∧
    (∀ tag ∈ [5, 6], let d := stepD [(0, 3), (4, tag), (0x18, spWin 0 + 0x300)]
     let h := { hwWin { jobOn winD with started := true } (some { winOne with step := some d }) with mem := memAt (spWin 0 + 0x300) 8 5 }
     (StepD.of d).op = 3 ∧ (match h.winFlag (st h).env (StepD.of d).src 8 with | .ok off => (h.winReadFlag 0 off (StepD.of d).a).1 == some (tag == 5) | .error _ => false) = true) ∧
    ((StepD.of (stepD [(0, 4), (8, 2)])).op = 4 ∧ 0 + 1 < (StepD.of (stepD [(0, 4), (8, 2)])).b ∧ (StepD.of (stepD [(0, 4), (8, 2)])).b ≤ 1 + 1) ∧
    ((StepD.of (stepD [(0, 5)])).op = 5 ∧ hwA.beatOf (st hwA).env 0 = winOne.beat ∧
      ({ hwA with fabN := 1 } : Hw).beatOf (st hwA).env 0 ≠ winOne.beat) := by
  unfold State.sealed Hw.sound; decide +kernel

/-! The shared address space and the control processors (14). -/

/-- A request of node 1 at byte 0x1000 of C-die 0's scratchpad. -/
def reqF (typ : Nat) (l : List (Nat × Nat)) (n : Nat) : Frame := frame typ (coordOf 1 0 7) (coordOf 0 28 8) (spWin 0 + 0x1000) (payload l n)
def atomF (aop afmt issue : Nat) : Frame := reqF 8 [(0, 4), (4, 1), (6, aop), (7, afmt), (0x10, issue), (0x18, 3)] 64

theorem witness_requests :
    (∀ f ∈ [reqF 1 [(0, 4), (4, 64)] 128, reqF 6 [(0, 4), (4, 64)] 64] ++ ([1, 2, 3, 4, 5, 6, 7, 8, 9, 0x0A].map (fun a => atomF a 0 0)) ++ [atomF 0x10 2 0],
      let h := hwIn hwA f
      let g := (h.arrive f (reqRoom (st h).env f)).2
      let r := ReqD.of f.payload
      (st h).sealed ∧ (h.arrive f (reqRoom (st h).env f)).1 = true ∧ g.reqStatus (st h).env 24 f r = .ok ∧
      r.deferred (st h).env (Frame.typ f) = false ∧ good (runOp (reqAccess f r) { g with moved := 0 }) = true ∧ h.sound) ∧
    (let f := reqF 1 [(0, 4), (4, 64)] 128
     let h := { hwIn hwA f with rgn := [(24, { enable := true })] }
     (h.arrive f (reqRoom (st h).env f)).1 = true ∧
     (h.arrive f (reqRoom (st h).env f)).2.reqStatus (st h).env 24 f (ReqD.of f.payload) = .writeDenied) := by
  unfold State.sealed Hw.sound; decide +kernel

theorem test_remote_cas_writes_when_equal : after (.atomicCas (atomF 0x0A 0 0)) (hwIn hwA (atomF 0x0A 0 0))
    (fun h => Mem.num h.mem (spWin 0 + 0x1000) 4 = 3) = true := by decide +kernel
theorem test_remote_add : after (.atomicAdd (atomF 1 0 0)) { hwIn hwA (atomF 1 0 0) with mem := memAt (spWin 0 + 0x1000) 4 0xFFFFFFFE }
    (fun h => Mem.num h.mem (spWin 0 + 0x1000) 4 = 1) = true := by decide +kernel

/-- Deterministic mode: boundary 0 + DEFER has not fallen, and has. -/
theorem witness_deferred : ∀ n ∈ [1, 2],
    let f := atomF 0x10 2 0
    let h := { hwIn hwA f with fabN := n }
    let s : State := { st h with tl := { Timelines.fresh with det := true } }
    let g := (h.arrive f (reqRoom s.env f)).2
    s.sealed ∧ s.tl.det = true ∧ Frame.typ f = 8 ∧ (ReqD.of f.payload).aop = 0x10 ∧ (h.arrive f (reqRoom s.env f)).1 = true ∧
    g.reqStatus s.env 24 f (ReqD.of f.payload) = .ok ∧ (g.fabN < g.faddDue (ReqD.of f.payload).issue ↔ n = 1) := by
  unfold State.sealed; decide +kernel

theorem witness_answers :
    (let f := frame 7 (coordOf 1 28 8) (coordOf 0 0 7) 5 (payload [] 64)
     (st (hwIn hwA f)).sealed ∧ Frame.typ f = 7 ∧ ((hwIn hwA f).arrive f (fun _ => true)).1 = true) ∧
    (let h := hwA.wf Reg.rgnStatusLoading pkgB 0 1
     h.rf Reg.rgnStatusLoading pkgB ≠ 0 ∧ SMap.find? h.rgnNext 24 = none) := by
  unfold State.sealed; decide +kernel

/-- Thread 3 of the control processor at unit 7 of C-die 0 runs instruction `w` at scratchpad byte 0x4000; x5 points at byte
0x1000, x6 holds `v`. -/
def hwCp (w v : Nat) : Hw :=
  let h := (hwA.wf Reg.cpPcPc (rkey 0 7 0) 3 (2 ^ 47 + 0x4000)).wf Reg.cpTstatState (rkey 0 7 0) 3 1
  { h.setCp 0 7 { threads := [(3, { x := [(5, BitVec.ofNat 64 (2 ^ 47 + 0x1000)), (6, BitVec.ofNat 64 v)] })] } with
    mem := Mem.write (memAt (spWin 0 + 0x4000) 4 w) (spWin 0 + 0x1000) (toBytes 8 5) }

def cpH (h : Hw) : Hw := (h.cpFetch (st h).env 0 7 (2 ^ 47 + 0x4000)).2.cpTurn 0 7 3
def cpI (w : Nat) (h : Hw) : CpIns := ⟨0, 7, 3, 2 ^ 47 + 0x4000, 4, w, (cpH h).thread 0 7 3⟩
def fetches (w : Nat) (h : Hw) : Bool :=
  match (h.cpFetch (st h).env 0 7 (2 ^ 47 + 0x4000)).1 with
  | .ok x => x.1 == w && x.2 == 4
  | .error _ => false

theorem runs_of (kind : CpClass) (w : Nat) (h : Hw)
    (c : h.dieOn (st h).env 0 = true ∧ h.cpIssuer 0 7 = some 3 ∧ h.rf Reg.cpPcPc (rkey 0 7 0) 3 = 2 ^ 47 + 0x4000 ∧ fetches w h = true ∧
      cpClass w = kind ∧ (cpI w h).x.failed = none ∧ (cpH h).badSites.contains (.file 0 7 3) = false) :
    (st h).cpRuns kind (cpI w h) (cpH h) := by
  obtain ⟨a, b, p, f, k, x, q⟩ := c
  refine ⟨⟨a, Nat.le_refl 7, show 7 ≤ 10 by decide, b, p.symm, ⟨_, ?_, rfl⟩, rfl, k, x⟩, q⟩
  unfold fetches at f
  show h.cpFetch (st h).env 0 7 (2 ^ 47 + 0x4000) = (.ok (w, 4), _)
  rcases e : h.cpFetch (st h).env 0 7 (2 ^ 47 + 0x4000) with ⟨_ | y, g⟩
  · rw [e] at f; simp at f
  · rw [e] at f
    obtain ⟨y1, y2⟩ := y
    simp at f
    rw [f.1, f.2]

def rvR (op f7 f3 rd a b : Nat) : Nat := f7 * 2 ^ 25 + b * 2 ^ 20 + a * 2 ^ 15 + f3 * 2 ^ 12 + rd * 2 ^ 7 + op

/-- One instruction of every class, at its place in the address space. -/
theorem witness_cp_classes : ∀ x ∈ [(CpClass.load, rvR 0x03 0 3 7 5 0), (.store, rvR 0x23 0 3 0 5 6), (.amo, rvR 0x2F 0 3 7 5 6), (.lr, rvR 0x2F 8 3 7 5 0),
      (.sc, rvR 0x2F 12 3 7 5 6), (.fence, rvR 0x0F 0 0 0 0 0), (.fenceI, rvR 0x0F 0 1 0 0 0), (.ecall, 0x73), (.kaddW, rvR 0x0B 0 2 0 5 6),
      (.kaddD, rvR 0x0B 0 3 0 5 6), (.kyield, rvR 0x0B 1 0 0 0 0), (.kwaitf, rvR 0x0B 2 3 7 5 6), (.kpost, rvR 0x0B 3 3 7 5 6), (.other, rvR 0x33 0 0 7 5 6)],
    let h := hwCp x.2 5
    h.dieOn (st h).env 0 = true ∧ h.cpIssuer 0 7 = some 3 ∧ h.rf Reg.cpPcPc (rkey 0 7 0) 3 = 2 ^ 47 + 0x4000 ∧ fetches x.2 h = true ∧
      cpClass x.2 = x.1 ∧ (cpI x.2 h).x.failed = none ∧ (cpH h).badSites.contains (.file 0 7 3) = false := by decide +kernel

theorem witness_cp_runs : (st (hwCp (rvR 0x03 0 3 7 5 0) 5)).sealed ∧
    (st (hwCp (rvR 0x03 0 3 7 5 0) 5)).cpRuns .load (cpI (rvR 0x03 0 3 7 5 0) (hwCp (rvR 0x03 0 3 7 5 0) 5)) (cpH (hwCp (rvR 0x03 0 3 7 5 0) 5)) :=
  ⟨⟨rfl, rfl⟩, runs_of _ _ _ (witness_cp_classes (.load, rvR 0x03 0 3 7 5 0) (by decide))⟩

/-- Where the address of x5 lies for this thread, and that its line is free. -/
def cpHere (w : Nat) (h : Hw) (n : Nat) : Bool :=
  (match (cpH h).cpPlace (st h).env 0 (2 ^ 47 + 0x1000) n with | .ok (.ok (.here off)) => off == spWin 0 + 0x1000 | _ => false) &&
    ((cpH h).lineBusy (cpI w h) (.here (spWin 0 + 0x1000))).isNone && !(cpH h).slotsFull (cpI w h)

/-- Every word of that thread's package is sound and no region is mirrored; the address of CP_CTRL of unit 8 is a register. -/
theorem witness_cp_plain :
    (hwCp 0 5).sound ∧ (hwCp 0 5).mirrors = [] ∧
    (match (cpH (hwCp 0 5)).cpPlace (st (hwCp 0 5)).env 0 (0xF00000000000 + 8 * 0x100000) 8 with
      | .ok (.ok (.regs place)) => place == 8 * 0x100000 | _ => false) = true := by
  unfold Hw.sound; decide +kernel

theorem witness_cp_memory :
    (let w := rvR 0x03 0 3 7 5 0
     let h := hwCp w 5
     add64n ((cpI w h).x.rx (rvRs1 w)) (immI w) = 2 ^ 47 + 0x1000 ∧ (loadKind w).1 = 8 ∧ cpHere w h 8 = true ∧
     good (runOp (loadN (spWin 0 + 0x1000) 8) { (cpH h).cpCount (cpI w h) (.here (spWin 0 + 0x1000)) with moved := 0 }) = true) ∧
    (let w := rvR 0x23 0 3 0 5 6
     let h := hwCp w 5
     let g := ((cpH h).cpCount (cpI w h) (.here (spWin 0 + 0x1000))).cpDone (cpI w h) (cpI w h).x (cpI w h).next
     add64n ((cpI w h).x.rx (rvRs1 w)) (immS w) = 2 ^ 47 + 0x1000 ∧ cpHere w h 8 = true ∧
     good (runOp (storeN (spWin 0 + 0x1000) 8 5) { g with moved := 0 }) = true ∧ g.partOf 0 = (cpH h).partOf 0) ∧
    (let w := rvR 0x0F 0 0 0 0 0
     (cpH (hwCp w 5)).outstanding 0 7 3 = [] ∧
     (cpH { hwCp w 5 with reqs := [⟨1, .thread 0 7 3 0 0 0, 1, 1, 0, 8, none⟩] }).outstanding 0 7 3 ≠ []) ∧
    (let w := rvR 0x03 0 3 7 5 0
     let h := { (hwCp w 5).setCp 0 7 { threads := [(3, { x := [(5, BitVec.ofNat 64 (2 ^ 63 + 2 ^ 48 + 0x1000))] })] } with mem := (hwCp w 5).mem }
     (match (cpH h).cpPlace (st h).env 0 (2 ^ 63 + 2 ^ 48 + 0x1000) 8 with | .ok (.ok (.there n off)) => n == 1 && off == 0x1000 | _ => false) = true ∧
     ((cpH h).lineBusy (cpI w h) (.there 1 0x1000)).isNone = true) := by
  decide +kernel

theorem test_cp_store_is_little_endian : after (.cpStore 0 7 3) (hwCp (rvR 0x23 0 1 0 5 6) 0x12345)
    (fun h => Mem.read h.mem (spWin 0 + 0x1000) 3 = [0x45, 0x23, 0]) = true := by decide +kernel

theorem witness_cp_atomics :
    (∀ x ∈ [(rvR 0x2F 0 3 7 5 6, 1), (rvR 0x2F 1 3 7 5 6, 1)],
      let w := x.1
      let h := hwCp w 5
      let g := (cpH h).cpCount (cpI w h) (.here (spWin 0 + 0x1000))
      let r := runOp (atomicApply ((amoOp (bits w 31 27)).getD 1) 1 (spWin 0 + 0x1000) [5] 0) { g with moved := 0 }
      rvRd w ≠ 0 ∧ rvF3 w - 2 = 1 ∧ cpHere w h 8 = true ∧ good r = true ∧ g.partOf 0 = (cpH h).partOf 0 ∧ (r.2.chargeMem (some 0)).mirq = []) ∧
    (∀ w ∈ [rvR 0x2F 8 3 7 5 0, rvR 0x2F 12 3 7 5 6], let h := hwCp w 5
      (match (cpH h).cpOwnWord (st h).env 0 (2 ^ 47 + 0x1000) 8 with | .ok off => off == spWin 0 + 0x1000 | .error _ => false) = true ∧
      good (runOp (loadN (spWin 0 + 0x1000) 8) { cpH h with moved := 0 }) = true ∧ SMap.find? (cpH h).reservations (threadKey 0 7 3) = none) ∧
    (let w := rvR 0x2F 12 3 7 5 6
     let h := { hwCp w 5 with reservations := [(threadKey 0 7 3, spWin 0 + 0x1000)] }
     SMap.find? (cpH h).reservations (threadKey 0 7 3) = some (spWin 0 + 0x1000) ∧
     good (runOp (storeN (spWin 0 + 0x1000) 8 5) { cpH h with moved := 0 }) = true) ∧
    (∀ x ∈ [(rvR 0x0B 0 2 0 5 6, 2, 4), (rvR 0x0B 0 3 0 5 6, 3, 8)],
      let h := hwCp x.1 5
      let g := ((cpH h).cpCount (cpI x.1 h) (.here (spWin 0 + 0x1000))).cpDone (cpI x.1 h) (cpI x.1 h).x (cpI x.1 h).next
      let r := runOp (atomicApply 0x10 x.2.1 (spWin 0 + 0x1000) [5] 0) { g with moved := 0 }
      cpHere x.1 h x.2.2 = true ∧ good r = true ∧ ((r.2.chargeMem (g.partOf 0)).takeTseq 0 7 3).2.mirq = []) := by
  decide +kernel

theorem test_cp_amo_returns_old : after (.cpAmo 0 7 3) (hwCp (rvR 0x2F 0 3 7 5 6) 9)
    (fun h => Mem.num h.mem (spWin 0 + 0x1000) 8 = 14 ∧ (h.thread 0 7 3).rx 7 = 5) = true := by decide +kernel
theorem test_cp_sc_without_reservation : after (.sc 0 7 3) (hwCp (rvR 0x2F 12 3 7 5 6) 9)
    (fun h => Mem.num h.mem (spWin 0 + 0x1000) 8 = 5 ∧ (h.thread 0 7 3).rx 7 = 1) = true := by decide +kernel
theorem test_cp_add : after (.cpInstruction 0 7 3) (hwCp (rvR 0x33 0 0 7 6 6) 9) (fun h => (h.thread 0 7 3).rx 7 = 18) = true := by decide +kernel

theorem witness_cp_other : rvOp (rvR 0x33 0 0 7 5 6) ≠ 0x73 ∧
    (cpCompute (cpI (rvR 0x33 0 0 7 5 6) (hwCp (rvR 0x33 0 0 7 5 6) 5))).isSome = true := by decide +kernel

/-- A flag that is set and one that is not; a post to the own dispatch engine with room and without, and to no unit. -/
theorem witness_cp_waits_and_posts :
    (∀ v ∈ [5, 6], let w := rvR 0x0B 2 3 7 5 6
      let h := hwCp w v
      (match (cpH h).resolve (st h).env false (2 ^ 47 + 0x1000) 8 with | .ok (.here off) => off == spWin 0 + 0x1000 | _ => false) = true ∧
      (spWin 0 + 0x1000) % 8 = 0 ∧ spDie (spWin 0 + 0x1000) = some 0 ∧
      (match (runOp (loadN (spWin 0 + 0x1000) 8) { cpH h with moved := 0 }).1 with | .ok x => (bits x 31 0 == v) == (v == 5) | .error _ => false) = true) ∧
    (∀ x ∈ [(coordOf 0 0 4, true, true), (coordOf 0 0 4, true, false), (coordOf 0 0 11, false, true)], let w := rvR 0x0B 3 3 7 5 6
      let h := { hwCp w x.1 with jobs := if x.2.2 then [] else [(ukey 0 4, List.replicate 64 (jobOn 0))] }
      let r := runOp (loadB (spWin 0 + 0x1000) 128) { cpH h with moved := 0 }
      let g := r.2.chargeMem (some 0)
      (cpH h).slotsFull (cpI w h) = false ∧
      (match (cpH h).resolve (st h).env false (2 ^ 47 + 0x1000) 128 with | .ok (.here off) => off == spWin 0 + 0x1000 | _ => false) = true ∧
      good r = true ∧ g.kpostTarget (st h).env 0 x.1 = x.2.1 ∧ (x.2.1 = true → g.targetRoom 0 4 ((Mem.read h.mem (spWin 0 + 0x1000) 128).headD 0).toNat = x.2.2) ∧ g.kpostRoom 0 7 = true) := by
  decide +kernel

theorem witness_threads :
    (let h := hwA.wf Reg.cpTstatState (rkey 23 10 0) 15 3
     (st h).sealed ∧ h.dieOn (st h).env 23 = true ∧ (h.partOf 23).isSome = true ∧ h.threadState 23 10 15 ≠ 1 ∧ h.threadState 23 10 15 ≠ 2) ∧
    (hwCp 0 0).threadLive 0 7 3 = true ∧
    (let h := ((hwCp 0 0).wf Reg.cpTstatState (rkey 0 7 0) 3 2).setCp 0 7 { threads := [(3, { wait := some (.flag 1 (spWin 0) 5 0 0) })] }
     (h.thread 0 7 3).wait = some (.flag 1 (spWin 0) 5 0 0) ∧ h.threadState 0 7 3 = 2 ∧ h.rf Reg.cpCtrlFlagTimeout (rkey 0 7 0) ≠ 0) := by
  unfold State.sealed; decide +kernel

theorem test_stopped_thread_keeps_cause : after (.cpTstatStop 0 7 3) (hwCp 0 0)
    (fun h => h.threadState 0 7 3 = 3 ∧ h.rf Reg.cpTstatCause (rkey 0 7 0) 3 = 7) = true := by decide +kernel

/-! Time, beats, partitions, the deadline monitor (15, 16). -/

theorem witness_time :
    ((st (hwA.wf Reg.timeCtrlGrandmaster tmB 0 1)).sealed ∧ (hwA.wf Reg.timeCtrlGrandmaster tmB 0 1).rf Reg.timeCtrlGrandmaster tmB = 1 ∧
      hwA.sync.everSynced = false) ∧
    ((st hwA).sealed ∧ hwA.rf Reg.timeCtrlGrandmaster tmB ≠ 1) ∧
    (let h := { hwA.wf Reg.timeStatusSynced tmB 0 1 with sync := { lostAt := some 7 } }
     h.sync.lostAt = some 7 ∧ h.rf Reg.timeStatusSynced tmB = 1 ∧ h.rf Reg.timeStatusGm tmB = 0) := by
  unfold State.sealed; decide +kernel

theorem test_time_set_elsewhere_is_discarded : after (.timeSet 9) hwA (fun h => h.now = 0) = true := by decide +kernel
theorem test_time_set : after (.timeSet 9) (hwA.wf Reg.timeCtrlGrandmaster tmB 0 1) (fun h => h.now = 9) = true := by decide +kernel

/-- A record of node 1's, or of the own node's, time master. -/
def timeF (node kind : Nat) (l : List (Nat × Nat)) : Frame :=
  frame 9 (coordOf node 28 10) (coordOf 0 28 10) 0 (payload ((0, kind) :: (4, 9) :: l) 64)

theorem witness_deadline :
    (let f := timeF 1 5 []
     let h := { hwIn hwA f with dlm := [(0, { ckey := 9 })] }.wf Reg.dlmCtrlLeader tmB 0 1
     (st h).sealed ∧ (h.arrive f (fun _ => true)).1 = true ∧ isTimeRec f 5 = true ∧ h.rf Reg.dlmCtrlLeader tmB 0 = 1 ∧ recKey f = (h.dlmOf 0).ckey) ∧
    (let f := timeF 1 6 [(0x0C, 1)]
     let h := { hwIn hwA f with dlm := [(0, { ckey := 9 })] }
     (h.arrive f (fun _ => true)).1 = true ∧ isTimeRec f 6 = true ∧ recKey f = (h.dlmOf 0).ckey ∧
     h.rf Reg.dlmStatusSwitches tmB 0 < pay f.payload 0x0C 4) ∧
    (((Timelines.fresh.setPart 0 { st := .running, period := 1000 }).part 0).st = .running) ∧
    ((hwA.wf Reg.dlmCtrlLeader tmB 7 1).rf Reg.dlmCtrlLeader tmB 7 = 1 ∧ hwA.rf Reg.dlmCtrlLeader tmB 7 ≠ 1) := by
  unfold State.sealed; decide +kernel

/-- A CINCH of partition 0 with the least period, over span 0, whose one endpoint lies on this package. -/
def cinchD : Desc := desc [(0, 0x60), (8, 1000), (0x0C, 9)]
def hwCinch : Hw :=
  let h := ((hwJ 28 10 (jobOn cinchD)).wf Reg.timeStatusSynced tmB 0 1).wf Reg.spanTblEnable pkgB 0 1
  { h with mem := Mem.write (memAt 0 16 (0x8000 + 2 ^ 16 + coordOf 0 0 4 * 2 ^ 32 + 0x1000 * 2 ^ 64)) 0x1000 (toBytes 4 (coordOf 0 0 4)) }

theorem witness_cinch :
    let h := hwCinch
    let r := runOp (readSpan (st h).env (h.rf Reg.spanTblBase pkgB 0 * 2 ^ 17) spanCount (cinchD.fld 4 11 0) 0) h
    (st h).sealed ∧ (h.queue 28 10).find? (fun j => !j.started) = some (jobOn cinchD) ∧ cinchD.fld 0 10 8 = 0 ∧ cinchOk cinchD = true ∧
    h.loaded 0 = true ∧ ((st h).tl.part 0).st = .idle ∧ h.rf Reg.timeStatusSynced tmB ≠ 0 ∧ h.node?.isSome = true ∧ h.rf Reg.spanTblEnable pkgB 0 ≠ 0 ∧
    (match r.1 with | .ok x => noDup x.ends && (x.ends == [coordOf 0 0 4]) | .error _ => false) = true ∧
    (let num (x n : Nat) := Mem.num h.mem x n
     h.sound ∧ h.localMem (st h).env 0 32 = .ok 0 ∧ num 0 2 = 2 ^ 15 ∧ num 2 2 = 1 ∧ num 16 16 = 0 ∧ num 8 8 = 0x1000 ∧
     h.localMem (st h).env 0x1000 4 = .ok 0x1000 ∧ num 0x1000 4 < 2 ^ 24 ∧ (st h).env.coordOk h.node (num 0x1000 4) = true ∧
     strictAsc [num 0x1000 4] = true ∧ num 4 4 = num 0x1000 4) := by
  unfold State.sealed Hw.sound; decide +kernel

def cinchOne (leader : Nat) : Cinch :=
  { job := jobOn cinchD, ckey := 9, period := 1000, lead := 10000, timeout := 1000000, notBefore := 0, span := 0, sig := 5, leader := leader, members := [0, 1]
    accepted := 0 }
def stC (leader : Nat) (f : Frame) (x : PartTl) : State :=
  { st { hwIn hwA f with cinches := [(0, cinchOne leader)], now := 50 } with tl := Timelines.fresh.setPart 0 x }
def armed : PartTl := { st := .armed, period := 1000 }

theorem witness_go_and_fail :
    (∀ t0 ∈ [50, 51], let f := timeF 1 2 [(0x10, t0)]
      let s := stC 1 f armed
      let h := (s.hw.arrive f (fun _ => true)).2
      s.sealed ∧ isTimeRec f 2 = true ∧ (s.hw.arrive f (fun _ => true)).1 = true ∧ recPart f = 0 ∧ SMap.find? h.cinches 0 = some (cinchOne 1) ∧
      (s.tl.part 0).st = .armed ∧ (s.tl.part 0).go = false ∧ recKey f = 9 ∧ (h.now < pay f.payload 0x10 8 ↔ t0 = 51)) ∧
    (let f := timeF 1 3 [(0x0C, 0x42)]
     let s := stC 1 f armed
     let h := (s.hw.arrive f (fun _ => true)).2
     isTimeRec f 3 = true ∧ (s.hw.arrive f (fun _ => true)).1 = true ∧ recPart f = 0 ∧ SMap.find? h.cinches 0 = some (cinchOne 1) ∧ recKey f = 9 ∧
     Status.ofCode (pay f.payload 0x0C 1) = some .timeout) ∧
    (let s := stC 1 (timeF 1 3 []) armed
     SMap.find? s.hw.cinches 0 = some (cinchOne 1) ∧ (cinchOne 1).leader ≠ s.hw.node ∧ (s.tl.part 0).go = false) := by
  unfold State.sealed; decide +kernel

theorem test_go_in_the_past_runs_at_once :
    (match exec (.go (timeF 1 2 [(0x10, 50)])) (stC 1 (timeF 1 2 [(0x10, 50)]) armed) with
      | .next t => (t.tl.part 0).st == .running && (t.tl.part 0).origin == 50 | _ => false) = true := by decide +kernel

/-- At the leader: READY of a member that agrees, as the first and as the last; one whose period differs. -/
theorem witness_cinch_leader :
    (∀ x ∈ [(1000, ([] : List Nat)), (1000, [0]), (999, [])],
      let f := timeF 1 1 [(8, x.1), (0x18, 5)]
      let c := { cinchOne 0 with ready := x.2 }
      let h := { hwIn hwA f with cinches := [(0, c)] }
      let r := h.arrive f (fun h => match SMap.find? h.cinches (recPart f) with | some c => c.leader = h.node | none => false)
      (st h).sealed ∧ isTimeRec f 1 = true ∧ recPart f = 0 ∧ r.1 = true ∧ SMap.find? r.2.cinches 0 = some c ∧ c.decided = false ∧ recKey f = c.ckey ∧
      (pay f.payload 8 4 = c.period ↔ x.1 = 1000) ∧ pay f.payload 0x18 8 = c.sig ∧ c.members.contains (cNode (Frame.src f)) = true ∧
      ((natInsert c.ready (cNode (Frame.src f))).length = c.members.length ↔ x.2 = [0])) ∧
    (let h := { hwA with cinches := [(0, cinchOne 0)] }
     SMap.find? h.cinches 0 = some (cinchOne 0) ∧ (cinchOne 0).leader = h.node ∧ (cinchOne 0).decided = false) := by
  unfold State.sealed; decide +kernel

def loadD : Desc := desc [(0, 0x70 + 256), (4, 0xFF)]

theorem witness_partitions :
    (let h := (hwJ 28 8 (jobOn loadD)).wf Reg.partDies pkgB 0 0
     let c := PartD.of loadD
     (st h).sealed ∧ (h.queue 28 8).find? (fun j => !j.started && !(([0x40, 0x41, 0x71] : List Nat).contains (j.body.fld 0 7 0))) = some (jobOn loadD) ∧
     loadD.fld 0 7 0 = 0x70 ∧ c.reserved = true ∧ good (runOp (readResv (st h).env c) h) = true ∧ h.loadRefused (st h).env c = false) ∧
    (let c := PartD.of (loadD + BitVec.ofNat 1024 (0x1000 * 2 ^ 128))
     let h := { hwA with mem := Mem.write (memAt 0x1000 4 (1 + 256)) 0x1080 (toBytes 4 (1 + 256)) }
     h.sound ∧ c.resv = 0x1000 ∧ h.localMem (st h).env c.resv 256 = .ok 0x1000 ∧
     (∀ i < 4, let d : Desc := BitVec.ofNat 1024 (Mem.num h.mem (0x1000 + 64 * i) 64)
       if i % 2 = 0 then d.fld 0 7 0 = 1 ∧ d.fld 0 10 8 = c.part else d.fld 0 7 0 = 0)) ∧
    (∀ state ∈ [0, 2], let d := desc [(0, 0x71)]
      let h := (hwJ 28 8 (jobOn d)).wf Reg.partState pkgB 0 state
      h.mgmtJob 0x71 = some (jobOn d) ∧ (PartD.of d).reserved = true ∧ (PartD.of d).dies = 0 ∧ (PartD.of d).spBytes = 0 ∧ (PartD.of d).prog = 0 ∧
      (PartD.of d).cores = 0 ∧ (PartD.of d).resv = 0 ∧ h.rf Reg.partState pkgB (PartD.of d).part = state) ∧
    (∀ d u t n, Origin.internal ≠ .kpost d u t n) := by
  refine ⟨?_, ?_, ?_, fun _ _ _ _ => nofun⟩
  · unfold State.sealed; decide +kernel
  · unfold Hw.sound; decide +kernel
  · decide +kernel

theorem test_load_makes_loading : after .load ((hwJ 28 8 (jobOn loadD)).wf Reg.partDies pkgB 0 0)
    (fun h => h.rf Reg.partState pkgB 1 = 1) = true := by decide +kernel

theorem witness_boundaries :
    (st hwA).sealed ∧ hwA.power.stopped = false ∧ (st hwA).tl.fabOrigin ≤ hwA.now ∧
    (∀ x ∈ [({ st := .running, period := 1000 } : PartTl), { st := .armed, period := 1000, go := true }, {}],
      (Timelines.fresh.setPart 7 x).part 7 = x) ∧
    (moduleEnd 23 3).isSome = true ∧ (moduleEnd 31 5).isSome = true ∧ moduleEnd 0 4 = none := by
  unfold State.sealed; decide +kernel

theorem test_boundaries_fall_at_their_time : after .fabricBoundary hwA (fun h => h.now = 100000 ∧ h.fabN = 1) = true := by decide +kernel

/-! The host interface (17). -/

/-- Rings 7 of function 8: four entries, in service, the submission ring at 0x10000 of host memory. -/
def hwRing (head tail : Nat) (host : Mem) : Hw :=
  let b := fkey 8 0
  let h := ((hwA.wf Reg.sqStatusState b 7 1).wf Reg.sqCfgSize b 7 4).wf Reg.sqCfgCq b 7 7
  let h := ((h.wf Reg.sqBaseBase b 7 0x100).wf Reg.sqStatusHead b 7 head).wf Reg.sqStatusTail b 7 tail
  let h := ((h.wf Reg.cqStatusState b 7 1).wf Reg.cqCfgSize b 7 4).wf Reg.cqStatusTail b 7 2
  let h := (((h.wf Reg.eqStatusState b 1 1).wf Reg.eqCfgSize b 1 4).wf Reg.eqStatusTail b 1 2).wf Reg.partState pkgB 7 2
  { h with host := host }

theorem witness_doorbells :
    let b := fkey 8 0
    let h := hwRing 0 0 []
    (st h).sealed ∧ h.served = true ∧ 7 < nSq 8 ∧ h.rf Reg.sqStatusState b 7 = 1 ∧ 3 < h.rf Reg.sqCfgSize b 7 ∧ h.rf Reg.sqCfgSize b 7 ≤ 4 ∧
    h.rf Reg.cqStatusState b 7 = 1 ∧ headOk (h.rf Reg.cqCfgSize b 7) (h.rf Reg.cqStatusHead b 7) (h.rf Reg.cqStatusTail b 7) 2 = true ∧
    headOk (h.rf Reg.cqCfgSize b 7) (h.rf Reg.cqStatusHead b 7) (h.rf Reg.cqStatusTail b 7) 3 = false ∧
    1 < nEq 8 ∧ h.rf Reg.eqStatusState b 1 = 1 ∧ headOk (h.rf Reg.eqCfgSize b 1) (h.rf Reg.eqStatusHead b 1) (h.rf Reg.eqStatusTail b 1) 2 = true ∧
    ringFree 4 2 2 ≠ 0 ∧ ringFree 4 3 2 = 0 ∧ headOk 4 3 2 3 = true ∧ h.io.linkUp = true := by
  unfold State.sealed; decide +kernel

theorem test_sq_doorbell : after (.sqDb 8 7 3) (hwRing 0 0 []) (fun h => h.rf Reg.sqStatusTail (fkey 8 0) 7 = 3) = true := by decide +kernel
theorem test_cq_doorbell_past_tail_is_ignored : after (.cqDb 8 7 3) (hwRing 0 0 []) (fun h => h.rf Reg.cqStatusHead (fkey 8 0) 7 = 0) = true := by
  decide +kernel

/-- An entry for the host DMA engine, unit 11 of M0; one whose length is not the unit's; one that waits for FENCE. -/
def entry (len fence : Nat) : Mem := memAt 0x10000 8 (5 + 11 * 2 ^ 32 + 28 * 2 ^ 40 + len * 2 ^ 48) |> fun m => Mem.write m 0x10008 (toBytes 1 fence)

theorem witness_ring_entries :
    (∀ x ∈ [(64, 0, 0, true), (128, 0, 0, false), (64, 1, 1, true)],
      let b := fkey 8 0
      let h := ((hwRing 0 1 (entry x.1 x.2.1)).wf Reg.sqStatusOutstanding b 7 x.2.2.1).wf Reg.cqCfgSize b 7 16
      let e := SqHead.of (h.hostNum 0x10000 32)
      let d : Desc := BitVec.ofNat 1024 (h.hostNum 0x10020 (if e.len = 64 then 64 else 128))
      (st h).sealed ∧ h.io.linkUp = true ∧ h.rf Reg.sqStatusState b 7 = 1 ∧ h.rf Reg.sqStatusHead b 7 ≠ h.rf Reg.sqStatusTail b 7 ∧
      h.cqRoom 8 (h.rf Reg.sqCfgCq b 7) = true ∧ h.rf Reg.sqBaseBase b 7 * 256 + 256 * h.rf Reg.sqStatusHead b 7 = 0x10000 ∧
      ((leastStatus (h.postCauses (st h).env 8 e d)).isNone = x.2.2.2) ∧ (e.fence = true ↔ x.2.1 = 1) ∧
      (x.2.2.1 = 1 → h.rf Reg.sqStatusOutstanding b 7 ≠ 0) ∧ h.targetRoom e.die e.unit (d.fld 0 7 0) = true ∧
      h.sqTurn (st h).env 8 7 = true) := by
  unfold State.sealed; decide +kernel

theorem test_ring_entry_is_posted : after (.sqEntryPost 8 7) (hwRing 0 1 (entry 64 0)) (fun h => (h.queue 28 11).length = 1) = true := by decide +kernel

def hdmaD (op : Nat) : Desc := desc [(0, op), (4, 64), (8, 0x2000), (0x10, spWin 0 + 0x1000)]

theorem witness_transfers : ∀ op ∈ [1, 2],
    let j := jobOn (hdmaD op)
    let h := hwJ 28 11 j
    (st h).sealed ∧ h.queue 28 11 = [j] ∧
    (match h.hdmaDecode (st h).env j (HdmaD.of j.body) with | .ok off => off == spWin 0 + 0x1000 | .error _ => false) = true ∧
    h.hdmaHeld (st h).env (HdmaD.of j.body) = false ∧ h.sound ∧ linkGood .good 64 = none ∧ linkGood (.poisoned 63) 64 = some (63, true) ∧ linkGood (.failed 0) 64 = some (0, false) ∧
    good (runOp (storeB (spWin 0 + 0x1000) (h.hostRead 0x2000 64)) { h with moved := 0 }) = true ∧
    good (runOp (storeB (spWin 0 + 0x1000) (h.hostRead 0x2000 63)) { h with moved := 0 }) = true ∧
    good (runOp (loadB (spWin 0 + 0x1000) 64) { h with moved := 0 }) = true := by
  unfold State.sealed Hw.sound; decide +kernel

theorem test_to_device : after (.toDevice .good) { hwJ 28 11 (jobOn (hdmaD 1)) with host := memAt 0x2000 4 9 }
    (fun h => Mem.num h.mem (spWin 0 + 0x1000) 4 = 9) = true := by decide +kernel
theorem test_to_host : after (.toHost .good) { hwJ 28 11 (jobOn (hdmaD 2)) with mem := memAt (spWin 0 + 0x1000) 4 9 }
    (fun h => Mem.num h.host 0x2000 4 = 9) = true := by decide +kernel

theorem witness_host_link :
    (let b := fkey 8 0
     let h := (hwA.wf Reg.cqModInten b 7 1).wf Reg.cqModDelay b 7 1
     let h := ((h.wf Reg.eqModInten b 1 1).wf Reg.eqModDelay b 1 1).setRing (cqKey 8 7) { unsignalled := 1 }
     let h := h.setRing (eqKey 8 1) { unsignalled := 1 }
     (st h).sealed ∧ h.rf Reg.cqModInten b 7 ≠ 0 ∧ h.rf Reg.cqModDelay b 7 ≠ 0 ∧ (SMap.get h.io.rings {} (cqKey 8 7)).unsignalled ≠ 0 ∧
     h.rf Reg.eqModInten b 1 ≠ 0 ∧ h.rf Reg.eqModDelay b 1 ≠ 0 ∧ (SMap.get h.io.rings {} (eqKey 8 1)).unsignalled ≠ 0) ∧
    hwA.served = true ∧ 0 < nVec 8 ∧ hwA.io.linkUp = true ∧ ({ hwA with io := {} } : Hw).io.linkUp = false ∧ linkForm 7 16 = true := by
  unfold State.sealed; decide +kernel

theorem witness_registers :
    (st hwA).sealed ∧ hwA.served = true ∧ unitExists 31 7 = true ∧ SMap.find? hwA.commits (fkey 8 0) = none ∧ 5 ≤ hwA.stage ∧
    ({ hwA.toStage 4 with now := 0 } : Hw).stage < 5 ∧ ({ hwA.toStage 4 with now := 0 } : Hw).served = true ∧ i3cOffsets.contains 0xE20 = true ∧
    (let h := (hwA.wf Reg.dbgCtrlState pkgB 0 1).wf Reg.dbgCtrlScope pkgB 0 3
     h.scope 0 = true ∧ h.scope 1 = true) := by
  unfold State.sealed; decide +kernel

theorem test_register_read : after (.registerWrite ⟨.regs, pkgB + 0x20, 4, true, 0⟩) hwA
    (fun h => h.mgmt.regRead.toNat = 0x01A10000) = true := by decide +kernel

/-! Reset, boot, management (18). -/

def bootEnv : BootEnv := ⟨true, 0, true, 6, 16, 25⟩

/-- A firmware image of one 64-byte body in `m` at `a`, its SVN given. Whether a signature verifies is open (`Config`). -/
def imageAt (a svn : Nat) : Mem := Mem.write (memAt a 8 (0x4B4C4746 + 2 ^ 32 + svn * 2 ^ 48)) (a + 8) (toBytes 4 64)

/-- The key and the signature of an image of `imageAt` are accepted: what the open functions would have to answer. -/
def keyGood (i : Image) : Prop :=
  Config.sha3 (Mem.read i.mem (i.at_ + 0x40) 2592) = Config.fwKeyHash ∧
    Config.mlDsaVerify (Mem.read i.mem (i.at_ + 0x40) 2592) (Mem.read i.mem (i.at_ + 0xA60) 4627) i.digest = true

theorem witness_good_image (k : keyGood ⟨imageAt 0 0, 0⟩) : Image.err ⟨imageAt 0 0, 0⟩ true 0 = 0 := by
  have f : Image.formOk ⟨imageAt 0 0, 0⟩ = true := by decide +kernel
  have n : Image.svn ⟨imageAt 0 0, 0⟩ = 0 := by decide +kernel
  simp [Image.err, f, n, k.1, k.2]

theorem test_old_image_is_error_5 (k : keyGood ⟨imageAt 0 3, 0⟩) : Image.err ⟨imageAt 0 3, 0⟩ true 4 = 5 := by
  have f : Image.formOk ⟨imageAt 0 3, 0⟩ = true := by decide +kernel
  have n : Image.svn ⟨imageAt 0 3, 0⟩ = 3 := by decide +kernel
  simp [Image.err, f, n, k.1, k.2]

theorem test_unreadable_flash_is_error_1 : Image.err ⟨imageAt 0 0, 0⟩ false 0 = 1 := by decide +kernel
theorem test_bad_magic_is_error_2 : Image.err ⟨memAt 0 4 0x4B4C4747, 0⟩ true 0 = 2 := by decide +kernel

/-- Reset of the package, with power and without it. -/
theorem witness_resets :
    (st hwA).sealed ∧ hwA.power.good = true ∧ hwA.power.stopped = false ∧ hwA.served = true ∧
    ({ hwA with power := { good := false } } : Hw).power.good = false ∧
    (hwA.resetMp.flashImage.err false hwA.resetMp.nv.fuseSvn ≠ 0 ∧ hwA.resetMp.power.good = true ∧ hwA.resetMp.power.stopped = false) ∧
    (hwA.reach (hwA.mgmt.kick + orElse (hwA.rf Reg.wdtPeriod pkgB) 1 * 1000000)).mgmt.expiry = none ∧
    (let h0 : Hw := { hwA with mgmt := { hwA.mgmt with expiry := some 7 } }
     let h := h0.reach (h0.mgmt.kick + orElse (h0.rf Reg.wdtPeriod pkgB) 1 * 1000000)
     h.mgmt.expiry = some 7 ∧ h.now ≤ 7 + 1000000000 ∧ h.power.good = true ∧ h.power.stopped = false) ∧
    (let h0 : Hw := { hwA with now := 2000000000, mgmt := { hwA.mgmt with expiry := some 7 } }
     let h := h0.reach (h0.mgmt.kick + orElse (h0.rf Reg.wdtPeriod pkgB) 1 * 1000000)
     h.mgmt.expiry = some 7 ∧ 7 + 1000000000 < h.now) := by
  unfold State.sealed; decide +kernel

/-- The image that a reset of the management processor loads passes, if its key and signature do. -/
theorem witness_mp_reset (k : keyGood ⟨imageAt 0 0, 0⟩) :
    let h : Hw := { hwA with nv := { hwA.nv with flash := imageAt 0 0 } }
    h.resetMp.flashImage.err true h.resetMp.nv.fuseSvn = 0 := by
  have e : ({ hwA with nv := { hwA.nv with flash := imageAt 0 0 } } : Hw).resetMp.flashImage = ⟨imageAt 0 0, 0⟩ := by
    have : ({ hwA with nv := { hwA.nv with flash := imageAt 0 0 } } : Hw).resetMp.nv.flash = imageAt 0 0 := by decide +kernel
    have g : (imageAt 0 0).filter (fun c => c.1 < 0x1000000) = imageAt 0 0 := by decide +kernel
    simp only [Hw.flashImage, this, g]
  have n : ({ hwA with nv := { hwA.nv with flash := imageAt 0 0 } } : Hw).resetMp.nv.fuseSvn = 0 := by decide +kernel
  show Image.err (Hw.flashImage _) true _ = 0
  rw [e, n]
  exact witness_good_image k

theorem test_package_reset_keeps_fuses_and_host : (match exec (.rstCtrlPkg 0xC0DE bootEnv) (st { hwA with host := [(5, 7)], now := 9 }) with
    | .next t => t.hw.host = [(5, 7)] && t.hw.stage = 1 && t.hw.now = 0 && t.hw.rf Reg.bootStatusLastReset pkgB = 2
    | _ => false) = true := by decide +kernel
theorem test_wrong_key_is_ignored : after (.rstCtrlPkg 0xC0DF bootEnv) { hwA with now := 9 } (fun h => h.now = 9) = true := by decide +kernel

/-- Every stack trained, channels 0 and 1 of each M-die with DDR5 modules of 64 GiB. -/
def train (ok : BitVec 8) : MemTrain := ⟨ok, (List.range 16).map (fun n => if n % 4 < 2 then (1, 2, 64, 64) else (0, 0, 0, 0))⟩

theorem witness_boot_stages :
    (let h := hwA.toStage 1
     (st h).sealed ∧ h.stage = 1 ∧ h.flashImage.err false h.nv.fuseSvn ≠ 0) ∧
    (let h := hwA.toStage 3
     (st h).sealed ∧ h.stage = 3 ∧ (upto 8).find? (fun n => !(bit (train 0xFF).hbmOk.toNat n)) = none ∧
     (upto 8).find? (fun n => !(bit (train 0xFB).hbmOk.toNat n)) = some 2) ∧
    (let h := hwA.toStage 4
     (st h).sealed ∧ h.stage = 4 ∧ h.clears.length = 0 ∧ ((upto 24).filter (fun d => (st h).env.cdie d && !(bit (h.rf Reg.cdiePwrOff pkgB) d))).length = 24 ∧
     ((upto 24).filter (fun d => (st h).env.cdie d && !(bit ((h.wf Reg.cdiePwrOff pkgB 0 0xFFFFFF).rf Reg.cdiePwrOff pkgB) d))).length = 0) ∧
    (let h := hwA.toStage 5
     (st h).sealed ∧ h.stage = 5 ∧ (upto 48).all (fun p => !(({ h with regs := h.regs } : Hw).setPf Reg.xptPortState p pUp).portBusy (st h).env p) = true ∧
     (h.setPf Reg.xptPortState 3 1).portBusy (st h).env 3 = true) := by
  unfold State.sealed; decide +kernel

theorem test_memory_of_two_channels_a_die : trainedGib (train 0xFF) = 384 + 512 := by decide +kernel
theorem test_untrained_stack_is_fatal : after (.bootMemTrain (train 0xFB)) (hwA.toStage 3) (fun h => h.stage = stFaulted) = true := by
  decide +kernel

theorem witness_image_errors :
    (let h := hwA.toStage 2
     (st h).sealed ∧ h.stage = 2 ∧ h.rf Reg.rcvCtrlLen (fkey 0 0) ≠ 8192 + (Image.mk (Mem.slice h.host 0 0) 0).bodyLen) ∧
    ((st hwA).sealed ∧ hwA.served = true ∧
      (let a := hwA.rf Reg.fwUpdAddrAddr pkgB
       let len := Nat.min 0x1000000 (Mem.num hwA.mem (a + 8) 4 + 8192)
       a + len ≤ hwA.rf Reg.pkgMemTopTop pkgB * 2 ^ 21 ∧ hwA.goodBytes a len = len ∧
       Image.err ⟨Mem.slice hwA.mem a len, 0⟩ true hwA.nv.fuseSvn = 2)) := by
  unfold State.sealed; decide +kernel

/-- An image in host memory for recovery, and in device memory for an update, that passes if its key and signature do. -/
theorem witness_images_taken (k : keyGood ⟨imageAt 0 0, 0⟩) :
    (let h := ({ (hwA.toStage 2) with host := imageAt 0 0 }).wf Reg.rcvCtrlLen (fkey 0 0) 0 8256
     let i : Image := ⟨Mem.slice h.host (h.rf Reg.rcvHostAddr (fkey 0 0)) (h.rf Reg.rcvCtrlLen (fkey 0 0)), 0⟩
     h.stage = 2 ∧ h.rf Reg.rcvCtrlLen (fkey 0 0) = i.bodyLen + 8192 ∧ i.err true h.nv.fuseSvn = 0 ∧
     h.rf Reg.rcvCtrlPersist (fkey 0 0) ≠ 1 ∧ (h.wf Reg.rcvCtrlPersist (fkey 0 0) 0 1).rf Reg.rcvCtrlPersist (fkey 0 0) = 1) ∧
    (let h : Hw := { hwA with mem := imageAt 0 0 }
     let a := h.rf Reg.fwUpdAddrAddr pkgB
     let len := Nat.min 0x1000000 (Mem.num h.mem (a + 8) 4 + 8192)
     a + len ≤ h.rf Reg.pkgMemTopTop pkgB * 2 ^ 21 ∧ h.goodBytes a len = len ∧
     Image.err ⟨Mem.slice h.mem a len, 0⟩ true h.nv.fuseSvn = 0) := by
  have e1 : Mem.slice (imageAt 0 0) 0 8256 = imageAt 0 0 := by decide +kernel
  refine ⟨?_, ?_⟩
  · intro h i
    have hl : h.rf Reg.rcvCtrlLen (fkey 0 0) = 8256 := by decide +kernel
    have ha : h.rf Reg.rcvHostAddr (fkey 0 0) = 0 := by decide +kernel
    have hi : i = ⟨imageAt 0 0, 0⟩ := by
      have hh : h.host = imageAt 0 0 := by decide +kernel
      show Image.mk (Mem.slice h.host _ _) 0 = _
      rw [hh, hl, ha, e1]
    have hf : h.nv.fuseSvn = 0 := by decide +kernel
    rw [hl, hi, hf]
    exact ⟨by decide +kernel, by decide +kernel, witness_good_image k, by decide +kernel, by decide +kernel⟩
  · intro h a len
    have ha : a = 0 := by decide +kernel
    have hl : len = 8256 := by decide +kernel
    have hf : h.nv.fuseSvn = 0 := by decide +kernel
    have hm : h.mem = imageAt 0 0 := rfl
    rw [ha, hl, hf, hm, e1]
    exact ⟨by decide +kernel, by decide +kernel, witness_good_image k⟩

def hwJoin (node period : Nat) : Hw := ((hwA.toStage 6).wf Reg.joinNodeNode pkgB 0 node).wf Reg.joinBeatPeriod pkgB 0 period

theorem witness_join :
    (∀ x ∈ [(0, 1000), (16415, 1000)],
      let h := hwJoin x.1 x.2
      (st h).sealed ∧ h.stage = 6 ∧ h.rf Reg.joinNodeNode pkgB < 16416 ∧ 1000 ≤ h.rf Reg.joinBeatPeriod pkgB ∧
      (upto 48).all (fun p => !(h.nbIs (h.rf Reg.joinNodeNode pkgB) p)) = true) ∧
    16416 ≤ (hwJoin 16416 1000).rf Reg.joinNodeNode pkgB ∧ (hwJoin 0 999).rf Reg.joinBeatPeriod pkgB < 1000 ∧
    (let h := (((hwJoin 5 1000).setPf Reg.xptPortState 2 pUp).setPf Reg.xptPortNbValid 2 1).setPf Reg.xptPortNbNode 2 5
     h.stage = 6 ∧ h.rf Reg.joinNodeNode pkgB = 5 ∧ h.nbIs 5 2 = true) := by
  unfold State.sealed; decide +kernel

theorem test_join : (match exec .joinCmdGo (st (hwJoin 7 2000)) with
    | .next t => t.tl.fabPeriod = 2000 && t.hw.stage = 7 && t.hw.rf Reg.pkgNodeNode pkgB = 7
    | _ => false) = true := by decide +kernel
theorem test_join_with_short_beat_is_error_16 : after .joinCmdGo (hwJoin 7 999) (fun h => h.rf Reg.bootStatusErr pkgB = 16) = true := by
  decide +kernel

theorem witness_unlock : (st hwA).sealed ∧ hwA.served = true ∧ hwA.tokenOk 0 = false := by
  unfold State.sealed; decide +kernel

/-- A token of zeros at host address 0 is accepted, if its key and its signature are: the nonce and the serial number are
zeros here. -/
theorem witness_token (ki : Config.sha3 Config.identityKey = rep 64 0) (kd : Config.sha3 Config.dbgKey = Config.dbgKeyHash)
    (kv : Config.mlDsaVerify Config.dbgKey (rep 4627 0) (rep 112 0) = true) :
    ({ hwA with mgmt := { hwA.mgmt with nonceValid := true } } : Hw).tokenOk 0 = true := by
  have t (n : Nat) : ({ hwA with mgmt := { hwA.mgmt with nonceValid := true } } : Hw).hostRead 0 n = rep n 0 := by
    have e : ∀ x : Nat, Mem.get [] x = 0 := fun _ => rfl
    show Mem.read [] 0 n = rep n 0
    unfold Mem.read rep
    rw [List.map_congr_left (fun i _ => e (0 + i))]
    simp [upto]
  unfold rep at *
  simp only [Hw.tokenOk, t, ki, kd, List.take_replicate, List.drop_replicate, show min 4627 (4739 - 0x70) = 4627 from rfl,
    show min 0x70 4739 = 112 from rfl, kv]
  decide +kernel

theorem test_token_without_nonce_is_refused : after .dbgCtrlSubmit hwA (fun h => h.rf Reg.dbgCtrlState pkgB = 2) = true := by decide +kernel

theorem witness_mailbox :
    let m (g : Mgmt) : Hw := { hwA with mgmt := g }
    (st hwA).sealed ∧ hwA.doeOn = true ∧ hwA.mgmt.spdmVersion = false ∧ hwA.mgmt.spdmCaps = false ∧ hwA.mgmt.spdmAlgs = false ∧
    hwA.mgmt.spdmSession ≠ 1 ∧ hwA.mgmt.spdmSession ≠ 2 ∧
    (m { spdmVersion := true }).doeOn = true ∧ (m { spdmVersion := true, spdmCaps := true, spdmAlgs := true, spdmSession := 1 }).doeOn = true ∧
    (m { spdmSession := 2 }).doeOn = true ∧
    (let r : List Byte := []
     reqByte r 2 % 16 = 0 ∧ reqByte r 4 + 256 * reqByte r 5 ≤ hwA.certChain.length ∧ reqByte r 3 = 0) ∧
    (let r : List Byte := [5, 0, 8]
     reqByte r 0 = 5 ∧ reqByte r 2 ≤ 8) ∧
    (hwA.toStage 0).stage = 0 ∧ (hwA.toStage 0).io.linkUp = true ∧ hwA.stage ≠ 0 := by
  unfold State.sealed; decide +kernel

theorem test_certificate_before_algorithms_is_unexpected : after (.challenge []) hwA (fun h => h.mgmt.doe = hwA.mgmt.doe) = false := by
  decide +kernel
theorem test_configuration_word_0 : after (.configurationRequest 3 0 none) hwA
    (fun h => h.mgmt.cfgRead.map (fun x => x.toNat / 65536) = some 0x321) = true := by decide +kernel

/-! Power, clocks and thermal control (21). -/

def sens (t : Int) : Sensors := ⟨t, 3, 20, [60, 61, 62, 63, 64, 65, 66, 67]⟩

theorem witness_power :
    (st hwA).sealed ∧ hwA.power.good = true ∧ hwA.power.stopped = false ∧ hwA.mgmt.held.isNone = true ∧ 115 ≤ (sens 115).hottest ∧
    (sens 114).hottest < 115 ∧ ({ hwA with power := { stopped := true } } : Hw).power.stopped = true := by
  unfold State.sealed; decide +kernel

theorem test_trip_at_115 : after (.sensorRead (sens 115)) hwA (fun h => h.power.thermtrip && h.stage = stFaulted) = true := by decide +kernel
theorem test_no_trip_at_114 : after (.sensorRead (sens 114)) hwA
    (fun h => !h.power.thermtrip && h.rf Reg.thermStatusTjMax pkgB = 114 && h.rf Reg.thermStatusHbmMax pkgB = 67) = true := by decide +kernel
theorem test_short_rail_dip_is_no_fault : after (.railFault 2 10) hwA (fun h => h.power.good) = true := by decide +kernel
theorem test_long_rail_dip_is_a_fault : after (.railFault 2 11) hwA (fun h => !h.power.good && h.power.outputsOff && !h.io.linkUp) = true := by
  decide +kernel

/-- Demands that rise, hold and fall: the measures at their limits. -/
theorem witness_throttle :
    let hotH := hwA.wf Reg.thermStatusTjMax pkgB 0 98
    let warmH := (hwA.wf Reg.thermStatusTjMax pkgB 0 80).wf Reg.thermStatusHbmMax pkgB 0 92
    let coolH := hwA.wf Reg.thermStatusTjMax pkgB 0 80
    (st hwA).sealed ∧ hotH.throtT ≤ hotH.tjMax ∧
    (coolH.tjMax < coolH.throtT ∧ coolH.rf Reg.thermStatusHbmMax pkgB < 95 ∧ coolH.rf Reg.thermStatusHbmMax pkgB < 92 ∧ coolH.tjMax < coolH.throtT - 3) ∧
    (coolH.peak < 65536 ∧ (coolH.peak < 4801)) ∧ (4800 < 4801) ∧ ¬ (coolH.peak < 0 ∨ coolH.sustained < 0 ∨ 4800 < 0) ∧
    92 ≤ warmH.rf Reg.thermStatusHbmMax pkgB ∧ 97 * 4800 ≤ 100 * 4656 ∧ hwA.power.avsFault = false ∧ hwA.power.stopped = false := by
  unfold State.sealed; decide +kernel

theorem test_hot_package_rises_one_level : after (.throttleRise ⟨0, 0, 0⟩) (hwA.wf Reg.thermStatusTjMax pkgB 0 98)
    (fun h => h.power.thermalDemand = 1 && h.rf Reg.thermStatusLevel pkgB = 1) = true := by decide +kernel
theorem test_avs_poll : after (.avsPoll ⟨1, 200, 745, 1500⟩) hwA
    (fun h => h.rf Reg.pwrStatusVcore pkgB = 745 && h.rf Reg.avsStatusRetries pkgB = 1 && !h.power.avsFault) = true := by decide +kernel
theorem test_third_failed_poll_is_a_fault : after (.avsPoll ⟨3, 0, 0, 0⟩) hwA (fun h => h.power.avsFault && h.rf Reg.thermStatusLevel pkgB = 8) = true := by
  decide +kernel

/-! The whole machine. -/

theorem witness_reset_state : State.reset.sealed ∧ State.reset.tl.legal ∧ Mem.wf State.reset.hw.mem = true := by
  unfold State.sealed Timelines.legal PartTl.legal; decide +kernel

theorem witness_store : Mem.wf hwA.mem = true ∧ good (runOp (storeB (spWin 0) [1, 2, 3]) hwA) = true := by decide +kernel

theorem test_step_takes_the_front : (match step { st hwA with pending := [.timeSet 9, .dlDown] } with
    | .next t => t.pending = [.dlDown]
    | _ => false) = true := by decide +kernel
theorem test_step_idles : (match step State.reset with
    | .next t => t.hw.now = 1 && t.pending = []
    | _ => false) = true := by decide +kernel
theorem test_no_row_has_bits : decodeTableWord 64 0x0200000000000000 = none := rfl

/-- Ill-formed commands, one for each check of `WellFormed`, and a well-formed neighbour. -/
theorem test_ill_formed :
    ([.nop 24 0, .nop 0 4, .copy 0 7, .copy 24 5, .cpCtrlAbort 0 11, .cpCtrlAbort 24 7, .lr 0 7 16, .stuEnd 24 8, .stuEnd 23 0,
      .patrolScrub 28 1, .patrolScrub 27 2, .cfgCommit 28 13, .cfgCommit 32 0, .cfgCommit 0 12, .cfgCommit 24 11, .cfgCommit 29 8,
      .laneSignal 48, .fetch 8, .flr 9, .route 24, .reserve 27, .reserve 32, .frameTransmit 28, .switchForward 24 32, .dieLinkDown 0 16, .verify 0 2,
      .stuCmdClaim 24 0 32, .ack ⟨0, [0], 0, 0⟩, .ack ⟨0, rep 4160 0, 0, 0⟩, .registerWrite ⟨.page 9, 0, 8, true, 0⟩, .registerWrite ⟨.regs, 0x20000000, 8, true, 0⟩,
      .registerWrite ⟨.page 0, 0x10000, 8, true, 0⟩, .registerWrite ⟨.regs, 0, 65, true, 0⟩, .flagRecheck (.core 24 0), .flagRecheck (.window 8),
      .flagRecheck (.stream 0 4), .flagRecheck (.dispatch 24), .flagRecheck (.thread 0 7 16), .ageOut (.egress 48 0), .ageOut (.egress 0 4),
      .ageOut (.arriving 28), .dataBlock 0 ⟨0, [], 0, false, false, 0⟩, .controlBlock 0 ⟨0, rep 1280 0, 3, false, false, 0⟩, .sqDb 0 0 65536,
      .rstCtrlPkg 65536 bootEnv, .dlmCmdForce 0 8, .xptLbStart 0 8, .memLbStart 28 2 4, .railFault 16 0, .i3cRead 4, .dlUp 16 0,
      .configurationRequest 0 2 none, .configurationRequest 0 4096 none, .bootMemTrain ⟨0, []⟩] : List Instr).all (fun i => !i.wf) = true ∧
    ([.nop 23 3, .copy 23 6, .lr 0 10 15, .stuEnd 27 7, .patrolScrub 31 7, .cfgCommit 28 12, .laneSignal 47, .flr 8, .ack ⟨0, rep 4096 0, 0, 0⟩,
      .registerWrite ⟨.page 8, 0xFFF8, 8, true, 0⟩, .i3cRead 0x18] : List Instr).all (fun i => i.wf) = true := by decide +kernel

/-- Steps that meet the whole-machine statements' hypotheses: the mode changes at a boundary, a running timeline steps, a
package joins. -/
theorem witness_mode_change :
    (let s : State := { st { hwA with commits := [(pkgB, [9])], staged := [(pkgB + Reg.pkgMode.off, 1)] } with pending := [.fabricBoundary] }
     match step s with
     | .next t => t.tl.det = true && s.tl.det = false && s.tl.parts.all (fun p => p.st = .idle)
     | _ => false) = true := by decide +kernel
theorem witness_running_step :
    (let s : State := { st hwA with tl := Timelines.fresh.setPart 3 { st := .running, period := 1000 }, pending := [.beatBoundary 3] }
     match step s with
     | .next t => t.tl.part 3 = s.tl.part 3 && t.hw.now = 1000
     | _ => false) = true := by decide +kernel
theorem witness_joining_step :
    (match step { st (hwJoin 0 2000) with pending := [.joinCmdGo] } with
     | .next t => t.tl.fabPeriod = 2000
     | _ => false) = true := by decide +kernel

/-! Stores that fail their check (R516 to R521), the turn of a ring (R478), and boundaries at one counter value (R428). -/

theorem witness_failing_stores :
    (let h := { hwA with badSites := [.sram] }
     h.mapDown = false ∧ h.sramDown = true ∧ ({ hwA with mapDown := true } : Hw).mapDown = true ∧ hwA.sramDown = false) ∧
    (∀ x ∈ [Site.program 0 0 0, .file 0 0 0],
      let h := { hwI (c23 0 0) (word 0x00 0 0 0 0 0) with badSites := [x] }
      (st h).sealed ∧ (h.core 0 0).drained = true ∧ (h.core 0 0).fail = none ∧ (h.core 0 0).st = .running ∧
      h.dieOn (st h).env 0 = true ∧ h.insn? (st h).env 0 0 = none ∧ (h.core 0 0).index < 4096 ∧ h.issueBad 0 0 = true) ∧
    (let h := hwR 16 (stuW 0x00 0 0 0 0 0) { ctx := 1, chunk := 0 }
     (h.stuRun? 24 0).isSome = true ∧ (h.stuRun? 24 0).map (fun x => h.stuBad 24 0 x.1 x.2.1) = some false ∧
     (let g := { h with badSites := (upto 1024).map (fun i => .program 24 0 i) }
      (g.stuRun? 24 0).map (fun x => g.stuBad 24 0 x.1 x.2.1) = some true)) := by
  unfold State.sealed; decide +kernel

theorem witness_cp_failing_register :
    let w := rvR 0x33 0 0 7 5 6
    let h := { hwCp w 5 with badSites := [.file 0 7 3] }
    (st h).sealed ∧ (h.dieOn (st h).env 0 = true ∧ h.cpIssuer 0 7 = some 3 ∧ h.rf Reg.cpPcPc (rkey 0 7 0) 3 = 2 ^ 47 + 0x4000 ∧
      fetches w h = true ∧ cpClass w = .other ∧ (cpI w h).x.failed = none) ∧ (cpH h).badSites.contains (.file 0 7 3) = true := by
  unfold State.sealed; decide +kernel

theorem witness_ring_out_of_turn :
    let b := fkey 8 0
    let h := ((((hwRing 0 1 (entry 64 0)).wf Reg.sqStatusState b 6 1).wf Reg.sqStatusTail b 6 1).wf Reg.sqCfgCq b 6 7).wf Reg.cqCfgSize b 7 16
    let h := { h with io := { h.io with sqTurn := [(8, 7)] } }
    (st h).sealed ∧ h.io.linkUp = true ∧ h.rf Reg.sqStatusState b 6 = 1 ∧ h.rf Reg.sqStatusHead b 6 ≠ h.rf Reg.sqStatusTail b 6 ∧
    h.cqRoom 8 (h.rf Reg.sqCfgCq b 6) = true ∧ h.sqTurn (st h).env 8 6 = false := by
  unfold State.sealed; decide +kernel

/-- Partition 3 runs with the fabric's period; partition 3 is armed for the counter value of the next fabric boundary, with
and without a release due. -/
theorem witness_boundaries_at_one_value :
    (let tl := Timelines.fresh.setPart 3 { st := .running, period := 100000 }
     tl.fabOrigin ≤ hwA.now ∧ tl.fabOrigin + (hwA.fabN + 1) * tl.fabPeriod = 0 + (SMap.get hwA.partN 0 3 + 1) * (tl.part 3).period ∧
     (fabricFirst 100000 fusesDefault tl hwA).1.part 3 = tl.part 3) ∧
    (let tl := Timelines.fresh.setPart 3 { st := .armed, period := 1000, origin := 100000, go := true }
     let j : Job := jobOn (desc [(0, 0x71 + 3 * 256)])
     let h := { hwA.wf Reg.partState pkgB 3 2 with partJobs := [{ job := j, part := 3, isLoad := false, dies := 0, at_ := 0 }] }
     (fabricFirst 100000 fusesDefault tl h).1.part 3 ≠ tl.part 3) := by
  decide +kernel

end Sys2Proof.Tests
end

section
/-! SUPPORT. Numerics: the order of exact values, their maxima and minima and the index of a row's maximum (R61);
which codes a format reads as NaN, and that a conversion writes one for a NaN alone (R45). -/

namespace Sys2Proof.Machine

/-! The order: finite values are compared as the rationals they stand for, between the two infinities. -/

/-- The number a finite value stands for. -/
def signedRat (neg : Bool) (m : Nat) (e : Int) : ℚ := (if neg then -1 else 1) * m * 2 ^ e

/-- The place of a value in the order; a NaN, which `FVal.lt` never ranks, has none of its own. -/
def FVal.rank : FVal → WithBot (WithTop ℚ)
  | .nan => ⊥
  | .inf true => ⊥
  | .inf false => ((⊤ : WithTop ℚ) : WithBot (WithTop ℚ))
  | .fin n m e => ((signedRat n m e : WithTop ℚ) : WithBot (WithTop ℚ))

theorem two_zpow_eq_pow_mul {p x : Int} (h : p ≤ x) : (2 : ℚ) ^ x = 2 ^ (x - p).toNat * 2 ^ p := by
  rw [← zpow_natCast, ← zpow_add₀ two_ne_zero]
  congr 1; omega

/-- At an exponent no greater than its own a finite value is a whole multiple of the power of two. -/
theorem signedRat_eq_scaled (neg : Bool) (m : Nat) {p x : Int} (h : p ≤ x) :
    signedRat neg m x = (((if neg then -1 else 1) * (m : Int) * 2 ^ (x - p).toNat : Int) : ℚ) * 2 ^ p := by
  rw [signedRat, two_zpow_eq_pow_mul h]
  push_cast; ring

theorem signedRat_lt_iff_scaled (a b : Bool) (m k : Nat) {p e g : Int} (he : p ≤ e) (hg : p ≤ g) :
    signedRat a m e < signedRat b k g ↔
      (if a then -1 else 1) * (m : Int) * 2 ^ (e - p).toNat <
        (if b then -1 else 1) * (k : Int) * 2 ^ (g - p).toNat := by
  rw [signedRat_eq_scaled a m he, signedRat_eq_scaled b k hg, mul_lt_mul_iff_left₀ (by positivity), Int.cast_lt]

theorem magLt_iff_signedRat (m k : Nat) (e g : Int) :
    magLt m e k g = true ↔ signedRat false m e < signedRat false k g := by
  rw [signedRat_lt_iff_scaled false false m k (min_le_left e g) (min_le_right e g)]
  by_cases h : e ≤ g
  · simp [magLt, align, h, Nat.shiftLeft_eq, ← @Nat.cast_lt ℤ]
  · simp [magLt, align, h, (not_le.mp h).le, Nat.shiftLeft_eq, ← @Nat.cast_lt ℤ]

theorem signedRat_true (m : Nat) (e : Int) : signedRat true m e = -signedRat false m e := by simp [signedRat]

@[simp] theorem signedRat_zero (a : Bool) (e : Int) : signedRat a 0 e = 0 := by simp [signedRat]

theorem signedRat_false_pos {m : Nat} (hm : m ≠ 0) (e : Int) : 0 < signedRat false m e := by
  have : (0 : ℚ) < m := by exact_mod_cast Nat.pos_of_ne_zero hm
  simp only [signedRat, Bool.false_eq_true, if_false]; positivity

/-- R61: finite values are ordered as the numbers they stand for. -/
theorem FVal.lt_fin_iff (a b : Bool) (m k : Nat) (e g : Int) :
    FVal.lt (.fin a m e) (.fin b k g) = true ↔ signedRat a m e < signedRat b k g := by
  rcases Nat.eq_zero_or_pos m with rfl | hm <;> rcases Nat.eq_zero_or_pos k with rfl | hk
  · simp [FVal.lt]
  · have := signedRat_false_pos hk.ne' g
    cases b <;> simp [FVal.lt, hk.ne', signedRat_true, this, this.le]
  · have := signedRat_false_pos hm.ne' e
    cases a <;> simp [FVal.lt, hm.ne', signedRat_true, this, this.le]
  · have h1 := signedRat_false_pos hm.ne' e
    have h2 := signedRat_false_pos hk.ne' g
    cases a <;> cases b <;> simp [FVal.lt, hm.ne', hk.ne', signedRat_true, magLt_iff_signedRat] <;> linarith

theorem FVal.lt_iff_rank_lt {a b : FVal} (ha : a ≠ .nan) (hb : b ≠ .nan) : a.lt b = true ↔ a.rank < b.rank := by
  match a, b with
  | .nan, _ => exact absurd rfl ha
  | _, .nan => exact absurd rfl hb
  | .inf x, .inf y => cases x <;> cases y <;> simp [FVal.lt, FVal.rank]
  | .inf x, .fin b k g => cases x <;> simp [FVal.lt, FVal.rank]
  | .fin a m e, .inf true => simp [FVal.lt, FVal.rank]
  | .fin a m e, .inf false => exact iff_of_true rfl (WithBot.coe_lt_coe.2 (WithTop.coe_lt_top _))
  | .fin a m e, .fin b k g => simp [FVal.rank, FVal.lt_fin_iff]

@[simp] theorem FVal.nan_lt (b : FVal) : FVal.lt .nan b = false := rfl

@[simp] theorem FVal.lt_nan (a : FVal) : a.lt .nan = false := by cases a <;> rfl

theorem FVal.ne_nan_of_lt {a b : FVal} (h : a.lt b = true) : a ≠ .nan ∧ b ≠ .nan := by
  constructor <;> rintro rfl <;> simp at h

theorem FVal.lt_asymm {a b : FVal} (h : a.lt b = true) : b.lt a = false := by
  obtain ⟨ha, hb⟩ := FVal.ne_nan_of_lt h
  rw [FVal.lt_iff_rank_lt ha hb] at h
  rw [← Bool.not_eq_true, FVal.lt_iff_rank_lt hb ha]
  exact h.asymm

@[simp] theorem FVal.lt_irrefl (a : FVal) : a.lt a = false := by
  cases h : a.lt a with
  | false => rfl
  | true => exact h ▸ FVal.lt_asymm h

theorem FVal.lt_of_not_lt_of_lt {a b c : FVal} (hb : b ≠ .nan) (hab : a.lt b = false) (hac : a.lt c = true) :
    b.lt c = true := by
  obtain ⟨ha, hc⟩ := FVal.ne_nan_of_lt hac
  rw [FVal.lt_iff_rank_lt ha hc] at hac
  rw [← Bool.not_eq_true, FVal.lt_iff_rank_lt ha hb, not_lt] at hab
  exact (FVal.lt_iff_rank_lt hb hc).2 (hab.trans_lt hac)

/-! Maximum and minimum of two values. -/

theorem fmax_of_ne_nan {a b : FVal} (ha : a ≠ .nan) (hb : b ≠ .nan) :
    fmax a b = if a.lt b then b else if b.lt a then a else if a.sign then b else a := by
  cases a <;> cases b <;> simp_all [fmax]

theorem fmin_of_ne_nan {a b : FVal} (ha : a ≠ .nan) (hb : b ≠ .nan) :
    fmin a b = if a.lt b then a else if b.lt a then b else if a.sign then a else b := by
  cases a <;> cases b <;> simp_all [fmin]

theorem fmax_mem {a b : FVal} (ha : a ≠ .nan) (hb : b ≠ .nan) : fmax a b = a ∨ fmax a b = b := by
  rw [fmax_of_ne_nan ha hb]; split_ifs <;> simp

theorem fmin_mem {a b : FVal} (ha : a ≠ .nan) (hb : b ≠ .nan) : fmin a b = a ∨ fmin a b = b := by
  rw [fmin_of_ne_nan ha hb]; split_ifs <;> simp

/-- A choice between two values that answers NaN wherever one of them is NaN answers it nowhere else. -/
theorem choice_eq_nan_iff {a b c : FVal} (hmem : a ≠ .nan → b ≠ .nan → c = a ∨ c = b)
    (hnan : a = .nan ∨ b = .nan → c = .nan) : c = .nan ↔ a = .nan ∨ b = .nan := by
  refine ⟨fun h => ?_, hnan⟩
  by_contra! hn
  obtain ⟨ha, hb⟩ := hn
  rcases hmem ha hb with rfl | rfl
  · exact ha h
  · exact hb h

theorem fmax_eq_nan_iff (a b : FVal) : fmax a b = .nan ↔ a = .nan ∨ b = .nan := by
  refine choice_eq_nan_iff fmax_mem ?_
  rintro (rfl | rfl)
  · rfl
  · cases a <;> rfl

theorem fmin_eq_nan_iff (a b : FVal) : fmin a b = .nan ↔ a = .nan ∨ b = .nan := by
  refine choice_eq_nan_iff fmin_mem ?_
  rintro (rfl | rfl)
  · rfl
  · cases a <;> rfl

/-- Neither value exceeds their maximum. -/
theorem fmax_not_lt {a b : FVal} (ha : a ≠ .nan) (hb : b ≠ .nan) :
    (fmax a b).lt a = false ∧ (fmax a b).lt b = false := by
  rw [fmax_of_ne_nan ha hb]
  split_ifs with h1 h2 <;> simp_all [FVal.lt_asymm]

/-- Their minimum exceeds neither value. -/
theorem not_lt_fmin {a b : FVal} (ha : a ≠ .nan) (hb : b ≠ .nan) :
    a.lt (fmin a b) = false ∧ b.lt (fmin a b) = false := by
  rw [fmin_of_ne_nan ha hb]
  split_ifs with h1 h2 <;> simp_all [FVal.lt_asymm]

/-- R61: of two zeros of opposite signs the maximum is the positive and the minimum the negative one. -/
theorem fmax_fmin_of_opposite_zeros (e g : Int) :
    fmax (.fin false 0 e) (.fin true 0 g) = .fin false 0 e ∧ fmax (.fin true 0 g) (.fin false 0 e) = .fin false 0 e ∧
    fmin (.fin false 0 e) (.fin true 0 g) = .fin true 0 g ∧ fmin (.fin true 0 g) (.fin false 0 e) = .fin true 0 g := by
  simp [fmax, fmin, FVal.lt, FVal.sign]

/-! The index of the greatest value of a row. -/

/-- Entry `i` of a row exceeds those before it, and none exceeds it. -/
def IsFirstMax (xs : List FVal) (i : Nat) : Prop :=
  i < xs.length ∧ ∀ j < xs.length,
    (xs.getD i .nan).lt (xs.getD j .nan) = false ∧ (j < i → (xs.getD j .nan).lt (xs.getD i .nan) = true)

theorem getD_concat (xs : List FVal) (v : FVal) (j : Nat) (hj : j < xs.length + 1) :
    (xs ++ [v]).getD j .nan = if j < xs.length then xs.getD j .nan else v := by
  split
  · next h => exact List.getD_append xs [v] .nan j h
  · next h => simp [show j = xs.length by omega]

/-- A new last entry greater than the first maximum is the first maximum. -/
theorem IsFirstMax.concat_of_lt {xs : List FVal} {i : Nat} {v : FVal} (h : IsFirstMax xs i)
    (hn : ∀ y ∈ xs, y ≠ .nan) (hv : (xs.getD i .nan).lt v = true) : IsFirstMax (xs ++ [v]) xs.length := by
  obtain ⟨-, hmax⟩ := h
  refine ⟨by simp, fun j hj => ?_⟩
  rw [List.length_append, List.length_singleton] at hj
  rw [getD_concat xs v _ (Nat.lt_succ_self _), getD_concat xs v j hj, if_neg (lt_irrefl _)]
  split
  · next hlt =>
    have hmem : xs.getD j .nan ∈ xs := by
      rw [List.getD_eq_getElem _ _ hlt]; exact List.getElem_mem hlt
    have hjv := FVal.lt_of_not_lt_of_lt (hn _ hmem) (hmax j hlt).1 hv
    exact ⟨FVal.lt_asymm hjv, fun _ => hjv⟩
  · next hge => exact ⟨FVal.lt_irrefl v, fun hlt => absurd hlt hge⟩

/-- A new last entry no greater than the first maximum leaves it the first maximum. -/
theorem IsFirstMax.concat_of_not_lt {xs : List FVal} {i : Nat} {v : FVal} (h : IsFirstMax xs i)
    (hv : (xs.getD i .nan).lt v = false) : IsFirstMax (xs ++ [v]) i := by
  obtain ⟨hi, hmax⟩ := h
  refine ⟨by simp; omega, fun j hj => ?_⟩
  rw [List.length_append, List.length_singleton] at hj
  rw [getD_concat xs v i (by omega), getD_concat xs v j hj, if_pos hi]
  split
  · next hlt => exact hmax j hlt
  · next hge => exact ⟨hv, fun hlt => by omega⟩

/-- The search over the rest of a row, begun at the first maximum of its front, ends at that of the whole row. -/
theorem argmaxFrom_isFirstMax (l : List FVal) : ∀ (front : List FVal) (best : Nat), (∀ y ∈ front ++ l, y ≠ .nan) →
    IsFirstMax front best → IsFirstMax (front ++ l) (argmaxFrom l front.length (front.getD best .nan) best) := by
  induction l with
  | nil => intro front best _ h; simpa [argmaxFrom] using h
  | cons v l ih =>
    intro front best hn h
    have hfront : ∀ y ∈ front, y ≠ .nan := fun y hy => hn y (by simp [hy])
    have hv : v ≠ .nan := hn v (by simp)
    have hm : front.getD best .nan ≠ .nan := by
      rw [List.getD_eq_getElem _ _ h.1]; exact hfront _ (List.getElem_mem h.1)
    have hsplit : front ++ v :: l = (front ++ [v]) ++ l := by simp
    rw [hsplit] at hn ⊢
    simp only [argmaxFrom, hm, hv, if_false, decide_false, Bool.false_or]
    split
    · next hlt => simpa using ih (front ++ [v]) front.length hn (h.concat_of_lt hfront hlt)
    · next hge =>
      have hbest := ih (front ++ [v]) best hn (h.concat_of_not_lt (by simpa using hge))
      rwa [List.getD_append _ _ _ _ h.1, List.length_append, List.length_singleton] at hbest

/-! NaN codes of a format: which fields a decode reads as NaN (R43, R45). -/

/-- The exponent and mantissa fields that stand for a NaN: all ones with a mantissa, or E4M3's one code. -/
def Fmt.NanFields (f : Fmt) (x m : Nat) : Prop :=
  (f.enc.inf = true ∧ x = 2 ^ f.enc.ex - 1 ∧ m ≠ 0) ∨ (f = .e4m3 ∧ x = 15 ∧ m = 7)

theorem Fmt.enc_man_pos (f : Fmt) : 0 < f.enc.man := by cases f <;> decide

theorem Fmt.enc_ex_pos (f : Fmt) : 0 < f.enc.ex := by cases f <;> decide

theorem Fmt.enc_inf {f : Fmt} (hf : f ∈ [Fmt.fp64, Fmt.fp32, Fmt.bf16, Fmt.e5m2]) : f.enc.inf = true := by
  revert f; decide

theorem decodeFloat_eq_nan_iff (f : Fmt) (v : Nat) :
    decodeFloat f v = .nan ↔ f.NanFields (v / 2 ^ f.enc.man % 2 ^ f.enc.ex) (v % 2 ^ f.enc.man) := by
  have hm : bits v (f.enc.man - 1) 0 = v % 2 ^ f.enc.man := by
    rw [bits_eq, Nat.sub_add_cancel f.enc_man_pos]; simp
  have hx : bits v (f.enc.man + f.enc.ex - 1) f.enc.man = v / 2 ^ f.enc.man % 2 ^ f.enc.ex := by
    have := f.enc_ex_pos
    rw [bits_eq, show f.enc.man + f.enc.ex - 1 + 1 - f.enc.man = f.enc.ex by omega]
  simp only [decodeFloat, hm, hx, Fmt.NanFields]
  split_ifs <;> grind

/-- R45: the canonical NaN of a format reads as NaN. -/
theorem decodeFloat_nanBits {f : Fmt} (hf : f ∈ [Fmt.fp64, Fmt.fp32, Fmt.bf16, Fmt.e4m3, Fmt.e5m2]) :
    decodeFloat f f.nanBits = .nan := by
  revert f; decide

/-! The fields of an encoded value. -/

/-- A code with its sign bit, exponent field and mantissa field. -/
def Enc.pack (c : Enc) (n : Bool) (x m : Nat) : Nat := b2n n <<< (c.man + c.ex) + x <<< c.man + m

theorem Enc.pack_eq (c : Enc) (n : Bool) (x m : Nat) :
    c.pack n x m = m + 2 ^ c.man * (x + 2 ^ c.ex * b2n n) := by
  simp only [Enc.pack, Nat.shiftLeft_eq, pow_add]; ring

theorem decodeFloat_pack_eq_nan_iff (f : Fmt) (n : Bool) {x m : Nat} (hx : x < 2 ^ f.enc.ex) (hm : m < 2 ^ f.enc.man) :
    decodeFloat f (f.enc.pack n x m) = .nan ↔ f.NanFields x m := by
  rw [decodeFloat_eq_nan_iff, Enc.pack_eq, Nat.add_mul_div_left _ _ (Nat.two_pow_pos _), Nat.div_eq_of_lt hm,
    Nat.zero_add, Nat.add_mul_mod_self_left, Nat.add_mul_mod_self_left, Nat.mod_eq_of_lt hx, Nat.mod_eq_of_lt hm]

theorem encodeRounded_inf (f : Fmt) (n : Bool) : encodeRounded f (.inf n) = f.enc.pack n (2 ^ f.enc.ex - 1) 0 := rfl

theorem encodeRounded_subnormal (f : Fmt) (n : Bool) {k : Nat} (q : Int) (hk : k < 2 ^ f.enc.man) :
    encodeRounded f (.fin n k q) = f.enc.pack n 0 k := by
  simp [encodeRounded, Enc.pack, hk]

theorem encodeRounded_normal (f : Fmt) (n : Bool) {k : Nat} (q : Int) (hl : 2 ^ f.enc.man ≤ k)
    (hk : k < 2 ^ (f.enc.man + 1)) :
    encodeRounded f (.fin n k q) = f.enc.pack n (q - f.enc.eMin + 1).toNat (k - 2 ^ f.enc.man) := by
  simp [encodeRounded, Enc.pack, hl.not_gt, hk.ne]

/-- A magnitude rounded up to the next power of two is encoded at the next exponent. -/
theorem encodeRounded_carry (f : Fmt) (n : Bool) (q : Int) :
    encodeRounded f (.fin n (2 ^ (f.enc.man + 1)) q) = encodeRounded f (.fin n (2 ^ f.enc.man) (q + 1)) := by
  have h : 2 ^ f.enc.man < 2 ^ (f.enc.man + 1) := Nat.pow_lt_pow_right (by decide) (Nat.lt_succ_self _)
  simp [encodeRounded, h.not_gt]

/-! Values within a format's range are encoded below its NaN codes. -/

theorem signedRat_carry (n : Bool) (p : Nat) (q : Int) :
    signedRat n (2 ^ (p + 1)) q = signedRat n (2 ^ p) (q + 1) := by
  simp only [signedRat, zpow_add₀ (two_ne_zero (α := ℚ)), pow_succ]; push_cast; ring

theorem magLt_false_iff (m k : Nat) (e g : Int) :
    magLt m e k g = false ↔ signedRat false k g ≤ signedRat false m e := by
  rw [← Bool.not_eq_true, magLt_iff_signedRat, not_lt]

/-- A normal magnitude that does not exceed `M × 2 ^ E` has no greater exponent, and at `E` no greater mantissa. -/
theorem le_top_of_magLt_eq_false {p M k : Nat} {E q : Int} (h : magLt M E k q = false) (hk : 2 ^ p ≤ k)
    (hM : M < 2 ^ (p + 1)) : q ≤ E ∧ (q = E → k ≤ M) := by
  rw [magLt_false_iff] at h
  simp only [signedRat, Bool.false_eq_true, if_false, one_mul] at h
  constructor
  · have hk' : (2 : ℚ) ^ (p : Int) ≤ k := by rw [zpow_natCast]; exact_mod_cast hk
    have hM' : (M : ℚ) < 2 ^ ((p : Int) + 1) := by exact_mod_cast hM
    have hlt : (2 : ℚ) ^ ((p : Int) + q) < 2 ^ ((p : Int) + 1 + E) := by
      rw [zpow_add₀ two_ne_zero, zpow_add₀ two_ne_zero (_ + 1)]
      calc (2 : ℚ) ^ (p : Int) * 2 ^ q ≤ k * 2 ^ q := by gcongr
        _ ≤ M * 2 ^ E := h
        _ < 2 ^ ((p : Int) + 1) * 2 ^ E := by gcongr
    have := (zpow_lt_zpow_iff_right₀ (one_lt_two (α := ℚ))).1 hlt
    omega
  · rintro rfl
    exact_mod_cast le_of_mul_le_mul_right h (by positivity)

/-- What a conversion hands to the encoding: an infinity, or a magnitude of the format's precision that does not exceed
its largest finite value. -/
def FVal.Fits (f : Fmt) : FVal → Prop
  | .nan => False
  | .inf _ => True
  | .fin _ k q => k ≤ 2 ^ (f.enc.man + 1) ∧ magLt f.enc.topM f.enc.topE k q = false

theorem Fmt.enc_topM_lt (f : Fmt) : f.enc.topM < 2 ^ (f.enc.man + 1) := by cases f <;> decide

/-- The greatest exponent field of a finite value, all ones only where no infinity takes it. -/
theorem Fmt.enc_topE_field (f : Fmt) :
    (f.enc.topE - f.enc.eMin + 1).toNat + (if f.enc.inf then 1 else 0) < 2 ^ f.enc.ex := by
  cases f <;> decide

theorem decodeFloat_encodeRounded_normal_ne_nan (f : Fmt) (n : Bool) {k : Nat} {q : Int} (hl : 2 ^ f.enc.man ≤ k)
    (hk : k < 2 ^ (f.enc.man + 1)) (htop : magLt f.enc.topM f.enc.topE k q = false) :
    decodeFloat f (encodeRounded f (.fin n k q)) ≠ .nan := by
  obtain ⟨hq, hkM⟩ := le_top_of_magLt_eq_false htop hl f.enc_topM_lt
  have hE := f.enc_topE_field
  have hx : (q - f.enc.eMin + 1).toNat < 2 ^ f.enc.ex := by omega
  rw [encodeRounded_normal f n q hl hk, Ne, decodeFloat_pack_eq_nan_iff f n hx (by rw [pow_succ] at hk; omega)]
  rintro (⟨hinf, hones, -⟩ | ⟨rfl, hones, hseven⟩)
  · rw [if_pos hinf] at hE; omega
  · have hq5 : q = 5 := by simp only [Fmt.enc, Enc.eMin] at hones hq; omega
    have := hkM hq5
    simp only [Fmt.enc] at this hseven; omega

theorem decodeFloat_encodeRounded_ne_nan (f : Fmt) (v : FVal) (hv : v.Fits f) :
    decodeFloat f (encodeRounded f v) ≠ .nan := by
  match v, hv with
  | .inf n, _ =>
    have hones : 2 ^ f.enc.ex - 1 < 2 ^ f.enc.ex := Nat.sub_lt (Nat.two_pow_pos _) one_pos
    rw [encodeRounded_inf, Ne, decodeFloat_pack_eq_nan_iff f n hones (Nat.two_pow_pos _)]
    rintro (⟨-, -, hm⟩ | ⟨-, -, hm⟩)
    · exact hm rfl
    · cases hm
  | .fin n k q, ⟨hk, htop⟩ =>
    rcases lt_or_ge k (2 ^ f.enc.man) with hsub | hl
    · rw [encodeRounded_subnormal f n q hsub, Ne, decodeFloat_pack_eq_nan_iff f n (Nat.two_pow_pos _) hsub]
      rintro (⟨-, hones, -⟩ | ⟨-, hones, -⟩)
      · have := Nat.pow_le_pow_right two_pos f.enc_ex_pos
        omega
      · cases hones
    · rcases hk.lt_or_eq with hlt | rfl
      · exact decodeFloat_encodeRounded_normal_ne_nan f n hl hlt htop
      · rw [encodeRounded_carry]
        rw [magLt_false_iff, signedRat_carry, ← magLt_false_iff] at htop
        exact decodeFloat_encodeRounded_normal_ne_nan f n le_rfl
          (Nat.pow_lt_pow_right one_lt_two (Nat.lt_succ_self _)) htop

/-! A conversion rounds into the format's range. -/

theorem roundShift_le {rn : Rnd} {m sh p : Nat} (h : m < 2 ^ (p + sh)) : roundShift rn m sh ≤ 2 ^ p := by
  have hlo : m >>> sh < 2 ^ p := by
    rw [Nat.shiftRight_eq_div_pow]
    exact Nat.div_lt_of_lt_mul (by rwa [← pow_add, add_comm])
  cases rn <;> simp only [roundShift] <;> split <;> omega

/-- R50: rounding leaves no more than the precision of the encoding, or the power of two above it. -/
theorem roundMag_le (c : Enc) (rn : Rnd) (m : Nat) (e : Int) : (roundMag c rn m e).1 ≤ 2 ^ (c.man + 1) := by
  by_cases hm : m = 0
  · simp [roundMag, hm]
  have hlog : m < 2 ^ (Nat.log2 m + 1) := Nat.lt_log2_self
  have hround : ∀ q : Int, (Nat.log2 m : Int) + e - c.man ≤ q →
      (if q ≤ e then (m <<< (e - q).toNat, q) else (roundShift rn m (q - e).toNat, q)).1 ≤ 2 ^ (c.man + 1) := by
    intro q hq
    split
    · next h =>
      rw [Nat.shiftLeft_eq]
      calc m * 2 ^ (e - q).toNat ≤ 2 ^ (Nat.log2 m + 1) * 2 ^ (e - q).toNat := Nat.mul_le_mul_right _ hlog.le
        _ = 2 ^ (Nat.log2 m + 1 + (e - q).toNat) := (pow_add _ _ _).symm
        _ ≤ 2 ^ (c.man + 1) := Nat.pow_le_pow_right two_pos (by omega)
    · next h =>
      exact roundShift_le (hlog.trans_le (Nat.pow_le_pow_right two_pos (by omega)))
  simp only [roundMag, hm, if_false]
  exact hround _ (by split <;> omega)

theorem fits_top (f : Fmt) (n : Bool) : (FVal.fin n f.enc.topM f.enc.topE).Fits f :=
  ⟨f.enc_topM_lt.le, (magLt_false_iff ..).2 le_rfl⟩

/-- R51: a conversion of what is no NaN encodes a value within the range of the format. -/
theorem convFloat_eq_encodeRounded (f : Fmt) (rn : Rnd) (v : FVal) (hv : v ≠ .nan) :
    ∃ w : FVal, w.Fits f ∧ (convFloat f rn v).1 = encodeRounded f w := by
  match v with
  | .nan => exact absurd rfl hv
  | .inf n =>
    cases hinf : f.enc.inf with
    | true => exact ⟨.inf n, trivial, by simp [convFloat, hinf]⟩
    | false => exact ⟨_, fits_top f n, by simp [convFloat, hinf]⟩
  | .fin n m e =>
    cases hover : magLt f.enc.topM f.enc.topE (roundMag f.enc rn m e).1 (roundMag f.enc rn m e).2 with
    | false => exact ⟨.fin n _ _, ⟨roundMag_le f.enc rn m e, hover⟩, by simp [convFloat, hover]⟩
    | true =>
      by_cases hsat : f = .e4m3 ∨ f = .e5m2
      · refine ⟨_, fits_top f n, ?_⟩
        rcases hsat with rfl | rfl <;> simp [convFloat, hover]
      · obtain ⟨h4, h5⟩ := not_or.1 hsat
        exact ⟨.inf n, trivial, by simp [convFloat, hover]⟩

/-! The statements. -/

/-- Settles O14: a NaN is written as its format's canonical code, and every other value below the NaN codes. -/
theorem nansAreReadAndWrittenCanonically : Obligations.NansAreReadAndWrittenCanonically := by
  refine ⟨fun f v hf hx hm => ?_, fun v hv => ?_, fun f rn v hf => ⟨⟨fun h => ?_, ?_⟩, ?_⟩⟩
  · exact (decodeFloat_eq_nan_iff f v).2 (.inl ⟨Fmt.enc_inf hf, hx, hm⟩)
  · refine (decodeFloat_eq_nan_iff .e4m3 v).2 (.inr ⟨rfl, ?_, ?_⟩) <;> simp only [Fmt.enc] <;> omega
  · by_contra hv
    obtain ⟨w, hw, he⟩ := convFloat_eq_encodeRounded f rn v hv
    exact decodeFloat_encodeRounded_ne_nan f w hw (he ▸ h)
  · rintro rfl
    exact decodeFloat_nanBits hf
  · rintro rfl
    simp only [List.mem_cons, List.not_mem_nil, or_false] at hf
    rcases hf with rfl | rfl | rfl | rfl | rfl <;> rfl

/-- Settles O15: `FVal.lt` orders values by their ranks, and the search keeps the first maximum of what it has seen. -/
theorem maximaAndMinimaAreExact : Obligations.MaximaAndMinimaAreExact := by
  refine ⟨fun a b => ⟨fmax_eq_nan_iff a b, fmin_eq_nan_iff a b, fun ha hb => ?_⟩, fmax_fmin_of_opposite_zeros,
    fun a b m k e g => ?_, fun x xs eps hn => ?_⟩
  · obtain ⟨hmaxa, hmaxb⟩ := fmax_not_lt ha hb
    exact ⟨fmax_mem ha hb, hmaxa, hmaxb, fmin_mem ha hb, not_lt_fmin ha hb⟩
  · exact (FVal.lt_fin_iff a b m k e g).trans (signedRat_lt_iff_scaled a b m k (min_le_left e g) (min_le_right e g))
  · have hfirst : IsFirstMax [x] 0 := ⟨by simp, fun j hj => by simp [show j = 0 by simpa using hj]⟩
    exact ⟨_, rfl, argmaxFrom_isFirstMax xs [x] 0 hn hfirst⟩

end Sys2Proof.Machine
end

section
/-! SUPPORT. The sequencer: when a core issues and where the fields of its instruction lie (R116, R119); what the
instructions between registers write (R117). -/

namespace Sys2Proof.Machine

/-! Decoding: the operation codes, the fields of a word, the immediate. -/

/-- The operation codes of R117, listed. -/
theorem opcOk_iff (c : Nat) : opcOk c = true ↔
    c < 0x0C ∨ c ∈ [0x10, 0x11, 0x12, 0x13, 0x20, 0x21, 0x22, 0x28, 0x29, 0x2A, 0x2B, 0x2C, 0x30] := by
  simp only [opcOk, Bool.or_eq_true, Bool.and_eq_true, decide_eq_true_eq, List.mem_cons, List.not_mem_nil, or_false]
  omega

theorem Word.fld_eq (w : Word) (hi lo : Nat) : w.fld hi lo = w.toNat / 2 ^ lo % 2 ^ (hi + 1 - lo) := by
  rw [Word.fld, Nat.shiftRight_eq_div_pow]

/-- The operation code is the highest field, so what lies above its low bit is the whole of it. -/
theorem Word.fld_opc (w : Word) : w.fld 63 56 = w.toNat / 2 ^ 56 := by
  have hw : w.toNat < 2 ^ 64 := w.isLt
  rw [Word.fld_eq]
  omega

/-- R116: the places of the fields. -/
theorem Insn.eq_of_iff (i : Insn) (w : Word) : i = Insn.of w ↔
    i.opc = w.toNat / 2 ^ 56 ∧ i.sd = w.toNat / 2 ^ 51 % 32 ∧ i.sa = w.toNat / 2 ^ 46 % 32 ∧
      i.sb = w.toNat / 2 ^ 41 % 32 ∧ i.unit = w.toNat / 2 ^ 36 % 32 ∧ i.res = w.toNat / 2 ^ 32 % 16 ∧
      i.imm = w.toNat % 2 ^ 32 := by
  obtain ⟨opc, sd, sa, sb, unit, res, imm⟩ := i
  simp only [Insn.of, Insn.mk.injEq, Word.fld_opc]
  simp [Word.fld_eq]

/-- R116, R119: a core issues `i` exactly when it runs and can read its next word, and that word decodes to `i`, a
valid instruction. -/
theorem Hw.insn?_eq_some_iff (h : Hw) (e : Env) (d k : Nat) (i : Insn) : h.insn? e d k = some i ↔
    (h.core d k).st = .running ∧ h.dieOn e d = true ∧ k < 4 ∧ (h.core d k).index < 4096 ∧ h.issueBad d k = false ∧
      i = Insn.of (h.progWord d k (h.core d k).index) ∧ opcOk i.opc = true ∧ i.res = 0 := by
  refine ⟨h.insn?_some e d k i, ?_⟩
  rintro ⟨hrun, hon, hk, hindex, hgood, rfl, hopc, hres⟩
  simp [Hw.insn?, hrun, hon, hk, hindex, hgood, hopc, hres]

theorem toSigned_eq_toInt (w v : Nat) (hw : 0 < w) : toSigned w v = (BitVec.ofNat w v).toInt := by
  obtain ⟨n, rfl⟩ := Nat.exists_eq_add_one.2 hw
  have hp : 2 ^ (n + 1) = 2 * 2 ^ n := by omega
  simp only [toSigned, BitVec.toInt_eq_toNat_cond, BitVec.toNat_ofNat, Nat.add_sub_cancel]
  exact if_congr (by omega) rfl rfl

theorem ofNat_ofSigned (w : Nat) (t : Int) : BitVec.ofNat w (ofSigned w t) = BitVec.ofInt w t := by
  refine BitVec.eq_of_toNat_eq ?_
  have hp : (0 : Int) < (2 ^ w : Nat) := mod_cast Nat.two_pow_pos w
  have hlt : ofSigned w t < 2 ^ w := (Int.toNat_lt (Int.emod_nonneg t hp.ne')).2 (Int.emod_lt_of_pos t hp)
  rw [BitVec.toNat_ofNat, Nat.mod_eq_of_lt hlt, BitVec.toNat_ofInt, ofSigned]

/-- R116: IMM as a number is sign-extended. -/
theorem Insn.immW_eq (i : Insn) : i.immW = (BitVec.ofNat 32 i.imm).signExtend 64 := by
  rw [Insn.immW, Insn.simm, sext64, ofNat_ofSigned, toSigned_eq_toInt 32 i.imm (by decide), BitVec.signExtend]

/-! Results: the immediate put above the low half of a register. -/

theorem ofNat_shiftLeft (w v n : Nat) : BitVec.ofNat w (v <<< n) = BitVec.ofNat w v <<< n := by
  refine BitVec.eq_of_toNat_eq ?_
  simp [Nat.shiftLeft_eq]

/-- R117: LDIH replaces bits 63:32 and keeps the others. -/
theorem ldihVal_eq (c : Core) (i : Insn) :
    ldihVal c i = (c.s i.sd &&& 0xFFFFFFFF#64) ||| (BitVec.ofNat 64 i.imm <<< 32) := by
  have hlow : (c.s i.sd).toNat % 2 ^ 32 < 2 ^ 32 := Nat.mod_lt _ (by decide)
  rw [ldihVal, ← Nat.shiftLeft_eq, Nat.add_comm, Nat.shiftLeft_add_eq_or_of_lt hlow, ← Nat.and_two_pow_sub_one_eq_mod,
    BitVec.ofNat_or, BitVec.ofNat_and, BitVec.ofNat_toNat, BitVec.setWidth_eq, ofNat_shiftLeft, BitVec.or_comm]

/-! Execution. -/

/-- The command of an instruction that the core would issue, and that changes a core's record alone. -/
theorem onHw_onInsn {s : State} {opc d k : Nat} {f : Env → Core → Insn → Hw → Hw} {i : Insn} {c : Core} (hs : s.sealed)
    (hi : s.hw.insn? s.env d k = some i) (ho : i.opc = opc)
    (hf : f s.env (s.hw.core d k) i s.hw = s.hw.setCore d k c) :
    onHw (onInsn opc d k f) s = .next { s with hw := s.hw.setCore d k c } := by
  obtain ⟨hmirq, hfault⟩ := hs
  rw [onHw_eq, onInsn_of opc d k f s i hi ho, hf, State.hwTo_of_nil _ (s.hw.setCore d k c) hmirq hfault]

/-- R117: an instruction between registers writes its result to its destination and goes on to the next index. -/
theorem onHw_alu {s : State} {opc d k : Nat} {f : Core → Insn → Word} {i : Insn} {v : Word} (hs : s.sealed)
    (hi : s.hw.insn? s.env d k = some i) (ho : i.opc = opc) (hv : f (s.hw.core d k) i = v) :
    onHw (alu opc f d k) s = .next { s with hw := s.hw.setCore d k ((s.hw.core d k).wrote i.sd v) } :=
  onHw_onInsn hs hi ho (by rw [Core.next_setS, hv])

/-! The statement. -/

/-- Settles O3: the issue condition with the decoder's fields spelled out, then one result per instruction. -/
theorem instructionsReadTheirLayoutAndCompute : Obligations.InstructionsReadTheirLayoutAndCompute := by
  refine ⟨fun s d k i => ?_, fun s d k i hs hi => ?_⟩
  · rw [Hw.insn?_eq_some_iff, Insn.eq_of_iff, opcOk_iff]
    tauto
  · have himm := i.immW_eq
    refine ⟨fun ho => onHw_onInsn hs hi ho rfl, fun ho => onHw_alu hs hi ho himm,
      fun ho => onHw_alu hs hi ho (ldihVal_eq _ i), fun ho => onHw_alu hs hi ho ?_,
      fun ho => onHw_alu hs hi ho rfl, fun ho => onHw_alu hs hi ho rfl, fun ho => onHw_alu hs hi ho rfl,
      fun ho => onHw_alu hs hi ho ?_, fun ho => onHw_alu hs hi ho ?_⟩
    · rw [addVal, himm]
    · rw [shlVal, shAmt, himm]
    · rw [shrVal, shAmt, himm]

end Sys2Proof.Machine
end

section
/-! SUPPORT. Time: what TIME_SET does on the grandmaster before its first SYNCED and elsewhere (R419), the loss of
synchronisation (R424), and the step boundary that the watch is asked for (R81). -/

namespace Sys2Proof.Machine

/-! The counter's commands, case by case. -/

/-- R419: the grandmaster's counter takes the written value; boundaries that it passes are behind it. -/
theorem timeSet_of_grandmaster {v : Word} {e : Env} {h : Hw} (hgm : h.rf Reg.timeCtrlGrandmaster tmB = 1)
    (hnever : h.sync.everSynced = false) :
    timeSet v e h =
      { h with now := v.toNat, fabN := max h.fabN ((v.toNat - e.tl.fabOrigin) / e.tl.fabPeriod) } :=
  if_pos (by simp [hgm, hnever])

/-- R419: a write that the rule discards raises an event and does nothing else. -/
theorem timeSet_of_discarded {v : Word} {e : Env} {h : Hw}
    (hdiscarded : h.rf Reg.timeCtrlGrandmaster tmB ≠ 1 ∨ h.sync.everSynced = true) :
    timeSet v e h = h.regFault 4 (tmB + Reg.timeSet.off) := by
  refine if_neg ?_
  rcases hdiscarded with hgm | hsynced
  · simp [hgm]
  · simp [hsynced]

/-- R424: a synchronised package other than the grandmaster, its parent lost since `t`, clears SYNCED 10 ms later. -/
theorem syncLostTimeout_of_lost {e : Env} {h : Hw} {t : Nat} (hlost : h.sync.lostAt = some t)
    (hsynced : h.rf Reg.timeStatusSynced tmB = 1) (hgm : h.rf Reg.timeStatusGm tmB = 0) :
    syncLostTimeout e h = (h.reach (t + 10000000)).setSynced false 0xFF := by
  simp [syncLostTimeout, hlost, hsynced, hgm]

/-! The commands executed. -/

/-- A command that raises nothing and writes no mirrored region has nothing to send when it ends. -/
theorem onHw_of_sealed {f : Env → Hw → Hw} {s : State} (hs : s.sealed) (hmirq : (f s.env s.hw).mirq = s.hw.mirq)
    (hfault : (f s.env s.hw).mapFault = s.hw.mapFault) : onHw f s = .next { s with hw := f s.env s.hw } := by
  obtain ⟨hnoMirq, hnoFault⟩ := hs
  rw [onHw_eq, State.hwTo_of_nil s _ (hmirq.trans hnoMirq) (hfault.trans hnoFault)]

theorem exec_timeSet (v : Word) (s : State) : exec (.timeSet v) s = onHw (timeSet v) s := rfl

theorem exec_syncLostTimeout (s : State) : exec .syncLostTimeout s = onHw syncLostTimeout s := rfl

theorem exec_numWatchStep (s : State) : exec .numWatchStep s = onHw numWatchStep s := rfl

/-! The statement. -/

/-- Settles O39: one case of TIME_SET each for the grandmaster and for a discarded write, the loss of the parent, and
the step that the watch is asked for. -/
theorem timeIsSetAndLost : Obligations.TimeIsSetAndLost := by
  refine fun s v hs => ⟨fun hgm hnever => ?_, fun hdiscarded => ?_, fun t hlost hsynced hgm => ?_, ?_⟩
  · have hset := timeSet_of_grandmaster (v := v) (e := s.env) hgm hnever
    rw [exec_timeSet, onHw_of_sealed hs (by rw [hset]) (by rw [hset]), hset]
    rfl
  · rw [exec_timeSet, onHw_eq, timeSet_of_discarded hdiscarded]
  · rw [exec_syncLostTimeout, onHw_eq, syncLostTimeout_of_lost hlost hsynced hgm]
  · rw [exec_numWatchStep]
    exact onHw_of_sealed hs rfl rfl

end Sys2Proof.Machine
end

section
/-! SUPPORT. The timelines in every step: what a command may make of a partition's timeline, and the commands that
change the fabric's or the mode (R426, R429, R430, R432, R434, R444, R510). -/

namespace Sys2Proof.Machine

/-! The timelines of the partitions, one replaced. -/

theorem listSet_eq_set {α : Type} (l : List α) (i : Nat) (v : α) : listSet l i v = l.set i v := by
  induction l generalizing i with
  | nil => rfl
  | cons x l ih => cases i with
    | zero => rfl
    | succ i => simp [listSet, ih]

@[simp] theorem Timelines.setPart_length (t : Timelines) (p : Nat) (x : PartTl) :
    (t.setPart p x).parts.length = t.parts.length := by simp [Timelines.setPart, listSet_eq_set]

theorem Timelines.part_setPart_ne (t : Timelines) {p q : Nat} (x : PartTl) (hq : q ≠ p) :
    (t.setPart p x).part q = t.part q := by
  simp [Timelines.part, Timelines.setPart, listSet_eq_set, List.getD_eq_getElem?_getD, List.getElem?_set_ne hq.symm]

/-- A partition's timeline is replaced where there is one; past the last partition nothing changes. -/
theorem Timelines.part_setPart_self (t : Timelines) (p : Nat) (x : PartTl) :
    (t.setPart p x).part p = x ∨ (t.setPart p x).part p = t.part p := by
  by_cases hp : p < t.parts.length
  · left; simp [Timelines.part, Timelines.setPart, listSet_eq_set, List.getD_eq_getElem?_getD, hp]
  · right; simp [Timelines.part, Timelines.setPart, listSet_eq_set, List.getD_eq_getElem?_getD, hp]

theorem Timelines.part_mem (t : Timelines) {p : Nat} (hp : t.part p ≠ {}) : t.part p ∈ t.parts := by
  unfold Timelines.part at hp ⊢
  by_cases hl : p < t.parts.length
  · rw [List.getD_eq_getElem _ _ hl]; exact List.getElem_mem hl
  · exact absurd (List.getD_eq_default _ _ (by omega)) hp

/-- Where every timeline is IDLE, so is each partition's. -/
theorem Timelines.allIdle.part {t : Timelines} (h : t.allIdle) (p : Nat) : (t.part p).st = .idle := by
  by_cases hp : t.part p = {}
  · rw [hp]
  · exact h _ (t.part_mem hp)

theorem Timelines.parts_legal_iff (t : Timelines) : (∀ x ∈ t.parts, x.legal) ↔ ∀ p, (t.part p).legal := by
  constructor
  · intro h p
    by_cases hp : t.part p = {}
    · rw [hp]; exact fun hst => absurd rfl hst
    · exact h _ (t.part_mem hp)
  · intro h x hx
    obtain ⟨p, hp, rfl⟩ := List.getElem_of_mem hx
    have := h p
    rwa [Timelines.part, List.getD_eq_getElem _ _ hp] at this

/-! What a command may make of a timeline. -/

/-- What one command may make of a partition's timeline: leave it, end it, arm it with a legal period, or set an armed
one's origin and start it. -/
def PartTl.mayBecome (x y : PartTl) : Prop :=
  y = x ∨ y = {} ∨ (x.st = .idle ∧ y.st = .armed ∧ 1000 ≤ y.period ∧ y.period < 2 ^ 32) ∨
    (x.st = .armed ∧ y.period = x.period ∧ (x.go = true → y.origin = x.origin))

theorem PartTl.mayBecome.legal {x y : PartTl} (h : x.mayBecome y) (hx : x.legal) : y.legal := by
  rcases h with rfl | rfl | ⟨-, -, hlo, hhi⟩ | ⟨harmed, hperiod, -⟩
  · exact hx
  · exact fun hst => absurd rfl hst
  · exact fun _ => ⟨hlo, hhi⟩
  · intro _
    rw [hperiod]
    exact hx (by simp [harmed])

/-- The partitions' timelines moved on as one command may move them, the fabric's left alone. -/
structure Timelines.evolves (t u : Timelines) : Prop where
  fabPeriod : u.fabPeriod = t.fabPeriod
  fabOrigin : u.fabOrigin = t.fabOrigin
  length : u.parts.length = t.parts.length
  part : ∀ p, (t.part p).mayBecome (u.part p)

/-- Some partitions' timelines ended, every other one and the fabric's left alone. -/
structure Timelines.halts (t u : Timelines) : Prop where
  fabPeriod : u.fabPeriod = t.fabPeriod
  fabOrigin : u.fabOrigin = t.fabOrigin
  length : u.parts.length = t.parts.length
  part : ∀ p, u.part p = t.part p ∨ u.part p = {}

theorem Timelines.halts.refl (t : Timelines) : t.halts t := ⟨rfl, rfl, rfl, fun _ => .inl rfl⟩

theorem Timelines.halts.trans {t u v : Timelines} (h : t.halts u) (k : u.halts v) : t.halts v where
  fabPeriod := k.fabPeriod.trans h.fabPeriod
  fabOrigin := k.fabOrigin.trans h.fabOrigin
  length := k.length.trans h.length
  part p := by
    rcases k.part p with hv | hv
    · rw [hv]; exact h.part p
    · exact .inr hv

theorem Timelines.halts_setPart (t : Timelines) (p : Nat) : t.halts (t.setPart p {}) where
  fabPeriod := rfl
  fabOrigin := rfl
  length := t.setPart_length p {}
  part q := by
    by_cases hq : q = p
    · rw [hq]; exact (t.part_setPart_self p {}).symm
    · exact .inl (t.part_setPart_ne {} hq)

theorem Timelines.halts.evolves {t u : Timelines} (h : t.halts u) : t.evolves u where
  fabPeriod := h.fabPeriod
  fabOrigin := h.fabOrigin
  length := h.length
  part p := by
    rcases h.part p with hu | hu
    · exact .inl hu
    · exact .inr (.inl hu)

theorem Timelines.evolves.refl (t : Timelines) : t.evolves t := (Timelines.halts.refl t).evolves

theorem Timelines.evolves_setPart (t : Timelines) (p : Nat) (x : PartTl) (hx : (t.part p).mayBecome x) :
    t.evolves (t.setPart p x) where
  fabPeriod := rfl
  fabOrigin := rfl
  length := t.setPart_length p x
  part q := by
    by_cases hq : q = p
    · subst hq
      rcases t.part_setPart_self q x with h | h
      · rw [h]; exact hx
      · exact .inl h
    · exact .inl (t.part_setPart_ne x hq)

theorem Timelines.evolves.legal {t u : Timelines} (h : t.evolves u) (ht : t.legal) : u.legal := by
  obtain ⟨hlen, hlo, hhi, hparts⟩ := ht
  rw [t.parts_legal_iff] at hparts
  exact ⟨h.length.trans hlen, h.fabPeriod ▸ hlo, h.fabPeriod ▸ hhi,
    u.parts_legal_iff.2 fun p => (h.part p).legal (hparts p)⟩

theorem Timelines.fresh_legal : Timelines.fresh.legal := by
  refine ⟨rfl, by decide, by decide, fun x hx => ?_⟩
  rw [List.eq_of_mem_replicate hx]
  exact fun hst => absurd rfl hst

theorem Timelines.fresh_part (p : Nat) : Timelines.fresh.part p = {} := by
  by_cases hp : Timelines.fresh.part p = {}
  · exact hp
  · exact List.eq_of_mem_replicate (Timelines.fresh.part_mem hp)

/-! The shared operations on timelines. -/

/-- A fold over timelines and hardware relates its timelines as each of its steps does, where that relation composes. -/
theorem foldl_timelines {α : Type} (R : Timelines → Timelines → Prop) (hrefl : ∀ t, R t t)
    (htrans : ∀ t u v, R t u → R u v → R t v) (f : Timelines × Hw → α → Timelines × Hw)
    (hf : ∀ a x, R a.1 (f a x).1) (l : List α) : ∀ a, R a.1 (l.foldl f a).1 := by
  induction l with
  | nil => exact fun a => hrefl a.1
  | cons x l ih => exact fun a => htrans _ _ _ (hf a x) (ih (f a x))

/-- Timelines ended in the same mode. -/
def Timelines.ends (t u : Timelines) : Prop := t.halts u ∧ u.det = t.det

theorem Timelines.ends.refl (t : Timelines) : t.ends t := ⟨.refl t, rfl⟩

theorem Timelines.ends.trans {t u v : Timelines} (h : t.ends u) (k : u.ends v) : t.ends v :=
  ⟨h.1.trans k.1, k.2.trans h.2⟩

theorem Hw.cinchFail_ends (h : Hw) (tl : Timelines) (p : Nat) (st : Status) (v : Nat) :
    tl.ends (h.cinchFail tl p st v).1 := by
  unfold Hw.cinchFail
  split
  · exact .refl tl
  · exact ⟨tl.halts_setPart p, rfl⟩

theorem Hw.releasePartition_ends (h : Hw) (e : Env) (tl : Timelines) (p : Nat) :
    tl.ends (h.releasePartition e tl p).1 :=
  (Hw.cinchFail_ends _ tl p .aborted 0).trans ⟨Timelines.halts_setPart _ p, rfl⟩

/-- One descriptor at an epoch: a LOAD leaves the timelines, a RELEASE ends its partition's. -/
theorem Hw.partEpoch_ends (h : Hw) (f : Fuses) (tl : Timelines) (t : Nat) (who : Option Nat) :
    tl.ends (h.partEpoch f tl t who).1 := by
  refine foldl_timelines _ .refl (fun _ _ _ => .trans) _ (fun a x => ?_) _ (tl, h)
  extract_lets tl h e
  split
  · exact .refl _
  · split
    · split <;> exact .refl _
    · split
      · exact Hw.releasePartition_ends _ _ _ _
      · exact .refl _

/-- The cinches of some partitions fail. -/
theorem Hw.foldl_cinchFail_ends {st : Status} {l : List Nat} {a r : Timelines × Hw}
    (hr : l.foldl (fun a p => a.2.cinchFail a.1 p st 0) a = r) : a.1.ends r.1 :=
  hr ▸ foldl_timelines _ .refl (fun _ _ _ => .trans) _ (fun a p => Hw.cinchFail_ends a.2 a.1 p st 0) l a

theorem Hw.abortAll_ends (h : Hw) (e : Env) (tl : Timelines) : tl.ends (h.abortAll e tl).1 := by
  rw [Hw.abortAll]
  split
  next hfold => exact Hw.foldl_cinchFail_ends hfold

/-- R444: the mode changes only where every partition's timeline is IDLE. -/
theorem Hw.modeEpoch_halts (h : Hw) (tl : Timelines) :
    tl.halts (h.modeEpoch tl).1 ∧ ((h.modeEpoch tl).1.det = tl.det ∨ tl.allIdle) := by
  unfold Hw.modeEpoch
  dsimp only
  split
  · exact ⟨.refl tl, .inl rfl⟩
  · split
    · exact ⟨.refl tl, .inl rfl⟩
    · split
      · rename_i hcond
        refine ⟨⟨rfl, rfl, rfl, fun _ => .inl rfl⟩, ?_⟩
        simp only [Bool.or_eq_true, decide_eq_true_eq, List.all_eq_true] at hcond
        exact hcond
      · exact ⟨.refl tl, .inl rfl⟩

/-- R426, R444: a boundary of the fabric timeline ends timelines, and changes the mode only where all are IDLE. -/
theorem fabricBoundary_halts (f : Fuses) (tl : Timelines) (h : Hw) :
    tl.halts (fabricBoundary f tl h).1 ∧ ((fabricBoundary f tl h).1.det = tl.det ∨ tl.allIdle) := by
  unfold fabricBoundary
  split
  · exact ⟨.refl tl, .inl rfl⟩
  · dsimp only
    generalize ({ h.reach _ with fabN := _ } : Hw) = g
    obtain ⟨hmode, hdet⟩ := g.modeEpoch_halts tl
    obtain ⟨hends, hsame⟩ := Hw.partEpoch_ends (Hw.fabricWork (g.modeEpoch tl).2 ⟨f, (g.modeEpoch tl).1⟩ _ _) f
      (g.modeEpoch tl).1 _ none
    exact ⟨hmode.trans hends, by rw [hsame]; exact hdet⟩

theorem fabricFirst_halts (t : Nat) (f : Fuses) (tl : Timelines) (h : Hw) :
    tl.halts (fabricFirst t f tl h).1 ∧ ((fabricFirst t f tl h).1.det = tl.det ∨ tl.allIdle) := by
  unfold fabricFirst
  dsimp only
  generalize (if h.now < tl.fabOrigin then 0 else h.fabN + 1) = n
  split
  · exact fabricBoundary_halts f tl h
  · exact ⟨.refl tl, .inl rfl⟩

theorem Hw.beatEpoch_ends (h : Hw) (f : Fuses) (tl : Timelines) (p n t : Nat) : tl.ends (h.beatEpoch f tl p n t).1 := by
  unfold Hw.beatEpoch
  simp only [apply_ite Prod.fst, ite_self]
  exact Hw.partEpoch_ends _ _ _ _ _

/-- A timeline that is ARMED or RUNNING may go on RUNNING, or end. -/
theorem PartTl.mayBecome_running {x : PartTl} (hx : x.st ≠ .idle) : x.mayBecome { x with st := .running } := by
  cases x with
  | mk st period origin go =>
    cases st
    · exact absurd rfl hx
    · exact .inr (.inr (.inr ⟨rfl, rfl, fun _ => rfl⟩))
    · exact .inl rfl

/-- R426, R428: where a boundary of an armed or running partition falls, its timeline runs on or ends, others end or
stand, and the mode stands. -/
theorem beatFalls_evolves (p n t : Nat) (f : Fuses) (tl : Timelines) (h : Hw) (hp : (tl.part p).st ≠ .idle) :
    tl.evolves (beatFalls p n t f tl h).1 ∧ (beatFalls p n t f tl h).1.det = tl.det := by
  unfold beatFalls
  dsimp only
  obtain ⟨hfirst, hdet⟩ := fabricFirst_halts t f tl h
  replace hdet := hdet.resolve_right fun hidle => hp (hidle.part p)
  split
  · generalize fabricFirst t f tl h = r at hfirst hdet ⊢
    obtain ⟨hbeat, hsame⟩ := r.2.beatEpoch_ends f (r.1.setPart p { tl.part p with st := .running }) p n t
    refine ⟨⟨hbeat.fabPeriod.trans hfirst.fabPeriod, hbeat.fabOrigin.trans hfirst.fabOrigin,
      (hbeat.length.trans (Timelines.setPart_length _ _ _)).trans hfirst.length, fun q => ?_⟩, hsame.trans hdet⟩
    rcases hbeat.part q with hq | hq
    · rw [hq]
      by_cases hqp : q = p
      · subst hqp
        rcases r.1.part_setPart_self q { tl.part q with st := .running } with hs | hs <;> rw [hs]
        · exact PartTl.mayBecome_running hp
        · exact hfirst.evolves.part q
      · rw [Timelines.part_setPart_ne _ _ hqp]; exact hfirst.evolves.part q
    · exact .inr (.inl hq)
  · exact ⟨hfirst.evolves, hdet⟩

/-! The commands that may change timelines. -/

/-- A command answered `t`: the hardware changed and was sealed, and nothing else changed. -/
def State.onlyHw (s t : State) : Prop := t.tl = s.tl ∧ t.fuses = s.fuses ∧ t.pending = s.pending ∧ ∃ h : Hw, t.hw = h.seal

/-- The meaning of a command that may change the timelines. -/
def timelineMeaning (e : Env) : Instr → Option (Fuses → Timelines → Hw → Timelines × Hw)
  | .fabricBoundary => some fabricBoundary
  | .beatBoundary part => some (beatBoundary part)
  | .dieLinkDown die module => some (dieLinkDown die module)
  | .cinch => some fun f tl h => cinch f tl e h
  | .go frame => some (go frame)
  | .fail frame => some (fail frame)
  | .cinchTimeout part => some (cinchTimeout part)
  | .cinchMemberTimeout part => some (cinchMemberTimeout part)
  | .powerOnReset boot => some (powerOnReset boot)
  | .perst boot => some (packageReset 1 boot)
  | .rstCtrlPkg key boot => some (rstCtrlPkg key boot)
  | .rstCtrlMp key flashOk boot => some (rstCtrlMp key flashOk boot)
  | .joinCmdGo => some joinCmdGo
  | .watchdogExpiry flashOk boot => some (watchdogExpiry flashOk boot)
  | _ => none

theorem onHw_onlyHw (f : Env → Hw → Hw) (s : State) : ∃ t, onHw f s = .next t ∧ s.onlyHw t := ⟨_, rfl, rfl, rfl, rfl, _, rfl⟩

/-- Every command answers the state with other hardware, and changes the timelines only where it is one of those that
may. -/
theorem exec_eq (c : Instr) (s : State) :
    (∃ t, exec c s = .next t ∧ s.onlyHw t) ∨ ∃ f, timelineMeaning s.env c = some f ∧ exec c s = onTl f s := by
  cases c
  case fabricBoundary | beatBoundary | dieLinkDown | cinch | go | fail | cinchTimeout | cinchMemberTimeout
    | powerOnReset | perst | rstCtrlPkg | rstCtrlMp | joinCmdGo | watchdogExpiry => exact .inr ⟨_, rfl, rfl⟩
  case frameTransmit die => exact .inl (onHw_onlyHw (fun e h => (frameTransmit die e h).settleFabric e) s)
  case ack frame => exact .inl (onHw_onlyHw (fun e h => (ackFrame frame e h).settleFabric e) s)
  case resendTimeout die => exact .inl (onHw_onlyHw (fun e h => (resendTimeout die e h).settleFabric e) s)
  all_goals exact .inl ⟨_, rfl, rfl, rfl, rfl, _, rfl⟩

/-- R430 to R432: a CINCH leaves the timelines, or arms the idle one of its partition with a period of its 32-bit field,
1,000 ns or more. -/
theorem cinch_cases (f : Fuses) (tl : Timelines) (e : Env) (h : Hw) : (cinch f tl e h).1 = tl ∨
    ∃ p period, (tl.part p).st = .idle ∧ 1000 ≤ period ∧ period < 2 ^ 32 ∧
      (cinch f tl e h).1 = tl.setPart p { st := .armed, period := period } := by
  unfold cinch
  split
  · exact .inl rfl
  · rename_i j _
    extract_lets d p fin
    split
    · exact .inl rfl
    · rename_i hform
      split
      · exact .inl rfl
      · split
        · exact .inl rfl
        · rename_i hrefused
          split
          · exact .inl rfl
          · exact .inl rfl
          · split
            · exact .inl rfl
            · refine .inr ⟨p, d.fld 8 31 0, ?_, ?_, ?_, rfl⟩
              · simp only [Bool.or_eq_true, decide_eq_true_eq, not_or, not_not] at hrefused
                obtain ⟨⟨⟨hidle, -⟩, -⟩, -⟩ := hrefused
                exact hidle
              · simp only [cinchOk, Bool.not_eq_true', Bool.not_eq_false, Bool.and_eq_true, decide_eq_true_eq] at hform
                obtain ⟨⟨⟨⟨-, hperiod⟩, -⟩, -⟩, -⟩ := hform
                exact hperiod
              · exact bits_lt _ 31 0

/-- A timeline that is ARMED and has no origin yet takes the one that GO names, and may start with it. -/
theorem PartTl.mayBecome_of_go {x y : PartTl} (hst : x.st = .armed) (hgo : x.go = false) (hperiod : y.period = x.period) :
    x.mayBecome y :=
  .inr (.inr (.inr ⟨hst, hperiod, fun h => absurd (hgo.symm.trans h) Bool.false_ne_true⟩))

/-- R432, R435: GO leaves the timelines, or sets the origin of an armed one, which may start with it. -/
theorem go_cases (fr : Frame) (f : Fuses) (tl : Timelines) (h : Hw) : (go fr f tl h).1 = tl ∨
    ∃ p x, (tl.part p).mayBecome x ∧ (go fr f tl h).1 = tl.setPart p x := by
  unfold go
  split
  · exact .inl rfl
  · split
    · exact .inl rfl
    · extract_lets p x t0
      split
      · split
        · rename_i hcond
          simp only [Bool.and_eq_true, Bool.not_eq_true', decide_eq_true_eq] at hcond
          obtain ⟨⟨harmed, hgo⟩, -⟩ := hcond
          extract_lets h1 h2
          split
          · exact .inr ⟨p, { x with origin := t0, go := true }, PartTl.mayBecome_of_go harmed hgo rfl, rfl⟩
          · exact .inr ⟨p, { x with origin := t0, go := true, st := .running },
              PartTl.mayBecome_of_go harmed hgo rfl, rfl⟩
        · exact .inl rfl
      · exact .inl rfl

theorem fail_ends (fr : Frame) (f : Fuses) (tl : Timelines) (h : Hw) : tl.ends (fail fr f tl h).1 := by
  unfold fail
  split
  · exact .refl tl
  · split
    · exact .refl tl
    · extract_lets p
      split
      · split
        · exact Hw.cinchFail_ends _ _ _ _ _
        · exact .refl tl
      · exact .refl tl

theorem cinchTimeout_ends (p : Nat) (f : Fuses) (tl : Timelines) (h : Hw) : tl.ends (cinchTimeout p f tl h).1 := by
  unfold cinchTimeout
  split
  · split <;> exact .refl tl
  · exact .refl tl

theorem cinchMemberTimeout_ends (p : Nat) (f : Fuses) (tl : Timelines) (h : Hw) :
    tl.ends (cinchMemberTimeout p f tl h).1 := by
  unfold cinchMemberTimeout
  split
  · split
    · exact Hw.cinchFail_ends _ _ _ _ _
    · exact .refl tl
  · exact .refl tl

theorem dieLinkDown_ends (die module : Nat) (f : Fuses) (tl : Timelines) (h : Hw) :
    tl.ends (dieLinkDown die module f tl h).1 := by
  unfold dieLinkDown
  split
  · split
    · exact .refl tl
    · exact Hw.abortAll_ends _ _ tl
  · exact .refl tl

theorem beatBoundary_evolves (p : Nat) (f : Fuses) (tl : Timelines) (h : Hw) :
    tl.evolves (beatBoundary p f tl h).1 ∧ (beatBoundary p f tl h).1.det = tl.det := by
  unfold beatBoundary
  split
  · exact ⟨.refl tl, rfl⟩
  · extract_lets x
    split
    · exact ⟨.refl tl, rfl⟩
    · rename_i hst
      split
      · exact beatFalls_evolves _ _ _ f tl h (hst.trans_ne nofun)
      · exact ⟨.refl tl, rfl⟩
    · rename_i hst
      exact beatFalls_evolves _ _ _ f tl h (hst.trans_ne nofun)

/-! Resets and the join. -/

/-- R497, R563: a package reset takes effect, and gives the timelines their reset values, or leaves the package as it
is. -/
theorem packageReset_cases (cause : Nat) (b : BootEnv) (f : Fuses) (tl : Timelines) (h : Hw) :
    (packageReset cause b f tl h).1 = tl ∨ (packageReset cause b f tl h).1 = Timelines.fresh := by
  unfold packageReset
  split
  · exact .inr rfl
  · exact .inl rfl

/-- R497: a reset of the management processor leaves the timelines, or resets the package. -/
theorem mpReset_cases (cause : Nat) (flashOk : Bool) (b : BootEnv) (f : Fuses) (tl : Timelines) (h : Hw) :
    (mpReset cause flashOk b f tl h).1 = tl ∨ (mpReset cause flashOk b f tl h).1 = Timelines.fresh := by
  unfold mpReset
  extract_lets g i
  split
  · exact .inl rfl
  · exact packageReset_cases cause b f tl g

theorem sramReset_cases (f : Fuses) (tl : Timelines) (h : Hw) :
    (sramReset f tl h).1 = tl ∨ (sramReset f tl h).1 = Timelines.fresh := by
  unfold sramReset
  exact mpReset_cases 3 _ _ f tl _

theorem rstCtrlPkg_cases (key : Nat) (b : BootEnv) (f : Fuses) (tl : Timelines) (h : Hw) :
    (rstCtrlPkg key b f tl h).1 = tl ∨ (rstCtrlPkg key b f tl h).1 = Timelines.fresh := by
  unfold rstCtrlPkg
  split
  · exact packageReset_cases 2 b f tl h
  · exact .inl rfl

theorem rstCtrlMp_cases (key : Nat) (flashOk : Bool) (b : BootEnv) (f : Fuses) (tl : Timelines) (h : Hw) :
    (rstCtrlMp key flashOk b f tl h).1 = tl ∨ (rstCtrlMp key flashOk b f tl h).1 = Timelines.fresh := by
  unfold rstCtrlMp
  split
  · exact mpReset_cases 2 flashOk b f tl h
  · exact .inl rfl

theorem watchdogExpiry_cases (flashOk : Bool) (b : BootEnv) (f : Fuses) (tl : Timelines) (h : Hw) :
    (watchdogExpiry flashOk b f tl h).1 = tl ∨ (watchdogExpiry flashOk b f tl h).1 = Timelines.fresh := by
  unfold watchdogExpiry
  split
  · exact .inl rfl
  · extract_lets g
    split
    · exact packageReset_cases 3 b f tl g
    · exact mpReset_cases 3 flashOk b f tl _

/-- R510: in stage JOIN a join with a period of 1 µs or more gives the fabric timeline its period and origin. -/
theorem joinCmdGo_cases (f : Fuses) (tl : Timelines) (h : Hw) : (joinCmdGo f tl h).1 = tl ∨
    (h.stage = 6 ∧ 1000 ≤ h.rf Reg.joinBeatPeriod pkgB ∧ (joinCmdGo f tl h).1 =
      { tl with fabPeriod := h.rf Reg.joinBeatPeriod pkgB, fabOrigin := h.rf Reg.joinOriginOrigin pkgB }) := by
  unfold joinCmdGo
  split
  · exact .inl rfl
  · rename_i hstage
    extract_lets node period origin
    split
    · exact .inl rfl
    · rename_i hrange
      split
      · exact .inl rfl
      · simp only [Bool.or_eq_true, decide_eq_true_eq, not_or, Nat.not_lt] at hrange
        exact .inr ⟨not_not.1 hstage, hrange.2, rfl⟩

/-! The timelines after a step. -/

/-- What a step may make of the timelines `s.tl`, the queue being `s.pending`: the partitions' move on and the mode
stands; or the mode changes too, at a fabric boundary where all are IDLE; or a reset gives them their reset values; or
the package joins. -/
inductive State.timelineStep (s : State) (u : Timelines) : Prop
  | evolve (h : s.tl.evolves u) (hdet : u.det = s.tl.det)
  | mode (h : s.tl.evolves u) (hc : s.pending.head? = some .fabricBoundary) (hidle : s.tl.allIdle)
  | reset (h : u = Timelines.fresh)
  | join (hc : s.pending.head? = some .joinCmdGo) (hstage : s.hw.stage = 6)
      (hperiod : 1000 ≤ s.hw.rf Reg.joinBeatPeriod pkgB)
      (h : u = { s.tl with fabPeriod := s.hw.rf Reg.joinBeatPeriod pkgB, fabOrigin := s.hw.rf Reg.joinOriginOrigin pkgB })

theorem State.timelineStep.same (s : State) : s.timelineStep s.tl := .evolve (.refl _) rfl

theorem State.timelineStep.of_ends {s : State} {u : Timelines} (h : s.tl.ends u) : s.timelineStep u :=
  .evolve h.1.evolves h.2

theorem State.timelineStep.of_reset {s : State} {u : Timelines} (h : u = s.tl ∨ u = Timelines.fresh) :
    s.timelineStep u := by
  rcases h with rfl | h
  · exact .same s
  · exact .reset h

/-- A command that may change the timelines changes them by one of the rules. -/
theorem timelineMeaning_step {s : State} {c : Instr} {f : Fuses → Timelines → Hw → Timelines × Hw}
    (hc : s.pending.head? = some c) (hf : timelineMeaning s.env c = some f) :
    s.timelineStep (f s.fuses s.tl s.hw).1 := by
  cases c <;> cases hf
  case fabricBoundary =>
    obtain ⟨hhalts, hdet | hidle⟩ := fabricBoundary_halts s.fuses s.tl s.hw
    · exact .evolve hhalts.evolves hdet
    · exact .mode hhalts.evolves hc hidle
  case beatBoundary p =>
    obtain ⟨hev, hdet⟩ := beatBoundary_evolves p s.fuses s.tl s.hw
    exact .evolve hev hdet
  case dieLinkDown die module => exact .of_ends (dieLinkDown_ends die module _ _ _)
  case cinch =>
    rcases cinch_cases s.fuses s.tl s.env s.hw with h | ⟨p, period, hidle, hlo, hhi, h⟩
    · dsimp only; rw [h]; exact .same s
    · dsimp only; rw [h]
      exact .evolve (Timelines.evolves_setPart _ _ _ (.inr (.inr (.inl ⟨hidle, rfl, hlo, hhi⟩)))) rfl
  case go frame =>
    rcases go_cases frame s.fuses s.tl s.hw with h | ⟨p, x, hx, h⟩
    · rw [h]; exact .same s
    · rw [h]; exact .evolve (Timelines.evolves_setPart _ _ _ hx) rfl
  case fail frame => exact .of_ends (fail_ends frame _ _ _)
  case cinchTimeout p => exact .of_ends (cinchTimeout_ends p _ _ _)
  case cinchMemberTimeout p => exact .of_ends (cinchMemberTimeout_ends p _ _ _)
  case powerOnReset b => exact .reset rfl
  case perst b => exact .of_reset (packageReset_cases 1 b _ _ _)
  case rstCtrlPkg key b => exact .of_reset (rstCtrlPkg_cases key b _ _ _)
  case rstCtrlMp key flashOk b => exact .of_reset (rstCtrlMp_cases key flashOk b _ _ _)
  case watchdogExpiry flashOk b => exact .of_reset (watchdogExpiry_cases flashOk b _ _ _)
  case joinCmdGo =>
    rcases joinCmdGo_cases s.fuses s.tl s.hw with h | ⟨hstage, hperiod, h⟩
    · rw [h]; exact .same s
    · exact .join hc hstage hperiod h

/-- The state after the work that a failing page map ends is the one that the end of that work answers. -/
theorem State.endMapFault_eq {s : State} {r : Timelines × Hw}
    (hr : Hw.abortAll { s.hw with mapDown := false } s.env s.tl = r) :
    s.endMapFault = { s with tl := r.1, hw := r.2.seal } := by
  subst hr; rfl

theorem State.endMapFault_ends (s : State) : s.tl.ends s.endMapFault.tl := by
  obtain ⟨r, hr, hends⟩ : ∃ r, Hw.abortAll { s.hw with mapDown := false } s.env s.tl = r ∧ s.tl.ends r.1 :=
    ⟨_, rfl, Hw.abortAll_ends { s.hw with mapDown := false } s.env s.tl⟩
  rw [State.endMapFault_eq hr]
  exact hends

theorem idle_timelineStep (s : State) : s.timelineStep (idle s).tl := by
  unfold idle
  split
  · exact .of_ends s.endMapFault_ends
  · split
    · exact .of_reset (sramReset_cases s.fuses s.tl s.hw)
    · exact .same s

/-- Every step changes the timelines by one of the rules, if at all. -/
theorem step_timelineStep {s t : State} (h : step s = .next t) : s.timelineStep t.tl := by
  unfold step at h
  split at h
  · cases h; exact idle_timelineStep s
  · rename_i c rest hq
    have hhead : s.pending.head? = some c := by rw [hq]; rfl
    rcases exec_eq c { s with pending := rest } with ⟨u, hu, htl, -⟩ | ⟨f, hf, hu⟩
    · rw [hu] at h
      cases h
      rw [htl]
      exact .same s
    · rw [hu] at h
      cases h
      exact timelineMeaning_step hhead hf

/-! The statements about timelines. -/

/-- Settles O55: each rule by which a step changes the timelines keeps them legal. -/
theorem timelinesStayLegal : Obligations.TimelinesStayLegal := by
  intro s t hlegal hstep
  cases step_timelineStep hstep with
  | evolve h _ => exact h.legal hlegal
  | mode h _ _ => exact h.legal hlegal
  | reset h => rw [h]; exact Timelines.fresh_legal
  | join _ _ hperiod h =>
    obtain ⟨hlen, -, -, hparts⟩ := hlegal
    rw [h]
    exact ⟨hlen, hperiod, bits_lt _ 31 0, hparts⟩

/-- Settles O56: only the rule of the join and that of the reset touch the fabric timeline. -/
theorem fabricTimelineChangesOnlyAtJoinAndReset : Obligations.FabricTimelineChangesOnlyAtJoinAndReset := by
  intro s t hstep
  cases step_timelineStep hstep with
  | evolve h _ => exact .inl ⟨h.fabPeriod, h.fabOrigin⟩
  | mode h _ _ => exact .inl ⟨h.fabPeriod, h.fabOrigin⟩
  | reset h => exact .inr (.inl (by rw [h]; exact ⟨rfl, rfl⟩))
  | join hc hstage _ h => exact .inr (.inr ⟨hc, hstage, by rw [h], by rw [h]⟩)

/-- Settles O57: only a fabric boundary where every timeline is IDLE, and the reset, change the mode. -/
theorem modeChangesOnlyWithIdleTimelines : Obligations.ModeChangesOnlyWithIdleTimelines := by
  intro s t hstep hne
  cases step_timelineStep hstep with
  | evolve _ hdet => exact absurd hdet hne
  | mode _ hc hidle => exact .inl ⟨hc, hidle⟩
  | reset h => exact .inr h
  | join _ _ _ h => exact absurd (by rw [h]) hne

/-- Settles O58: what a step may make of a partition's timeline. -/
theorem runningTimelinesKeepPeriodAndOrigin : Obligations.RunningTimelinesKeepPeriodAndOrigin := by
  intro s t p hstep
  have hpart : (s.tl.part p).mayBecome (t.tl.part p) := by
    cases step_timelineStep hstep with
    | evolve h _ => exact h.part p
    | mode h _ _ => exact h.part p
    | reset h => exact .inr (.inl (by rw [h]; exact Timelines.fresh_part p))
    | join _ _ _ h => exact .inl (by rw [h]; rfl)
  rcases hpart with hsame | hend | ⟨hidle, harmed, -, -⟩ | harmed
  · exact .inl hsame
  · exact .inr (.inl (by rw [hend]))
  · exact .inr (.inr (.inl ⟨hidle, harmed⟩))
  · exact .inr (.inr (.inr harmed))

end Sys2Proof.Machine
end

section
/-! SUPPORT. Event records: what raising one leaves unchanged (R486 to R495), so that the end of a command leaves no
failing page map entry in hand. -/

namespace Sys2Proof.Machine

/-- Raising records changed registers, rings and host memory, and nothing else. -/
def Hw.recorded (h g : Hw) : Prop := ∃ regs host io, g = { h with regs := regs, host := host, io := io }

theorem Hw.recorded.refl (h : Hw) : h.recorded h := ⟨h.regs, h.host, h.io, rfl⟩

theorem Hw.recorded.trans {h g k : Hw} (hg : h.recorded g) (hk : g.recorded k) : h.recorded k := by
  obtain ⟨_, _, _, rfl⟩ := hg
  obtain ⟨_, _, _, rfl⟩ := hk
  exact ⟨_, _, _, rfl⟩

/-- A fold of what only raises records only raises records. -/
theorem Hw.recorded_foldl {α : Type} (f : Hw → α → Hw) (hf : ∀ (h : Hw) x, h.recorded (f h x)) (l : List α) :
    ∀ h : Hw, h.recorded (l.foldl f h) := by
  induction l with
  | nil => exact .refl
  | cons x l ih => exact fun h => (hf h x).trans (ih (f h x))

theorem Hw.wf_recorded (h : Hw) (f : FieldRef) (base i v : Nat) : h.recorded (h.wf f base i v) := ⟨_, _, _, rfl⟩
theorem Hw.incSat_recorded (h : Hw) (f : FieldRef) (base i n : Nat) : h.recorded (h.incSat f base i n) := ⟨_, _, _, rfl⟩
theorem Hw.setRing_recorded (h : Hw) (k : Nat) (x : RingX) : h.recorded (h.setRing k x) := ⟨_, _, _, rfl⟩
theorem Hw.hostWrite_recorded (h : Hw) (a : Nat) (bs : List Byte) : h.recorded (h.hostWrite a bs) := ⟨_, _, _, rfl⟩

theorem Hw.sendMsi_recorded (h : Hw) (fn v : Nat) : h.recorded (h.sendMsi fn v) := by
  unfold Hw.sendMsi
  split
  · exact .refl h
  · split <;> exact ⟨_, _, _, rfl⟩

theorem Hw.moderate_recorded (h : Hw) (key fn vec count : Nat) (inten atOnce : Bool) :
    h.recorded (h.moderate key fn vec count inten atOnce) := by
  unfold Hw.moderate
  extract_lets x n first g
  split
  · exact .refl h
  · split
    · exact (h.setRing_recorded _ _).trans (Hw.sendMsi_recorded _ _ _)
    · exact h.setRing_recorded _ _

theorem Hw.pushEvent_recorded (h : Hw) (fn k : Nat) (entry : Bool → List Byte) : h.recorded (h.pushEvent fn k entry) :=
  (((h.hostWrite_recorded _ _).trans (Hw.setRing_recorded _ _ _)).trans (Hw.wf_recorded _ _ _ _ _)).trans
    (Hw.moderate_recorded _ _ _ _ _ _ _)

theorem Hw.pushOverflow_recorded (h : Hw) (fn k : Nat) : h.recorded (h.pushOverflow fn k) := by
  unfold Hw.pushOverflow
  extract_lets x
  split
  · exact .refl h
  · exact (show h.recorded _ from ⟨_, _, _, rfl⟩).trans (Hw.pushEvent_recorded _ _ _ _)

theorem Hw.deliver_recorded (h : Hw) (fn k cls n part src seq : Nat) (partv : Bool) (body : List Byte) :
    h.recorded (h.deliver fn k cls n part src seq partv body) := by
  unfold Hw.deliver
  extract_lets b x free lostRec g g2
  split
  · exact h.incSat_recorded _ _ _ _
  · split
    · exact h.incSat_recorded _ _ _ _
    · split
      · exact (h.setRing_recorded _ _).trans (Hw.incSat_recorded _ _ _ _ _)
      · exact (h.pushOverflow_recorded fn k).trans (Hw.recorded_foldl _ (fun g _ => g.pushEvent_recorded _ _ _) _ _)

/-- R486: a record changes registers, rings and host memory, and nothing else. -/
theorem Hw.raise_recorded (h : Hw) (cls : Nat) (part : Option Nat) (src : Nat) (body : List Byte) (n : Nat) :
    h.recorded (h.raise cls part src body n) := by
  unfold Hw.raise
  extract_lets seq io g
  refine (show h.recorded g from ⟨_, _, _, rfl⟩).trans (Hw.recorded_foldl _ (fun k fn => ?_) _ _)
  split
  · exact k.deliver_recorded _ _ _ _ _ _ _ _ _
  · exact .refl k

theorem Hw.error_recorded (h : Hw) (kind reader status opid addr : Nat) (part : Option Nat) (src : Nat) :
    h.recorded (h.error kind reader status opid addr part src) := h.raise_recorded _ _ _ _ _

/-! A fatal event and the end of a command. -/

/-- R499: a fatal event changes what its record changes, the event log and the ports, and nothing else. -/
theorem Hw.fatal_eq (h : Hw) (kind die index : Nat) : ∃ regs host io nv ports,
    h.fatal kind die index = { h with regs := regs, host := host, io := io, nv := nv, ports := ports } := by
  unfold Hw.fatal Hw.portsOff
  extract_lets body nv g k
  obtain ⟨regs, host, io, hk⟩ : g.recorded k := g.raise_recorded _ _ _ _ _
  rw [hk]
  exact ⟨_, _, _, _, _, rfl⟩

theorem Hw.mapFatal_mapFault (h : Hw) : h.mapFatal.mapFault = none := by
  unfold Hw.mapFatal
  split
  · next p _ =>
    obtain ⟨_, _, _, _, _, hf⟩ := ({ h with mapFault := none, mapDown := true } : Hw).fatal_eq 2 (homeDie (p * 2 ^ 21)) 0
    rw [hf]
  · assumption

/-- After a command no failing page map entry is without its fatal event. -/
theorem Hw.seal_mapFault (h : Hw) : h.seal.mapFault = none := Hw.mapFatal_mapFault _

theorem State.sealed_of_seal {t : State} {h : Hw} (ht : t.hw = h.seal) : t.sealed :=
  ⟨ht ▸ h.seal_mirq, ht ▸ h.seal_mapFault⟩

/-- Sending mirrored writes changes their queue, the requests and frames, and counts; nothing else (R538). -/
def Hw.sent (h g : Hw) : Prop := ∃ regs mirq reqs nextOpid txq,
  g = { h with regs := regs, mirq := mirq, reqs := reqs, nextOpid := nextOpid, txq := txq }

theorem Hw.sent.trans {h g k : Hw} (hg : h.sent g) (hk : g.sent k) : h.sent k := by
  obtain ⟨_, _, _, _, _, rfl⟩ := hg
  obtain ⟨_, _, _, _, _, rfl⟩ := hk
  exact ⟨_, _, _, _, _, rfl⟩

theorem Hw.sent.refl (h : Hw) : h.sent h := ⟨h.regs, h.mirq, h.reqs, h.nextOpid, h.txq, rfl⟩

theorem Hw.sent_foldl {α : Type} (f : Hw → α → Hw) (hf : ∀ (h : Hw) x, h.sent (f h x)) (l : List α) :
    ∀ h : Hw, h.sent (l.foldl f h) := by
  induction l with
  | nil => exact .refl
  | cons x l ih => exact fun h => (hf h x).trans (ih (f h x))

theorem Hw.mirrorOut_sent (h : Hw) (o : Owner) : h.sent (h.mirrorOut o) := by
  unfold Hw.mirrorOut
  refine (show h.sent { h with mirq := [] } from ⟨_, _, _, _, _, rfl⟩).trans (Hw.sent_foldl _ (fun g x => ?_) _ _)
  extract_lets node src off bs g1
  refine (show g.sent g1 from ⟨_, _, _, _, _, rfl⟩).trans ?_
  split
  · exact Hw.sent_foldl _ (fun k p => ⟨_, _, _, _, _, rfl⟩) _ _
  · exact ⟨_, _, _, _, _, rfl⟩

/-- The end of a command changes what its mirrored writes and a fatal event change, and nothing else. -/
theorem Hw.seal_eq (h : Hw) : ∃ regs host io nv ports mirq reqs nextOpid txq mapFault mapDown,
    h.seal = { h with
      regs := regs, host := host, io := io, nv := nv, ports := ports, mirq := mirq, reqs := reqs, nextOpid := nextOpid
      txq := txq, mapFault := mapFault, mapDown := mapDown } := by
  obtain ⟨g, hg, hsent⟩ : ∃ g, h.seal = g.mapFatal ∧ h.sent g := by
    unfold Hw.seal
    split
    · exact ⟨h, rfl, .refl h⟩
    · exact ⟨_, rfl, h.mirrorOut_sent _⟩
  obtain ⟨_, _, _, _, _, rfl⟩ := hsent
  rw [hg]
  unfold Hw.mapFatal
  split
  · obtain ⟨_, _, _, _, _, hf⟩ := Hw.fatal_eq _ 2 _ 0
    rw [hf]
    exact ⟨_, _, _, _, _, _, _, _, _, _, _, rfl⟩
  · exact ⟨_, _, _, _, _, _, _, _, _, _, _, rfl⟩

/-! The end of a step. -/

/-- Every command answers a state with the same fuses and the same queue, sealed. -/
theorem exec_completes (c : Instr) (s : State) :
    ∃ t, exec c s = .next t ∧ t.pending = s.pending ∧ t.fuses = s.fuses ∧ t.sealed := by
  rcases exec_eq c s with ⟨t, ht, -, hfuses, hpending, h, hseal⟩ | ⟨f, -, ht⟩
  · exact ⟨t, ht, hpending, hfuses, State.sealed_of_seal hseal⟩
  · exact ⟨_, ht, rfl, rfl, State.sealed_of_seal rfl⟩

/-- The counter's tick leaves nothing to send. -/
theorem tick_sealed {s : State} (hs : s.sealed) : ({ s with hw := tick s.hw } : State).sealed := by
  show (tick s.hw).mirq = [] ∧ (tick s.hw).mapFault = none
  unfold tick
  split
  · exact hs
  · split <;> exact hs

theorem State.endMapFault_keeps (s : State) :
    s.endMapFault.pending = s.pending ∧ s.endMapFault.fuses = s.fuses ∧ s.endMapFault.sealed := by
  obtain ⟨r, hr⟩ : ∃ r, Hw.abortAll { s.hw with mapDown := false } s.env s.tl = r := ⟨_, rfl⟩
  rw [State.endMapFault_eq hr]
  exact ⟨rfl, rfl, State.sealed_of_seal rfl⟩

theorem State.endSramFault_keeps (s : State) :
    s.endSramFault.pending = s.pending ∧ s.endSramFault.fuses = s.fuses ∧ s.endSramFault.sealed :=
  ⟨rfl, rfl, State.sealed_of_seal rfl⟩

theorem idle_keeps {s : State} (hs : s.sealed) :
    (idle s).pending = s.pending ∧ (idle s).fuses = s.fuses ∧ (idle s).sealed := by
  unfold idle
  split
  · exact s.endMapFault_keeps
  · split
    · exact s.endSramFault_keeps
    · exact ⟨rfl, rfl, tick_sealed hs⟩

/-- Settles O54: an idle step and every command answer a sealed state with the same fuses and the queue's rest. -/
theorem everyStepCompletesAndTakesOneCommand : Obligations.EveryStepCompletesAndTakesOneCommand := by
  intro s hs
  unfold step
  split
  · next hnil =>
    obtain ⟨hpending, hfuses, hsealed⟩ := idle_keeps hs
    exact ⟨_, rfl, by rw [hpending, hnil]; rfl, hfuses, hsealed⟩
  · next c rest hcons =>
    obtain ⟨t, ht, hpending, hfuses, hsealed⟩ := exec_completes c { s with pending := rest }
    exact ⟨t, ht, by rw [hpending, hcons]; rfl, hfuses, hsealed⟩

end Sys2Proof.Machine
end

section
/-! SUPPORT. Bytes and memory: a number and its little-endian bytes (R10), what a store writes (R128), and that reading
sound stores only counts. -/

namespace Sys2Proof.Machine

/-! Bytes of a number. -/

theorem ofBytes_lt (l : List Byte) : ofBytes l < 256 ^ l.length := by
  induction l with
  | nil => decide
  | cons b l ih =>
    have hb : b.toNat < 256 := b.isLt
    rw [ofBytes, List.length_cons, pow_succ]
    omega

/-- A byte of the number that bytes stand for. -/
theorem ofBytes_byte (l : List Byte) (j : Nat) : ofBytes l / 256 ^ j % 256 = (l.getD j 0).toNat := by
  induction l generalizing j with
  | nil => simp [ofBytes]
  | cons b l ih =>
    have hb : b.toNat < 256 := b.isLt
    cases j with
    | zero => simp only [ofBytes, pow_zero, Nat.div_one, List.getD_cons_zero]; omega
    | succ j =>
      rw [List.getD_cons_succ, ← ih j, ofBytes, pow_succ', ← Nat.div_div_eq_div_mul]
      congr 2; omega

theorem toBytes_getD (n v j : Nat) (hj : j < n) : (toBytes n v).getD j 0 = BitVec.ofNat 8 (v / 256 ^ j) := by
  induction n generalizing v j with
  | zero => omega
  | succ n ih =>
    cases j with
    | zero => simp [toBytes]
    | succ j =>
      rw [toBytes, List.getD_cons_succ, ih (v / 256) j (by omega), Nat.div_div_eq_div_mul, pow_succ']

theorem Mem.read_length (m : Mem) (a n : Nat) : (Mem.read m a n).length = n := by simp [Mem.read, upto]

theorem Mem.read_getD (m : Mem) (a n j : Nat) (hj : j < n) : (Mem.read m a n).getD j 0 = Mem.get m (a + j) := by
  simp [Mem.read, upto, List.getD_eq_getElem?_getD, List.getElem?_map, List.getElem?_range hj]

theorem Mem.num_lt (m : Mem) (a n : Nat) : Mem.num m a n < 256 ^ n := by
  have h := ofBytes_lt (Mem.read m a n)
  rwa [Mem.read_length] at h

theorem Mem.num_word_lt (m : Mem) (a : Nat) : Mem.num m a 8 < 2 ^ 64 := Mem.num_lt m a 8

/-- A byte of a word, cut out by a shift. -/
theorem Word.byte_toNat (w : Word) (j : Nat) : ((w >>> (8 * j)).setWidth 8).toNat = w.toNat / 256 ^ j % 256 := by
  rw [BitVec.toNat_setWidth, BitVec.toNat_ushiftRight, Nat.shiftRight_eq_div_pow, pow_mul,
    show (256 : Nat) = 2 ^ 8 from rfl]

/-- A word of memory holds the bytes at its address. -/
theorem Mem.word_byte (m : Mem) (a j : Nat) (hj : j < 8) :
    ((BitVec.ofNat 64 (Mem.num m a 8) : Word) >>> (8 * j)).setWidth 8 = Mem.get m (a + j) := by
  refine BitVec.eq_of_toNat_eq ?_
  rw [Word.byte_toNat, BitVec.toNat_ofNat, Nat.mod_eq_of_lt (Mem.num_word_lt m a), Mem.num, ofBytes_byte,
    Mem.read_getD m a 8 j hj]

/-- The bytes a word is stored as. -/
theorem toBytes_word (w : Word) (j : Nat) (hj : j < 8) : (toBytes 8 w.toNat).getD j 0 = (w >>> (8 * j)).setWidth 8 := by
  refine BitVec.eq_of_toNat_eq ?_
  rw [Word.byte_toNat, toBytes_getD 8 _ j hj, BitVec.toNat_ofNat]

/-- What memory reads as after a word was written. -/
theorem Mem.get_write_word (m : Mem) (hm : Mem.wf m = true) (a x : Nat) (w : Word) :
    Mem.get (Mem.write m a (toBytes 8 w.toNat)) x =
      if a ≤ x ∧ x < a + 8 then (w >>> (8 * (x - a))).setWidth 8 else Mem.get m x := by
  rw [Mem.get_write _ m a x hm, toBytes_length]
  split
  · exact toBytes_word w (x - a) (by omega)
  · rfl

/-! Stores. -/

/-- The bytes that a store puts into memory lie in its extent. -/
theorem Hw.opened_extent (h : Hw) (a : Nat) (bs : List Byte) :
    ∀ p ∈ h.opened a bs, a ≤ p.1 ∧ p.1 < a + bs.length := by
  intro p hp
  obtain ⟨q, hq, rfl⟩ := List.mem_map.1 (List.mem_of_mem_filter hp)
  have hlt := (List.mem_zipIdx hq).2.1
  simp only [Nat.zero_add] at hlt
  exact ⟨by simp, by simpa using hlt⟩

/-- R128: a byte outside a store reads as before, however the store ends. -/
theorem storeB_get_outside (a : Nat) (bs : List Byte) (h : Hw) (hm : Mem.wf h.mem = true) (x : Nat)
    (hx : x < a ∨ a + bs.length ≤ x) : Mem.get (runOp (storeB a bs) h).2.mem x = Mem.get h.mem x := by
  rcases storeB_mem a bs h with hmem | hmem <;> rw [hmem]
  refine Mem.get_foldl_set _ x (fun p hp => ?_) _ hm
  obtain ⟨hlo, hhi⟩ := Hw.opened_extent _ a bs p hp
  omega

/-- Settles O59: the frame of a store, however it ends; the bytes of one that succeeds; and a load's frame. -/
theorem storesWriteTheirBytesAndNoOther : Obligations.StoresWriteTheirBytesAndNoOther := by
  intro h g a bs r hm hrun
  have hg : g = (runOp (storeB a bs) h).2 := by rw [hrun]
  refine ⟨hg ▸ storeB_wf a bs h hm, fun x hx => hg ▸ storeB_get_outside a bs h hm x hx, ?_, fun n => loadB_mem a n h⟩
  rintro rfl i hi
  rw [storeB_ok a bs h g hrun, Mem.get_write _ _ _ _ hm, if_pos (by omega), Nat.add_sub_cancel_left]

/-! Sound stores: what an access leaves unchanged. -/

/-- Reading changed counts of registers and pages, and the bytes moved; nothing else. -/
def Hw.counted (h g : Hw) : Prop := ∃ regs pages moved, g = { h with regs := regs, pages := pages, moved := moved }

theorem Hw.counted.refl (h : Hw) : h.counted h := ⟨h.regs, h.pages, h.moved, rfl⟩

theorem Hw.counted.trans {h g k : Hw} (hg : h.counted g) (hk : g.counted k) : h.counted k := by
  obtain ⟨_, _, _, rfl⟩ := hg
  obtain ⟨_, _, _, rfl⟩ := hk
  exact ⟨_, _, _, rfl⟩

theorem Hw.counted_foldl {α : Type} (f : Hw → α → Hw) (hf : ∀ (h : Hw) x, h.counted (f h x)) (l : List α) :
    ∀ h : Hw, h.counted (l.foldl f h) := by
  induction l with
  | nil => exact .refl
  | cons x l ih => exact fun h => (hf h x).trans (ih (f h x))

theorem Hw.incSat_counted (h : Hw) (f : FieldRef) (base i n : Nat) : h.counted (h.incSat f base i n) := ⟨_, _, _, rfl⟩

theorem Hw.countCorrected_counted (h : Hw) (a : Nat) : h.counted (h.countCorrected a) := by
  unfold Hw.countCorrected
  split <;> exact h.incSat_counted _ _ _ _

theorem Hw.wordRead_counted (h : Hw) (a : Nat) : h.counted (h.wordRead a) := by
  unfold Hw.wordRead
  split
  · exact h.countCorrected_counted a
  · exact .refl h

section
variable {h g : Hw} (hg : h.counted g)
include hg

theorem Hw.counted.mem : g.mem = h.mem := by obtain ⟨_, _, _, rfl⟩ := hg; rfl
theorem Hw.counted.cores : g.cores = h.cores := by obtain ⟨_, _, _, rfl⟩ := hg; rfl
theorem Hw.counted.mirq : g.mirq = h.mirq := by obtain ⟨_, _, _, rfl⟩ := hg; rfl
theorem Hw.counted.mapFault : g.mapFault = h.mapFault := by obtain ⟨_, _, _, rfl⟩ := hg; rfl
theorem Hw.counted.core (d k : Nat) : g.core d k = h.core d k := by obtain ⟨_, _, _, rfl⟩ := hg; rfl

end

end Sys2Proof.Machine
end

section
/-! SUPPORT. The sequencer's control: branches (R117), accesses of one word (R117, R128), waits (R107, R109, R117,
R436), and how programs stop and end (R119, R437). -/

namespace Sys2Proof.Machine

/-! The step and the register file. -/

/-- Settles O1: a step on a queue with a front command is that command's meaning on the rest. -/
theorem stepRunsFrontCommand : Obligations.StepRunsFrontCommand := fun _ _ => rfl

/-- What the end of all work leaves empty (R24). -/
theorem Hw.abortAll_empties (h : Hw) (e : Env) (tl : Timelines) : (h.abortAll e tl).2.colls = [] ∧
    (h.abortAll e tl).2.opens = [] ∧ (h.abortAll e tl).2.swaps = [] ∧ (h.abortAll e tl).2.xrets = [] := by
  rw [Hw.abortAll]
  split
  exact ⟨rfl, rfl, rfl, rfl⟩

/-- What a record and the mirrored writes of a command's end leave alone. -/
theorem Hw.seal_keeps (h : Hw) : h.seal.colls = h.colls ∧ h.seal.opens = h.opens ∧ h.seal.swaps = h.swaps ∧
    h.seal.xrets = h.xrets := by
  obtain ⟨_, _, _, _, _, _, _, _, _, _, _, hseal⟩ := h.seal_eq
  rw [hseal]
  exact ⟨rfl, rfl, rfl, rfl⟩

theorem State.endMapFault_empties (s : State) : s.endMapFault.hw.colls = [] ∧ s.endMapFault.hw.opens = [] ∧
    s.endMapFault.hw.swaps = [] ∧ s.endMapFault.hw.xrets = [] := by
  obtain ⟨r, hr, hcolls, hopens, hswaps, hxrets⟩ : ∃ r, Hw.abortAll { s.hw with mapDown := false } s.env s.tl = r ∧
      r.2.colls = [] ∧ r.2.opens = [] ∧ r.2.swaps = [] ∧ r.2.xrets = [] :=
    ⟨_, rfl, Hw.abortAll_empties { s.hw with mapDown := false } s.env s.tl⟩
  obtain ⟨hc, ho, hsw, hx⟩ := r.2.seal_keeps
  rw [State.endMapFault_eq hr]
  exact ⟨hc.trans hcolls, ho.trans hopens, hsw.trans hswaps, hx.trans hxrets⟩

/-- Settles O2: the branches of an idle step. -/
theorem emptyQueueIdles : Obligations.EmptyQueueIdles := by
  intro s hnil
  have hstep : step s = .next (idle s) := by unfold step; rw [hnil]
  refine ⟨fun hmap => ?_, fun hmap hsram => ?_, fun hmap hstop => ?_, fun hmap hsram hstop hhold => ?_,
    fun n hmap hsram hstop hhold => ?_⟩
  · have hidle : idle s = s.endMapFault := if_pos hmap
    obtain ⟨hpending, -, -⟩ := s.endMapFault_keeps
    exact ⟨by rw [hstep, hidle], hpending.trans hnil, s.endMapFault_empties⟩
  · rw [hstep, idle, hmap, hsram]; rfl
  · have hsram : s.hw.sramDown = false := by simp [Hw.sramDown, hstop]
    rw [hstep, idle, hmap, hsram, tick, hstop]; rfl
  · rw [hstep, idle, hmap, hsram, tick, hstop, hhold]; rfl
  · rw [hstep, idle, hmap, hsram, tick, hstop, hhold]; rfl

/-- Settles O4: s0 has no place in the register file, every other register has its own. -/
theorem scalarRegisterZeroDiscardsWrites : Obligations.ScalarRegisterZeroDiscardsWrites := by
  intro c r q v hwf
  refine ⟨rfl, rfl, ?_, ?_⟩
  · unfold Core.s Core.wrote
    by_cases hq : q = 0
    · simp [hq]
    · by_cases hr : r = 0
      · simp [hq, hr]
      · simp only [hq, hr, if_false]
        exact SMap.get_putD 0 c.regs r q v hwf
  · unfold Core.wrote
    split
    · exact hwf
    · exact SMap.wfD_putD 0 c.regs r v hwf

/-! Instructions executed. -/

/-- The state where the hardware changed and met no mirrored region and no failing entry. -/
theorem State.hwTo_of_sealed {s : State} {g : Hw} (hs : s.sealed) (hmirq : g.mirq = s.hw.mirq)
    (hfault : g.mapFault = s.hw.mapFault) : s.hwTo g = { s with hw := g } := by
  obtain ⟨hnoMirq, hnoFault⟩ := hs
  exact State.hwTo_of_nil s g (hmirq.trans hnoMirq) (hfault.trans hnoFault)

/-- The same, where the core's record changed after reads that only count. -/
theorem State.hwTo_setCore {s : State} {g : Hw} (hs : s.sealed) (hg : s.hw.counted g) (d k : Nat) (c : Core) :
    s.hwTo (g.setCore d k c) = { s with hw := g.setCore d k c } :=
  State.hwTo_of_sealed hs hg.mirq hg.mapFault

theorem onHw_insn {s : State} {opc d k : Nat} {f : Env → Core → Insn → Hw → Hw} {i : Insn}
    (hi : s.hw.insn? s.env d k = some i) (ho : i.opc = opc) :
    onHw (onInsn opc d k f) s = .next (s.hwTo (f s.env (s.hw.core d k) i s.hw)) := by
  rw [onHw_eq, onInsn_of opc d k f s i hi ho]

/-- An instruction whose operation succeeds goes on with what it answers. -/
theorem Hw.insnOp_ok {α : Type} {h g : Hw} {d k : Nat} {m : Op α} {f : α → Hw → Hw} {a : α}
    (hm : runOp m h = (.ok a, g)) : h.insnOp d k m f = f a g := by simp only [Hw.insnOp, hm]

/-! Branches. -/

/-- The index that a branch target is kept as: the target where it lies in the store, and no index of the store where it
does not. -/
theorem branchIndex_spec {index : Nat} (hindex : index < 4096) (imm : BitVec 32) :
    let target : Int := index + imm.toInt
    (0 ≤ target → target < 4096 → ((BitVec.ofInt 32 target).toNat : Int) = target) ∧
      (target < 0 ∨ 4096 ≤ target → 4096 ≤ (BitVec.ofInt 32 target).toNat) := by
  intro target
  have hlo : -2 ^ 31 ≤ imm.toInt := BitVec.le_toInt imm
  have hhi : imm.toInt < 2 ^ 31 := BitVec.toInt_lt
  have htarget : target = index + imm.toInt := rfl
  rw [BitVec.toNat_ofInt]
  omega

theorem onHw_branch {s : State} {opc d k : Nat} {f : Core → Insn → Bool} {i : Insn} {taken : Prop} (hs : s.sealed)
    (hi : s.hw.insn? s.env d k = some i) (ho : i.opc = opc) (ht : f (s.hw.core d k) i = true ↔ taken) :
    let c := s.hw.core d k
    let target : Int := c.index + (BitVec.ofNat 32 i.imm).toInt
    ∃ n, onHw (branch opc f d k) s = .next { s with hw := s.hw.setCore d k { c with index := n } } ∧
      (¬ taken → n = c.index + 1) ∧ (taken → 0 ≤ target → target < 4096 → (n : Int) = target) ∧
      (taken → (target < 0 ∨ 4096 ≤ target) → 4096 ≤ n) := by
  intro c target
  obtain ⟨-, -, -, hindex, -⟩ := s.hw.insn?_some s.env d k i hi
  obtain ⟨hin, hout⟩ := branchIndex_spec hindex (BitVec.ofNat 32 i.imm)
  by_cases hf : f c i = true
  · refine ⟨(BitVec.ofInt 32 target).toNat, onHw_onInsn hs hi ho ?_, fun hn => absurd (ht.1 hf) hn, fun _ => hin,
      fun _ => hout⟩
    rw [if_pos hf, toSigned_eq_toInt 32 i.imm (by decide)]
  · exact ⟨c.index + 1, onHw_onInsn hs hi ho (if_neg hf), fun _ => rfl, fun h => absurd (ht.2 h) hf,
      fun h => absurd (ht.2 h) hf⟩

/-- Settles O5: each branch, by its condition. -/
theorem branchesContinueAtTheirTarget : Obligations.BranchesContinueAtTheirTarget := by
  intro s d k i hs hi
  refine ⟨fun ho => onHw_branch hs hi ho ?_, fun ho => onHw_branch hs hi ho ?_, fun ho => onHw_branch hs hi ho ?_,
    fun ho => onHw_branch hs hi ho ?_⟩ <;> simp

/-! Accesses of one word. -/

theorem spWin_mod8 (d : Nat) : spWin d % 8 = 0 := by unfold spWin spBase; omega

theorem wordAddr_of_aligned {c : Core} {i : Insn} {a : Nat}
    (ha : (c.s i.sa + (BitVec.ofNat 32 i.imm).signExtend 64).toNat = a) (h8 : a % 8 = 0) (hwin : a + 8 ≤ 0x10000000) :
    wordAddr c i = some a := by
  unfold wordAddr
  rw [i.immW_eq, ha]
  exact if_pos (by simp [h8, hwin])

theorem wordAddr_of_bad {c : Core} {i : Insn} {a : Nat}
    (ha : (c.s i.sa + (BitVec.ofNat 32 i.imm).signExtend 64).toNat = a) (hbad : a % 8 ≠ 0 ∨ 0x10000000 < a + 8) :
    wordAddr c i = none := by
  unfold wordAddr
  rw [i.immW_eq, ha]
  exact if_neg (by simp only [Bool.and_eq_true, decide_eq_true_eq]; omega)

/-- A good word of a die's window, read. -/
theorem runOp_loadN_win {h : Hw} {d a : Nat} (h8 : a % 8 = 0) (hg : h.wordGood (spWin d + a)) :
    runOp (loadN (spWin d + a) 8) h = (.ok (Mem.num h.mem (spWin d + a) 8), h.wordRead (spWin d + a)) :=
  runOp_loadN_word h _ (spWin_not_dev d a) (by have := spWin_mod8 d; omega) hg

/-- The hardware after a word of a scratchpad window was written (R128): its check passes, and reservations of it end. -/
def Hw.wordWritten (h : Hw) (g : Nat) (w : Word) : Hw :=
  { h with
    mem := Mem.write h.mem g (toBytes 8 w.toNat)
    reservations := h.reservations.filter (fun (r : Nat × Nat) => r.2 ≠ g)
    badWords := h.badWords.filter (fun w => w / 8 * 8 ≠ g)
    badLines := h.badLines.filter (fun w => w / 8 * 8 ≠ g)
    corrWords := h.corrWords.filter (fun w => w ≠ g) }

theorem runOp_storeN_win {h : Hw} {d a : Nat} {w : Word} (h8 : a % 8 = 0) (hc : h.clearing (spWin d + a) 8 = false) :
    runOp (storeN (spWin d + a) 8 w.toNat) h = (.ok (), h.wordWritten (spWin d + a) w) :=
  runOp_storeN_word h _ _ (spWin_not_dev d a) (by have := spWin_mod8 d; omega) hc

/-- A command that stores a word and moves its core's record on: memory after it, and what else changed. -/
theorem stores_word {s : State} (hs : s.sealed) (hm : Mem.wf s.hw.mem = true) {d k g : Nat} {c : Core} {w : Word}
    {o : Host.Outcome State Fault Refusal} (ho : o = .next (s.hwTo ((s.hw.wordWritten g w).setCore d k c))) :
    ∃ m, o = .next { s with hw := { s.hw.setCore d k c with
        mem := m
        reservations := s.hw.reservations.filter (fun (r : Nat × Nat) => r.2 ≠ g)
        badWords := s.hw.badWords.filter (fun w => w / 8 * 8 ≠ g)
        badLines := s.hw.badLines.filter (fun w => w / 8 * 8 ≠ g)
        corrWords := s.hw.corrWords.filter (fun w => w ≠ g) } } ∧
      (∀ x, Mem.get m x = if g ≤ x ∧ x < g + 8 then (w >>> (8 * (x - g))).setWidth 8 else Mem.get s.hw.mem x) ∧
      Mem.wf m = true :=
  ⟨_, ho.trans (congrArg _ (State.hwTo_of_sealed hs rfl rfl)), fun x => Mem.get_write_word _ hm g x w,
    Mem.wf_write _ _ _ hm⟩

/-- Settles O6: a load reads a good word; a store, by either instruction, writes the register's. -/
theorem loadsAndStoresMoveOneWord : Obligations.LoadsAndStoresMoveOneWord := by
  refine ⟨fun s d k i hs ⟨hi, ho⟩ h8 hwin hg => ?_, fun s d k i hs hm hi h8 hwin hc => ⟨fun ho => ?_, fun ho hdrained => ?_⟩⟩
  · refine ⟨BitVec.ofNat 64 (Mem.num s.hw.mem _ 8), (onHw_insn hi ho).trans ?_,
      fun j hj => Mem.word_byte _ _ j hj, Hw.wordRead_mem _ _⟩
    simp only [wordAddr_of_aligned rfl h8 hwin, Hw.insnOp_ok (runOp_loadN_win h8 hg), Core.next_setS]
    rw [State.hwTo_setCore hs (Hw.wordRead_counted _ _)]
  · refine stores_word hs hm ((onHw_insn hi ho).trans ?_)
    simp only [wordAddr_of_aligned rfl h8 hwin, Hw.insnOp_ok (runOp_storeN_win h8 hc)]
    rfl
  · refine stores_word hs hm ((onHw_insn hi ho).trans ?_)
    simp only [wordAddr_of_aligned rfl h8 hwin, Hw.insnOp_ok (runOp_storeN_win h8 hc), hdrained, Bool.not_true,
      Bool.false_eq_true, if_false]
    rfl

end Sys2Proof.Machine
end

section
/-! SUPPORT. The sequencer's stops, waits and ends: a program that stops by itself (R119), the flag instructions (R107,
R109), FENCE and BEAT (R117, R436), and what a program's end leaves (R119, R167, R437). -/

namespace Sys2Proof.Machine

/-! Stops. -/

theorem bits_of_lt {v hi lo : Nat} (hl : lo ≤ hi + 1) (hv : v < 2 ^ (hi + 1)) : bits v hi lo = v / 2 ^ lo := by
  rw [bits_eq]
  refine Nat.mod_eq_of_lt (Nat.div_lt_of_lt_mul ?_)
  rwa [← pow_add, Nat.add_sub_cancel' hl]

theorem Insn.of_imm_lt (w : Word) : (Insn.of w).imm < 2 ^ 32 := Nat.mod_lt _ (by decide)

theorem Hw.insn?_imm_lt {h : Hw} {e : Env} {d k : Nat} {i : Insn} (hi : h.insn? e d k = some i) : i.imm < 2 ^ 32 := by
  obtain ⟨-, -, -, -, -, rfl, -⟩ := h.insn?_some e d k i hi
  exact Insn.of_imm_lt _

/-- Settles O7: each rule broken stops the program where it stands, with nothing queued to wait for. -/
theorem badInstructionStopsTheProgram : Obligations.BadInstructionStopsTheProgram := by
  intro s d k hs c hdrained hfail hrun stops
  have hidle : c.st ≠ .idle := by rw [hrun]; nofun
  have hstop := s.hw.stopAt_drained d k .badDescriptor 0 hidle hfail hdrained
  have hinsn : ∀ {opc i} {f : Env → Core → Insn → Hw → Hw} {x : Instr}, s.hw.insn? s.env d k = some i → i.opc = opc →
      exec x s = onHw (onInsn opc d k f) s → f s.env c i s.hw = s.hw.stopAt d k .badDescriptor 0 → stops x := by
    intro opc i f x hi ho hx hf
    show exec x s = _
    rw [hx, onHw_insn hi ho, hf, hstop]
  have hreserved (hon : s.hw.dieOn s.env d = true) (hk : k < 4) (hnone : s.hw.insn? s.env d k = none) :
      exec (.reservedOpc d k) s = .next (s.hwTo (if c.index < 4096 && s.hw.issueBad d k then s.hw.issueFail d k
        else s.hw.stopAt d k .badDescriptor 0)) :=
    congrArg (fun h => Host.Outcome.next (s.hwTo h)) (if_pos (by simp [show (s.hw.core d k).st = _ from hrun, hon, hk, hnone]))
  refine ⟨fun i hi => ?_, fun hon hk hnone hindex hbad => ?_, fun hon hk hnone hcannot => ?_⟩
  · intro a
    have himm := Hw.insn?_imm_lt hi
    refine ⟨fun hbad => ?_, fun ho h4 h5 h6 => ?_, fun ho hres => ?_, fun ho hres => ?_⟩
    · have hnone : wordAddr c i = none := wordAddr_of_bad rfl hbad
      refine ⟨fun ho => hinsn hi ho rfl ?_, fun ho => hinsn hi ho rfl ?_, fun ho => hinsn hi ho rfl ?_,
        fun ho => hinsn hi ho rfl ?_⟩
      · simp only [hnone]
      · simp only [hnone]
      · show s.hw.tryWaitf d k i = _
        rw [Hw.tryWaitf, show wordAddr (s.hw.core d k) i = none from hnone]
      · simp only [hnone]
    · refine hinsn hi ho rfl (if_pos ?_)
      simp only [Bool.or_eq_true, decide_eq_true_eq]
      omega
    · refine hinsn hi ho rfl (if_pos ?_)
      rwa [bits_of_lt (by decide) himm]
    · refine hinsn hi ho rfl (if_pos ?_)
      rwa [bits_of_lt (by decide) himm]
  · rw [hreserved hon hk hnone, if_pos (by simp [hindex, hbad])]
  · show exec (.reservedOpc d k) s = _
    rw [hreserved hon hk hnone, if_neg, hstop]
    simp only [Bool.and_eq_true, decide_eq_true_eq, not_and, Bool.not_eq_true]
    rintro hlt
    exact hcannot.resolve_left (Nat.not_le.2 hlt)

/-! Flag instructions. -/

theorem insn_eq_of_issues {s : State} {d k opc : Nat} {i : Insn} (hi : s.issues d k opc i) :
    i = Insn.of (s.hw.progWord d k (s.hw.core d k).index) ∧ (s.hw.core d k).st = .running := by
  obtain ⟨hrun, -, -, -, -, heq, -⟩ := s.hw.insn?_some s.env d k i hi.1
  exact ⟨heq, hrun⟩

theorem Mem.num_low (m : Mem) (a : Nat) : bits (Mem.num m a 8) 31 0 = Mem.num m a 8 % 2 ^ 32 := by
  rw [bits_eq, pow_zero, Nat.div_one]

theorem Mem.num_high (m : Mem) (a : Nat) : bits (Mem.num m a 8) 63 32 = Mem.num m a 8 / 2 ^ 32 :=
  bits_of_lt (by decide) (Mem.num_word_lt m a)

theorem Hw.released_eq (h : Hw) (d k : Nat) (i : Insn) (n : Nat) :
    h.released d k i n = h.setCore d k { (h.core d k).wrote i.sd (BitVec.ofNat 64 n) with st := .running } := by
  simp only [Hw.released, Core.next_setS]

section
variable {h : Hw} {d k a : Nat} {i : Insn}
  (ha : ((h.core d k).s i.sa + (BitVec.ofNat 32 i.imm).signExtend 64).toNat = a)
  (h8 : a % 8 = 0) (hwin : a + 8 ≤ 0x10000000) (hg : h.wordGood (spWin d + a))
include ha h8 hwin hg

/-- R107: WAITF reads its flag, and where it is set for the tag copies COUNT and goes on. -/
theorem Hw.tryWaitf_of_set
    (hset : Mem.num h.mem (spWin d + a) 8 % 2 ^ 32 = ((h.core d k).s i.sb).toNat % 2 ^ 32) :
    h.tryWaitf d k i = (h.wordRead (spWin d + a)).setCore d k
      { (h.core d k).wrote i.sd (BitVec.ofNat 64 (Mem.num h.mem (spWin d + a) 8 / 2 ^ 32)) with st := .running } := by
  rw [Hw.tryWaitf, wordAddr_of_aligned ha h8 hwin]
  simp only [Hw.insnOp_ok (runOp_loadN_win h8 hg), Mem.num_low, Mem.num_high]
  rw [if_pos hset, Hw.released_eq, Hw.wordRead_core]

/-- R107: where the flag is unset it waits. -/
theorem Hw.tryWaitf_of_unset
    (hunset : ¬ Mem.num h.mem (spWin d + a) 8 % 2 ^ 32 = ((h.core d k).s i.sb).toNat % 2 ^ 32) :
    h.tryWaitf d k i = (h.wordRead (spWin d + a)).setCore d k { h.core d k with
      st := .flagWait, since := if (h.core d k).st = .flagWait then (h.core d k).since else h.now } := by
  rw [Hw.tryWaitf, wordAddr_of_aligned ha h8 hwin]
  simp only [Hw.insnOp_ok (runOp_loadN_win h8 hg), Mem.num_low]
  rw [if_neg hunset, Hw.wordRead_now]

end

/-- A core in a wait, with the wait's state given to it again. -/
theorem Core.with_same_wait {c : Core} {n : Nat} (hst : c.st = .flagWait) :
    { c with st := .flagWait, since := if c.st = .flagWait then c.since else n } = c := by
  rw [if_pos hst, ← hst]

/-- R119: the wait of a WAITF whose flag is unset, alone in its core, ends its program with TIMEOUT. -/
theorem coreFlagTimeout_of_waitf {h : Hw} {e : Env} {d k a : Nat} (hst : (h.core d k).st = .flagWait)
    (ha : wordAddr (h.core d k) (Insn.of (h.progWord d k (h.core d k).index)) = some a)
    (hunset : ¬ Mem.num h.mem (spWin d + a) 8 % 2 ^ 32 =
      ((h.core d k).s (Insn.of (h.progWord d k (h.core d k).index)).sb).toNat % 2 ^ 32)
    (ht : h.rf Reg.coreCtrlFlagTimeout (rkey d k 0) ≠ 0) (hempty : (h.core d k).arrayQ = []) :
    coreFlagTimeout d k e h =
      (h.reach ((h.core d k).since + h.rf Reg.coreCtrlFlagTimeout (rkey d k 0) * 1000)).stopAt d k .timeout 0 := by
  have hsince : h.waitfSince d k = some (h.core d k).since := by
    unfold Hw.waitfSince Hw.flagAt
    simp only [hst, ha, Mem.num_low, if_neg hunset, decide_true, Option.isNone_none, Bool.true_and, if_true]
  unfold coreFlagTimeout
  simp only [hempty, hsince, if_neg ht]

/-- R109: GATE's flag address, aligned and within the window. -/
theorem gateAddr_of_aligned {c : Core} {i : Insn} {a : Nat} (ha : (c.s i.sa).toNat = a) (h8 : a % 8 = 0)
    (hwin : a + 8 ≤ 0x10000000) : gateAddr c i = some a := by
  unfold gateAddr
  rw [ha]
  exact if_pos (by simp [h8, hwin])

/-- R109: what GATE writes: COUNT where the flag is set for the tag, else zero. -/
def gateValue (v tag : Nat) : Word := BitVec.ofNat 64 (if v % 2 ^ 32 = tag then v / 2 ^ 32 else 0)

section
variable {h : Hw} {e : Env} {d k a : Nat} {i : Insn} {last : Bool} (ha : ((h.core d k).s i.sa).toNat = a)
  (h8 : a % 8 = 0) (hwin : a + 8 ≤ 0x10000000) (hg : h.wordGood (spWin d + a))
include ha h8 hwin hg

/-- R109: what GATE does with its flag's word. -/
theorem Hw.tryGate_eq :
    h.tryGate e d k i last =
      let v := Mem.num h.mem (spWin d + a) 8
      let hit := v % 2 ^ 32 = ((h.core d k).s i.sb).toNat % 2 ^ 32
      let g := h.wordRead (spWin d + a)
      if (hit && gateT i ≤ v / 2 ^ 32) || last || bits i.imm 23 16 = 0 then
        g.released d k i (if hit then v / 2 ^ 32 else 0)
      else if (h.core d k).st = .gateWait then g
      else
        let p := (g.partOf d).getD 0
        g.setCore d k { h.core d k with
          st := .gateWait
          since := g.now
          deadline := Nat.min (g.now + ceilDiv (e.periodOf p * bits i.imm 23 16) 256)
            (e.boundaryOf p (g.beatOf e p + 1)) } := by
  rw [Hw.tryGate, gateAddr_of_aligned ha h8 hwin]
  simp only [Hw.insnOp_ok (runOp_loadN_win h8 hg), Mem.num_low, Mem.num_high]

/-- R109: a GATE that is released goes on with COUNT or zero. -/
theorem Hw.tryGate_of_release
    (hrelease : (Mem.num h.mem (spWin d + a) 8 % 2 ^ 32 = ((h.core d k).s i.sb).toNat % 2 ^ 32 ∧
      gateT i ≤ Mem.num h.mem (spWin d + a) 8 / 2 ^ 32) ∨ last = true ∨ bits i.imm 23 16 = 0) :
    h.tryGate e d k i last = (h.wordRead (spWin d + a)).setCore d k { (h.core d k).wrote i.sd
      (gateValue (Mem.num h.mem (spWin d + a) 8) (((h.core d k).s i.sb).toNat % 2 ^ 32)) with st := .running } := by
  rw [Hw.tryGate_eq ha h8 hwin hg]
  dsimp only
  rw [if_pos, Hw.released_eq, Hw.wordRead_core, gateValue]
  simp only [Bool.or_eq_true, Bool.and_eq_true, decide_eq_true_eq, or_assoc]
  exact hrelease

/-- R109: another GATE waits, to its deadline or the next boundary of its partition. -/
theorem Hw.tryGate_of_stall (hst : (h.core d k).st = .running)
    (hmiss : ¬ (Mem.num h.mem (spWin d + a) 8 % 2 ^ 32 = ((h.core d k).s i.sb).toNat % 2 ^ 32 ∧
      gateT i ≤ Mem.num h.mem (spWin d + a) 8 / 2 ^ 32)) (hF : bits i.imm 23 16 ≠ 0) :
    let g := h.wordRead (spWin d + a)
    let p := (g.partOf d).getD 0
    h.tryGate e d k i false = g.setCore d k { h.core d k with
      st := .gateWait
      since := h.now
      deadline := min (h.now + (e.periodOf p * bits i.imm 23 16 + 255) / 256) (e.boundaryOf p (h.beatOf e p + 1)) } := by
  intro g p
  rw [Hw.tryGate_eq ha h8 hwin hg]
  dsimp only
  rw [if_neg, if_neg (by rw [hst]; nofun)]
  · have hbeat : g.beatOf e p = h.beatOf e p := by simp [g, Hw.beatOf]
    simp only [Hw.wordRead_now]
    rw [hbeat]
    rfl
  · simp only [Bool.or_eq_true, Bool.and_eq_true, decide_eq_true_eq, Bool.false_eq_true, or_false, not_or]
    exact ⟨hmiss, hF⟩

end

theorem gateT_eq (i : Insn) : gateT i = if i.imm % 2 ^ 16 = 0 then 512 else i.imm % 2 ^ 16 := by
  simp [gateT, orElse, bits_eq]

theorem gateF_eq (i : Insn) : bits i.imm 23 16 = i.imm / 2 ^ 16 % 256 := bits_eq _ _ _

/-- Settles O8: the two instructions, each read once and by what it finds. -/
theorem flagInstructionsWaitAndCopyCounts : Obligations.FlagInstructionsWaitAndCopyCounts := by
  refine ⟨fun s d k hs hon hk => ?_, fun s d k hs => ?_⟩
  · intro c i a g v set read goes t h8 hwin hg
    have haddr : wordAddr c i = some a := wordAddr_of_aligned rfl h8 hwin
    have hread : s.hw.counted read := Hw.wordRead_counted _ _
    have hcheck (hst : c.st = .flagWait) : exec (.flagRecheck (.core d k)) s = .next (s.hwTo (s.hw.tryWaitf d k i)) := by
      refine congrArg (fun h => Host.Outcome.next (s.hwTo h)) ?_
      simp only [flagRecheck, hon, hk, Bool.true_and, decide_true, if_true, Hw.recheckCore]
      rw [show (s.hw.core d k).st = .flagWait from hst]
    have hissue (hi : s.issues d k 0x28 i) : exec (.waitf d k) s = .next (s.hwTo (s.hw.tryWaitf d k i)) :=
      onHw_insn hi.1 hi.2
    refine ⟨fun hi hset => ?_, fun hi hunset => ?_, fun hst hset => ?_, fun hst hunset => ?_,
      fun hst hunset ht hdrained hfail => ?_⟩
    · exact (hissue hi).trans (by rw [Hw.tryWaitf_of_set rfl h8 hwin hg hset, State.hwTo_setCore hs hread])
    · rw [hissue hi, Hw.tryWaitf_of_unset rfl h8 hwin hg hunset, State.hwTo_setCore hs hread,
        if_neg (by rw [(insn_eq_of_issues hi).2]; nofun)]
    · exact (hcheck hst).trans (by rw [Hw.tryWaitf_of_set rfl h8 hwin hg hset, State.hwTo_setCore hs hread])
    · rw [hcheck hst, Hw.tryWaitf_of_unset rfl h8 hwin hg hunset, State.hwTo_setCore hs hread,
        Core.with_same_wait hst]
    · have hempty : c.arrayQ = [] := by
        simp only [Core.drained, Bool.and_eq_true, List.isEmpty_iff] at hdrained
        exact hdrained.1.1
      have hstop := (s.hw.reach (c.since + t * 1000)).stopAt_drained d k .timeout 0 (hst.trans_ne nofun) hfail hdrained
      show onHw (coreFlagTimeout d k) s = _
      rw [onHw_eq, coreFlagTimeout_of_waitf hst haddr hunset ht hempty, hstop, Nat.mul_comm]
      rfl
  · intro c i a g v tag count value T F read p goes h8 hwin hg
    have hread : s.hw.counted read := Hw.wordRead_counted _ _
    have hissue (hi : s.issues d k 0x29 i) (hres : i.imm < 2 ^ 24) :
        exec (.gate d k) s = .next (s.hwTo (s.hw.tryGate s.env d k i false)) := by
      refine (onHw_insn hi.1 hi.2).trans ?_
      rw [if_neg (by rw [bits_of_lt (by decide) (Hw.insn?_imm_lt hi.1)]; omega)]
    refine ⟨fun hi hres hrelease => ?_, fun hi hres hmiss hF => ?_, fun hst => ?_⟩
    · refine (hissue hi hres).trans ?_
      rw [Hw.tryGate_of_release rfl h8 hwin hg, State.hwTo_setCore hs hread]
      · rfl
      · rw [gateT_eq, gateF_eq]
        rcases hrelease with h | h
        · exact .inl h
        · exact .inr (.inr h)
    · refine (hissue hi hres).trans ?_
      rw [Hw.tryGate_of_stall rfl h8 hwin hg (insn_eq_of_issues hi).2 (by rw [gateT_eq]; exact hmiss)
        (by rw [gateF_eq]; exact hF), State.hwTo_setCore hs hread, gateF_eq]
    · have hreach : (s.hw.reach c.deadline).counted ((s.hw.reach c.deadline).wordRead g) := Hw.wordRead_counted _ _
      have hrelease := Hw.tryGate_of_release (h := s.hw.reach c.deadline) (e := s.env) (i := i) rfl h8 hwin hg
        (.inr (.inl rfl : true = true ∨ _))
      show onHw (gateDeadline d k) s = _
      rw [onHw_eq, gateDeadline, if_pos hst, hrelease]
      exact congrArg _ (State.hwTo_of_sealed hs hreach.mirq hreach.mapFault)

/-! FENCE and BEAT. -/

theorem bit_eq (v i : Nat) : bit v i = decide (v / 2 ^ i % 2 = 1) := by rw [bit, Nat.shiftRight_eq_div_pow]

/-- Settles O9: FENCE by the queues its mask names, BEAT by whether its boundary has fallen. -/
theorem fenceAndBeatWaitForTheirEvent : Obligations.FenceAndBeatWaitForTheirEvent := by
  refine ⟨fun s d k i hs hi himm => ?_, fun s d k i hs hi => ?_⟩
  · intro c busy
    have hres : ¬ bits i.imm 31 3 ≠ 0 := by rw [bits_of_lt (by decide) (Hw.insn?_imm_lt hi.1)]; omega
    have hbusy : ((bit i.imm 0 && !c.arrayQ.isEmpty) || (bit i.imm 1 && !c.vectorQ.isEmpty)
        || (bit i.imm 2 && !c.posts.isEmpty)) = true ↔ busy := by
      have h2 : i.imm / 4 % 2 = 1 ↔ i.imm / 4 = 1 := by omega
      simp only [bit_eq, Bool.or_eq_true, Bool.and_eq_true, decide_eq_true_eq, Bool.not_eq_true', List.isEmpty_eq_false_iff,
        pow_zero, Nat.div_one, pow_one, show 2 ^ 2 = 4 from rfl, h2, or_assoc, busy]
    refine ⟨fun hfree => ?_, fun hb => ?_⟩ <;> refine (onHw_insn hi.1 hi.2).trans ?_
    · rw [if_neg hres, if_neg (fun h => hfree (hbusy.1 h)), State.hwTo_setCore hs (.refl _)]
      rfl
    · rw [if_neg hres, if_pos (hbusy.2 hb), State.hwTo_of_sealed hs rfl rfl]
  · intro c p late acct
    refine ⟨fun hfell => ?_, fun hnot => ?_⟩ <;> refine (onHw_insn hi.1 hi.2).trans ?_
    · rw [if_pos (Nat.succ_le_of_lt hfell)]
      exact congrArg _ (State.hwTo_of_sealed hs rfl rfl)
    · rw [if_neg (Nat.not_le.2 (Nat.lt_succ_of_le hnot)), State.hwTo_setCore hs (.refl _)]

/-! The end of a program. -/

/-- R437: whether a program that succeeds now does so after boundary B + 1. -/
theorem Hw.lateStatus_ok_iff (h : Hw) (e : Env) (part : Option Nat) (b : Nat) :
    h.lateStatus e part (some b) .ok = .okLate ↔ ∃ p, part = some p ∧ b + 1 ≤ h.beatOf e p := by
  cases part with
  | none => simp [Hw.lateStatus]
  | some p => simp [Hw.lateStatus, show Status.good .ok = true from rfl]

/-- R119: an abort keeps what has started, and the program ends once nothing of that is left. -/
theorem Hw.abortCore_eq (h : Hw) (d k : Nat) :
    let c := h.core d k
    let begun := c.arrayQ.filter (fun o => o.handed.isSome || o.run.isSome)
    let c' := { c with
      st := .stopping, arrayQ := begun, vectorQ := [], posts := c.posts.filter (fun p => p.handed)
      shadow := c.shadow.filter (fun t => begun.any (fun o => o.issue = t.issue))
      fail := some ⟨0, .aborted, c.index, 0⟩ }
    h.abortCore d k = if c.st = .idle then h
      else if c'.drained then (h.setCore d k c').endProgram d k ⟨.aborted, 0, c.index⟩ else h.setCore d k c' := by
  intro c begun c'
  have hcore : (h.setCore d k c').core d k = c' := Hw.core_setCore h d k c'
  show (if c.st = .idle then h else (h.setCore d k c').settle d k) = _
  rw [Hw.settle, hcore]

/-- R167: the skiver's count of tiles goes to its field, which wraps; its other counts go to other fields. -/
theorem Hw.flushSkiver_tiles (h : Hw) (d k : Nat) : (h.flushSkiver d k).rf Reg.skvTilesTiles (rkey d k 0) =
    (h.rf Reg.skvTilesTiles (rkey d k 0) + (h.core d k).skvTiles) % 2 ^ 32 := by
  have hpruned (g : Hw) (b n : Nat) : (g.inc Reg.skvPrunedPruned b 0 n).rf Reg.skvTilesTiles b = g.rf Reg.skvTilesTiles b :=
    Hw.rf_wf_reg g _ _ _ _ _ _ _ (show b + 0x100 + 0 ≠ b + 0x110 + 0 by omega)
  have hsaved (g : Hw) (b n : Nat) : (g.inc Reg.skvBytesSaved b 0 n).rf Reg.skvTilesTiles b = g.rf Reg.skvTilesTiles b :=
    Hw.rf_wf_reg g _ _ _ _ _ _ _ (show b + 0x100 + 0 ≠ b + 0x108 + 0 by omega)
  have hraw (g : Hw) (b n : Nat) : (g.inc Reg.skvTilesRaw b 0 n).rf Reg.skvTilesTiles b = g.rf Reg.skvTilesTiles b :=
    Hw.rf_wf_field g _ _ _ _ _ rfl (by decide) (by decide) (by decide) (.inl (by decide))
  have htiles (g : Hw) (b n : Nat) :
      (g.inc Reg.skvTilesTiles b 0 n).rf Reg.skvTilesTiles b = (g.rf Reg.skvTilesTiles b + n) % 2 ^ 32 :=
    Hw.rf_wf g _ _ _ _ (by decide) (by decide)
  exact (hpruned _ _ _).trans ((hsaved _ _ _).trans ((hraw _ _ _).trans (htiles h _ _)))

theorem Hw.flushSkiver_core (h : Hw) (d k : Nat) : (h.flushSkiver d k).core d k =
    { h.core d k with skvTiles := 0, skvRaw := 0, skvSaved := 0, skvPruned := 0 } := Hw.core_setCore _ _ _ _

/-- Settles O10: HALT's status, what an abort discards, and what a program's end leaves. -/
theorem programsEndWithTheirStatus : Obligations.ProgramsEndWithTheirStatus := by
  refine ⟨fun s d k i hs hi => ?_, fun s d k hs hon hk => ?_, fun h d k r => ?_⟩
  · intro c late ends
    have hhalt : exec (.halt d k) s = .next (s.hwTo (if !c.drained then s.hw else s.hw.endProgram d k
        ⟨if c.late || s.hw.lateStatus s.env (s.hw.partOf d) (some c.beat) .ok = .okLate then .okLate
          else if c.replayed then .okReplayed else .ok, i.imm, c.index⟩)) := onHw_insn hi.1 hi.2
    have hlate : (c.late || decide (s.hw.lateStatus s.env (s.hw.partOf d) (some c.beat) .ok = .okLate)) = true ↔ late := by
      simp only [Bool.or_eq_true, decide_eq_true_eq, Hw.lateStatus_ok_iff, late]
    refine ⟨fun hdrained hl => ?_, fun hdrained hl hreplayed => ?_, fun hdrained hl hreplayed => ?_, fun hbusy => ?_⟩
    · exact hhalt.trans (by rw [hdrained, if_pos (hlate.2 hl)]; rfl)
    · exact hhalt.trans (by rw [hdrained, if_neg (fun h => hl (hlate.1 h)), hreplayed]; rfl)
    · exact hhalt.trans (by rw [hdrained, if_neg (fun h => hl (hlate.1 h)), hreplayed]; rfl)
    · exact hhalt.trans (by rw [hbusy]; exact congrArg _ (State.hwTo_of_sealed hs rfl rfl))
  · intro c begun c'
    have habort : exec (.coreCtrlAbort d k) s = .next (s.hwTo (s.hw.abortCore d k)) := by
      refine congrArg (fun h => Host.Outcome.next (s.hwTo h)) ?_
      simp [coreAbort, hon, hk]
    rw [habort, Hw.abortCore_eq]
    refine ⟨fun hidle => ?_, fun hrun hbusy => ?_, fun hrun hdrained => ?_⟩
    · rw [if_pos hidle, State.hwTo_of_sealed hs rfl rfl]
    · rw [if_neg hrun, if_neg (by rw [show c'.drained = false from hbusy]; nofun), State.hwTo_setCore hs (.refl _)]
    · rw [if_neg hrun, if_pos hdrained]
  · intro g c h'
    have hcore : (h'.core d k) = { g.core d k with
        st := .idle, cur := none, fail := none, watch := [], satEv := false, nonfinEv := false, accEv := false
        replayed := false, late := false, exitCode := 0 } := Hw.core_setCore _ _ _ _
    have hg : g.core d k = { c with skvTiles := 0, skvRaw := 0, skvSaved := 0, skvPruned := 0 } := h.flushSkiver_core d k
    have hend : h.endProgram d k r = match c.cur with | some l => h'.completeBase l.origin r | none => h' := by
      have hh : h' = Hw.setCore { g with watch := addWatch g.watch (g.core d k).watch } d k { g.core d k with
          st := .idle, cur := none, fail := none, watch := [], satEv := false, nonfinEv := false, accEv := false
          replayed := false, late := false, exitCode := 0 } := by rw [show (g.core d k).watch = c.watch by rw [hg]]
      rw [show c.cur = (g.core d k).cur by rw [hg], hh]
      rfl
    refine ⟨fun l hcur => ?_, fun hcur => ?_, ?_, ?_, ?_, ?_, ?_, h.flushSkiver_tiles d k⟩
    · rw [hend, hcur]
    · rw [hend, hcur]
    · rw [hcore]
    · rw [hcore, hg]
    · rw [hcore, hg]
    · rw [hcore, hg]
    · rfl

end Sys2Proof.Machine
end

section
/-! SUPPORT. Operations that read sound stores: they answer what memory holds and change nothing but counts (R128, R365,
R371), so that the reads of an operation follow one another. -/

namespace Sys2Proof.Machine

theorem Hw.counted.sound {h g : Hw} (hg : h.counted g) (hs : h.sound) : g.sound := by
  obtain ⟨_, _, _, rfl⟩ := hg
  exact hs

/-- The registers that count what accesses meet: SP_ECC of a C-die, HBM_ECC and DDR_ECC of an M-die (R129, R384), CE_COUNT
of a copy engine (R144, R146). -/
def CountKey (k : Nat) : Prop :=
  (∃ d < 24, k = rkey d 11 8) ∨ (∃ m u, 28 ≤ m ∧ m < 32 ∧ 2 ≤ u ∧ u < 8 ∧ k = rkey m u 8) ∨
    ∃ d u, (u = 5 ∨ u = 6) ∧ k = rkey d u Reg.ceCount.off

/-- No register changed but those that count accesses. -/
def Hw.sameRegs (h : Hw) (regs : SMap Word) : Prop := ∀ k, ¬ CountKey k → SMap.find? regs k = SMap.find? h.regs k

/-- Reading changed the counts of errors, the pages' counts and the bytes moved; nothing else. -/
def Hw.tallied (h g : Hw) : Prop :=
  ∃ regs pages moved, g = { h with regs := regs, pages := pages, moved := moved } ∧ h.sameRegs regs

theorem Hw.tallied.refl (h : Hw) : h.tallied h := ⟨h.regs, h.pages, h.moved, rfl, fun _ _ => rfl⟩

theorem Hw.tallied.trans {h g k : Hw} (hg : h.tallied g) (hk : g.tallied k) : h.tallied k := by
  obtain ⟨_, _, _, rfl, hr⟩ := hg
  obtain ⟨_, _, _, rfl, hr'⟩ := hk
  exact ⟨_, _, _, rfl, fun x hx => (hr' x hx).trans (hr x hx)⟩

theorem Hw.tallied.counted {h g : Hw} (hg : h.tallied g) : h.counted g := by
  obtain ⟨_, _, _, rfl, -⟩ := hg
  exact ⟨_, _, _, rfl⟩

theorem Hw.tallied.sameRegs {h g : Hw} (hg : h.tallied g) : h.sameRegs g.regs := by
  obtain ⟨_, _, _, rfl, hr⟩ := hg
  exact hr

theorem Hw.tallied_foldl {α : Type} (f : Hw → α → Hw) (hf : ∀ (h : Hw) x, h.tallied (f h x)) (l : List α) :
    ∀ h : Hw, h.tallied (l.foldl f h) := by
  induction l with
  | nil => exact .refl
  | cons x l ih => exact fun h => (hf h x).trans (ih (f h x))

/-- A field of a register that counts none of this reads as before. -/
theorem Hw.sameRegs.rf {h g : Hw} (hr : h.sameRegs g.regs) (f : FieldRef) (b i : Nat)
    (hk : ¬ CountKey (b + f.row.off + f.row.stride * i)) : g.rf f b i = h.rf f b i := by
  rw [Hw.rf, Hw.rf, Hw.reg, Hw.reg, hr _ hk]

/-- A register of a unit other than a scratchpad, a stack, a channel or a copy engine is none of them. -/
theorem not_countKey {d u o : Nat} (ho : o < 0x100000) (hu : u < 16) (hd : d < 24 → u ≠ 11) (hm : 28 ≤ d → 8 ≤ u)
    (hce : u ≠ 5 ∧ u ≠ 6) : ¬ CountKey (rkey d u o) := by
  have hoff : Reg.ceCount.off < 0x100000 := by decide
  unfold CountKey rkey
  rintro (⟨x, hx, hk⟩ | ⟨m, v, h28, h32, h2, h8, hk⟩ | ⟨x, v, hv, hk⟩) <;> omega

theorem rkey_add (d u o : Nat) : rkey d u 0 + o + 0 * 0 = rkey d u o := by unfold rkey; omega

theorem Hw.countCorrected_tallied (h : Hw) (a : Nat) : h.tallied (h.countCorrected a) := by
  have hput : ∀ (k : Nat) (v : Word), CountKey k → h.sameRegs (SMap.put h.regs k v) := by
    intro k v hk x hx
    rw [SMap.find?_put, if_neg (show ¬ x = k from fun he => hx (he ▸ hk))]
  unfold Hw.countCorrected
  split
  · rename_i d hd
    refine ⟨_, _, _, rfl, hput (rkey d 11 0 + 0x8 + 0 * 0) _ (.inl ⟨d, ?_, rfl⟩)⟩
    unfold spDie at hd
    split at hd
    · rename_i hin
      simp only [Bool.and_eq_true, decide_eq_true_eq] at hin
      cases hd
      omega
    · cases hd
  · have hhome : 28 ≤ homeDie a ∧ homeDie a < 32 := by unfold homeDie; omega
    have hunit : (h.memUnit a).1 = homeDie a ∧ 2 ≤ (h.memUnit a).2 ∧ (h.memUnit a).2 < 8 := by
      unfold Hw.memUnit
      dsimp only
      split
      · exact ⟨rfl, by omega, by omega⟩
      · refine ⟨rfl, ?_, ?_⟩ <;> split <;> omega
    obtain ⟨hdie, h2, h8⟩ := hunit
    refine ⟨_, _, _, rfl, hput _ _ (.inr (.inl ⟨(h.memUnit a).1, (h.memUnit a).2, by omega, by omega, h2, h8, ?_⟩))⟩
    split <;> exact rkey_add _ _ 8

theorem Hw.touch_tallied {h : Hw} (hs : h.sound) (a n : Nat) : h.tallied (h.touch a n) := by
  unfold Hw.touch
  split
  · exact .refl h
  · have hlook : h.lookUp a n = h := by rw [Hw.lookUp, Hw.mapOk_of_sound h hs]; rfl
    dsimp only
    rw [hlook]
    exact (Hw.tallied_foldl _ (fun g _ => ⟨g.regs, _, g.moved, rfl, fun _ _ => rfl⟩) _ h).trans
      ⟨_, _, _, rfl, fun _ _ => rfl⟩

/-- From the hardware `h`, or with counts of reads added to it, the operation answers `a` and only counts. -/
def Reads {α : Type} (op : Op α) (h : Hw) (a : α) : Prop :=
  ∀ h' : Hw, h.tallied h' → ∃ g, runOp op h' = (.ok a, g) ∧ h.tallied g

theorem Reads.run {α : Type} {op : Op α} {h : Hw} {a : α} (ha : Reads op h a) :
    ∃ g, runOp op h = (.ok a, g) ∧ h.tallied g := ha h (.refl h)

theorem Reads.pure {α : Type} (h : Hw) (a : α) : Reads (Pure.pure a : Op α) h a := fun h' hh => ⟨h', rfl, hh⟩

theorem Reads.bind {α β : Type} {op : Op α} {f : α → Op β} {h : Hw} {a : α} {b : β} (ha : Reads op h a)
    (hb : Reads (f a) h b) : Reads (op >>= f) h b := by
  intro h' hh
  obtain ⟨g, hrun, hg⟩ := ha h' hh
  obtain ⟨k, hrun', hk⟩ := hb g hg
  exact ⟨k, runOp_bind _ _ _ _ _ hrun _ _ hrun', hk⟩

theorem Reads.need {c : Bool} (h : Hw) (s : Status) (hc : c = true) : Reads (Machine.need c s) h () := by
  rw [hc]
  exact Reads.pure h ()

theorem Reads.loadB {h : Hw} (hs : h.sound) (a n : Nat) : Reads (Machine.loadB a n) h (Mem.read h.mem a n) := by
  intro h' hh
  have hs' := hh.counted.sound hs
  have htouch := Hw.touch_tallied hs' a n
  have hsound := htouch.counted.sound hs'
  have hcount := Hw.tallied_foldl _ Hw.countCorrected_tallied
    ((wordsOf a n).filter (fun w => (h'.touch a n).corrWords.contains w)) (h'.touch a n)
  obtain ⟨g, hrun, -⟩ := loadB_sound h' hs' a n
  have hg : g = (runOp (Machine.loadB a n) h').2 := by rw [hrun]
  refine ⟨g, hh.counted.mem ▸ hrun, hh.trans ?_⟩
  have hnone : ∀ (k : Hw), k.badWords = [] → k.badLines = [] →
      (wordsOf a n).find? (fun w => k.badWords.contains w || k.lineBad w) = none := by
    intro k hw hl
    simp [Hw.lineBad, hw, hl]
  rw [hg, runOp_loadB, if_neg (by simp [Hw.clearing, hs'.2.2.2])]
  dsimp only
  rw [if_neg (by simp [Hw.mapOk_of_sound _ hsound]), hnone _ (hcount.counted.sound hsound).1
    (hcount.counted.sound hsound).2.1]
  exact htouch.trans hcount

theorem Reads.loadN {h : Hw} (hs : h.sound) (a n : Nat) : Reads (Machine.loadN a n) h (Mem.num h.mem a n) :=
  (Reads.loadB hs a n).bind (.pure h _)

/-- The descriptor that an instruction names (R117). -/
theorem Reads.readDesc {h : Hw} (hs : h.sound) {c : Core} {i : Insn} {a n : Nat} (d : Nat)
    (ha : (c.s i.sa + (BitVec.ofNat 32 i.imm).signExtend 64).toNat = a) (hwin : a + n ≤ 0x10000000) :
    Reads (Machine.readDesc d c i n) h (BitVec.ofNat 1024 (Mem.num h.mem (spWin d + a) n)) := by
  unfold Machine.readDesc
  rw [i.immW_eq, ha]
  exact (Reads.need h _ (decide_eq_true hwin)).bind ((Reads.loadN hs _ n).bind (.pure h _))

/-! Launches and posts. -/

/-- The registers that a launch's arguments fill, from s`n + 1` on (R115, R476). -/
theorem SMap.get_args (l : List Word) : ∀ (n : Nat) (m : SMap Word), SMap.wfD 0 m = true → ∀ q,
    SMap.get ((l.zipIdx n).foldl (fun m p => SMap.putD 0 m (p.2 + 1) p.1) m) 0 q =
      if n + 1 ≤ q ∧ q < n + 1 + l.length then l.getD (q - 1 - n) 0 else SMap.get m 0 q := by
  induction l with
  | nil => intro n m _ q; rw [if_neg (by simp)]; rfl
  | cons x l ih =>
    intro n m hm q
    rw [List.zipIdx_cons, List.foldl_cons, ih (n + 1) _ (SMap.wfD_putD 0 m _ _ hm), SMap.get_putD 0 m _ _ _ hm]
    simp only [List.length_cons]
    by_cases hq : q = n + 1
    · subst hq
      rw [if_neg (by omega), if_pos rfl, if_pos (by omega), show n + 1 - 1 - n = 0 by omega]
      rfl
    · rw [if_neg hq]
      by_cases hin : n + 1 + 1 ≤ q ∧ q < n + 1 + 1 + l.length
      · rw [if_pos hin, if_pos (by omega), show q - 1 - n = (q - 1 - (n + 1)) + 1 by omega]
        rfl
      · rw [if_neg hin, if_neg (by omega)]

/-- A core at the start of a launch (R115, R436). -/
def Core.launched (c : Core) (l : LaunchRec) (ls : List LaunchRec) (beat : Nat) : Core :=
  let regs := l.args.zipIdx.foldl (fun (m : SMap Word) p => SMap.putD 0 m (p.2 + 1) p.1) []
  { c with
    st := .running, index := l.start, regs := regs, unitStart := l.start, unitRegs := regs, replayStep := 0
    launches := ls, cur := some l, satEv := false, nonfinEv := false, accEv := false, replayed := false
    late := false, fail := none, nextIssue := 0, beat := beat, watch := [], stepFmt := none
    skvTiles := 0, skvRaw := 0, skvSaved := 0, skvPruned := 0 }

theorem Hw.startLaunch_of_idle {h : Hw} {d k : Nat} {l : LaunchRec} {ls : List LaunchRec} (beat : Nat)
    (hst : (h.core d k).st = .idle) (hl : (h.core d k).launches = l :: ls) :
    h.startLaunch d k beat = h.setCore d k ((h.core d k).launched l ls beat) := by
  unfold Hw.startLaunch
  simp only [hst, hl]
  rfl

theorem Core.launched_s (c : Core) {l : LaunchRec} (ls : List LaunchRec) (beat : Nat) (hlen : l.args.length = 8) (r : Nat) :
    (c.launched l ls beat).s r = if 1 ≤ r ∧ r ≤ 8 then l.args.getD (r - 1) 0 else 0 := by
  have hget := SMap.get_args l.args 0 [] rfl r
  rw [Core.s]
  by_cases hr : r = 0
  · rw [if_pos hr, if_neg (by omega)]
  · refine (if_neg hr).trans (hget.trans ?_)
    rw [hlen]
    by_cases hr8 : 1 ≤ r ∧ r ≤ 8
    · rw [if_pos (by omega), if_pos hr8]; rfl
    · rw [if_neg (by omega), if_neg hr8]; rfl

/-- R71: noting a stepped format changes nothing else of the core. -/
theorem Core.noteStep_eq (c : Core) (f : Option Fmt) : ∃ n, c.noteStep f = { c with stepFmt := n } := by
  unfold Core.noteStep
  split
  · exact ⟨c.stepFmt, rfl⟩
  · split
    · exact ⟨c.stepFmt, rfl⟩
    · exact ⟨_, rfl⟩

/-- Settles O13: what a launch loads, and where a POST goes. -/
theorem launchesStartAndPostsHandOn : Obligations.LaunchesStartAndPostsHandOn := by
  refine ⟨fun s d k l ls hs hon hk hheld hst hl hlen => ?_, fun s d k i hs hi => ?_⟩
  · have hstart : launch d k s.env s.hw =
        s.hw.setCore d k ((s.hw.core d k).launched l ls (s.hw.beatOf s.env ((s.hw.partOf d).getD 0))) :=
      (if_pos (by simp [hon, hk, hheld])).trans (Hw.startLaunch_of_idle _ hst hl)
    refine ⟨(s.hw.core d k).launched l ls (s.hw.beatOf s.env ((s.hw.partOf d).getD 0)), ?_, rfl, rfl, rfl, rfl, rfl, rfl,
      rfl, rfl, (s.hw.core d k).launched_s ls _ hlen⟩
    exact (congrArg (fun h => Host.Outcome.next (s.hwTo h)) hstart).trans
      (congrArg _ (State.hwTo_setCore hs (.refl _) d k _))
  · intro c a posts h4 h6
    have hunit : ¬ (i.unit < 4 || 6 < i.unit) = true := by simp; omega
    have hposts : ∀ desc h, c.posts.length < 8 → runOp (readDesc d c i 128) s.hw = (.ok desc, h) → posts desc h := by
      intro desc h hroom hrun
      let post : PostRec := { issue := c.nextIssue, index := c.index, unit := i.unit, desc := desc, beat := c.beat }
      let c' := if i.unit = 4 ∧ desc.fld 0 7 0 = 2 ∧ desc.fld 0 26 26 = 1
        then c.noteStep (stepped true c.replayStep (desc.fld 0 19 16)) else c
      show exec (.post d k) s = .next (s.hwTo ((h.setCore d k { c' with
        index := c.index + 1, nextIssue := c.nextIssue + 1, posts := c.posts ++ [post] }).handAll d))
      have hc' : (if (decide (i.unit = 4) && decide (desc.fld 0 7 0 = 2) && decide (desc.fld 0 26 26 = 1)) = true
          then c.noteStep (stepped true c.replayStep (desc.fld 0 19 16)) else c) = c' :=
        if_congr (by simp only [Bool.and_eq_true, decide_eq_true_eq, and_assoc]) rfl rfl
      obtain ⟨hp, hindex, hissue⟩ : c'.posts = c.posts ∧ c'.index = c.index ∧ c'.nextIssue = c.nextIssue := by
        simp only [c']
        split
        · obtain ⟨n, hnote⟩ := c.noteStep_eq (stepped true c.replayStep (desc.fld 0 19 16))
          rw [hnote]
          exact ⟨rfl, rfl, rfl⟩
        · exact ⟨rfl, rfl, rfl⟩
      refine (onHw_insn hi.1 hi.2).trans ?_
      rw [if_neg hunit, if_neg (Nat.not_le.2 hroom), Hw.insnOp_ok hrun]
      dsimp only
      rw [hc', hp, hissue, Core.next, hindex]
    refine ⟨fun hfull => ?_, hposts, fun hroom hsound hwin => ?_⟩
    · refine (onHw_insn hi.1 hi.2).trans ?_
      rw [if_neg hunit, if_pos hfull, State.hwTo_of_sealed hs rfl rfl]
    · obtain ⟨g, hrun, hg⟩ := (Reads.readDesc hsound d rfl hwin).run
      exact ⟨g, hg.counted.mem, hg.counted.cores, hposts _ g hroom hrun⟩

end Sys2Proof.Machine
end

section
/-! SUPPORT. Replay points (R72, R120), and the queues of the array and of the vector unit (R95, R112, R118). -/

namespace Sys2Proof.Machine

/-! Replay points. -/

/-- What a look at the replay point does (R72, R120). -/
theorem judged_of_atReplay {s : State} (hs : s.sealed) {d k p : Nat} {h : Hw} (hmirq : h.mirq = s.hw.mirq)
    (hfault : h.mapFault = s.hw.mapFault) (hexec : exec (.replay d k) s = .next (s.hwTo (h.atReplay s.env p))) :
    (h.allAtReplay p = false → exec (.replay d k) s = .next { s with hw := h }) ∧
    (h.allAtReplay p = true → h.jobIsLocal p = true →
      exec (.replay d k) s = .next (s.hwTo (h.replayDecision s.env p (h.partCause p ≠ 0)))) ∧
    (h.allAtReplay p = true → h.jobIsLocal p = false →
      exec (.replay d k) s = .next (s.hwTo (h.replayReduce s.env p))) := by
  rw [hexec, Hw.atReplay]
  refine ⟨fun hall => ?_, fun hall hjob => ?_, fun hall hjob => ?_⟩
  · rw [hall, Bool.not_false, if_pos rfl, State.hwTo_of_sealed hs hmirq hfault]
  · rw [hall, hjob]; rfl
  · rw [hall, hjob]; rfl

theorem Hw.decideCore_again (h : Hw) (d k : Nat) : (h.decideCore true d k).core d k = { h.core d k with
    st := .running, satEv := false, nonfinEv := false, accEv := false, watch := [], stepFmt := none
    skvTiles := 0, skvRaw := 0, skvSaved := 0, skvPruned := 0, replayStep := (h.core d k).replayStep + 1
    regs := (h.core d k).unitRegs, index := (h.core d k).unitStart, replayed := true } := Hw.core_setCore _ _ _ _

theorem Hw.decideCore_on (h : Hw) (d k : Nat) : (h.decideCore false d k).core d k = { h.core d k with
    st := .running, satEv := false, nonfinEv := false, accEv := false, watch := [], stepFmt := none
    skvTiles := 0, skvRaw := 0, skvSaved := 0, skvPruned := 0, replayStep := 0
    index := (h.core d k).index + 1, unitStart := (h.core d k).index + 1, unitRegs := (h.core d k).regs } := by
  refine (Hw.core_setCore _ _ _ _).trans ?_
  simp only [Bool.false_eq_true, if_false, Hw.flushSkiver_core]

/-- Settles O11: where a REPLAY waits, what is looked at, and what each decision leaves of a core. -/
theorem replayWaitsAndDecides : Obligations.ReplayWaitsAndDecides := by
  refine ⟨fun s d k p hs hpart => ?_, fun h d k => ?_⟩
  · intro c judged
    have hissue : ∀ {i}, s.issues d k 0x30 i → exec (.replay d k) s = .next (s.hwTo (if !c.drained then s.hw
        else (s.hw.setCore d k { c with st := .replayWait, since := s.hw.now }).atReplay s.env p)) := by
      intro i hi
      have hst : (s.hw.core d k).st = .running := (s.hw.insn?_some s.env d k i hi.1).1
      refine congrArg (fun h => Host.Outcome.next (s.hwTo h)) ?_
      unfold insnReplay
      rw [if_neg (by simp [hst]), onInsn_of _ d k _ s i hi.1 hi.2]
      have hpart' : (s.hw.setCore d k { c with st := .replayWait, since := s.hw.now }).partOf d = some p := hpart
      simp only [hpart', c]
    refine ⟨fun i hi hbusy => ?_, fun i hi hdrained => ?_, fun hst hon hk => ?_⟩
    · rw [hissue hi, hbusy, Bool.not_false, if_pos rfl, State.hwTo_of_sealed hs rfl rfl]
    · exact judged_of_atReplay hs rfl rfl ((hissue hi).trans (by rw [hdrained]; rfl))
    · refine judged_of_atReplay hs rfl rfl (congrArg (fun h => Host.Outcome.next (s.hwTo h)) ?_)
      unfold insnReplay
      rw [if_pos (by simp [show (s.hw.core d k).st = _ from hst, hon, hk])]
      simp only [hpart]
  · intro c yes no
    have hyes := h.decideCore_again d k
    have hno := h.decideCore_on d k
    simp only [yes, no, hyes, hno]
    exact ⟨⟨trivial, rfl, rfl, rfl, rfl, rfl, trivial⟩, ⟨trivial, trivial, rfl, rfl, rfl, rfl, rfl⟩, rfl, rfl⟩

/-! The queues of the array and of the vector unit. -/

/-- R108: a flag list of good bytes, as its checks find it. -/
theorem MmaD.readList_reads {x : MmaD} {w v : Nat} {h : Hw} (hs : h.sound) (hv : Mem.num h.mem (w + x.flagList) 8 = v) (h1 : 1 ≤ v)
    (h64 : v ≤ 64) (hwin : x.flagList + 8 + 16 * v ≤ 0x10000000)
    (hok : x.entriesOk (flagEntries (Mem.read h.mem (w + x.flagList + 8) (16 * v))) = true) :
    Reads (x.readList w) h (flagEntries (Mem.read h.mem (w + x.flagList + 8) (16 * v))) := by
  have hlow : bits v 31 0 = v := by rw [bits_of_lt (by decide) (by omega), pow_zero, Nat.div_one]
  have hhigh : bits v 63 32 = 0 := by rw [bits_of_lt (by decide) (by omega)]; omega
  unfold MmaD.readList
  refine (Reads.need h _ (decide_eq_true (by omega))).bind ((Reads.loadN hs _ 8).bind ?_)
  rw [hv, hlow, hhigh]
  refine (Reads.need h _ ?_).bind ((Reads.loadB hs _ _).bind ((Reads.need h _ hok).bind (.pure h _)))
  simp only [h1, h64, inWin, Bool.and_eq_true, decide_eq_true_eq, and_self, true_and]
  omega

/-- R95, R96, R106, R108: the checks of a product that is accepted. -/
theorem MmaD.flagsRead_reads {x : MmaD} {w step : Nat} {h : Hw} (hs : h.sound) :
    let v := Mem.num h.mem (w + x.flagList) 8
    let list := flagEntries (Mem.read h.mem (w + x.flagList + 8) (16 * v))
    let es := if x.stream then list else []
    let size := if x.sparse then Mem.num h.mem (w + x.bAddr + 12) 4 else 0
    x.ok step = true →
    (x.empty = true → x.m ≠ 0 → x.n ≠ 0 → x.handsOver = true → x.extentsOk step 0 0 = true) →
    (x.empty = false → x.extentsOk step size es.length = true ∧
      (x.stream = true → 1 ≤ v ∧ v ≤ 64 ∧ x.flagList + 8 + 16 * v ≤ 0x10000000 ∧ x.entriesOk list = true) ∧
      (x.sparse = true → x.bAddr + 16 ≤ 0x10000000)) →
    Reads (x.flagsRead w step) h (if x.empty then [] else es) := by
  intro v list es size hok hempty hfull
  unfold MmaD.flagsRead
  refine (Reads.need h _ hok).bind ?_
  cases he : x.empty with
  | true =>
    refine (Reads.need h _ ?_).bind (.pure h _)
    by_cases hm : x.m = 0
    · simp [hm]
    by_cases hn : x.n = 0
    · simp [hn]
    cases hh : x.handsOver with
    | false => simp
    | true => simp [hempty he hm hn hh]
  | false =>
    obtain ⟨hext, hstream, hsparse⟩ := hfull he
    have hend : Reads (do need (x.extentsOk step size es.length) .badDescriptor; pure es) h es :=
      (Reads.need h _ hext).bind (.pure h _)
    have hsized : Reads (if x.sparse = true then do
          need (inWin x.bAddr 16) .badDescriptor
          let size ← loadN (w + x.bAddr + 0x0C) 4
          need (x.extentsOk step size es.length) .badDescriptor
          pure es
        else do
          let size ← pure 0
          need (x.extentsOk step size es.length) .badDescriptor
          pure es) h es := by
      by_cases hsp : x.sparse = true
      · rw [show size = Mem.num h.mem (w + x.bAddr + 12) 4 from if_pos hsp] at hend
        rw [if_pos hsp]
        exact (Reads.need h _ (decide_eq_true (hsparse hsp))).bind ((Reads.loadN hs _ 4).bind hend)
      · rw [show size = 0 from if_neg hsp] at hend
        rw [if_neg hsp]
        exact (Reads.pure h 0).bind hend
    simp only [Bool.false_eq_true, if_false]
    by_cases hst : x.stream = true
    · obtain ⟨h1, h64, hwin, hentries⟩ := hstream hst
      have hlist : Reads (x.readList w) h es := by
        rw [show es = list from if_pos hst]
        exact MmaD.readList_reads hs rfl h1 h64 hwin hentries
      rw [if_pos hst]
      exact hlist.bind hsized
    · rw [if_neg hst]
      exact (show Reads (pure []) h es by rw [show es = [] from if_neg hst]; exact .pure h _).bind hsized

/-- Settles O12: what each instruction queues once its descriptor is read, and that sound words let it be read. -/
theorem operationsQueueInOrder : Obligations.OperationsQueueInOrder := by
  intro s d k i hs hi c w a rows op c' mma vop
  have hmma : ∀ desc h flags g, runOp (readDesc d c i 64) s.hw = (.ok desc, h) →
      runOp ((MmaD.of desc (rows desc)).flagsRead w c.replayStep) h = (.ok flags, g) → i.opc = 0x20 →
      c.arrayQ.length < 2 → mma desc flags g := by
    intro desc h flags g hdesc hflags ho hroom
    let m := MmaD.of desc (rows desc)
    have hchecks : runOp (do return (desc, rows desc, ← m.flagsRead w c.replayStep)) h = (.ok (desc, rows desc, flags), g) :=
      runOp_bind _ _ _ _ _ hflags _ _ (runOp_pure _ _)
    have hempty : (m.empty && !m.handsOver) = true ↔ m.empty = true ∧ m.handsOver = false := by simp
    refine (onHw_insn hi ho).trans ?_
    rw [if_neg (Nat.not_le.2 hroom), Hw.insnOp_ok (runOp_bind _ _ _ _ _ hdesc _ _ hchecks)]
    by_cases he : m.empty = true ∧ m.handsOver = false
    · rw [if_pos he]
      exact congrArg (fun h => Host.Outcome.next (s.hwTo h)) (if_pos (hempty.2 he))
    · rw [if_neg he]
      exact congrArg (fun h => Host.Outcome.next (s.hwTo h)) (if_neg (fun h => he (hempty.1 h)))
  have hvop : ∀ desc h, runOp (readDesc d c i 64) s.hw = (.ok desc, h) → i.opc = 0x21 → c.vectorQ.length < 4 →
      (VopD.of desc (rows desc)).ok c.replayStep = true → vop desc h := by
    intro desc h hdesc ho hroom hok
    let v := VopD.of desc (rows desc)
    have hempty : (decide (rows desc = 0) || decide (v.n = 0)) = true ↔ rows desc = 0 ∨ v.n = 0 := by simp
    refine (onHw_insn hi ho).trans ?_
    rw [if_neg (Nat.not_le.2 hroom), Hw.insnOp_ok hdesc]
    refine (congrArg (fun h => Host.Outcome.next (s.hwTo h)) (if_neg (show ¬ (!v.ok c.replayStep) = true by simp [hok, v]))).trans ?_
    by_cases he : rows desc = 0 ∨ v.n = 0
    · rw [if_pos he]
      exact congrArg (fun h => Host.Outcome.next (s.hwTo h)) (if_pos (hempty.2 he))
    · rw [if_neg he]
      exact congrArg (fun h => Host.Outcome.next (s.hwTo h)) (if_neg (fun h => he (hempty.1 h)))
  refine ⟨fun ho hfull => ?_, fun ho hfull => ?_, hvop, hmma, fun hsound hwin => ?_⟩
  · exact (onHw_insn hi ho).trans (by rw [if_pos hfull, State.hwTo_of_sealed hs rfl rfl])
  · exact (onHw_insn hi ho).trans (by rw [if_pos hfull, State.hwTo_of_sealed hs rfl rfl])
  · obtain ⟨g, hdesc, hg⟩ := (Reads.readDesc hsound d rfl hwin).run
    intro desc m v list es size accepted
    refine ⟨fun ho hroom ⟨hok, hempty, hfull⟩ => ?_, fun ho hroom hok => ⟨g, hg.counted.mem, hg.counted.cores, hvop _ g hdesc ho hroom hok⟩⟩
    obtain ⟨k', hflags, hk⟩ := MmaD.flagsRead_reads hsound hok hempty hfull g hg
    exact ⟨k', hk.counted.mem, hk.counted.cores, hmma _ g _ k' hdesc hflags ho hroom⟩

end Sys2Proof.Machine
end

section
/-! SUPPORT. Operations on sound stores that read and write: they complete, leave the stores sound, and change nothing but
memory, its checks and its counts (R128, R365, R371, R410, R538). -/

namespace Sys2Proof.Machine

/-- Accesses changed memory and its checks, counts, and the mirrored writes in hand where regions are mirrored; nothing
else. -/
def Hw.accessed (h g : Hw) : Prop :=
  ∃ regs pages moved mem reservations badWords badLines corrWords mirq,
    g = { h with regs := regs, pages := pages, moved := moved, mem := mem, reservations := reservations
                 badWords := badWords, badLines := badLines, corrWords := corrWords, mirq := mirq } ∧
      h.sameRegs regs ∧ (h.mirrors = [] → mirq = h.mirq)

theorem Hw.tallied.accessed {h g : Hw} (hg : h.tallied g) : h.accessed g := by
  obtain ⟨regs, pages, moved, rfl, hr⟩ := hg
  exact ⟨regs, pages, moved, _, _, _, _, _, _, rfl, hr, fun _ => rfl⟩

theorem Hw.accessed.refl (h : Hw) : h.accessed h := (Hw.tallied.refl h).accessed

theorem Hw.accessed.trans {h g k : Hw} (hg : h.accessed g) (hk : g.accessed k) : h.accessed k := by
  obtain ⟨_, _, _, _, _, _, _, _, q, rfl, hs, hq⟩ := hg
  obtain ⟨_, _, _, _, _, _, _, _, r, rfl, hs', hr⟩ := hk
  exact ⟨_, _, _, _, _, _, _, _, r, rfl, fun x hx => (hs' x hx).trans (hs x hx), fun hm => (hr hm).trans (hq hm)⟩

theorem Hw.noteMirror_accessed (h : Hw) (a : Nat) (bs : List Byte) : h.accessed (h.noteMirror a bs) := by
  have hmirq : ∀ q, ¬ (h.mirrors.isEmpty || !isDev a) = true → h.accessed { h with mirq := q } := by
    intro q hn
    refine ⟨_, _, _, _, _, _, _, _, q, rfl, fun _ _ => rfl, fun hm => absurd ?_ hn⟩
    rw [hm]
    rfl
  unfold Hw.noteMirror
  split
  · exact .refl h
  · split
    · split <;> exact hmirq _ (by assumption)
    · exact hmirq _ (by assumption)

/-- On sound stores the operation succeeds with an answer that `Q` holds of; the stores stay sound, and nothing but what an
access may change does. -/
def Completes {α : Type} (op : Op α) (Q : α → Prop := fun _ => True) : Prop :=
  ∀ h : Hw, h.sound → ∃ a g, runOp op h = (.ok a, g) ∧ g.sound ∧ h.accessed g ∧ Q a

theorem Completes.pure {α : Type} {Q : α → Prop} {a : α} (ha : Q a) : Completes (Pure.pure a : Op α) Q :=
  fun h hs => ⟨a, h, rfl, hs, .refl h, ha⟩

theorem Completes.bind {α β : Type} {op : Op α} {f : α → Op β} {P : α → Prop} {Q : β → Prop} (hop : Completes op P)
    (hf : ∀ a, P a → Completes (f a) Q) : Completes (op >>= f) Q := by
  intro h hs
  obtain ⟨a, g, hrun, hg, hacc, ha⟩ := hop h hs
  obtain ⟨b, k, hrun', hk, hacc', hb⟩ := hf a ha g hg
  exact ⟨b, k, runOp_bind _ _ _ _ _ hrun _ _ hrun', hk, hacc.trans hacc', hb⟩

theorem Completes.mono {α : Type} {op : Op α} {P Q : α → Prop} (hop : Completes op P) (hPQ : ∀ a, P a → Q a) :
    Completes op Q := by
  intro h hs
  obtain ⟨a, g, hrun, hg, hacc, ha⟩ := hop h hs
  exact ⟨a, g, hrun, hg, hacc, hPQ a ha⟩

theorem Completes.need {c : Bool} (s : Status) (hc : c = true) : Completes (Machine.need c s) := by
  rw [hc]
  exact .pure trivial

theorem Completes.loadB (a n : Nat) : Completes (Machine.loadB a n) (fun bs => bs.length = n) := by
  intro h hs
  obtain ⟨g, hrun, hg⟩ := (Reads.loadB hs a n).run
  exact ⟨_, g, hrun, hg.counted.sound hs, hg.accessed, Mem.read_length _ _ _⟩

theorem Completes.loadN (a n : Nat) : Completes (Machine.loadN a n) :=
  (Completes.loadB a n).bind fun _ _ => .pure trivial

theorem Completes.storeB (a : Nat) (bs : List Byte) : Completes (Machine.storeB a bs) := by
  intro h hs
  obtain ⟨g, hrun, hg, -⟩ := storeB_sound h hs a bs
  have hg' : g = (runOp (Machine.storeB a bs) h).2 := by rw [hrun]
  refine ⟨(), g, hrun, hg, ?_, trivial⟩
  have htouch := Hw.touch_tallied hs a bs.length
  have hsound := htouch.counted.sound hs
  have hnone : (grainsOf a bs.length).find? ((h.touch a bs.length).stuck a bs.length) = none := by
    obtain ⟨hbad, hlines, -, -⟩ := hsound
    refine List.find?_eq_none.2 fun w _ => ?_
    simp [Hw.stuck, Hw.grainBad, Hw.lineBad, hbad, hlines, List.find?_eq_none.2]
  rw [hg', runOp_storeB, if_neg (by simp [Hw.clearing, hs.2.2.2])]
  dsimp only
  rw [if_neg (by simp [Hw.mapOk_of_sound _ hsound]), hnone]
  refine (htouch.trans (Hw.tallied_foldl _ Hw.countCorrected_tallied _ _)).accessed.trans
    (Hw.accessed.trans ⟨_, _, _, _, _, _, _, _, _, rfl, fun _ _ => rfl, fun _ => rfl⟩ (Hw.noteMirror_accessed _ a bs))

theorem Completes.storeN (a n v : Nat) : Completes (Machine.storeN a n v) := .storeB a _

/-- An operation that is looked at succeeds too, and what is looked at is its success. -/
theorem Completes.tryOp {α : Type} {op : Op α} {Q : α → Prop} (hop : Completes op Q) :
    Completes (Machine.tryOp op) (fun r => ∃ a, r = .ok a ∧ Q a) := by
  intro h hs
  obtain ⟨a, g, hrun, hg, hacc, ha⟩ := hop h hs
  refine ⟨.ok a, g, ?_, hg, hacc, a, rfl, ha⟩
  unfold runOp EStateM.run at hrun ⊢
  unfold Machine.tryOp
  cases hx : op h with
  | ok b k => rw [hx] at hrun; cases hrun; rfl
  | error e k => rw [hx] at hrun; cases e <;> cases hrun

theorem Completes.ite {α : Type} {c : Prop} [Decidable c] {op op' : Op α} {Q : α → Prop} (h1 : c → Completes op Q)
    (h2 : ¬ c → Completes op' Q) : Completes (if c then op else op') Q := by
  split
  · exact h1 (by assumption)
  · exact h2 (by assumption)

theorem Completes.mapM {α β : Type} {f : α → Op β} (l : List α) (hf : ∀ x ∈ l, Completes (f x)) :
    Completes (l.mapM f) (fun r => r.length = l.length) := by
  rw [← List.mapM'_eq_mapM]
  induction l with
  | nil => exact .pure rfl
  | cons x l ih =>
    rw [List.mapM'_cons]
    refine (hf x (by simp)).bind fun _ _ => (ih fun y hy => hf y (by simp [hy])).bind fun r hr => .pure ?_
    simp [hr]

theorem Completes.readRow (f : Fmt) (n a : Nat) : Completes (Machine.readRow f n a) :=
  (Completes.loadB _ _).bind fun _ _ => .pure trivial

theorem Completes.readMask (on : Bool) (a m : Nat) : Completes (Machine.readMask on a m) := by
  unfold Machine.readMask
  split
  · exact (Completes.loadB _ _).bind fun _ _ => .pure trivial
  · exact .pure trivial

/-- A step for each of a list that always completes runs to the list's end. -/
theorem Completes.eachRow {α : Type} {f : α → OutStat → Op OutStat} (hf : ∀ x st, Completes (f x st)) (l : List α) :
    ∀ st, Completes (Machine.eachRow f l st) (fun r => r.2 = none) := by
  induction l with
  | nil => exact fun st => .pure rfl
  | cons x l ih =>
    intro st
    refine (hf x st).tryOp.bind fun r hr => ?_
    obtain ⟨st', rfl, -⟩ := hr
    exact ih st'

/-! Vector operations. -/

theorem Completes.vopRead (c : Nat) (f : Fmt) (n a : Nat) : Completes (Machine.vopRead c f n a) :=
  (Completes.readRow f n a).bind fun _ _ => .pure trivial

theorem Completes.vopStep (x : VopD) (w : Nat) (xf yf zf : Fmt) (gs bs : List FVal) (r : Nat) (st : OutStat) :
    Completes (Machine.vopStep x w xf yf zf gs bs r st) := by
  unfold Machine.vopStep
  refine (Completes.vopRead _ _ _ _).bind fun xs _ => ?_
  have hout : ∀ ys, Completes (do
      let (o, c) := vopConv x xf zf r (vopRow x.op xs ys gs bs (val32 x.eps))
      Machine.storeB (w + x.out + r * x.oS) o
      return { st with counts := st.counts.add c }) := fun ys => (Completes.storeB _ _).bind fun _ _ => .pure trivial
  split
  · exact (Completes.vopRead _ _ _ _).bind fun ys _ => hout ys
  · exact hout []

theorem Completes.vopRun (x : VopD) (w : Nat) (xf yf zf : Fmt) :
    Completes (Machine.vopRun x w xf yf zf) (fun r => r.2 = none) := by
  unfold Machine.vopRun
  refine Completes.bind (P := fun r => ∃ a, r = .ok a ∧ True) (Completes.tryOp ?_) fun r hr => ?_
  · refine (Completes.readMask _ _ _).bind fun mask _ => ?_
    have hbs : ∀ gs : List FVal, Completes (do
        let bs ← if vopB x.op then Machine.readRow .fp32 x.n (w + x.b) else Pure.pure []
        return (mask, gs, bs)) := fun gs =>
      .ite (fun _ => (Completes.readRow _ _ _).bind fun _ _ => .pure trivial)
        (fun _ => Completes.bind (P := fun _ => True) (.pure trivial) fun _ _ => .pure trivial)
    exact .ite (fun _ => (Completes.readRow _ _ _).bind fun gs _ => hbs gs)
      (fun _ => Completes.bind (P := fun _ => True) (.pure trivial) fun gs _ => hbs gs)
  · obtain ⟨⟨mask, gs, bs⟩, rfl, -⟩ := hr
    exact Completes.eachRow (Completes.vopStep x w xf yf zf gs bs) _ _

theorem Completes.xentRun (x : VopD) (w : Nat) (xf : Fmt) : Completes (Machine.xentRun x w xf) := by
  unfold Machine.xentRun
  refine (Completes.readMask _ _ _).bind fun mask _ => (Completes.mapM _ fun r _ => ?_).bind fun zs _ =>
    (Completes.storeB _ _).bind fun _ _ => .pure trivial
  refine .ite (fun _ => .pure trivial) (fun _ => ?_)
  exact (Completes.vopRead _ _ _ _).bind fun xs _ => (Completes.loadN _ _).bind fun v _ =>
    .ite (fun _ => .pure trivial) (fun _ => .pure trivial)

/-- R113, R114: with every word sound a vector operation runs to its end. -/
theorem Completes.vectorRun (x : VopD) (w : Nat) (xf yf zf : Fmt) :
    Completes (x.run w xf yf zf) (fun r => r.2 = none) := by
  unfold VopD.run
  refine .ite (fun _ => ?_) (fun _ => Completes.vopRun x w xf yf zf)
  refine (Completes.xentRun x w xf).tryOp.bind fun r hr => ?_
  obtain ⟨st, rfl, -⟩ := hr
  exact .pure rfl

theorem zip2_eq (f : FVal → FVal → FVal) (xs ys : List FVal) : zip2 f xs ys = List.zipWith f xs ys := by
  rw [zip2, List.zip, List.map_zipWith]

theorem zip3_eq (f g : FVal → FVal → FVal) (xs gs bs : List FVal) :
    ((xs.zip gs).zip bs).map (fun p => f (g p.1.1 p.1.2) p.2) = List.zipWith f (List.zipWith g xs gs) bs := by
  induction xs generalizing gs bs with
  | nil => simp
  | cons x xs ih => cases gs <;> cases bs <;> simp_all

/-- The operation that the head of the vector queue names, by what its rows answered (R113, R114). -/
theorem vop_of_head {h : Hw} {e : Env} {d k code : Nat} {o : CoreOp} {rest : List CoreOp} {xf yf zf : Fmt}
    (hq : (h.core d k).vectorQ = o :: rest) (hon : h.dieOn e d = true) (hop : (VopD.of o.desc o.rows).op = code)
    (hx : stepped (VopD.of o.desc o.rows).xStep o.step (VopD.of o.desc o.rows).xF = some xf)
    (hy : stepped (VopD.of o.desc o.rows).yStep o.step (VopD.of o.desc o.rows).yF = some yf)
    (hz : stepped (VopD.of o.desc o.rows).oStep o.step (VopD.of o.desc o.rows).oF = some zf) :
    let v := VopD.of o.desc o.rows
    let mask := if v.mask then bitsOf (Mem.read h.mem (spWin d + v.aux) (ceilDiv v.rows 8)) v.rows else []
    vop code d k e h = match runOp (v.run (spWin d) xf yf zf) h with
      | (.ok (st, none), g) => g.popVector e d k o st none (v.cycles (h.cycleExact e d k) (liveRows v.rows mask).length)
      | (.ok (st, some f), g) => (g.coreFail d k f).2.popVector e d k o st (some (g.coreFail d k f).1) 0
      | (.error _, _) => h := by
  intro v mask
  unfold vop
  simp only [hq, hx, hy, hz]
  exact (if_neg (by simp [hop, hon])).trans rfl

theorem Hw.settle_of_running {h : Hw} {d k : Nat} (hst : (h.core d k).st = .running) : h.settle d k = h := by
  unfold Hw.settle
  simp only [hst]

/-- What an operation that succeeds leaves of its core (R71, R79, R113, R437). -/
theorem Hw.popVector_none (h : Hw) (e : Env) (d k : Nat) (o : CoreOp) (st : OutStat) (cycles : Nat)
    (hrun : (h.core d k).st = .running) : ∃ stepFmt late, (h.popVector e d k o st none cycles).mem = h.mem ∧
      (h.popVector e d k o st none cycles).core d k = { Core.addStat { h.core d k with
          vectorQ := (h.core d k).vectorQ.filter (fun q => q.issue ≠ o.issue) } h.watchOn (VopD.of o.desc o.rows).tensor st with
        stepFmt := stepFmt, late := late } := by
  let c := Core.addStat { h.core d k with vectorQ := (h.core d k).vectorQ.filter (fun q => q.issue ≠ o.issue) } h.watchOn
    (VopD.of o.desc o.rows).tensor st
  let noted := if (VopD.of o.desc o.rows).oStep then c.noteStep (stepped true o.step (VopD.of o.desc o.rows).oF) else c
  let c' := if h.lateStatus e (h.partOf d) (some o.beat) Status.ok = Status.okLate then { noted with late := true } else noted
  obtain ⟨n, hnoted⟩ : ∃ n, noted = { c with stepFmt := n } := by
    simp only [noted]
    split
    · exact c.noteStep_eq _
    · exact ⟨c.stepFmt, rfl⟩
  obtain ⟨l, hc'⟩ : ∃ l, c' = { c with stepFmt := n, late := l } := by
    simp only [c', hnoted]
    split
    · exact ⟨true, rfl⟩
    · exact ⟨c.late, rfl⟩
  let g := (h.setCore d k c').inc Reg.coreBusyVectorBusy (rkey d k 0) 0 cycles
  have hpop : h.popVector e d k o st none cycles = Hw.settle (match g.partOf d with
      | some p => { g with acct := SMap.upd g.acct {} p (fun a => { a with vector := a.vector + cycles }) }
      | none => g) d k := rfl
  have hsettled : ∀ g' : Hw, g'.cores = g.cores → g'.mem = h.mem →
      (g'.settle d k).mem = h.mem ∧ (g'.settle d k).core d k = { c with stepFmt := n, late := l } := by
    intro g' hcores hmem
    have hcore : g'.core d k = { c with stepFmt := n, late := l } := by
      have hg : g'.core d k = (h.setCore d k c').core d k := by rw [Hw.core, Hw.core, hcores]; rfl
      rw [hg, Hw.core_setCore, hc']
    rw [Hw.settle_of_running (by rw [hcore]; exact hrun)]
    exact ⟨hmem, hcore⟩
  refine ⟨n, l, ?_⟩
  rw [hpop]
  cases g.partOf d with
  | none => exact hsettled _ rfl rfl
  | some p => exact hsettled _ rfl rfl

/-- Settles O16: the operation at the head, by what its rows answer; its rows' values; and what it leaves of its core. -/
theorem vectorOperationsRunByTheTable : Obligations.VectorOperationsRunByTheTable := by
  refine ⟨fun s d k o rest xf yf zf hs hq hon => ?_, fun xs ys gs bs eps => ?_, fun h e d k o st cycles hrun => ?_⟩
  · intro v w mask cycles hx hy hz each
    have heach : ∀ {h : Hw}, (∀ code, v.op = code → vop code d k s.env s.hw = h) → each h := by
      intro h hh
      have hruns : ∀ {code}, v.op = code → onHw (vop code d k) s = .next (s.hwTo h) :=
        fun hop => congrArg (fun h => Host.Outcome.next (s.hwTo h)) (hh _ hop)
      refine ⟨?_, ?_, ?_, ?_, ?_, ?_, ?_, ?_, ?_, ?_, ?_, ?_, ?_, ?_, ?_, ?_, ?_, ?_, ?_, ?_, ?_, ?_, ?_⟩
      all_goals exact fun hop => hruns hop
    refine ⟨fun st h hrows => heach fun code hop => ?_, fun st f h hrows => heach fun code hop => ?_, fun hsound => ?_⟩
    · exact (vop_of_head hq hon hop hx hy hz).trans (by rw [hrows])
    · exact (vop_of_head hq hon hop hx hy hz).trans (by rw [hrows])
    · obtain ⟨⟨st, f⟩, g, hrows, -, -, hf⟩ := Completes.vectorRun v w xf yf zf s.hw hsound
      obtain rfl : f = none := hf
      exact ⟨st, g, hrows, heach fun code hop => (vop_of_head hq hon hop hx hy hz).trans (by rw [hrows])⟩
  · intro row
    exact ⟨zip2_eq _ _ _, zip2_eq _ _ _, zip2_eq _ _ _, zip2_eq _ _ _, zip2_eq _ _ _, zip3_eq _ _ _ _ _, rfl, rfl, rfl, rfl,
      rfl, rfl, rfl, rfl, rfl, rfl, rfl, rfl, rfl, zip2_eq _ _ _, rfl⟩
  · intro c c'
    obtain ⟨stepFmt, late, hmem, hcore⟩ := h.popVector_none e d k o st cycles hrun
    have hc' : c' = _ := hcore
    rw [hc']
    refine ⟨rfl, rfl, rfl, rfl, rfl, hrun, ?_, ?_, ?_, hmem⟩ <;> simp [Core.addStat, c]

end Sys2Proof.Machine
end

section
/-! SUPPORT. Threads of control processors that start and stop (R411 to R413), and the end of a clear (R133, R515). -/

namespace Sys2Proof.Machine

/-! Threads. -/

/-- What a thread's registers tell of it (R411). -/
def Hw.writeTstat (h : Hw) (b t status cause value state : Nat) : Hw :=
  (((h.wf Reg.cpTstatStatus b t status).wf Reg.cpTstatCause b t cause).wf Reg.cpTvalValue b t value).wf Reg.cpTstatState b t state

theorem Hw.writeTstat_reads (h : Hw) {b t status cause value state : Nat} (ht : t < 16) :
    let g := h.writeTstat b t status cause value state
    g.rf Reg.cpTstatState b t = state % 4 ∧ g.rf Reg.cpTstatCause b t = cause % 16 ∧
      g.rf Reg.cpTstatStatus b t = status % 256 ∧ g.rf Reg.cpTvalValue b t = value % 2 ^ 64 := by
  intro g
  have hvalue (g' : Hw) (f : FieldRef) (hf : f.row = Reg.cpTstat) :
      (g'.wf Reg.cpTvalValue b t value).rf f b t = g'.rf f b t := by
    refine Hw.rf_wf_reg _ _ _ _ _ _ _ _ ?_
    rw [hf]
    exact show b + 0x108 + 0x10 * t ≠ b + 0x200 + 0x8 * t by omega
  have hstate (g' : Hw) (f : FieldRef) (hf : f.row = Reg.cpTstat) (hlo : 1 < f.lo) (hle : f.lo ≤ f.hi) (hhi : f.hi < 64) :
      (g'.wf Reg.cpTstatState b t state).rf f b t = g'.rf f b t :=
    Hw.rf_wf_field _ _ _ _ _ _ hf (by decide) hle hhi (.inl hlo)
  have hcause (g' : Hw) : (g'.wf Reg.cpTstatCause b t cause).rf Reg.cpTstatStatus b t = g'.rf Reg.cpTstatStatus b t :=
    Hw.rf_wf_field _ _ _ _ _ _ rfl (by decide) (by decide) (by decide) (.inl (by decide))
  refine ⟨Hw.rf_wf _ _ _ _ _ (by decide) (by decide), ?_, ?_, ?_⟩
  · exact (hstate _ _ rfl (by decide) (by decide) (by decide)).trans
      ((hvalue _ _ rfl).trans (Hw.rf_wf _ _ _ _ _ (by decide) (by decide)))
  · exact (hstate _ _ rfl (by decide) (by decide) (by decide)).trans
      ((hvalue _ _ rfl).trans ((hcause _).trans (Hw.rf_wf _ _ _ _ _ (by decide) (by decide))))
  · exact (Hw.rf_wf_reg _ _ _ _ _ _ _ _ (show b + 0x200 + 0x8 * t ≠ b + 0x108 + 0x10 * t by omega)).trans
      (Hw.rf_wf _ _ _ _ _ (by decide) (by decide))

theorem Hw.thread_setThread (h : Hw) (d u t : Nat) (x : CpThread) : (h.setThread d u t x).thread d u t = x := by
  simp [Hw.thread, Hw.cp, Hw.setThread, Hw.setCp]

/-- R411: a thread that stops, as its record and its registers have it. -/
theorem Hw.stopThread_eq (h : Hw) (d u t cause status v : Nat) : ∃ g : Hw, g.cps = h.cps ∧ g.mem = h.mem ∧
    h.stopThread d u t cause status v =
      (g.setThread d u t { h.thread d u t with wait := none, failed := none }).writeTstat (rkey d u 0) t status cause v 3 := by
  let freed (g : Hw) : Hw :=
    { g with reqs := g.reqs.map (fun (r : Req) => if ofThread d u t r.owner then { r with owner := .free } else r) }
  unfold Hw.stopThread
  dsimp only
  split
  · exact ⟨freed (h.wf Reg.cpPcPc (cpB d u) t _), rfl, rfl, rfl⟩
  · exact ⟨freed (h.wf Reg.cpPcPc (cpB d u) t _), rfl, rfl, rfl⟩
  · exact ⟨freed h, rfl, rfl, rfl⟩

/-- Settles O38: starts, stops, timeouts and aborts of threads, and what a stop leaves. -/
theorem threadsStartStopAndKeepTheirCause : Obligations.ThreadsStartStopAndKeepTheirCause := by
  refine ⟨fun s d u t hs hon h7 h10 ht => ?_, fun h d u t cause status v h7 h10 ht hcause hstatus hv => ?_⟩
  · intro b state limit
    have hcp : ∀ i, i < 16 → s.hw.cpOn s.env d u i = true := fun i hi => by simp [Hw.cpOn, hon, h7, h10, hi]
    refine ⟨fun hpart h1 h2 => ?_, fun hlive => ?_, fun rd off tag since pc hwait hst hlimit => ?_, ?_⟩
    · have hpartNone : (s.hw.partOf d).isNone = false := by rw [← Option.not_isSome, hpart]; rfl
      let g := { s.hw.setThread d u t {} with reservations := SMap.del s.hw.reservations (threadKey d u t) }
      have hstart : cpTstatStart d u t s.env s.hw = g.writeTstat b t 0 0 0 1 :=
        (if_pos (hcp t ht)).trans (if_neg (by
          simp only [hpartNone, Bool.false_or, Bool.or_eq_true, decide_eq_true_eq, not_or]
          exact ⟨h1, h2⟩))
      obtain ⟨hstate, hc, hstat, -⟩ := g.writeTstat_reads (b := b) (status := 0) (cause := 0) (value := 0) (state := 1) ht
      refine ⟨{ s with hw := g.writeTstat b t 0 0 0 1 }, ?_, hstate, s.hw.thread_setThread d u t {}, hstat, hc, rfl, rfl⟩
      exact congrArg Host.Outcome.next ((congrArg s.hwTo hstart).trans (State.hwTo_of_sealed hs rfl rfl))
    · exact congrArg (fun h => Host.Outcome.next (s.hwTo h)) ((if_pos (hcp t ht)).trans (if_pos hlive))
    · refine congrArg (fun h => Host.Outcome.next (s.hwTo h)) ?_
      unfold cpFlagTimeout
      simp only [hwait]
      refine if_neg ?_
      simp only [hon, Bool.not_true, Bool.or_false, Bool.or_eq_true, decide_eq_true_eq, not_or]
      exact ⟨hlimit, not_not.2 hst⟩
    · exact congrArg (fun h => Host.Outcome.next (s.hwTo h)) (if_pos (hcp 0 (by decide)))
  · intro b h'
    obtain ⟨g, hcps, hmem, hstop⟩ := h.stopThread_eq d u t cause status v
    have hthread : h'.thread d u t = { h.thread d u t with wait := none, failed := none } :=
      (congrArg (fun g => Hw.thread g d u t) hstop).trans (g.thread_setThread d u t _)
    obtain ⟨hstate, hc, hstat, hval⟩ := (g.setThread d u t { h.thread d u t with wait := none, failed := none }).writeTstat_reads
      (b := b) (status := status) (cause := cause) (value := v) (state := 3) ht
    rw [show b = rkey d u 0 from rfl, ← hstop] at hstate hc hstat hval
    refine ⟨hstate, hc.trans (Nat.mod_eq_of_lt (by omega)), hstat.trans (Nat.mod_eq_of_lt hstatus),
      hval.trans (Nat.mod_eq_of_lt hv), ?_, ?_, ?_, ?_, (congrArg Hw.mem hstop).trans hmem⟩ <;> rw [hthread]

/-! The end of a clear. -/

theorem SMap.find?_filter_key {α : Type} (p : Nat → Bool) (m : SMap α) (q : Nat) :
    SMap.find? (m.filter (fun c => p c.1)) q = if p q then SMap.find? m q else none := by
  induction m with
  | nil => simp [SMap.find?]
  | cons c m ih =>
    obtain ⟨j, w⟩ := c
    by_cases hj : p j = true
    · rw [List.filter_cons_of_pos (by simpa using hj)]
      by_cases hq : j = q
      · subst hq
        simp [SMap.find?, hj]
      · simp only [SMap.find?, if_neg hq, ih]
    · rw [List.filter_cons_of_neg (by simpa using hj), ih]
      by_cases hq : j = q
      · subst hq
        simp [hj]
      · simp only [SMap.find?, if_neg hq]

theorem Mem.get_clear (m : Mem) (a n x : Nat) :
    Mem.get (Mem.clear m a n) x = if a ≤ x ∧ x < a + n then 0 else Mem.get m x := by
  have hfind := SMap.find?_filter_key (fun y => y < a || a + n ≤ y) m x
  unfold Mem.get Mem.clear SMap.get
  rw [hfind]
  by_cases hx : a ≤ x ∧ x < a + n
  · rw [if_pos hx, if_neg (by simp; omega)]
    rfl
  · rw [if_neg hx, if_pos (by simp; omega)]

/-- R133: what a clear's end does of itself. -/
def Hw.clearedDie (h : Hw) (d : Nat) : Hw :=
  ({ h.zeroScratchpad d with clears := SMap.del h.clears d }).wf Reg.spStatusClearing (rkey d 11 0) 0 0

/-- R515: a die is counted as awake. -/
def Hw.wakeDie (h : Hw) (d : Nat) : Hw :=
  h.wf Reg.cdiePwrAwake pkgB 0 (setBits (h.rf Reg.cdiePwrAwake pkgB) d d 1)

theorem clearEnd_wake {h : Hw} {d : Nat} {e : Env} (hclear : SMap.find? h.clears d = some .wake) (hheld : h.heldPokes = [])
    (hdefer : h.defer = []) : clearEnd d e h = (h.clearedDie d).wakeDie d := by
  have hpoke : (h.clearedDie d).pokeHeld = h.clearedDie d := by
    have hnone : (h.clearedDie d).heldPokes = [] := hheld
    rw [Hw.pokeHeld, hnone, List.foldl_nil, ← hnone]
  have hfadd : (h.clearedDie d).faddReady (h.clearedDie d).fabN = h.clearedDie d := by
    have hnone : (h.clearedDie d).defer = [] := hdefer
    have hsame : { h.clearedDie d with defer := [] } = h.clearedDie d := by rw [← hnone]
    rw [Hw.faddReady, hnone]
    exact hsame
  unfold clearEnd
  simp only [hclear]
  show Hw.wakeDie (((h.clearedDie d).pokeHeld).faddReady (h.clearedDie d).fabN) d = _
  rw [hpoke, hfadd]

theorem Hw.wakeDie_awake (h : Hw) {d : Nat} (hd : d < 24) : bit ((h.wakeDie d).rf Reg.cdiePwrAwake pkgB) d = true := by
  have hread : (h.wakeDie d).rf Reg.cdiePwrAwake pkgB = setBits (h.rf Reg.cdiePwrAwake pkgB) d d 1 % 2 ^ 24 :=
    Hw.rf_wf _ _ _ _ _ (by decide) (by decide)
  have hset := bits_setBits (h.rf Reg.cdiePwrAwake pkgB) d d 1 (Nat.le_refl d)
  rw [bits_eq, Nat.add_sub_cancel_left] at hset
  rw [hread, bit_eq, ← Nat.testBit_eq_decide_div_mod_eq, Nat.testBit_mod_two_pow, Nat.testBit_eq_decide_div_mod_eq]
  simp only [hd, decide_true, Bool.true_and, decide_eq_true_eq]
  exact hset

/-- Settles O19: the end of a clear that belongs to a wake, with nothing held. -/
theorem clearEndsWithAZeroScratchpad : Obligations.ClearEndsWithAZeroScratchpad := by
  intro s d hs hmem hd hclear hheld hdefer
  let g := (s.hw.clearedDie d).wakeDie d
  refine ⟨{ s with hw := g }, ?_, Mem.wf_clear _ _ _ hmem, rfl, fun x => ?_, ?_, Hw.wakeDie_awake _ hd, rfl, rfl, rfl⟩
  · exact congrArg Host.Outcome.next ((congrArg s.hwTo (clearEnd_wake hclear hheld hdefer)).trans
      (State.hwTo_of_sealed hs rfl rfl))
  · exact (Mem.get_clear _ _ _ x).trans (by rw [show spWin (d + 1) = spWin d + 0x10000000 by unfold spWin; omega])
  · exact (Hw.rf_wf_reg _ _ _ _ _ _ _ _ (show rkey d 11 0 + 0 + 0 ≠ rkey 28 8 0 + 0xA80 + 0 by unfold rkey; omega)).trans
      (Hw.rf_wf _ _ _ _ _ (by decide) (by decide))

end Sys2Proof.Machine
end

section
/-! SUPPORT. Memory tiers: page commands (R370), swaps (R366), the counter policy (R371), scrub and refresh (R384 to
R387). -/

namespace Sys2Proof.Machine

section
variable {h g : Hw} (hg : h.counted g)
include hg

theorem Hw.counted.corrWords : g.corrWords = h.corrWords := by obtain ⟨_, _, _, rfl⟩ := hg; rfl
theorem Hw.counted.scrubs : g.scrubs = h.scrubs := by obtain ⟨_, _, _, rfl⟩ := hg; rfl

end

/-! Page commands. -/

theorem pageCmd_of_head {h : Hw} {e : Env} {ops : List Nat} {j : Job}
    (hj : (h.queue 28 1).find? (fun j => j.body.fld 0 7 0 ≠ 0x10 && !j.started) = some j)
    (hop : (PageD.of j.body).op ∈ ops) : pageCmd ops e h = h.pageAccept j (PageD.of j.body) := by
  unfold pageCmd
  rw [hj]
  exact if_pos (List.contains_iff_mem.2 hop)

/-! Swaps. -/

theorem pageNo_ne {m a b : Nat} (hab : a ≠ b) : pageNo m a ≠ pageNo m b := by unfold pageNo; omega

theorem Hw.page_setPage (h : Hw) (p q : Nat) (x : Page) : (h.setPage p x).page q = if q = p then x else h.page q :=
  SMap.get_put _ _ _ _ _

theorem Hw.lookUp_of_noSites {h : Hw} (hsites : h.badSites = []) (a n : Nat) : h.lookUp a n = h := by
  simp [Hw.lookUp, Hw.mapOk, hsites]

/-- R366: two pages exchange their frames; nothing else of a page changes. -/
theorem Hw.exchangePages_of_policy {h : Hw} {m : Nat} {w : Swap} (hq : h.queue 28 1 = []) (hne : w.up ≠ w.down) :
    let g := h.exchangePages m w
    (g.page (pageNo m w.up)).frame = (h.page (pageNo m w.down)).frame ∧
      (g.page (pageNo m w.down)).frame = (h.page (pageNo m w.up)).frame ∧
      (∀ q, q ≠ pageNo m w.up → q ≠ pageNo m w.down → g.page q = h.page q) ∧
      g.mem = h.mem ∧ g.swaps = h.swaps ∧ g.queue 28 1 = [] ∧ g.mirq = h.mirq ∧ g.mapFault = h.mapFault := by
  intro g
  let u := pageNo m w.up
  let d := pageNo m w.down
  let h' : Hw := { h with corrWords := h.corrWords.filter (fun x => !(w.has m x)) }
  let g' := (h'.setPage u { h'.page u with frame := (h'.page d).frame }).setPage d
    { h'.page d with frame := (h'.page u).frame }
  have hg : g = g'.inc Reg.migStatusSwaps (migB m) 0 1 := by
    have hq' : (g'.inc Reg.migStatusSwaps (migB m) 0 1).queue 28 1 = [] := hq
    show (match ((g'.inc Reg.migStatusSwaps (migB m) 0 1).queue 28 1).find? (fun j => some j.tag = w.tag) with
      | some j => _
      | none => _) = _
    rw [hq']
    rfl
  have hdu : u ≠ d := pageNo_ne hne
  have hpage (q : Nat) : g.page q = g'.page q := by rw [hg]; rfl
  refine ⟨?_, ?_, fun q hu hd => ?_, by rw [hg]; rfl, by rw [hg]; rfl, by rw [hg]; exact hq, by rw [hg]; rfl,
    by rw [hg]; rfl⟩
  · exact (congrArg Page.frame ((hpage u).trans
      ((Hw.page_setPage _ _ _ _).trans ((if_neg hdu).trans ((Hw.page_setPage _ _ _ _).trans (if_pos rfl)))))).trans rfl
  · exact (congrArg Page.frame ((hpage d).trans ((Hw.page_setPage _ _ _ _).trans (if_pos rfl)))).trans rfl
  · exact (hpage q).trans ((Hw.page_setPage _ _ _ _).trans ((if_neg hd).trans ((Hw.page_setPage _ _ _ _).trans (if_neg hu))))

/-- R371: no command waits to be applied. -/
theorem Hw.applyPages_of_noQueue {h : Hw} {e : Env} {n : Nat} (hq : h.queue 28 1 = []) : h.applyPages e n = h := by
  cases n with
  | zero => rfl
  | succ n =>
    unfold Hw.applyPages
    rw [hq]
    exact ite_self h

theorem pageSwap_of_policy {h : Hw} {e : Env} {m : Nat} {w : Swap} {rest : List Swap}
    (hw : SMap.get h.swaps [] m = w :: rest) (hq : h.queue 28 1 = []) (hne : w.up ≠ w.down) (htag : w.tag = none)
    (hfree : ∀ q ∈ [pageNo m w.up, pageNo m w.down],
      h.regions.any (fun g => extOverlap (q * 2 ^ 21) (2 ^ 21) g.1 g.2) = false)
    (hup : h.pageBad (pageNo m w.up) = none) (hdown : h.pageBad (pageNo m w.down) = none) (hsites : h.badSites = [])
    (hcorr : h.corrWords = []) (hfault : h.mapFault = none) :
    pageSwap m e h = Hw.exchangePages { h with swaps := SMap.put h.swaps m rest } m w := by
  let h' : Hw := { h with swaps := SMap.put h.swaps m rest }
  have hlook : (h'.lookUp (pageNo m w.up * 2 ^ 21) 1).lookUp (pageNo m w.down * 2 ^ 21) 1 = h' := by
    have hone (a : Nat) : h'.lookUp a 1 = h' := Hw.lookUp_of_noSites (h := h') hsites a 1
    rw [hone, hone]
  have hcorr' : h'.corrWords = [] := hcorr
  have htry : h'.trySwap m w = h'.exchangePages m w := by
    have hup' : h'.pageBad (pageNo m w.up) = none := hup
    have hdown' : h'.pageBad (pageNo m w.down) = none := hdown
    have hfault' : h'.mapFault = none := hfault
    unfold Hw.trySwap
    dsimp only
    rw [if_neg (by simp only [Bool.or_eq_true, not_or, Bool.not_eq_true]; exact ⟨hfree _ (by simp), hfree _ (by simp)⟩), hlook,
      hfault', hcorr', if_neg (by simp)]
    simp only [List.filter_nil, List.foldl_nil, hup', hdown']
  have hq' : (h'.exchangePages m w).queue 28 1 = [] := (Hw.exchangePages_of_policy (h := h') hq hne).2.2.2.2.2.1
  unfold pageSwap
  simp only [hw, htag]
  show ((h'.trySwap m w).applyPages e _) = _
  rw [htry]
  exact Hw.applyPages_of_noQueue hq'

/-- Settles O33: page commands by their checks, a swap of the policy, the policy's choice, scrub and refresh. -/
theorem pagesMoveAndAreScrubbed : Obligations.PagesMoveAndAreScrubbed := by
  refine ⟨fun s j hs hj => ?_, fun s m w rest hs h28 h32 => ?_, fun s m u hs h28 h32 hup => ?_⟩
  · intro c each
    have heach : ∀ h, s.hw.pageAccept j c = h → each h := by
      rintro h rfl
      have hrun : ∀ {ops : List Nat}, c.op ∈ ops → onHw (pageCmd ops) s = .next (s.hwTo (s.hw.pageAccept j c)) :=
        fun hop => congrArg (fun h => Host.Outcome.next (s.hwTo h)) (pageCmd_of_head hj hop)
      refine ⟨fun hop => hrun ?_, fun hop => hrun ?_, fun hop => hrun ?_, fun hop => hrun ?_, fun hop => hrun ?_⟩
      all_goals rw [hop]; simp [upto]
    have haccept : s.hw.pageAccept j c = if s.hw.kpostForeign j.origin c.part then s.hw.migDone j .refused 0 0
        else if !(c.ok s.hw) then s.hw.migDone j .badDescriptor 0 0
        else if !(s.hw.loaded c.part) then s.hw.migDone j .partitionDown 0 0
        else if c.length = 0 then s.hw.migDone j .ok 0 0
        else s.hw.putJob 28 1 { j with started := true, since := s.hw.now } := rfl
    refine ⟨fun hforeign => heach _ ?_, fun hok hforeign => heach _ ?_, fun hok hforeign hdown => heach _ ?_,
      fun hok hforeign hloaded => ⟨fun hzero => heach _ ?_, fun hlen => heach _ ?_⟩⟩
    · rw [haccept, hforeign, if_pos rfl]
    · simp [haccept, hforeign, hok]
    · simp [haccept, hforeign, hok, hdown]
    · simp [haccept, hforeign, hok, hloaded, hzero]
    · simp [haccept, hforeign, hok, hloaded, hlen]
  · intro up down
    refine ⟨fun hw hq hne htag hfree hup hdown hsites hcorr => ?_, fun hauto hdet hnone => ?_⟩
    · obtain ⟨h1, h2, h3, h4, h5, -, h6, h7⟩ :=
        Hw.exchangePages_of_policy (h := { s.hw with swaps := SMap.put s.hw.swaps m rest }) (m := m) hq hne
      refine ⟨_, congrArg Host.Outcome.next ((congrArg s.hwTo
        (pageSwap_of_policy hw hq hne htag hfree hup hdown hsites hcorr hs.2)).trans (State.hwTo_of_sealed hs h6 h7)),
        h1, h2, h3, h4, h5⟩
    · intro at_ h0 pairs h
      have hpolicy : counterPolicy m s.env s.hw = if pairs.isEmpty then h
          else { h with swaps := SMap.put h.swaps m (pairs.map (fun (x : Nat × Nat) => (⟨x.1, x.2, none⟩ : Swap))) } :=
        if_neg (by simp [hauto, hnone, show s.env.tl.det = false from hdet]; omega)
      refine ⟨fun hp => ?_, fun hp => ?_⟩ <;> refine congrArg (fun h => Host.Outcome.next (s.hwTo h)) (hpolicy.trans ?_)
      · exact if_pos (by rw [hp]; rfl)
      · exact if_neg (by simpa using hp)
  · intro place h
    have hrange : ∀ {b : Bool}, (decide (m < 28) || decide (31 < m) || b) = b := by
      intro b
      simp [show ¬ m < 28 by omega, show ¬ 31 < m by omega]
    refine ⟨fun hscrub => ?_, ?_⟩
    · have hread : patrolScrub m u s.env s.hw = match h.lineAt m place with
          | none => h
          | some a => match h.grainBad a 64 with
            | some w => (h.countUncorrected w).error (if (h.countUncorrected w).badWords.contains w then 1 else 2) 1 0 0
                ((h.countUncorrected w).globalAddr w) none ((h.countUncorrected w).coord m u)
            | none => { (h.corrWords.filter (fun w => w / 64 * 64 = a)).foldl Hw.countCorrected h with
                corrWords := ((h.corrWords.filter (fun w => w / 64 * 64 = a)).foldl Hw.countCorrected h).corrWords.filter
                  (fun w => w / 64 * 64 ≠ a) } :=
        (if_neg (by simp [hup, hscrub]; omega)).trans rfl
      have hrun : exec (.patrolScrub m u) s = .next (s.hwTo (patrolScrub m u s.env s.hw)) := rfl
      rw [hrun, hread]
      refine ⟨fun hnone => ?_, fun a w hline hbad => ?_, fun a hline hgood => ?_⟩
      · rw [hnone]
        exact congrArg _ (State.hwTo_of_sealed hs rfl rfl)
      · intro h1
        simp only [hline, hbad]
        rfl
      · have hcount := Hw.counted_foldl _ (fun g x => g.countCorrected_counted x) (h.corrWords.filter (fun w => w / 64 * 64 = a)) h
        simp only [hline, hgood]
        refine ⟨_, congrArg _ (State.hwTo_of_sealed hs hcount.mirq hcount.mapFault), hcount.mem, hcount.scrubs, ?_⟩
        exact congrArg (fun l => l.filter (fun w => decide (w / 64 * 64 ≠ a))) hcount.corrWords
    · have hrun : refresh m u s.env s.hw = ({ s.hw with freeCount := s.hw.freeCount + 1 } : Hw).wf
          (if u < 4 then Reg.hbmStatusRefresh2x else Reg.ddrStatusRefresh2x) (rkey m u 0) 0
          ((Config.freeWord s.hw.freeCount).toNat % 2) := if_pos (by simp [h28, h32, hup])
      exact ⟨_, congrArg Host.Outcome.next ((congrArg s.hwTo hrun).trans (State.hwTo_of_sealed hs rfl rfl)), rfl, rfl, rfl, rfl⟩

end Sys2Proof.Machine
end

section
/-! SUPPORT. Resets and boot (R497 to R515, R556, R563): what each command of the boot sequence, of the mailbox and of the
power controller answers, by its conditions. -/

namespace Sys2Proof.Machine

/-! Commands by what their meaning answers. -/

theorem onHw_to {f : Env → Hw → Hw} {s : State} {g : Hw} (h : f s.env s.hw = g) : onHw f s = .next (s.hwTo g) :=
  congrArg (fun h => Host.Outcome.next (s.hwTo h)) h

/-- The same, where no mirrored write and no failing entry was met. -/
theorem onHw_keeps {f : Env → Hw → Hw} {s : State} {g : Hw} (hs : s.sealed) (h : f s.env s.hw = g)
    (hmirq : g.mirq = s.hw.mirq) (hfault : g.mapFault = s.hw.mapFault) : onHw f s = .next { s with hw := g } :=
  (onHw_to h).trans (congrArg _ (State.hwTo_of_sealed hs hmirq hfault))

theorem onHw_same {f : Env → Hw → Hw} {s : State} (hs : s.sealed) (h : f s.env s.hw = s.hw) : onHw f s = .next s :=
  onHw_keeps hs h rfl rfl

theorem onTl_to {f : Fuses → Timelines → Hw → Timelines × Hw} {s : State} {r : Timelines × Hw}
    (h : f s.fuses s.tl s.hw = r) : onTl f s = .next (s.tlTo r.1 r.2) :=
  congrArg (fun r : Timelines × Hw => Host.Outcome.next (s.tlTo r.1 r.2)) h

theorem onTl_same {f : Fuses → Timelines → Hw → Timelines × Hw} {s : State} (hs : s.sealed)
    (h : f s.fuses s.tl s.hw = (s.tl, s.hw)) : onTl f s = .next s :=
  (onTl_to h).trans (congrArg Host.Outcome.next (State.hwTo_of_sealed hs rfl rfl))

/-! Resets. -/

/-- The work of stage ROM is in registers, in the link and in the management processor. -/
theorem Hw.romWork_eq (h : Hw) (f : Fuses) (b : BootEnv) :
    ∃ regs io mgmt, h.romWork f b = { h with regs := regs, io := io, mgmt := mgmt } := by
  unfold Hw.romWork
  split
  · exact ⟨_, _, _, rfl⟩
  · extract_lets g
    split <;> exact ⟨_, _, _, rfl⟩

/-- R497, R498: what a reset of every die leaves. -/
theorem Hw.resetPackage_leaves (h : Hw) (f : Fuses) (cause : Nat) (b : BootEnv) :
    let r := h.resetPackage f cause b
    r.1 = Timelines.fresh ∧ r.2.nv = h.nv ∧ r.2.host = h.host ∧ r.2.mem = [] ∧ r.2.jobs = [] := by
  have hrom : ∀ x : Hw, x.nv = h.nv → x.host = h.host → x.mem = [] → x.jobs = [] →
      (x.rom f b).nv = h.nv ∧ (x.rom f b).host = h.host ∧ (x.rom f b).mem = [] ∧ (x.rom f b).jobs = [] := by
    intro x hnv hhost hmem hjobs
    unfold Hw.rom
    dsimp only
    split
    · exact ⟨hnv, hhost, hmem, hjobs⟩
    · obtain ⟨_, _, _, hwork⟩ := Hw.romWork_eq { x with power := { x.power with coldest := b.coldest } } f b
      rw [hwork]
      exact ⟨hnv, hhost, hmem, hjobs⟩
  refine ⟨rfl, ?_⟩
  by_cases hc : cause = 0
  · subst hc
    exact hrom _ rfl rfl rfl rfl
  · obtain ⟨x, hx, h1, h2, h3, h4⟩ : ∃ x : Hw, (h.resetPackage f cause b).2 = x.rom f b ∧ x.nv = h.nv ∧ x.host = h.host ∧
        x.mem = [] ∧ x.jobs = [] := ⟨_, congrArg (fun x : Hw => x.rom f b) (if_neg hc), rfl, rfl, rfl, rfl⟩
    rw [hx]
    exact hrom x h1 h2 h3 h4

theorem packageReset_of_power {h : Hw} {f : Fuses} {tl : Timelines} {cause : Nat} {b : BootEnv}
    (hgood : h.power.good = true) (hrun : h.power.stopped = false) :
    packageReset cause b f tl h = h.resetPackage f cause b := if_pos (by simp [hgood, hrun])

theorem packageReset_of_noPower {h : Hw} {f : Fuses} {tl : Timelines} {cause : Nat} {b : BootEnv}
    (hoff : h.power.good = false ∨ h.power.stopped = true) : packageReset cause b f tl h = (tl, h) :=
  if_neg (by rcases hoff with h | h <;> simp [h])

/-- R513: a reload from flash by whether its image passes. -/
theorem mpReset_of_image {h : Hw} {f : Fuses} {tl : Timelines} {cause : Nat} {flashOk : Bool} {b : BootEnv} :
    let g := h.resetMp
    (g.flashImage.err flashOk g.nv.fuseSvn = 0 → mpReset cause flashOk b f tl h = (tl, g.runImage g.flashImage)) ∧
    (g.flashImage.err flashOk g.nv.fuseSvn ≠ 0 → g.power.good = true → g.power.stopped = false →
      mpReset cause flashOk b f tl h = g.resetPackage f cause b) :=
  ⟨fun herr => if_pos herr, fun herr hgood hrun => (if_neg herr).trans (packageReset_of_power hgood hrun)⟩

/-- Settles O47: each reset by its condition, and what a package reset leaves. -/
theorem resetsStartThePackageOrItsManager : Obligations.ResetsStartThePackageOrItsManager := by
  refine ⟨fun s b key hs => ?_, fun s flashOk b hs hserved => ?_⟩
  · intro leaves
    have hleaves : ∀ {i : Instr} {f : Fuses → Timelines → Hw → Timelines × Hw} {cause : Nat}, exec i s = onTl f s →
        f s.fuses s.tl s.hw = s.hw.resetPackage s.fuses cause b → leaves i cause :=
      fun hi hf => ⟨hi.trans (onTl_to hf), Hw.resetPackage_leaves _ _ _ _⟩
    refine ⟨hleaves rfl rfl, fun hgood hrun => ⟨hleaves rfl (packageReset_of_power hgood hrun), fun hserved => hleaves rfl ?_⟩,
      fun hoff => ⟨onTl_same hs (packageReset_of_noPower hoff), onTl_same hs ?_⟩, fun hkey => onTl_same hs ?_⟩
    · exact (if_pos (by simp [hserved])).trans (packageReset_of_power hgood hrun)
    · unfold rstCtrlPkg
      rw [packageReset_of_noPower hoff, ite_self]
    · exact if_neg (by simp [hkey])
  · intro reloads
    have hreloads : ∀ {i : Instr} {f : Fuses → Timelines → Hw → Timelines × Hw} {cause : Nat} {h : Hw}, exec i s = onTl f s →
        f s.fuses s.tl s.hw = mpReset cause flashOk b s.fuses s.tl h → reloads i cause h := by
      intro i f cause h hi hf
      obtain ⟨hok, hbad⟩ := mpReset_of_image (h := h) (f := s.fuses) (tl := s.tl) (cause := cause) (flashOk := flashOk) (b := b)
      exact ⟨fun herr => hi.trans (onTl_to (hf.trans (hok herr))),
        fun herr hgood hrun => hi.trans (onTl_to (hf.trans (hbad herr hgood hrun)))⟩
    refine ⟨hreloads rfl (if_pos (by simp [hserved])), ?_, ?_⟩
    · intro h
      have hexp : watchdogExpiry flashOk b s.fuses s.tl s.hw =
          if h.mgmt.expiry.any (fun t => h.now ≤ t + 1000000000) then packageReset 3 b s.fuses s.tl h
          else mpReset 3 flashOk b s.fuses s.tl { h with mgmt := { h.mgmt with expiry := some h.now } } :=
        if_neg (by simp [hserved])
      refine ⟨fun hlate => hreloads rfl (hexp.trans (if_neg ?_)), fun t ht hsoon hgood hrun => onTl_to (hexp.trans ?_)⟩
      · cases he : h.mgmt.expiry with
        | none => simp
        | some t => simpa using hlate t he
      · rw [if_pos (by simpa [ht] using hsoon)]
        exact packageReset_of_power hgood hrun
    · exact onHw_keeps hs (if_pos hserved) rfl rfl

/-! The boot sequence. -/

/-- Settles O48: each stage by its outcome, and each image by its checks. -/
theorem bootStagesAndImagesAreTaken : Obligations.BootStagesAndImagesAreTaken := by
  refine ⟨fun s hs => ⟨fun flashOk hstage => ?_, fun t hstage => ?_, fun hstage hclears => ?_, fun hstage => ?_⟩,
    fun s flashOk hs => ⟨fun hstage => ?_, fun hserved => ?_⟩⟩
  · intro err
    have hverify : bootVerify flashOk s.env s.hw =
        if err = 0 then (s.hw.runImage s.hw.flashImage).toStage 3 else (s.hw.bootErr err).toStage 2 :=
      if_neg (not_not.2 hstage)
    exact ⟨fun herr => onHw_to (hverify.trans (if_pos herr)), fun herr => onHw_to (hverify.trans (if_neg herr))⟩
  · intro h
    have htrain : bootMemTrain t s.env s.hw = match (upto 8).find? (fun n => !(bit t.hbmOk.toNat n)) with
        | some n => h.fatal 3 (28 + n / 2) n
        | none => (h.wf Reg.pkgMemTopTop pkgB 0 (trainedGib t * 512)).toStage 4 :=
      (if_neg (not_not.2 hstage)).trans rfl
    refine ⟨fun hall => onHw_to (htrain.trans ?_), fun n hbad => onHw_to (htrain.trans ?_)⟩
    · rw [hall]
    · rw [hbad]
  · intro ds
    have hclear : bootClear s.env s.hw = if ds.isEmpty then s.hw.enterLinks else ds.foldl (fun h d => h.startClear d .boot) s.hw :=
      if_neg (by simp [hstage, hclears])
    refine ⟨fun hnone => onHw_to (hclear.trans (if_pos ?_)), fun hsome => onHw_to (hclear.trans (if_neg ?_))⟩
    · rw [hnone]
      rfl
    · simpa using hsome
  · have hlinks : bootLinks s.env s.hw = if (s.hw.stage = 5 && !((upto 48).any (s.hw.portBusy s.env))) = true
        then s.hw.toStage 6 else s.hw := rfl
    refine ⟨fun hidle => onHw_to (hlinks.trans (if_pos ?_)), fun p hp hbusy => onHw_same hs (hlinks.trans (if_neg ?_))⟩
    · simpa [hstage, upto] using hidle
    · simpa [hstage, upto] using ⟨p, hp, hbusy⟩
  · intro b len i err h
    have hgo (readOk flashOk : Bool) : rcvCtrlGo readOk flashOk s.env s.hw =
        let err := if !readOk then 6 else if len ≠ i.bodyLen + 8192 then 7 else i.err true s.hw.nv.fuseSvn
        let h := (s.hw.wf Reg.rcvStatusErr b 0 err).bootErr err
        if err ≠ 0 then h.wf Reg.rcvStatusState b 0 0
        else
          let h := if h.rf Reg.rcvCtrlPersist b = 1 then h.writeFlash (if flashOk then some i else none) else h
          ((h.runImage i).wf Reg.rcvStatusState b 0 3).toStage 3 := if_neg (not_not.2 hstage)
    have hread (flashOk : Bool) : rcvCtrlGo true flashOk s.env s.hw =
        if err ≠ 0 then h.wf Reg.rcvStatusState b 0 0
        else (((if h.rf Reg.rcvCtrlPersist b = 1 then h.writeFlash (if flashOk then some i else none) else h).runImage i).wf
          Reg.rcvStatusState b 0 3).toStage 3 := hgo true flashOk
    refine ⟨fun herr hpersist => onHw_to ((hread flashOk).trans ?_), fun herr hpersist => onHw_to ((hread true).trans ?_),
      fun herr => onHw_to ((hread flashOk).trans (if_pos herr)), onHw_to (hgo false flashOk)⟩
    · rw [if_neg (not_not.2 herr), if_neg hpersist]
    · rw [if_neg (not_not.2 herr), if_pos hpersist]
      rfl
  · intro a len i hfit hgood err
    have hupd (flashOk : Bool) : fwUpdStart true flashOk s.env s.hw = if err ≠ 0 then s.hw.wf Reg.fwUpdErr pkgB 0 err
        else if flashOk then (s.hw.writeFlash (some i)).wf Reg.fwUpdErr pkgB 0 0
        else (s.hw.writeFlash none).wf Reg.fwUpdErr pkgB 0 8 := by
      have hwhole : (true && (decide (a + len ≤ s.hw.rf Reg.pkgMemTopTop pkgB * 2 ^ 21) && decide (s.hw.goodBytes a len = len)))
          = true := by
        simp only [Bool.true_and, Bool.and_eq_true, decide_eq_true_eq]
        exact ⟨hfit, hgood⟩
      have herr : i.err (true && (decide (a + len ≤ s.hw.rf Reg.pkgMemTopTop pkgB * 2 ^ 21) &&
          decide (s.hw.goodBytes a len = len))) s.hw.nv.fuseSvn = err := by rw [hwhole]
      rw [← herr]
      exact if_neg (by simp [hserved])
    refine ⟨fun herr => ⟨onHw_to ((hupd true).trans (if_neg (not_not.2 herr))),
      onHw_to ((hupd false).trans (if_neg (not_not.2 herr)))⟩, fun herr => onHw_to ((hupd flashOk).trans (if_pos herr))⟩

/-! The join, power states of C-dies, and debug unlock. -/

/-- Settles O49: the join by what is wrong with it, and the commands of the served package. -/
theorem joinPowerStatesAndDebugUnlock : Obligations.JoinPowerStatesAndDebugUnlock := by
  refine fun s hs => ⟨fun hstage => ?_, fun hserved => ⟨fun off => ?_, ?_, ?_⟩⟩
  · intro node period origin
    have hjoin : joinCmdGo s.fuses s.tl s.hw =
        if (16416 ≤ node || period < 1000) = true then (s.tl, s.hw.bootErr 16)
        else if (upto 48).any (s.hw.nbIs node) then (s.tl, s.hw.bootErr 17)
        else ({ s.tl with fabPeriod := period, fabOrigin := origin }, s.hw.joined) := if_neg (not_not.2 hstage)
    have hrange : (16416 ≤ node || period < 1000) = true ↔ 16416 ≤ node ∨ period < 1000 := by simp
    have hnb : (upto 48).any (s.hw.nbIs node) = true ↔ ∃ p, p < 48 ∧ s.hw.nbIs node p = true := by simp [upto]
    refine ⟨fun h1 h2 hfree =>
      onTl_to (r := ({ s.tl with fabPeriod := period, fabOrigin := origin }, s.hw.joined)) (hjoin.trans ?_), fun hbad => onTl_to (hjoin.trans (if_pos (hrange.2 hbad))),
      fun h1 h2 hused => onTl_to (r := (s.tl, s.hw.bootErr 17)) (hjoin.trans ?_)⟩
    · rw [if_neg (fun h => by rcases hrange.1 h with h | h <;> omega),
        if_neg (fun h => by obtain ⟨p, hp, hn⟩ := hnb.1 h; rw [hfree p hp] at hn; cases hn)]
    · rw [if_neg (fun h => by rcases hrange.1 h with h | h <;> omega), if_pos (hnb.2 hused)]
  · exact onHw_to (if_pos hserved)
  · exact onHw_to (if_pos hserved)
  · intro a h
    have hsubmit : dbgCtrlSubmit s.env s.hw = if s.hw.tokenOk a
        then (h.wf Reg.dbgCtrlState pkgB 0 1).wf Reg.dbgCtrlScope pkgB 0 (h.hostNum (a + 0x68) 1)
        else h.wf Reg.dbgCtrlState pkgB 0 2 := if_neg (by simp [hserved])
    exact ⟨fun hok => onHw_to (hsubmit.trans (if_pos hok)), fun hbad => onHw_to (hsubmit.trans (if_neg (by simp [hbad])))⟩

/-! The mailbox. -/

/-- R512: a request in its place is answered. -/
theorem Hw.spdm_ready {h : Hw} {ready : Bool} {f : Hw → Hw} (hon : h.doeOn = true) (hready : ready = true) :
    h.spdm ready f = f h := by simp [Hw.spdm, hon, hready]

/-- R512: one before its place is an unexpected request. -/
theorem Hw.spdm_early {h : Hw} {ready : Bool} {f : Hw → Hw} (hon : h.doeOn = true) (hready : ready = false) :
    h.spdm ready f = h.spdmError 4 := by simp [Hw.spdm, hon, hready]

/-- Settles O50: each request in its place and before it, discovery, and configuration reads. -/
theorem mailboxAndConfigurationAreAnswered : Obligations.MailboxAndConfigurationAreAnswered := by
  refine ⟨fun s r hs hon => ?_, fun s fn w hs hfn hup => ?_⟩
  · intro h m nonce no
    refine ⟨onHw_to (Hw.spdm_ready hon rfl), fun hv => onHw_to (Hw.spdm_ready hon hv),
      fun hv hc => onHw_to (Hw.spdm_ready hon (by simp [show s.hw.mgmt.spdmVersion = true from hv,
        show s.hw.mgmt.spdmCaps = true from hc])), fun ha => ⟨onHw_to (Hw.spdm_ready hon ha), fun hslot hoff => ?_,
        fun hslot => ?_, fun hidx => ?_, onHw_to (Hw.spdm_ready hon ha)⟩,
      fun h1 => onHw_to (Hw.spdm_ready hon (decide_eq_true h1)),
      fun h2 => ⟨onHw_to (Hw.spdm_ready hon (decide_eq_true h2)), fun hop hstream => ?_⟩,
      fun hv => onHw_to (Hw.spdm_early hon hv), fun hc => onHw_to (Hw.spdm_early hon (by simp [show s.hw.mgmt.spdmCaps = false from hc])),
      fun ha => ⟨onHw_to (Hw.spdm_early hon ha), onHw_to (Hw.spdm_early hon ha), onHw_to (Hw.spdm_early hon ha)⟩,
      fun h1 => onHw_to (Hw.spdm_early hon (decide_eq_false h1)),
      fun h2 => ⟨onHw_to (Hw.spdm_early hon (decide_eq_false h2)), onHw_to (Hw.spdm_early hon (decide_eq_false h2))⟩,
      fun hidx => ?_⟩
    · exact onHw_to ((Hw.spdm_ready hon ha).trans (if_neg (by simp [hslot]; exact hoff)))
    · exact onHw_to ((Hw.spdm_ready hon ha).trans (if_neg (not_not.2 hslot)))
    · exact onHw_to ((Hw.spdm_ready hon ha).trans (if_pos hidx))
    · refine onHw_to ((Hw.spdm_ready hon (decide_eq_true h2)).trans ?_)
      dsimp only
      rw [if_neg (Nat.not_lt.2 hstream), if_neg (by omega), if_neg (by simp [hop]), if_pos hop]
    · exact onHw_to ((if_neg (by simp [show s.hw.doeOn = true from hon])).trans (if_pos hidx))
  · intro answers
    have hreq (write : Option (BitVec 32)) : configurationRequest fn 0 write s.env s.hw =
        if s.hw.stage = 0 then { s.hw with mgmt := { s.hw.mgmt with cfgRead := none } }
        else match write with
          | some _ => s.hw
          | none => { s.hw with mgmt := { s.hw.mgmt with cfgRead := some (BitVec.ofNat 32
              (s.hw.rf Reg.pkgIdVendor pkgB + (if fn = 0 then 0x0320 else 0x0321) * 2 ^ 16)) } } :=
      (if_neg (by simp [hup]; omega)).trans (by cases write <;> rfl)
    exact ⟨fun hstage => onHw_keeps hs ((hreq w).trans (if_pos hstage)) rfl rfl,
      fun hstage => onHw_keeps hs ((hreq none).trans (if_neg hstage)) rfl rfl,
      fun x hstage => onHw_same hs ((hreq (some x)).trans (if_neg hstage))⟩

/-! Power and temperature. -/

/-- Settles O51: PWRGD, rails and sensors, each at its limit. -/
theorem powerLossAndThermalTrip : Obligations.PowerLossAndThermalTrip := by
  refine fun s hs => ⟨fun hgood => ?_, fun rail t ht => onHw_same hs (if_neg (Nat.not_lt.2 ht)), fun x hrun => ?_,
    fun x hstop => onHw_same hs (if_pos hstop)⟩
  · intro h g
    have hfall : pwrgdFall s.env s.hw = g := if_neg (by simp [hgood])
    exact ⟨onHw_to hfall, fun rail t ht => onHw_to ((if_pos ht).trans hfall)⟩
  · intro h0 temps h1 h
    have hread : sensorRead x s.env s.hw = if 115 ≤ x.hottest then h.trip x.hotDie
        else match h.mgmt.held with
          | some b => if 0 ≤ x.coldest then h.romWork s.env.fuses b else h
          | none => h := (if_neg (by simp [hrun])).trans rfl
    refine ⟨fun hhot => onHw_to (hread.trans (if_pos hhot)), fun hcool hheld => onHw_to (hread.trans ?_)⟩
    rw [if_neg (Int.not_le.2 hcool), hheld]

/-! Reset. -/

/-- Settles O53: the state of reset is given, and its registers are read from their tables. -/
theorem resetLeavesTheStatedValues : Obligations.ResetLeavesTheStatedValues := by
  have hlegal : State.reset.tl.legal := ⟨rfl, by decide, by decide, by unfold PartTl.legal; decide⟩
  refine ⟨rfl, hlegal, by unfold Timelines.allIdle; decide, rfl, ⟨rfl, rfl⟩, rfl, rfl, by decide +kernel, ?_, ?_, ?_, ?_, ?_⟩
  · decide +kernel
  · decide +kernel
  · decide +kernel
  · decide +kernel
  · decide +kernel

end Sys2Proof.Machine
end

section
/-! SUPPORT. Extents of this node's memory that an operation reads on sound stores (R37 to R41), and the span of one level
that a CINCH reads (R34). -/

namespace Sys2Proof.Machine

/-! Places of addresses. -/

/-- What the place of an address depends on is the same: registers other than counts of accesses, power, clears. -/
def Hw.sameMap (h g : Hw) : Prop := h.sameRegs g.regs ∧ g.power = h.power ∧ g.clears = h.clears

theorem Hw.accessed.sameMap {h g : Hw} (hg : h.accessed g) : h.sameMap g := by
  obtain ⟨_, _, _, _, _, _, _, _, _, rfl, hr, -⟩ := hg
  exact ⟨hr, rfl, rfl⟩

theorem Hw.tallied.sameMap {h g : Hw} (hg : h.tallied g) : h.sameMap g := hg.accessed.sameMap

/-- A field of the package block reads as before. -/
theorem Hw.sameRegs.pkg {h g : Hw} (hr : h.sameRegs g.regs) (f : FieldRef)
    (ho : f.row.off + f.row.stride * 0 < 0x100000) : g.rf f pkgB = h.rf f pkgB := by
  refine hr.rf f pkgB 0 ?_
  rw [show pkgB + f.row.off + f.row.stride * 0 = rkey 28 8 (f.row.off + f.row.stride * 0) by unfold pkgB rkey; omega]
  exact not_countKey ho (by decide) (by decide) (by decide) (by decide)

section
variable {h g : Hw} (hm : h.sameMap g)
include hm

theorem Hw.sameMap.node? : g.node? = h.node? := by
  rw [Hw.node?, Hw.node?, hm.1.pkg _ (by decide), hm.1.pkg _ (by decide)]

theorem Hw.sameMap.node : g.node = h.node := by rw [Hw.node, Hw.node, hm.node?]

theorem Hw.sameMap.dieOn (e : Env) (d : Nat) : g.dieOn e d = h.dieOn e d := by
  rw [Hw.dieOn, Hw.dieOn, hm.1.pkg _ (by decide), hm.2.1]

theorem Hw.sameMap.localLoc (e : Env) (s : Status) (off n : Nat) : g.localLoc e s off n = h.localLoc e s off n := by
  have hdie : (fun d => e.cdie d && (g.dieOn e d || (SMap.find? g.clears d).isSome)) =
      fun d => e.cdie d && (h.dieOn e d || (SMap.find? h.clears d).isSome) := by
    funext d
    rw [hm.dieOn, hm.2.2]
  rw [Hw.localLoc, Hw.localLoc, hm.1.pkg _ (by decide), hdie]

theorem Hw.sameMap.resolve (e : Env) (desc : Bool) (a n : Nat) : g.resolve e desc a n = h.resolve e desc a n := by
  rw [Hw.resolve, Hw.resolve, hm.node?]
  simp only [hm.localLoc]

theorem Hw.sameMap.resolveMem (e : Env) (desc : Bool) (a n : Nat) :
    g.resolveMem e desc a n = h.resolveMem e desc a n := by
  rw [Hw.resolveMem, Hw.resolveMem, hm.resolve]

theorem Hw.sameMap.localMem (e : Env) (a n : Nat) : g.localMem e a n = h.localMem e a n := by
  rw [Hw.localMem, Hw.localMem, hm.resolveMem]

end

/-! Reads of extents. -/

theorem Reads.get_bind {β : Type} {f : Hw → Op β} {h : Hw} {b : β} (hf : ∀ g, h.tallied g → Reads (f g) h b) :
    Reads (get >>= f) h b := by
  intro h' hh
  obtain ⟨k, hrun, hk⟩ := hf h' hh h' hh
  exact ⟨k, runOp_bind _ _ _ _ _ (show runOp get h' = (.ok h', h') from rfl) _ _ hrun, hk⟩

theorem Reads.readExt {h : Hw} (hs : h.sound) {e : Env} {a n q : Nat} (hq : h.localMem e a n = .ok q) :
    Reads (Machine.readExt e a n) h (Mem.read h.mem q n) := by
  refine Reads.get_bind fun g hg => ?_
  rw [hg.sameMap.localMem, hq]
  exact Reads.loadB hs q n

/-- A pass over the numbers below `k`, its state before number `i` being `r i`. -/
theorem Reads.foldlM_upto {α : Type} {h : Hw} (f : α → Nat → Op α) (r : Nat → α) (k : Nat)
    (hf : ∀ i < k, Reads (f (r i) i) h (r (i + 1))) : Reads ((upto k).foldlM f (r 0)) h (r k) := by
  induction k with
  | zero => exact Reads.pure h _
  | succ k ih =>
    rw [upto, List.range_succ, List.foldlM_append]
    refine (ih fun i hi => hf i (by omega)).bind ?_
    exact (hf k (by omega)).bind (Reads.pure h _)

theorem Mem.read_drop (m : Mem) (a n k : Nat) : (Mem.read m a n).drop k = Mem.read m (a + k) (n - k) := by
  refine List.ext_getElem (by simp [Mem.read_length]) fun i h1 h2 => ?_
  simp [Mem.read, upto, Nat.add_assoc]

theorem Mem.read_take (m : Mem) (a n k : Nat) (hk : k ≤ n) : (Mem.read m a n).take k = Mem.read m a k := by
  refine List.ext_getElem (by simp [Mem.read_length, hk]) fun i h1 h2 => ?_
  simp [Mem.read, upto]

/-- Bytes within bytes that were read. -/
theorem Mem.read_slice (m : Mem) (a n k j : Nat) (hkj : k + j ≤ n) :
    ((Mem.read m a n).drop k).take j = Mem.read m (a + k) j := by
  rw [Mem.read_drop, Mem.read_take _ _ _ _ (by omega)]

theorem Mem.pay_read (m : Mem) (a n k j : Nat) (hkj : k + j ≤ n) : pay (Mem.read m a n) k j = Mem.num m (a + k) j := by
  rw [pay, Mem.read_slice m a n k j hkj, Mem.num]

/-! Spans of one level (R34). -/

theorem strictAsc_cons_lt : ∀ (l : List Nat) (a : Nat), strictAsc (a :: l) = true → ∀ b ∈ l, a < b
  | [], _, _, _, hb => by cases hb
  | c :: l, a, hl, b, hb => by
    simp only [strictAsc, Bool.and_eq_true, decide_eq_true_eq] at hl
    rcases List.mem_cons.1 hb with rfl | hb
    · exact hl.1
    · exact hl.1.trans (strictAsc_cons_lt l c hl.2 b hb)

theorem noDup_of_strictAsc : ∀ l : List Nat, strictAsc l = true → noDup l = true
  | [], _ => rfl
  | a :: l, hl => by
    have htail : strictAsc l = true := by
      cases l with
      | nil => rfl
      | cons b l =>
        simp only [strictAsc, Bool.and_eq_true] at hl
        exact hl.2
    simp only [noDup, Bool.and_eq_true, Bool.not_eq_true', List.contains_eq_mem, decide_eq_false_iff_not]
    exact ⟨fun ha => Nat.lt_irrefl a (strictAsc_cons_lt l a hl a ha), noDup_of_strictAsc l htail⟩

/-- The endpoints of the first `k` members of a span whose list lies at `q`. -/
def spanEnds (m : Mem) (q k : Nat) : List Nat := (upto k).map (fun i => Mem.num m (q + 4 * i) 4)

/-- What the members of a span of endpoints add up to, before its member `k` is read. -/
def spanAcc (m : Mem) (q k : Nat) : Expand × List (Bool × Nat) × List Nat :=
  (⟨Mem.read m q (4 * k), [], spanEnds m q k, 1⟩, (spanEnds m q k).map (fun c => (false, c)), spanEnds m q k)

theorem spanAcc_succ (m : Mem) (q k : Nat) : spanAcc m q (k + 1) =
    ({ (spanAcc m q k).1 with bytes := (spanAcc m q k).1.bytes ++ Mem.read m (q + 4 * k) 4
                              ends := (spanAcc m q k).1.ends ++ [Mem.num m (q + 4 * k) 4] },
      (spanAcc m q k).2.1 ++ [(false, Mem.num m (q + 4 * k) 4)], (spanAcc m q k).2.2 ++ [Mem.num m (q + 4 * k) 4]) := by
  have hbytes : Mem.read m q (4 * (k + 1)) = Mem.read m q (4 * k) ++ Mem.read m (q + 4 * k) 4 := by
    simp [Mem.read, upto, Nat.mul_succ, List.range_add, Nat.add_assoc]
  simp [spanAcc, spanEnds, hbytes, upto, List.range_succ]

/-- A span of endpoints, its entry and its list on this package and every word sound, is read as they say. -/
theorem Reads.readSpan {h : Hw} (hs : h.sound) {e : Env} {base id n a q count list : Nat} (hn : n ≠ 0)
    (hid : id < 2 ^ 12)
    (hent : h.localMem e (base + 32 * id) 32 = .ok a) (hword : Mem.num h.mem a 2 = 2 ^ 15 + id)
    (hc : Mem.num h.mem (a + 2) 2 = count) (hcount : count ≠ 0) (hzero : Mem.num h.mem (a + 16) 16 = 0)
    (hl : Mem.num h.mem (a + 8) 8 = list) (hlist : list < 2 ^ 48) (hal : list % 4 = 0)
    (hq : h.localMem e list (4 * count) = .ok q)
    (hends : ∀ c ∈ spanEnds h.mem q count, c < 2 ^ 24 ∧ e.coordOk h.node c = true)
    (hasc : strictAsc (spanEnds h.mem q count) = true) (hfirst : Mem.num h.mem (a + 4) 4 = (spanEnds h.mem q count).headD 0) :
    Reads (Machine.readSpan e base n id 0) h ⟨Mem.read h.mem q (4 * count),
      [⟨id, 0, (spanEnds h.mem q count).map (fun c => (false, c))⟩], spanEnds h.mem q count, 1⟩ := by
  have hentry : ∀ k j, k + j ≤ 32 → pay (Mem.read h.mem a 32) k j = Mem.num h.mem (a + k) j := Mem.pay_read _ _ _
  obtain ⟨n, rfl⟩ := Nat.exists_eq_succ_of_ne_zero hn
  unfold Machine.readSpan
  refine (Reads.readExt hs hent).bind ?_
  dsimp only
  rw [hentry 2 2 (by decide), hentry 8 8 (by decide), hc, hl]
  refine (Reads.need h _ ?_).bind ((Reads.readExt hs hq).bind (Reads.get_bind fun g hg =>
    (Reads.foldlM_upto _ (spanAcc h.mem q) count fun i hi => ?_).bind ((Reads.need h _ ?_).bind (Reads.pure h _))))
  · rw [hentry 0 2 (by decide), hentry 16 16 (by decide), Nat.add_zero, hword, hzero]
    simp only [bits_eq, Bool.and_eq_true, decide_eq_true_eq]
    exact ⟨⟨⟨⟨⟨⟨by omega, by omega⟩, by omega⟩, hcount⟩, trivial⟩, hlist⟩, hal⟩
  · obtain ⟨hlt, hok⟩ := hends (Mem.num h.mem (q + 4 * i) 4) (List.mem_map_of_mem (List.mem_range.2 hi))
    have hbits : bits (Mem.num h.mem (q + 4 * i) 4) 23 0 = Mem.num h.mem (q + 4 * i) 4 := by rw [bits_eq]; omega
    rw [Mem.pay_read _ _ _ _ _ (by omega), Mem.read_slice _ _ _ _ _ (by omega), if_neg (by rw [bit_eq]; simp; omega),
      spanAcc_succ, hbits, hg.sameMap.node, hok]
    exact (Reads.need h _ (by simp [bits_eq]; omega)).bind (Reads.pure h _)
  · rw [hentry 4 4 (by decide), hfirst]
    simp only [spanAcc, hasc, decide_true, Bool.and_self]

/-! Deadlines, partitions and cinches. -/

/-- Settles O41: by what the record's kind, the partition's state and the leader field say. -/
theorem deadlineRecordsAreKept : Obligations.DeadlineRecordsAreKept := by
  intro s _
  refine ⟨fun f h harr => ⟨fun htyp hl hk => onHw_to ?_, fun htyp hr hk hsw => onHw_to ?_⟩,
    fun p plan hp hplan => ⟨fun hl => onHw_to ?_, fun hl => onHw_to ?_⟩⟩
  · unfold lag
    rw [if_neg (by simp [htyp]), harr]
    exact if_pos (by rw [decide_eq_true hl, decide_eq_true hk]; rfl)
  · unfold Machine.plan
    rw [if_neg (by simp [htyp]), harr]
    exact if_pos (by rw [Bool.and_eq_true, Bool.and_eq_true]; exact ⟨⟨decide_eq_true hr, decide_eq_true hk⟩, decide_eq_true hsw⟩)
  · exact (if_pos hp).trans ((if_pos hl).trans (congrArg (fun n => s.hw.requestPlan p n _ _) (Nat.mod_eq_of_lt hplan)))
  · exact (if_pos hp).trans (if_neg hl)

theorem Origin.byKpost_eq_false {o : Origin} (h : ∀ d u t n, o ≠ .kpost d u t n) : o.byKpost = false := by
  unfold Origin.byKpost
  split
  · exact absurd rfl (h _ _ _ _)
  · rfl

/-- Entry `i` of a table of RESERVE descriptors (R446). -/
def resvEntry (m : Mem) (a i : Nat) : Desc := BitVec.ofNat 1024 (Mem.num m (a + 64 * i) 64)

/-- The table of RESERVEs of a LOAD, on this package and every word sound, is read as it says (R446, R447). -/
theorem Reads.readResv {h : Hw} (hs : h.sound) {e : Env} {c : PartD} {a : Nat} (hc : c.resv ≠ 0)
    (ha : h.localMem e c.resv 256 = .ok a)
    (hform : ∀ i < 4, (resvEntry h.mem a i).fld 0 7 0 = 0 ∨
      ((resvEntry h.mem a i).fld 0 7 0 = 1 ∧
        (resvEntry h.mem a i).fld 0 10 8 = c.part)) :
    Reads (Machine.readResv e c) h
      (((upto 4).filter (fun i => (resvEntry h.mem a i).fld 0 7 0 = 1)).map
        (fun i => (28 + i, resvEntry h.mem a i))) := by
  have hentry : (upto 4).map (fun i => (28 + i, (BitVec.ofNat 1024
        (ofBytes (((Mem.read h.mem a 256).drop (64 * i)).take 64)) : Desc))) =
      (upto 4).map (fun i => (28 + i, (resvEntry h.mem a i))) := by
    refine List.map_congr_left fun i hi => ?_
    have : i < 4 := List.mem_range.1 hi
    rw [Mem.read_slice _ _ _ _ _ (by omega)]
    rfl
  unfold Machine.readResv
  rw [if_neg hc]
  refine (Reads.readExt hs ha).bind ?_
  rw [hentry]
  refine (Reads.need h _ ?_).bind ?_
  · simp only [List.all_map, List.all_eq_true, Function.comp, Bool.or_eq_true, Bool.and_eq_true, decide_eq_true_eq]
    exact fun i hi => hform i (List.mem_range.1 hi)
  · rw [List.filter_map, Function.comp_def]
    exact Reads.pure h _

/-- Settles O42: a LOAD by the reading of its RESERVEs, a RELEASE by the state of its partition. -/
theorem partitionsLoadAndRelease : Obligations.PartitionsLoadAndRelease := by
  intro s j _ c
  refine ⟨?_, ?_⟩
  · intro hhead hop hres hpost hok run loads
    have hload : ∀ l h, run = (.ok l, h) → loads l h := by
      intro l h hrun
      have hkp := Origin.byKpost_eq_false hpost
      refine onHw_to ?_
      rw [load, hhead]
      dsimp only
      rw [if_pos hop, Hw.loadAccept,
        if_neg (show ¬ (j.origin.byKpost || s.hw.loadRefused s.env c) = true by rw [hkp, hok]; decide),
        if_neg (show ¬ (!c.reserved) = true by rw [hres]; decide),
        show runOp (readResv s.env c) s.hw = (.ok l, h) from hrun]
    refine ⟨hload, fun hzero => hload [] s.hw ?_, fun a hs hc ha hform => ?_⟩
    · show runOp (readResv s.env c) s.hw = _
      rw [readResv, if_pos hzero]
      rfl
    · obtain ⟨h, hrun, hh⟩ := (Reads.readResv hs hc ha hform).run
      exact ⟨h, hh.counted.mem, hload _ h hrun⟩
  · intro hhead hres hd hsp hprog hcores hresv hpost j'
    have hrel : release s.env s.hw = if s.hw.rf Reg.partState pkgB c.part = 0 then s.hw.partDone j .ok 0
        else if s.hw.rf Reg.partState pkgB c.part ≠ 2 then s.hw.partDone j .partitionDown 0
        else { s.hw.putJob 28 8 j' with
          partJobs := s.hw.partJobs ++ [{ job := j', part := c.part, isLoad := false, dies := 0, at_ := c.at_ }] } := by
      have hkp := Origin.byKpost_eq_false hpost
      rw [release, hhead]
      dsimp only
      rw [hkp]
      exact if_neg (show ¬ (!c.reserved || c.dies ≠ 0 || c.spBytes ≠ 0 || c.prog ≠ 0 || c.cores ≠ 0 || c.resv ≠ 0) = true by
        simp [hres, hd, hsp, hprog, hcores, hresv])
    exact ⟨fun h => onHw_to (hrel.trans (if_pos h)), fun h => onHw_to
      (hrel.trans ((if_neg (by rw [h]; decide)).trans (if_neg (by simp [h]))))⟩

/-- A cinch that ends: it completes, its held launches are dropped, and its timeline is IDLE (R432). -/
theorem Hw.cinchFail_of_cinch {h : Hw} {p : Nat} {c : Cinch} (hc : SMap.find? h.cinches p = some c) (tl : Timelines)
    (st : Status) (v : Nat) : h.cinchFail tl p st v = (tl.setPart p {},
      (Hw.finishJob { h with cinches := SMap.del h.cinches p } 28 10 c.job ⟨st, v, 0⟩).dropLaunches p) := by
  rw [Hw.cinchFail, hc]

/-- A CINCH that passes its checks and reads its span arms the timeline and tells the leader (R430, R431). -/
theorem cinch_of_span {f : Fuses} {tl : Timelines} {e : Env} {h g : Hw} {j : Job} {x : Expand}
    (hhead : (h.queue 28 10).find? (fun j => !j.started) = some j) (hok : cinchOk j.body = true)
    (hloaded : h.loaded (j.body.fld 0 10 8) = true) (hidle : (tl.part (j.body.fld 0 10 8)).st = .idle)
    (hsync : h.rf Reg.timeStatusSynced tmB ≠ 0) (hnode : h.node?.isSome = true)
    (htbl : h.rf Reg.spanTblEnable pkgB (j.body.fld 0 10 8) ≠ 0)
    (hrun : runOp (readSpan e (h.rf Reg.spanTblBase pkgB (j.body.fld 0 10 8) * 2 ^ 17) spanCount (j.body.fld 4 11 0) 0) h =
      (.ok x, g)) (hdup : noDup x.ends = true) :
    let d := j.body
    let p := d.fld 0 10 8
    let j' := { j with started := true, since := g.now }
    let c : Cinch := {
      job := j', ckey := d.fld 0x0C 31 0, period := d.fld 8 31 0, lead := orElse (d.fld 0x10 31 0) 10000
      timeout := orElse (d.fld 0x14 31 0) 1000000, notBefore := d.fld 0x18 63 0, span := d.fld 4 11 0
      sig := crc64 x.bytes, leader := cNode (x.ends.headD 0), members := (x.ends.map cNode).eraseDups, accepted := g.now }
    cinch f tl e h = (tl.setPart p { st := .armed, period := d.fld 8 31 0 },
      Hw.timeSend { g.putJob 28 10 j' with cinches := SMap.put g.cinches p c } c.leader
        (cinchRecord 1 p c.span c.ckey c.period 0 g.now c.sig 0)) := by
  have hready : ¬ ((tl.part (j.body.fld 0 10 8)).st ≠ .idle || h.rf Reg.timeStatusSynced tmB = 0 || h.node?.isNone
      || h.rf Reg.spanTblEnable pkgB (j.body.fld 0 10 8) = 0) = true := by
    simp [hidle, hsync, htbl, Option.isSome_iff_ne_none.1 hnode]
  intro d p j' c
  rw [cinch, hhead]
  dsimp only
  rw [if_neg (by rw [hok]; decide), if_neg (by rw [hloaded]; decide), if_neg hready, hrun]
  exact if_neg (by rw [hdup]; decide)

/-- Settles O40: at the leader and at its members, by the records that came and by the waits that ended. -/
theorem cinchesAgreeArmAndStart : Obligations.CinchesAgreeArmAndStart := by
  refine ⟨fun s j p _ => ⟨?_, ?_, ?_, ?_⟩, fun s p c _ => ⟨?_, ?_⟩⟩
  · intro hhead hp hok hloaded hidle hsync hnode htbl d id table armed
    subst hp
    have harm : ∀ x h, runOp (readSpan s.env table spanCount id 0) s.hw = (.ok x, h) → noDup x.ends = true →
        armed x.bytes x.ends h := fun x h hrun hdup =>
      onTl_to (f := fun f tl h => cinch f tl s.env h) (r := (_, _))
        (cinch_of_span (f := s.fuses) hhead hok hloaded hidle hsync hnode htbl hrun hdup)
    refine ⟨harm, fun a q hs hent hword hcount hzero hlist hal hq hends hasc hfirst => ?_⟩
    have hid : id < 2 ^ 12 := Nat.mod_lt _ (by decide)
    obtain ⟨g, hrun, hg⟩ := (Reads.readSpan (n := spanCount) hs (by decide) hid hent hword rfl hcount hzero rfl hlist
      hal hq hends hasc hfirst).run
    have harmed := harm _ g hrun (noDup_of_strictAsc _ hasc)
    have hnow : g.now = s.hw.now := by
      obtain ⟨_, _, _, rfl⟩ := hg.counted
      rfl
    exact ⟨g, hg.counted.mem, hnow, harmed⟩
  · intro f h c htyp harr hp hc harmed hgo hkey t0 x h1
    subst hp
    have hmean : go f s.fuses s.tl s.hw = if h1.now < t0 then
          (s.tl.setPart (recPart f) { x with origin := t0, go := true }, h1)
        else (s.tl.setPart (recPart f) { x with origin := t0, go := true, st := .running },
          Hw.cinchStart { h1 with partN := SMap.put h1.partN (recPart f) ((h.now - t0) / x.period) } (recPart f) true) := by
      rw [go, if_neg (by rw [htyp]; decide), harr]
      dsimp only
      rw [hc]
      exact if_pos (by rw [decide_eq_true harmed, hgo, decide_eq_true hkey]; rfl)
    exact ⟨fun ht => onTl_to (r := (_, _)) (hmean.trans (if_pos ht)),
      fun ht => onTl_to (r := (_, _)) (hmean.trans (if_neg (Nat.not_lt.2 ht)))⟩
  · intro f h c st htyp harr hp hc hkey hst hne
    subst hp
    refine onTl_to (r := (_, _)) ?_
    rw [fail, if_neg (by rw [htyp]; decide), harr]
    dsimp only
    rw [hc, hst]
    exact (if_pos hkey).trans ((congrArg _ (if_neg hne)).trans (Hw.cinchFail_of_cinch hc _ _ _))
  · intro c hc hl hgo h
    refine onTl_to (r := (_, _)) ?_
    rw [cinchMemberTimeout, hc]
    refine (if_pos (by rw [decide_eq_true hl, hgo]; rfl)).trans ?_
    rw [show c.accepted + 3 * c.timeout * 1000 = c.accepted + 3000 * c.timeout by omega]
    exact Hw.cinchFail_of_cinch (h := h) hc _ _ _
  · intro f h htyp hp hc hdec harr n agrees c'
    subst hp
    have hmean : ready f s.env s.hw = if recKey f ≠ c.ckey || pay f.payload 8 4 ≠ c.period || pay f.payload 0x18 8 ≠ c.sig
        then h.cinchTell (recPart f) c 3 0x30 0 (n * 512)
        else if !(c.members.contains n) then h
        else if c'.ready.length = c.members.length then
          h.cinchTell (recPart f) c' 2 0 (alignUp (Nat.max c.notBefore (h.now + c.lead)) 10) 0
        else { h with cinches := SMap.put h.cinches (recPart f) c' } := by
      rw [ready, if_neg (by rw [htyp]; decide)]
      dsimp only
      generalize hr : s.hw.arrive f _ = r
      obtain rfl : r = (true, h) := hr.symm.trans harr
      dsimp only
      rw [hc]
      exact if_neg (by rw [hdec]; decide)
    have hdiff : (recKey f ≠ c.ckey || pay f.payload 8 4 ≠ c.period || pay f.payload 0x18 8 ≠ c.sig) = true ↔ ¬ agrees := by
      simp only [Bool.or_eq_true, decide_eq_true_eq, agrees]
      omega
    refine ⟨fun ha => onHw_to (hmean.trans ((if_pos (hdiff.2 ha)).trans ?_)),
      fun ha hmem hlen => onHw_to (hmean.trans ?_), fun ha hmem hlen => onHw_to (hmean.trans ?_)⟩
    · rw [Nat.mul_comm]
    · exact (if_neg (fun h => hdiff.1 h ha)).trans ((if_neg (by rw [hmem]; decide)).trans (if_pos hlen))
    · exact (if_neg (fun h => hdiff.1 h ha)).trans ((if_neg (by rw [hmem]; decide)).trans (if_neg hlen))
  · intro hc hl hdec
    refine onTl_to (r := (_, _)) ?_
    rw [cinchTimeout, hc]
    refine (if_pos (by rw [decide_eq_true hl, hdec]; rfl)).trans ?_
    rw [Nat.mul_comm c.timeout]
    rfl

end Sys2Proof.Machine
end

section
/-! SUPPORT. Boundaries, host rings and host transfers (R426 to R428, R468 to R498). -/

namespace Sys2Proof.Machine

theorem onTl_pair {f : Fuses → Timelines → Hw → Timelines × Hw} {s : State} {tl : Timelines} {h : Hw}
    (hf : f s.fuses s.tl s.hw = (tl, h)) : onTl f s = .next (s.tlTo tl h) := onTl_to hf

/-! Boundaries. -/

/-- Once the fabric timeline has begun, its next boundary is that of the number after the last (R426). -/
theorem fabricFirst_eq {t : Nat} {f : Fuses} {tl : Timelines} {h : Hw} (hnow : tl.fabOrigin ≤ h.now) :
    fabricFirst t f tl h =
      if tl.fabOrigin + (h.fabN + 1) * tl.fabPeriod = t then fabricBoundary f tl h else (tl, h) := by
  unfold fabricFirst
  rw [if_neg (Nat.not_lt.2 hnow)]

/-- A boundary of the fabric timeline after its first, in its order: the mode, the fabric's work, the partitions' loads
and releases, then each partition that keeps the fabric beat (R426, R427). -/
theorem fabricBoundary_eq {f : Fuses} {tl : Timelines} {m x : Timelines × Hw} {h : Hw} {n t : Nat}
    (hpower : h.power.stopped = false) (hnow : tl.fabOrigin ≤ h.now) (hn : h.fabN + 1 = n)
    (ht : tl.fabOrigin + n * tl.fabPeriod = t) (hmode : Hw.modeEpoch { h.reach t with fabN := n } tl = m)
    (hpart : (m.2.fabricWork ⟨f, m.1⟩ n t).partEpoch f m.1 t none = x) :
    fabricBoundary f tl h = (x.1, ((((List.range 8).foldl (fun (h : Hw) p => h.fabricPart ⟨f, x.1⟩ n t p) x.2).takeoverEpoch
      ⟨f, x.1⟩).settleFabric ⟨f, x.1⟩)) := by
  subst hn
  subst ht
  obtain ⟨tl1, h1⟩ := m
  obtain ⟨tl2, h2⟩ := x
  unfold fabricBoundary
  rw [if_neg (by rw [hpower]; decide), if_neg (Nat.not_lt.2 hnow)]
  dsimp only
  rw [hmode]
  dsimp only
  rw [hpart, upto]

/-- Settles O43: a boundary by the counter and the partition's state, a lost die link by the module's far end. -/
theorem boundariesFallInTurn : Obligations.BoundariesFallInTurn := by
  intro s hs hpower
  refine ⟨?_, ?_,
    fun d m far hend => onTl_to ?_⟩
  · intro hnow n t m x e
    have hmean := fabricBoundary_eq (f := s.fuses) (m := m) (x := x) (n := n) (t := t) hpower hnow rfl rfl rfl rfl
    exact onTl_pair hmean
  · intro p hp x falls beat
    have hmean : beatBoundary p s.fuses s.tl s.hw = match x.st with
        | .idle => (s.tl, s.hw)
        | .armed => if x.go then beatFalls p 0 x.origin s.fuses s.tl s.hw else (s.tl, s.hw)
        | .running => beatFalls p (SMap.get s.hw.partN 0 p + 1)
            (x.origin + (SMap.get s.hw.partN 0 p + 1) * x.period) s.fuses s.tl s.hw :=
      if_neg (by rw [hpower, decide_eq_false (Nat.not_le.2 hp)]; decide)
    have hbeat : ∀ n t, beatBoundary p s.fuses s.tl s.hw = beatFalls p n t s.fuses s.tl s.hw → beat n t := fun n t hb =>
      ⟨fun hnow hne => (fabricFirst_eq hnow).trans (if_neg hne), fun hnow heq => (fabricFirst_eq hnow).trans (if_pos heq),
        fun hkept => onTl_to (hb.trans (if_pos hkept)), fun hgone => onTl_to (hb.trans (if_neg hgone))⟩
    refine ⟨fun hrun => hbeat _ _ ?_, fun harmed hgo => hbeat _ _ ?_, fun hidle => onTl_same hs ?_⟩
    · rw [hmean, hrun]
    · rw [hmean, harmed]
      exact if_pos hgo
    · rw [hmean, hidle]
  · rw [dieLinkDown, hend]
    exact if_neg (by rw [hpower]; decide)

/-! Rings. -/

/-- An access to a ring that is there and ENABLED is not discarded (R474, R479). -/
theorem ring_enabled {served : Bool} {fn k n st : Nat} (hserved : served = true) (hfn : fn ≤ 8) (hk : k < n) (hst : st = 1) :
    ¬ (!served || 9 ≤ fn || n ≤ k || st ≠ 1) = true := by
  simp only [hserved, hst, Bool.or_eq_true, decide_eq_true_eq]
  simp
  omega

/-- Settles O44: a doorbell by the value's range, an entry by the ring's turn, its causes and what it waits for. -/
theorem ringsMoveAndPostTheirEntries : Obligations.RingsMoveAndPostTheirEntries := by
  refine ⟨fun s fn k v hs hserved hfn hv => ⟨fun hk hst => ?_, fun hk hst => ?_, fun hk hst => ?_⟩,
    fun s fn k hs hlink hfn hk => ?_⟩
  · have hmean : sqDb fn k v s.env s.hw = if s.hw.rf Reg.sqCfgSize (fkey fn 0) k ≤ v then s.hw.ringError 5 fn
        else s.hw.wf Reg.sqStatusTail (fkey fn 0) k v := by
      rw [sqDb, Nat.mod_eq_of_lt hv]
      exact if_neg (ring_enabled hserved hfn hk hst)
    exact ⟨fun h => onHw_keeps hs (hmean.trans (if_neg (Nat.not_le.2 h))) rfl rfl,
      fun h => onHw_to (hmean.trans (if_pos h))⟩
  · intro ok
    have hmean : cqDb fn k v s.env s.hw = if ok then s.hw.wf Reg.cqStatusHead (fkey fn 0) k v else s.hw.ringError 5 fn := by
      rw [cqDb, Nat.mod_eq_of_lt hv]
      exact if_neg (ring_enabled hserved hfn hk hst)
    exact ⟨fun h => onHw_keeps hs (hmean.trans (if_pos h)) rfl rfl,
      fun h => onHw_to (hmean.trans (if_neg (by rw [h]; decide)))⟩
  · intro ok h1 free
    have hmean : eqDb fn k v s.env s.hw = if ok then (if free = 0 || !h1.io.linkUp then h1 else h1.pushOverflow fn k)
        else s.hw.ringError 5 fn := by
      rw [eqDb, Nat.mod_eq_of_lt hv]
      exact if_neg (ring_enabled hserved hfn hk hst)
    refine ⟨fun h hfree hlink => onHw_to (hmean.trans ((if_pos h).trans (if_neg ?_))),
      fun h hwait => onHw_keeps hs (hmean.trans ((if_pos h).trans (if_pos ?_))) rfl rfl,
      fun h => onHw_to (hmean.trans (if_neg (by rw [h]; decide)))⟩
    · rw [show h1.io.linkUp = true from hlink, decide_eq_false hfree]
      decide
    · rcases hwait with hfree | hlink
      · rw [decide_eq_true hfree]
        rfl
      · rw [show h1.io.linkUp = false from hlink, Bool.not_false, Bool.or_true]
  · intro b h head hst hne hroom
    refine ⟨fun hturn => onHw_same hs ?_, fun hturn => ?_⟩
    · exact if_pos (by rw [hturn, Bool.not_false, Bool.or_true])
    · intro a x d o
      have hentry : h.sqEntry? fn k = some (x, d) := if_neg (show ¬ (decide (h.rf Reg.sqStatusState b k ≠ 1) ||
          decide (head = h.rf Reg.sqStatusTail b k) || !(h.cqRoom fn (h.rf Reg.sqCfgCq b k))) = true by
        rw [hroom, decide_eq_false hne, decide_eq_false (not_not.2 hst)]
        decide)
      have hgoes : ¬ (!s.hw.io.linkUp || 9 ≤ fn || nSq fn ≤ k || !(s.hw.sqTurn s.env fn k)) = true := by
        rw [hlink, hturn, decide_eq_false (by omega), decide_eq_false (by omega)]
        decide
      have hentry' : s.hw.sqEntry? fn k = some (x, d) := hentry
      refine ⟨fun st hleast => onHw_to ?_, fun hleast => ?_⟩
      · have hleast' : leastStatus (s.hw.postCauses s.env fn x d) = some st := hleast
        rw [sqEntryPost, if_neg hgoes, hentry']
        dsimp only
        rw [hleast']
      · intro waits
        have hleast' : leastStatus (s.hw.postCauses s.env fn x d) = none := hleast
        have hmean : sqEntryPost fn k s.env s.hw = if h.sqWaits fn k x d then h
            else (h.takeEntry fn k).postTo x.die x.unit d o (if x.die < 24 then h.partOf x.die else fnPart fn) := by
          rw [sqEntryPost, if_neg hgoes, hentry']
          dsimp only
          rw [hleast']
        have hwaits : h.sqWaits fn k x d = true ↔ waits := by
          simp only [Hw.sqWaits, Bool.or_eq_true, Bool.and_eq_true, decide_eq_true_eq, Bool.not_eq_true', waits]
          exact Iff.rfl
        exact ⟨fun hw => onHw_same hs (hmean.trans (if_pos (hwaits.2 hw))),
          fun hw => onHw_to (hmean.trans (if_neg (fun h => hw (hwaits.1 h))))⟩

/-! Host transfers (R482). -/

section
variable {link : HostTransfer} {e : Env} {h g : Hw} {j : Job} {rest : List Job} {off : Nat}
  (hq : h.queue 28 11 = j :: rest) (hheld : h.hdmaHeld e (HdmaD.of j.body) = false)
  (hdec : h.hdmaDecode e j (HdmaD.of j.body) = .ok off)
include hq hheld hdec

theorem toDevice_of_good (hop : (HdmaD.of j.body).op ≠ 2) (hgood : linkGood link (HdmaD.of j.body).bytes = none)
    (hrun : runOp (storeB off (h.hostRead (HdmaD.of j.body).host (HdmaD.of j.body).bytes)) { h with moved := 0 } = (.ok (), g)) :
    toDevice link e h = ((g.chargeMem (fnPart j.origin.fn)).hostMoved j (HdmaD.of j.body) (HdmaD.of j.body).bytes).hdmaEnd e j
      (HdmaD.of j.body) (.ok ()) := by
  rw [toDevice, hq]
  dsimp only
  rw [if_neg (by rw [hheld, decide_eq_false hop]; decide), hdec]
  dsimp only
  rw [hgood]
  dsimp only
  rw [hrun]

theorem toDevice_of_cut {n : Nat} {bad : Bool} (hop : (HdmaD.of j.body).op ≠ 2)
    (hcut : linkGood link (HdmaD.of j.body).bytes = some (n, bad))
    (hrun : runOp (storeB off (h.hostRead (HdmaD.of j.body).host n)) { h with moved := 0 } = (.ok (), g)) :
    toDevice link e h = ((g.chargeMem (fnPart j.origin.fn)).hostMoved j (HdmaD.of j.body) n).linkFail e j
      (HdmaD.of j.body) bad := by
  rw [toDevice, hq]
  dsimp only
  rw [if_neg (by rw [hheld, decide_eq_false hop]; decide), hdec]
  dsimp only
  rw [hcut]
  dsimp only
  rw [hrun]

theorem toHost_of_good {bs : List Byte} (hop : (HdmaD.of j.body).op = 2)
    (hgood : linkGood link (HdmaD.of j.body).bytes = none)
    (hrun : runOp (loadB off (HdmaD.of j.body).bytes) { h with moved := 0 } = (.ok bs, g)) :
    toHost link e h = (((g.chargeMem (fnPart j.origin.fn)).hostWrite (HdmaD.of j.body).host bs).hostMoved j
      (HdmaD.of j.body) (HdmaD.of j.body).bytes).hdmaEnd e j (HdmaD.of j.body) (.ok ()) := by
  rw [toHost, hq]
  dsimp only
  rw [if_neg (by rw [hheld, hop]; decide), hdec]
  dsimp only
  rw [hgood]
  dsimp only
  rw [hrun]

end

/-- A moderated ring of a function with entries not told of tells of them once its delay has passed (R492). -/
theorem moderated {fn k n inten delay uns : Nat} (hfn : fn ≤ 8) (hk : k < n) (hint : inten ≠ 0) (hdelay : delay ≠ 0)
    (huns : uns ≠ 0) : ¬ (9 ≤ fn || inten = 0 || delay = 0 || uns = 0 || n ≤ k) = true := by
  simp only [Bool.or_eq_true, decide_eq_true_eq]
  omega

/-- Settles O45: a transfer by its direction and by what the link serves of it, the others by their condition. -/
theorem hostLinkAndTransfers : Obligations.HostLinkAndTransfers := by
  refine ⟨fun s j rest link off _ hq hheld hdec => ⟨fun hop hgood => ?_, fun hop hgood => ?_, fun n bad h hop hcut hrun =>
    onHw_to (toDevice_of_cut hq hheld hdec hop hcut hrun)⟩, fun s hs => ⟨fun fn k hfn hk => ?_, fun fn k hfn hk => ?_,
    fun fn v hserved hfn hv => ?_, fun page => onHw_keeps (f := Machine.atsInvalidation page) hs rfl rfl rfl,
    fun hup => onHw_to (if_pos hup), fun fn hup hfn => ?_, fun rate width hup hform => onHw_to (if_neg ?_)⟩⟩
  · intro run ends
    have hends : ∀ h, run = (.ok (), h) → ends h := fun h hrun =>
      onHw_to (toDevice_of_good hq hheld hdec hop hgood hrun)
    refine ⟨hends, fun hsound => ?_⟩
    obtain ⟨g, hrun, -⟩ := storeB_sound { s.hw with moved := 0 } hsound off
      (s.hw.hostRead (HdmaD.of j.body).host (HdmaD.of j.body).bytes)
    exact ⟨g, hrun, hends g hrun⟩
  · intro run ends
    have hends : ∀ bs h, run = (.ok bs, h) → ends bs h := fun bs h hrun =>
      onHw_to (toHost_of_good hq hheld hdec hop hgood hrun)
    refine ⟨hends, fun hsound => ?_⟩
    obtain ⟨g, hrun, -⟩ := loadB_sound { s.hw with moved := 0 } hsound off (HdmaD.of j.body).bytes
    exact ⟨g, hrun, hends _ g hrun⟩
  · intro b x hint hdelay huns
    exact onHw_to (if_neg (moderated hfn hk hint hdelay huns))
  · intro b x hint hdelay huns
    exact onHw_to (if_neg (moderated hfn hk hint hdelay huns))
  · exact onHw_to (if_pos (by rw [hserved, decide_eq_true hfn, decide_eq_true hv]; rfl))
  · have hreset : s.hw.resetFn s.env fn = s.hw.dropFns s.env (fun k => fn = 0 || k = fn) :=
      if_neg (by rw [hup, decide_eq_false (by omega)]; decide)
    exact ⟨onHw_to (f := fun e h => h.resetFn e fn) hreset, onHw_to (f := fun e h => h.resetFn e fn) hreset⟩
  · rw [hup, hform]
    decide

end Sys2Proof.Machine
end

section
/-! SUPPORT. Expert placement (R199 to R215): what reading a bank changes, and the fields of PLC_STATUS. -/

namespace Sys2Proof.Machine

/-- A table that is read changes counts and what records change, and notes a page map entry that fails (R365, R371,
R384, R522). -/
theorem Hw.readTable_eq (h : Hw) (a n src : Nat) : ∃ regs pages moved host io fault,
    h.readTable a n src =
      { h with regs := regs, pages := pages, moved := moved, host := host, io := io, mapFault := fault } ∧
    (h.badSites = [] → fault = h.mapFault) := by
  obtain ⟨fault, htouch, hfault⟩ : ∃ fault, ({ h with mapFault := fault } : Hw).counted (h.touch a n) ∧
      (h.badSites = [] → fault = h.mapFault) := by
    unfold Hw.touch
    split
    · exact ⟨_, .refl h, fun _ => rfl⟩
    · obtain ⟨fault, hlook, hfault⟩ : ∃ fault, h.lookUp a n = { h with mapFault := fault } ∧
          (h.badSites = [] → fault = h.mapFault) := by
        by_cases hsites : h.badSites = []
        · exact ⟨_, Hw.lookUp_of_noSites hsites a n, fun _ => rfl⟩
        · unfold Hw.lookUp
          split
          · exact ⟨_, rfl, fun _ => rfl⟩
          · exact ⟨_, rfl, fun h => absurd h hsites⟩
      dsimp only
      rw [hlook]
      exact ⟨fault, (Hw.counted_foldl _ (fun g _ => ⟨g.regs, _, g.moved, rfl⟩) _ _).trans ⟨_, _, _, rfl⟩, hfault⟩
  have hfail : ∀ (g : Hw) (w : Nat), ({ h with mapFault := fault } : Hw).counted g → ∃ regs pages moved host io fault,
      ((g.countUncorrected w).failDone 0 none src (.ecc w)).2 =
        { h with regs := regs, pages := pages, moved := moved, host := host, io := io, mapFault := fault } ∧
      (h.badSites = [] → fault = h.mapFault) := by
    intro g w hg
    obtain ⟨_, _, _, hk⟩ : ({ h with mapFault := fault } : Hw).counted (g.countUncorrected w) := by
      refine hg.trans ?_
      unfold Hw.countUncorrected
      split
      · exact g.incSat_counted _ _ _ _
      · dsimp only
        split <;> exact g.incSat_counted _ _ _ _
    obtain ⟨_, _, _, hr⟩ : (g.countUncorrected w).recorded ((g.countUncorrected w).failDone 0 none src (.ecc w)).2 := by
      unfold Hw.failDone
      dsimp only
      exact Hw.error_recorded _ _ _ _ _ _ _ _
    rw [hr, hk]
    exact ⟨_, _, _, _, _, _, rfl, hfault⟩
  unfold Hw.readTable
  extract_lets g mine k
  have hk : ({ h with mapFault := fault } : Hw).counted k :=
    htouch.trans (Hw.counted_foldl _ Hw.countCorrected_counted _ _)
  split
  · exact hfail k _ hk
  · exact hfail k _ hk
  · obtain ⟨_, _, _, hk⟩ := hk
    exact ⟨_, _, _, _, _, _, hk, hfault⟩

theorem Hw.plcReads_eq (h : Hw) (p bank err entry gen : Nat) : ∃ regs pages moved host io fault,
    h.plcReads p bank err entry gen =
      { h with regs := regs, pages := pages, moved := moved, host := host, io := io, mapFault := fault } ∧
    (h.badSites = [] → fault = h.mapFault) := by
  unfold Hw.plcReads
  dsimp only
  split
  · exact ⟨_, _, _, _, _, _, rfl, fun _ => rfl⟩
  · exact h.readTable_eq _ _ _

theorem Hw.plcReads_now (h : Hw) (p bank err entry gen : Nat) : (h.plcReads p bank err entry gen).now = h.now := by
  obtain ⟨_, _, _, _, _, _, hreads, -⟩ := h.plcReads_eq p bank err entry gen
  rw [hreads]

theorem Hw.rf_setPlc (h : Hw) (p : Nat) (x : Plc) (f : FieldRef) (b i : Nat) : (h.setPlc p x).rf f b i = h.rf f b i := rfl

theorem Hw.plcOf_setPlc (h : Hw) (p : Nat) (x : Plc) : (h.setPlc p x).plcOf p = x := SMap.get_put_self _ _ _ _

/-- Settles O21: VERIFY and END by what they store, the end of a verify by what it found. -/
theorem placementVerifyLoadsTheShadow : Obligations.PlacementVerifyLoadsTheShadow := by
  intro s p hs hp x
  refine ⟨fun bank hbank => ?_, fun bank entry gen set hbank hx hverify hheld hsites => ?_,
    fun bank err entry gen set hx hverify herr => onHw_to ?_, onHw_keeps hs (if_pos hp) rfl rfl⟩
  · refine ⟨_, onHw_keeps hs (if_pos (by rw [decide_eq_true hp, decide_eq_true hbank]; rfl)) rfl rfl,
      Hw.plcOf_setPlc _ _ _, ?_, ?_, rfl⟩
    · simp (disch := decide) only [Hw.startVerify, Hw.rf_wf_field, Hw.rf_wf]
      rfl
    · simp (disch := decide) only [Hw.startVerify, Hw.rf_wf]
      rfl
  · obtain ⟨regs, pages, moved, host, io, fault, hreads, hfault⟩ := s.hw.plcReads_eq p bank 0 entry gen
    have hmean : verifyDone p s.env s.hw = (((((((s.hw.plcReads p bank 0 entry gen).wf Reg.plcStatusVerifyBusy pkgB p 0).wf
        Reg.plcStatusErr pkgB p 0).wf Reg.plcStatusErrEntry pkgB p entry).setPlc p
        { x with verify := none, shadow := set }).wf Reg.plcStatusShadowOk pkgB p 1).wf Reg.plcStatusShadowBank pkgB p bank) := by
      rw [verifyDone, show (s.hw.plcOf p).verify = some bank from hx]
      dsimp only
      rw [hverify]
      exact if_neg (by rw [hheld, Bool.and_false]; decide)
    rw [hreads] at hmean
    refine ⟨_, onHw_keeps hs hmean rfl (hfault hsites), Hw.plcOf_setPlc _ _ _, ?_, ?_, ?_, ?_⟩
    · simp (disch := decide) only [Hw.rf_wf_field, Hw.rf_setPlc, Hw.rf_wf]
      rfl
    · simp (disch := decide) only [Hw.rf_wf_field, Hw.rf_setPlc, Hw.rf_wf]
      rfl
    · simp (disch := decide) only [Hw.rf_wf_field, Hw.rf_wf]
      rfl
    · simp (disch := decide) only [Hw.rf_wf]
      exact Nat.mod_eq_of_lt hbank
  · rw [verifyDone, show (s.hw.plcOf p).verify = some bank from hx]
    dsimp only
    rw [hverify]
    dsimp only
    rw [if_neg (by rw [decide_eq_false herr, Bool.false_and]; decide), if_neg herr]
    exact congrArg (Hw.plcEvent _ p 1 bank err entry gen) (s.hw.plcReads_now p bank err entry gen)

end Sys2Proof.Machine
end

section
/-! SUPPORT. Groups: what the management processor and the agents do with them (R341 to R357). -/

namespace Sys2Proof.Machine

/-- The context of a set-up record is its low ten bits (R342). -/
theorem setupDown_ctx (f : Frame) : bits (pay f.payload 20 4) 9 0 = pay f.payload 20 4 % 1024 := by
  rw [bits_eq, pow_zero, Nat.div_one]
  rfl

/-- Settles O32: a command of the management processor by its waiting job, a record by its kind, a timeout by what waits. -/
theorem groupsAreSetUpReleasedOrTimedOut : Obligations.GroupsAreSetUpReleasedOrTimedOut := by
  refine ⟨fun s hs => ⟨fun j hj => onHw_to ?_, fun f h harr => ⟨fun hkind => onHw_to ?_, fun hkind => onHw_to ?_⟩,
    fun j hj => ?_⟩, fun s d _ hdie ht => ⟨fun r hr => onHw_to ?_, fun j rest hcolls hq hst hlo hhi => ?_⟩⟩
  · rw [setup, hj]
  · rw [setupUp, if_neg (by rw [hkind]; decide), harr]
  · rw [setupDown, if_neg (by rw [hkind]; decide), harr, setupDown_ctx]
  · intro d h1 h2 h3 h4 h5 hforeign hloaded
    refine onHw_keeps hs ?_ rfl rfl
    rw [groupRelease, hj]
    dsimp only
    rw [if_neg (by rw [hforeign]; decide), if_neg, if_neg (by rw [hloaded]; decide)]
    simp only [Bool.or_eq_true, decide_eq_true_eq]
    rintro ((((h | h) | h) | h) | h)
    exacts [h h1, h h2, h3 h, h h4, h h5]
  · rw [deCollTimeout, if_neg (by rw [hdie, decide_eq_false ht]; decide), hr, Nat.mul_comm _ 1000]
  · intro gkey h
    refine onHw_to ?_
    rw [deCollTimeout, if_neg (by rw [hdie, decide_eq_false ht]; decide), hcolls, hq, Nat.mul_comm _ 1000]
    exact if_pos (by rw [hst, decide_eq_true hlo, decide_eq_true hhi]; rfl)

end Sys2Proof.Machine
end

section
/-! SUPPORT. Control processors (R406 to R415): an instruction that issues runs its meaning, on memory and stores that its
fetch left as they were. -/

namespace Sys2Proof.Machine

/-! What a fetch and a turn change. -/

/-- Counts, the processors and the free values drawn may have changed; nothing else. -/
def Hw.turned (h g : Hw) : Prop :=
  ∃ regs pages moved cps free, g = { h with regs := regs, pages := pages, moved := moved, cps := cps, freeCount := free }

theorem Hw.turned.refl (h : Hw) : h.turned h := ⟨_, _, _, _, _, rfl⟩

theorem Hw.turned.trans {h g k : Hw} (hg : h.turned g) (hk : g.turned k) : h.turned k := by
  obtain ⟨_, _, _, _, _, rfl⟩ := hg
  obtain ⟨_, _, _, _, _, rfl⟩ := hk
  exact ⟨_, _, _, _, _, rfl⟩

theorem Hw.tallied.turned {h g : Hw} (hg : h.tallied g) : h.turned g := by
  obtain ⟨_, _, _, rfl⟩ := hg.counted
  exact ⟨_, _, _, _, _, rfl⟩

section
variable {h g : Hw} (hg : h.turned g)
include hg

theorem Hw.turned.sound (hs : h.sound) : g.sound := by obtain ⟨_, _, _, _, _, rfl⟩ := hg; exact hs
theorem Hw.turned.mem : g.mem = h.mem := by obtain ⟨_, _, _, _, _, rfl⟩ := hg; rfl
theorem Hw.turned.mirq : g.mirq = h.mirq := by obtain ⟨_, _, _, _, _, rfl⟩ := hg; rfl
theorem Hw.turned.mirrors : g.mirrors = h.mirrors := by obtain ⟨_, _, _, _, _, rfl⟩ := hg; rfl

end

theorem Hw.cpFill_turned (h : Hw) (d u off v : Nat) : h.turned (h.cpFill d u off v) := by
  unfold Hw.cpFill
  by_cases hfull : 16384 ≤ (h.cp d u).icache.length
  · simp only [hfull, decide_true, if_true]
    exact ⟨_, _, _, _, _, rfl⟩
  · simp only [hfull, decide_false, Bool.false_eq_true, if_false]
    exact ⟨_, _, _, _, _, rfl⟩

theorem Hw.cpTurn_turned (h : Hw) (d u t : Nat) : h.turned (h.cpTurn d u t) := by
  unfold Hw.cpTurn
  dsimp only
  split <;> exact ⟨_, _, _, _, _, rfl⟩

theorem Hw.cpCount_turned (h : Hw) (i : CpIns) (l : Loc) : h.turned (h.cpCount i l) := by
  unfold Hw.cpCount
  split <;> exact ⟨_, _, _, _, _, rfl⟩

theorem Hw.cpDone_turned (h : Hw) (i : CpIns) (x : CpThread) (pc : Nat) : h.turned (h.cpDone i x pc) := ⟨_, _, _, _, _, rfl⟩

theorem Hw.cpHalf_turned {h : Hw} (hs : h.sound) (e : Env) (d u a : Nat) : h.turned (h.cpHalf e d u a).2 := by
  unfold Hw.cpHalf
  split
  · next off _ =>
    split
    · exact .refl h
    · split
      · exact .refl h
      · obtain ⟨g, hrun, hg⟩ := (Reads.loadB hs off 2).run
        rw [hrun]
        exact hg.turned.trans (g.cpFill_turned d u off _)
  · exact .refl h
  · exact .refl h

theorem Hw.cpFetch_turned {h : Hw} (hs : h.sound) (e : Env) (d u pc : Nat) : h.turned (h.cpFetch e d u pc).2 := by
  have hlo := Hw.cpHalf_turned hs e d u pc
  unfold Hw.cpFetch
  rcases hx : h.cpHalf e d u pc with ⟨r, g⟩
  rw [hx] at hlo
  cases r with
  | error s => exact hlo
  | ok lo =>
    dsimp only
    split
    · exact hlo
    · have hhi := Hw.cpHalf_turned (hlo.sound hs) e d u (add64n pc 2)
      rcases hy : g.cpHalf e d u (add64n pc 2) with ⟨r, k⟩
      rw [hy] at hhi
      cases r with
      | error s => exact hlo.trans hhi
      | ok hi => exact hlo.trans hhi

/-! Instructions that issue. -/

theorem State.cpIssues.turned {s : State} {kind : CpClass} {i : CpIns} {h : Hw} (hi : s.cpIssues kind i h)
    (hs : s.hw.sound) : s.hw.turned h := by
  obtain ⟨-, -, -, -, -, ⟨g, hfetch, rfl⟩, -⟩ := hi
  have hg := Hw.cpFetch_turned hs s.env i.die i.unit i.pc
  rw [hfetch] at hg
  exact hg.trans (g.cpTurn_turned _ _ _)

/-- The command of the class of the instruction in hand: its meaning, or the stop of a thread whose file fails (R411). -/
theorem cpStep_of_issues {s : State} {kind : CpClass} {i : CpIns} {h : Hw} (hi : s.cpIssues kind i h)
    (f : Env → CpIns → Hw → Hw) : cpStep i.die i.unit i.t kind f s.env s.hw =
      if h.badSites.contains (.file i.die i.unit i.t) then h.cpFileFail i.die i.unit i.t else f s.env i h := by
  obtain ⟨hdie, hlo, hhi, hissuer, hpc, ⟨g, hfetch, rfl⟩, hx, hclass, hfailed⟩ := hi
  obtain ⟨d, u, t, pc, len, w, x⟩ := i
  dsimp only at *
  have hthread : ((g.cpTurn d u t).thread d u t).failed = none := hx ▸ hfailed
  have hpc' : s.hw.rf Reg.cpPcPc (cpB d u) t = pc := hpc.symm
  unfold cpStep
  rw [if_neg (by simp [hdie, hissuer, Nat.not_lt.2 hlo, Nat.not_lt.2 hhi])]
  dsimp only
  rw [hpc', hfetch]
  dsimp only
  rw [if_neg (not_not.2 hclass), hthread, hx]

theorem onHw_cp {s : State} {kind : CpClass} {i : CpIns} {h g : Hw} {f : Env → CpIns → Hw → Hw} (hr : s.cpRuns kind i h)
    (hf : f s.env i h = g) : onHw (cpStep i.die i.unit i.t kind f) s = .next (s.hwTo g) := by
  obtain ⟨hi, hsite⟩ := hr
  exact onHw_to ((cpStep_of_issues hi f).trans ((if_neg (by rw [hsite]; decide)).trans hf))

/-- An operation at this node that succeeds is charged to the thread's partition, and the instruction goes on. -/
theorem Hw.cpRun_ok {α : Type} {h h0 h1 : Hw} {i : CpIns} {m : Op α} {v : α} {bad : Hw → Nat → Hw} {k : Hw → α → Hw}
    (hrun : runOp m { h with moved := 0 } = (.ok v, h1)) : h.cpRun h0 i m bad k = k (h1.chargeMem (h.partOf i.die)) v := by
  unfold Hw.cpRun
  dsimp only
  rw [hrun]

/-- The own thread's load of sound stores, as its instruction finds them. -/
theorem State.cpRuns.reads {s : State} {kind : CpClass} {i : CpIns} {h g : Hw} (hr : s.cpRuns kind i h) (hg : h.turned g)
    (hs : s.hw.sound) (a n : Nat) : ∃ h1, runOp (loadB a n) { g with moved := 0 } = (.ok (Mem.read s.hw.mem a n), h1) := by
  have hturned : s.hw.turned { g with moved := 0 } := (hr.1.turned hs).trans (hg.trans ⟨_, _, _, _, _, rfl⟩)
  obtain ⟨h1, hrun, -⟩ := loadB_sound _ (hturned.sound hs) a n
  exact ⟨h1, hturned.mem ▸ hrun⟩

theorem State.cpRuns.readsN {s : State} {kind : CpClass} {i : CpIns} {h g : Hw} (hr : s.cpRuns kind i h) (hg : h.turned g)
    (hs : s.hw.sound) (a n : Nat) : ∃ h1, runOp (loadN a n) { g with moved := 0 } = (.ok (Mem.num s.hw.mem a n), h1) := by
  obtain ⟨h1, hrun⟩ := hr.reads hg hs a n
  exact ⟨h1, runOp_bind _ _ _ _ _ hrun _ _ (runOp_pure _ _)⟩

/-! KWAITF and KPOST. -/

section
variable {e : Env} {i : CpIns} {h h1 : Hw} {off : Nat} (hown : spDie off = some i.die)
include hown

/-- A KWAITF whose flag has been read goes on with its COUNT, or waits (R414). -/
theorem cpKwaitf_of_read {v : Nat} (hplace : h.resolve e false (i.x.rx (rvRs1 i.w)) 8 = .ok (.here off)) (hal : off % 8 = 0)
    (hrun : runOp (loadN off 8) { h with moved := 0 } = (.ok v, h1)) : cpKwaitf e i h =
      if bits v 31 0 = i.x.rx (rvRs2 i.w) % 2 ^ 32 then
        (h1.chargeMem (h.partOf i.die)).cpDone i (i.x.wx (rvRd i.w) (bits v 63 32)) i.next
      else (((h1.chargeMem (h.partOf i.die)).wf Reg.cpPcPc (cpB i.die i.unit) i.t i.next).cpWait i
        (.flag (rvRd i.w) off (i.x.rx (rvRs2 i.w) % 2 ^ 32) (h1.chargeMem (h.partOf i.die)).now i.pc)) := by
  unfold cpKwaitf
  dsimp only
  rw [hplace]
  dsimp only
  rw [if_neg (by simp [hal, hown])]
  exact Hw.cpRun_ok hrun

/-- A KPOST whose descriptor has been read answers by its target and by the room there and in the ring (R415). -/
theorem cpKpost_of_read {bs : List Byte} (hslots : h.slotsFull i = false)
    (hplace : h.resolve e false (i.x.rx (rvRs1 i.w)) 128 = .ok (.here off)) (hal : off % 64 = 0)
    (hrun : runOp (loadB off 128) { h with moved := 0 } = (.ok bs, h1)) :
    let g := h1.chargeMem (h.partOf i.die)
    let v := i.x.rx (rvRs2 i.w)
    let c := v % 2 ^ 32
    let gives (n : Nat) : Hw := g.cpDone i (i.x.wx (rvRd i.w) n) i.next
    cpKpost e i h = if !(g.kpostTarget e i.die c) then gives 2
      else if !(g.targetRoom (cDie c) (cUnit c) (bs.headD 0).toNat) || !(g.kpostRoom i.die i.unit) then gives 1
      else (gives 0).kpostGo i c (v / 2 ^ 32) bs := by
  unfold cpKpost
  dsimp only
  rw [if_neg (by rw [hslots]; decide), hplace]
  dsimp only
  rw [if_neg (by simp [hal, hown])]
  exact Hw.cpRun_ok hrun

end

/-- Settles O37: each instruction by what it computes, reads, or finds failing. -/
theorem controlProcessorsComputeWaitAndPost : Obligations.ControlProcessorsComputeWaitAndPost := by
  refine ⟨fun s i h _ => ⟨fun x pc hr hop hcomp => onHw_cp hr ?_, fun hr => onHw_cp hr rfl, fun hr => onHw_cp hr rfl,
    fun hr => onHw_cp hr rfl, ?_⟩, fun s i h _ => ⟨?_, ?_⟩⟩
  · have hne : ∀ w, rvOp w = 0x73 → i.w ≠ w := fun w hw he => hop (he ▸ hw)
    rw [cpOther, if_neg (hne _ (by decide)), if_neg (hne _ (by decide)), if_neg (hne _ (by decide)),
      if_neg (by rw [decide_eq_false hop, Bool.false_and]; decide), hcomp]
  · intro d u t
    have hstop : ∀ kind f, s.cpIssues kind i h → h.badSites.contains (.file d u t) = true →
        onHw (cpStep d u t kind f) s = .next (s.hwTo (h.cpFileFail d u t)) := fun kind f hi hbad =>
      onHw_to ((cpStep_of_issues hi f).trans (if_pos hbad))
    simp only [List.forall_mem_cons, List.not_mem_nil, false_imp_iff, implies_true, and_true]
    exact ⟨hstop _ _, hstop _ _, hstop _ _, hstop _ _, hstop _ _, hstop _ _, hstop _ _, hstop _ _, hstop _ _, hstop _ _,
      hstop _ _, hstop _ _, hstop _ _, hstop _ _⟩
  · intro hr tag off hplace hal hown run did
    have hdid : ∀ v h1, run = (.ok v, h1) → did v h1 := fun v h1 hrun =>
      ⟨fun htag => onHw_cp hr ((cpKwaitf_of_read hown hplace hal hrun).trans (if_pos htag)),
        fun htag => onHw_cp hr ((cpKwaitf_of_read hown hplace hal hrun).trans (if_neg htag))⟩
    refine ⟨hdid, fun hs => ?_⟩
    obtain ⟨h1, hrun⟩ := hr.readsN (.refl h) hs off 8
    exact ⟨h1, hrun, hdid _ h1 hrun⟩
  · intro hr v c off hslots hplace hal hown run did
    have hdid : ∀ bs h1, run = (.ok bs, h1) → did bs h1 := by
      intro bs h1 hrun
      have hmean := cpKpost_of_read (e := s.env) hown hslots hplace hal hrun
      refine ⟨fun ht => onHw_cp hr (hmean.trans (if_pos (by rw [ht]; rfl))), fun ht hroom => onHw_cp hr (hmean.trans
        ((if_neg (by rw [ht]; decide)).trans (if_pos ?_))), fun ht hroom hring => onHw_cp hr (hmean.trans
        ((if_neg (by rw [ht]; decide)).trans (if_neg ?_)))⟩
      · rw [Bool.or_eq_true, Bool.not_eq_true', Bool.not_eq_true']
        exact hroom
      · rw [Bool.or_eq_true, Bool.not_eq_true', Bool.not_eq_true', not_or, Bool.not_eq_false, Bool.not_eq_false]
        exact ⟨hroom, hring⟩
    refine ⟨hdid, fun hs => ?_⟩
    obtain ⟨h1, hrun⟩ := hr.reads (.refl h) hs off 128
    exact ⟨h1, hrun, hdid _ h1 hrun⟩

/-! Atomics on sound stores (R392, R400). -/

theorem Hw.grainBad_of_sound {h : Hw} (hs : h.sound) (a n : Nat) : h.grainBad a n = none := by
  obtain ⟨hbad, hlines, -, -⟩ := hs
  simp [Hw.grainBad, Hw.lineBad, hbad, hlines, List.find?_eq_none.2]

/-- An ATOMIC on sound stores answers the old value of its first element. -/
theorem atomicApply_sound {h : Hw} (hs : h.sound) (aop afmt off : Nat) (v : Nat) (ops : List Nat) (b : Nat) :
    ∃ g, runOp (atomicApply aop afmt off (v :: ops) b) h = (.ok (Mem.num h.mem off (afmtBytes afmt)), g) ∧ g.sound ∧
      h.accessed g := by
  obtain ⟨g, hread, hg⟩ := (Reads.loadB hs off (afmtBytes afmt * (v :: ops).length)).run
  have hgs := hg.counted.sound hs
  have hnone : ∀ l : List Nat, l.findSome? (fun x => if off ≤ x && x + grainOf off ≤ off + afmtBytes afmt * (v :: ops).length
      then none else g.grainBad x (grainOf off)) = none := by
    intro l
    refine List.findSome?_eq_none_iff.2 fun x _ => ?_
    split
    · rfl
    · exact Hw.grainBad_of_sound hgs _ _
  have hold : ((upto (v :: ops).length).map (fun i => ofBytes (((Mem.read h.mem off (afmtBytes afmt * (v :: ops).length)).drop
      (afmtBytes afmt * i)).take (afmtBytes afmt)))).headD 0 = Mem.num h.mem off (afmtBytes afmt) := by
    rw [upto, List.length_cons, List.range_succ_eq_map, List.map_cons, List.headD_cons, Nat.mul_zero,
      Mem.read_slice _ _ _ _ _ (by rw [Nat.mul_succ]; omega)]
    rfl
  unfold atomicApply
  dsimp only
  obtain ⟨_, k, hstore, hk, hacc, -⟩ := Completes.storeB off
    ((((upto (v :: ops).length).map (fun i => ofBytes (((Mem.read h.mem off (afmtBytes afmt * (v :: ops).length)).drop
      (afmtBytes afmt * i)).take (afmtBytes afmt)))).zip (v :: ops)).flatMap (fun (x : Nat × Nat) =>
        toBytes (afmtBytes afmt) (atomicNew aop afmt x.1 (x.2 % 2 ^ (8 * afmtBytes afmt)) (b % 2 ^ (8 * afmtBytes afmt)))))
    g hgs
  refine ⟨k, runOp_bind _ _ _ _ _ hread _ _ (runOp_bind _ _ _ _ _ (show runOp get g = (.ok g, g) from rfl) _ _ ?_), hk,
    hg.accessed.trans hacc⟩
  rw [hnone, hold]
  exact runOp_bind _ _ _ _ _ hstore _ _ (runOp_pure _ _)

/-! Memory accesses. -/

section
variable {s : State} {i : CpIns} {h h1 : Hw} {off : Nat}

/-- An own thread's write of sound stores, as its instruction finds them. -/
theorem State.cpRuns.stores {kind : CpClass} {g : Hw} (hr : s.cpRuns kind i h) (hg : h.turned g) (hs : s.hw.sound)
    (a n v : Nat) : ∃ h1, runOp (storeN a n v) { g with moved := 0 } = (.ok (), h1) := by
  have hturned : s.hw.turned { g with moved := 0 } := (hr.1.turned hs).trans (hg.trans ⟨_, _, _, _, _, rfl⟩)
  obtain ⟨h1, hrun, -⟩ := storeB_sound _ (hturned.sound hs) a (toBytes n v)
  exact ⟨h1, hrun⟩

theorem Hw.accessed.mirq {h g : Hw} (hg : h.accessed g) (hm : h.mirrors = []) : g.mirq = h.mirq := by
  obtain ⟨_, _, _, _, _, _, _, _, _, rfl, -, hmirq⟩ := hg
  exact hmirq hm

/-- An own thread's atomic of sound stores without mirrors. -/
theorem State.cpRuns.atomic {kind : CpClass} {g : Hw} (hsealed : s.sealed) (hr : s.cpRuns kind i h) (hg : h.turned g)
    (hs : s.hw.sound) (hmir : s.hw.mirrors = []) (aop afmt off v : Nat) :
    ∃ h1, runOp (atomicApply aop afmt off [v] 0) { g with moved := 0 } = (.ok (Mem.num s.hw.mem off (afmtBytes afmt)), h1) ∧
      h1.mirq = [] := by
  have hturned : s.hw.turned { g with moved := 0 } := (hr.1.turned hs).trans (hg.trans ⟨_, _, _, _, _, rfl⟩)
  obtain ⟨h1, hrun, -, hacc⟩ := atomicApply_sound (hturned.sound hs) aop afmt off v [] 0
  have hold := congrArg (fun m => ((.ok (Mem.num m off (afmtBytes afmt)), h1) : Except Fail Nat × Hw)) hturned.mem
  exact ⟨h1, hrun.trans hold, (hacc.mirq (hturned.mirrors.trans hmir)).trans (hturned.mirq.trans hsealed.1)⟩

end

section
variable {e : Env} {i : CpIns} {h h1 : Hw} {off : Nat}

theorem cpLoad_here {v : Nat}
    (hplace : h.cpPlace e i.die (add64n (i.x.rx (rvRs1 i.w)) (immI i.w)) (loadKind i.w).1 = .ok (.ok (.here off)))
    (hline : h.lineBusy i (.here off) = none)
    (hrun : runOp (loadN off (loadKind i.w).1) { h.cpCount i (.here off) with moved := 0 } = (.ok v, h1)) :
    cpLoad e i h = (((h1.chargeMem ((h.cpCount i (.here off)).partOf i.die)).cpDone i
      (i.x.take (loadKind i.w).2 (rvRd i.w) v) i.next).cpOver i.die i.unit) := by
  unfold cpLoad
  rcases hk : loadKind i.w with ⟨n, kind⟩
  rw [hk] at hplace hrun
  dsimp only at hplace hrun ⊢
  rw [hplace]
  dsimp only
  rw [hline]
  exact Hw.cpRun_ok hrun

theorem cpLoad_regs {place : Nat}
    (hplace : h.cpPlace e i.die (add64n (i.x.rx (rvRs1 i.w)) (immI i.w)) (loadKind i.w).1 = .ok (.ok (.regs place))) :
    cpLoad e i h = ((((h.cpCount i (.regs place)).busRead e place (loadKind i.w).1).2.cpDone i (i.x.take (loadKind i.w).2
      (rvRd i.w) ((h.cpCount i (.regs place)).busRead e place (loadKind i.w).1).1) i.next).cpOver i.die i.unit) := by
  unfold cpLoad
  rcases hk : loadKind i.w with ⟨n, kind⟩
  rw [hk] at hplace
  dsimp only at hplace ⊢
  rw [hplace]
  rfl

theorem cpLoad_there {node : Nat}
    (hplace : h.cpPlace e i.die (add64n (i.x.rx (rvRs1 i.w)) (immI i.w)) (loadKind i.w).1 = .ok (.ok (.there node off)))
    (hline : h.lineBusy i (.there node off) = none) :
    let g := h.cpCount i (.there node off)
    let n := (loadKind i.w).1
    cpLoad e i h = (g.issue (i.owner (rvRd i.w) (loadKind i.w).2 (add64n (i.x.rx (rvRs1 i.w)) (immI i.w)))
      (g.coord i.die i.unit) (g.partOf i.die) 6 node off n false (fun id => reqPreamble id n 0 0 0 0 0 0 0)).cpAwait i := by
  unfold cpLoad
  rcases hk : loadKind i.w with ⟨n, kind⟩
  rw [hk] at hplace
  dsimp only at hplace ⊢
  rw [hplace]
  dsimp only
  rw [hline]

theorem cpStore_here {v : Nat} (hslots : h.slotsFull i = false)
    (hv : (if rvOp i.w = 0x27 then i.x.rf (rvRs2 i.w) else i.x.rx (rvRs2 i.w)) % 2 ^ (8 * 2 ^ rvF3 i.w) = v)
    (hplace : h.cpPlace e i.die (add64n (i.x.rx (rvRs1 i.w)) (immS i.w)) (2 ^ rvF3 i.w) = .ok (.ok (.here off)))
    (hline : h.lineBusy i (.here off) = none)
    (hrun : runOp (storeN off (2 ^ rvF3 i.w) v) { (h.cpCount i (.here off)).cpDone i i.x i.next with moved := 0 } = (.ok (), h1)) :
    cpStore e i h = (h1.chargeMem (((h.cpCount i (.here off)).cpDone i i.x i.next).partOf i.die)).cpMirror i 0
      (add64n (i.x.rx (rvRs1 i.w)) (immS i.w)) := by
  unfold cpStore
  dsimp only
  rw [hplace, hv]
  dsimp only
  rw [hline]
  dsimp only
  rw [if_neg (by rw [hslots]; decide)]
  exact Hw.cpRun_ok hrun

theorem cpStore_regs {place v : Nat} (hslots : h.slotsFull i = false)
    (hv : (if rvOp i.w = 0x27 then i.x.rf (rvRs2 i.w) else i.x.rx (rvRs2 i.w)) % 2 ^ (8 * 2 ^ rvF3 i.w) = v)
    (hplace : h.cpPlace e i.die (add64n (i.x.rx (rvRs1 i.w)) (immS i.w)) (2 ^ rvF3 i.w) = .ok (.ok (.regs place))) :
    cpStore e i h = ((h.cpCount i (.regs place)).cpDone i i.x i.next).busWrite e place (2 ^ rvF3 i.w) v := by
  unfold cpStore
  dsimp only
  rw [hplace, hv]
  exact if_neg (by rw [hslots]; decide)

/-- An AMO that has read and written its word (R410). -/
theorem cpAmo_here {old : Nat}
    (hplace : h.cpPlace e i.die (i.x.rx (rvRs1 i.w)) (afmtBytes (rvF3 i.w - 2)) = .ok (.ok (.here off)))
    (hline : h.lineBusy i (.here off) = none) (hslots : rvRd i.w = 0 → h.slotsFull i = false)
    (hrun : runOp (atomicApply ((amoOp (bits i.w 31 27)).getD 1) (rvF3 i.w - 2) off
      [i.x.rx (rvRs2 i.w) % 2 ^ (8 * afmtBytes (rvF3 i.w - 2))] 0) { h.cpCount i (.here off) with moved := 0 } = (.ok old, h1))
    (hmirq : h1.mirq = []) :
    let g := h1.chargeMem ((h.cpCount i (.here off)).partOf i.die)
    cpAmo e i h = if rvRd i.w = 0 then g.cpDone i (i.x.take 0 0 old) i.next
      else (g.cpDone i (i.x.take (10 + (rvF3 i.w - 2)) (rvRd i.w) old) i.next).cpOver i.die i.unit := by
  intro g
  have hg : g.mirq = [] := by
    unfold g Hw.chargeMem
    split <;> exact hmirq
  unfold cpAmo
  dsimp only
  rw [hplace]
  dsimp only
  rw [hline]
  dsimp only
  rw [if_neg (by rw [Bool.and_eq_true, decide_eq_true_eq]; rintro ⟨h0, hfull⟩; rw [hslots h0] at hfull; cases hfull)]
  refine (Hw.cpRun_ok hrun).trans ?_
  by_cases hrd : rvRd i.w = 0
  · simp only [hrd, if_true]
    exact if_pos (show (g.cpDone i (i.x.take 0 0 old) i.next).mirq.isEmpty = true by rw [(g.cpDone_turned i _ _).mirq, hg]; rfl)
  · simp only [hrd, if_false]
    exact if_pos (show g.mirq.isEmpty = true by rw [hg]; rfl)

/-- A KAMOFADD outside deterministic mode that has added (R413). -/
theorem kamofadd_here {afmt old : Nat} (hdet : e.tl.det = false)
    (hplace : h.cpPlace e i.die (i.x.rx (rvRs1 i.w)) (afmtBytes afmt) = .ok (.ok (.here off)))
    (hline : h.lineBusy i (.here off) = none) (hslots : h.slotsFull i = false)
    (hrun : runOp (atomicApply 0x10 afmt off [i.x.rx (rvRs2 i.w) % 2 ^ (8 * afmtBytes afmt)] 0)
      { (h.cpCount i (.here off)).cpDone i i.x i.next with moved := 0 } = (.ok old, h1)) (hmirq : h1.mirq = []) :
    kamofadd afmt e i h =
      ((h1.chargeMem (((h.cpCount i (.here off)).cpDone i i.x i.next).partOf i.die)).takeTseq i.die i.unit i.t).2 := by
  have hg : ((h1.chargeMem (((h.cpCount i (.here off)).cpDone i i.x i.next).partOf i.die)).takeTseq i.die i.unit i.t).2.mirq =
      [] := by
    unfold Hw.takeTseq Hw.chargeMem
    split <;> exact hmirq
  unfold kamofadd
  dsimp only
  rw [hplace]
  dsimp only
  rw [hline]
  dsimp only
  rw [if_neg (by rw [hslots]; decide), if_neg (by rw [hdet]; decide)]
  exact (Hw.cpRun_ok hrun).trans (if_pos (by rw [hg]; rfl))

theorem cpLr_of_word {v : Nat}
    (hword : h.cpOwnWord e i.die (i.x.rx (rvRs1 i.w)) (if rvF3 i.w = 2 then 4 else 8) = .ok off)
    (hrun : runOp (loadN off (if rvF3 i.w = 2 then 4 else 8)) { h with moved := 0 } = (.ok v, h1)) :
    let g := h1.chargeMem (h.partOf i.die)
    cpLr e i h = ((Hw.cpDone { g with
      reservations := SMap.put g.reservations (threadKey i.die i.unit i.t) (off / 8 * 8) } i
        (i.x.take (if (if rvF3 i.w = 2 then 4 else 8) = 4 then 3 else 4) (rvRd i.w) v) i.next).cpOver i.die i.unit) := by
  unfold cpLr
  dsimp only
  rw [hword]
  exact Hw.cpRun_ok hrun

/-- An SC whose word the thread has reserved stores; another does not (R410). -/
theorem cpSc_of_word
    (hword : h.cpOwnWord e i.die (i.x.rx (rvRs1 i.w)) (if rvF3 i.w = 2 then 4 else 8) = .ok off) :
    let n := if rvF3 i.w = 2 then 4 else 8
    let key := threadKey i.die i.unit i.t
    let g := { h with reservations := SMap.del h.reservations key }
    let ends (g : Hw) (v : Nat) : Hw := (g.cpDone i (i.x.wx (rvRd i.w) v) i.next).cpOver i.die i.unit
    cpSc e i h = if SMap.find? h.reservations key = some (off / 8 * 8) then
      g.cpRun h i (storeN off n (i.x.rx (rvRs2 i.w) % 2 ^ (8 * n))) (fun g c => g.cpStop i (5, c, i.x.rx (rvRs1 i.w)))
        (fun g _ => ends g 0)
      else ends g 1 := by
  unfold cpSc
  dsimp only
  rw [hword]

end

/-- Settles O36: each access by where its address leads, and by what the thread has outstanding. -/
theorem controlProcessorsReachMemory : Obligations.ControlProcessorsReachMemory := by
  refine ⟨fun s i h _ => ⟨?_, ?_, ?_⟩, fun s i h hsealed => ⟨?_, ?_, ?_, ?_⟩⟩
  · intro hr a n got
    refine ⟨?_, fun place hplace => onHw_cp hr (cpLoad_regs hplace),
      fun node off hplace hline => onHw_cp hr (cpLoad_there hplace hline)⟩
    intro off hplace hline g run
    have hgot : ∀ v h1, run = (.ok v, h1) → got (h1.chargeMem (g.partOf i.die)) v := fun v h1 hrun =>
      onHw_cp hr (cpLoad_here hplace hline hrun)
    refine ⟨hgot, fun hs => ?_⟩
    obtain ⟨h1, hrun⟩ := hr.readsN (h.cpCount_turned i (.here off)) hs off n
    exact ⟨h1, hrun, hgot _ h1 hrun⟩
  · intro hr a n v hslots
    refine ⟨?_, fun place hplace => onHw_cp hr (cpStore_regs hslots rfl hplace)⟩
    intro off hplace hline g run put
    have hput : ∀ h1, run = (.ok (), h1) → put h1 := fun h1 hrun =>
      onHw_cp hr (cpStore_here hslots rfl hplace hline hrun)
    refine ⟨hput, fun hs => ?_⟩
    obtain ⟨h1, hrun⟩ := hr.stores ((h.cpCount_turned i (.here off)).trans (Hw.cpDone_turned _ i i.x i.next)) hs off n v
    exact ⟨h1, hrun, hput h1 hrun⟩
  · intro hr
    exact ⟨fun hout => onHw_cp hr (if_pos (List.isEmpty_iff.2 hout)),
      fun hout => onHw_cp hr (if_neg (fun he => hout (List.isEmpty_iff.1 he)))⟩
  · intro hr afmt n off hplace hline hslots g run did
    have hdid : ∀ old h1, run = (.ok old, h1) → h1.mirq = [] → did old h1 := by
      intro old h1 hrun hmirq
      have hmean := cpAmo_here (e := s.env) hplace hline hslots hrun hmirq
      exact ⟨fun hrd => onHw_cp hr (hmean.trans (if_neg hrd)), fun hrd => onHw_cp hr (hmean.trans (if_pos hrd))⟩
    refine ⟨hdid, fun ⟨hs, hmir⟩ => ?_⟩
    obtain ⟨h1, hrun, hmirq⟩ := hr.atomic hsealed (h.cpCount_turned i (.here off)) hs hmir
      ((amoOp (bits i.w 31 27)).getD 1) afmt off (i.x.rx (rvRs2 i.w) % 2 ^ (8 * n))
    exact ⟨h1, hrun, hdid _ h1 hrun hmirq⟩
  · intro hr n off hword run did
    have hdid : ∀ v h1, run = (.ok v, h1) → did v h1 := fun v h1 hrun => onHw_cp hr (cpLr_of_word hword hrun)
    refine ⟨hdid, fun hs => ?_⟩
    obtain ⟨h1, hrun⟩ := hr.readsN (.refl h) hs off n
    exact ⟨h1, hrun, hdid _ h1 hrun⟩
  · intro hr n key g ends off hword
    have hmean := cpSc_of_word hword
    refine ⟨fun hno => onHw_cp hr (hmean.trans (if_neg hno)), ?_⟩
    intro hyes run
    have hends : ∀ h1, run = (.ok (), h1) → ends (h1.chargeMem (h.partOf i.die)) 0 := fun h1 hrun =>
      onHw_cp hr (hmean.trans ((if_pos hyes).trans (Hw.cpRun_ok hrun)))
    refine ⟨hends, fun hs => ?_⟩
    obtain ⟨h1, hrun, -⟩ := storeB_sound { g with moved := 0 } ((hr.1.turned hs).sound hs) off
      (toBytes n (i.x.rx (rvRs2 i.w) % 2 ^ (8 * n)))
    exact ⟨h1, hrun, hends h1 hrun⟩
  · intro afmt off hdet hkadd hplace hline hslots g run did
    have hdid : ∀ old h1, run = (.ok old, h1) → h1.mirq = [] → did h1 := by
      intro old h1 hrun hmirq
      have hmean := kamofadd_here (e := s.env) hdet hplace hline hslots hrun hmirq
      rcases hkadd with ⟨hr, rfl⟩ | ⟨hr, rfl⟩
      · exact ⟨fun _ => onHw_cp hr hmean, fun h => absurd h (by decide)⟩
      · exact ⟨fun h => absurd h (by decide), fun _ => onHw_cp hr hmean⟩
    refine ⟨hdid, fun ⟨hs, hmir⟩ => ?_⟩
    have hg := (h.cpCount_turned i (.here off)).trans (Hw.cpDone_turned _ i i.x i.next)
    obtain ⟨h1, hrun, hmirq⟩ : ∃ h1, run = (.ok (Mem.num s.hw.mem off (afmtBytes afmt)), h1) ∧ h1.mirq = [] := by
      rcases hkadd with ⟨hr, -⟩ | ⟨hr, -⟩ <;> exact hr.atomic hsealed hg hs hmir 0x10 afmt off _
    exact ⟨_, h1, hrun, hdid _ h1 hrun hmirq⟩

end Sys2Proof.Machine
end

section
/-! SUPPORT. Requests of other nodes (R391 to R403): a region table that is read passes its home front end, which counts
its lines toward their pages and its bytes toward the operation in hand. -/

namespace Sys2Proof.Machine

/-- What the reading of a region table leaves, but for the table itself, is what the read of its words leaves. -/
theorem regionTableLoaded_moved {d : Nat} {e : Env} {h : Hw} (hlo : 24 ≤ d) (hhi : d < 28)
    (hload : h.rf Reg.rgnStatusLoading pkgB ≠ 0) (hnext : SMap.find? h.rgnNext d = none) :
    let g := h.readTable (bits h.rgnTblWord 47 16 * 65536) 65536 (h.coord d 8)
    (regionTableLoaded d e h).moved = g.moved ∧ (regionTableLoaded d e h).mirq = g.mirq ∧
      (regionTableLoaded d e h).mapFault = g.mapFault := by
  intro g
  unfold regionTableLoaded
  rw [if_neg (by simp [hload, hnext, Nat.not_lt.2 hlo, Nat.not_le.2 hhi])]
  dsimp only
  split <;> exact ⟨rfl, rfl, rfl⟩

/-- The package after power-on, told to read a region table. -/
def hwRegionLoad : Hw := State.reset.hw.wf Reg.rgnStatusLoading pkgB 0 1

theorem hwRegionLoad_reads : hwRegionLoad.rf Reg.rgnStatusLoading pkgB = 1 ∧ SMap.find? hwRegionLoad.rgnNext 24 = none ∧
    hwRegionLoad.mirq = [] ∧ hwRegionLoad.mapFault = none ∧
    (let g := hwRegionLoad.readTable (bits hwRegionLoad.rgnTblWord 47 16 * 65536) 65536 (hwRegionLoad.coord 24 8)
     g.moved = hwRegionLoad.moved + 65536 ∧ g.mirq = [] ∧ g.mapFault = none) := by
  decide +kernel

/-- After the read the bytes moved are more than before it. -/
theorem hwRegionLoad_step {s : State} (hs : s.hw = hwRegionLoad) {g : Hw} (hmirq : g.mirq = []) (hfault : g.mapFault = none)
    (hmoved : g.moved = hwRegionLoad.moved) : exec (.regionTableLoaded 24) s ≠ .next (s.hwTo g) := by
  obtain ⟨hload, hnext, -, -, hmore, hmirq', hfault'⟩ := hwRegionLoad_reads
  obtain ⟨hm, hq, hf⟩ := regionTableLoaded_moved (d := 24) (e := s.env) (by decide) (by decide) (by rw [hload]; decide) hnext
  intro hstep
  have hseal := congrArg (fun t : State => t.hw.moved)
    (Host.Outcome.next.inj (show Host.Outcome.next (s.hwTo (regionTableLoaded 24 s.env s.hw)) = .next (s.hwTo g) from hstep))
  simp only [State.hwTo_hw, hs] at hseal
  rw [Hw.seal_of_nil _ (hq.trans hmirq') (hf.trans hfault'), Hw.seal_of_nil _ hmirq hfault, hm, hmore, hmoved] at hseal
  omega

/-- Refutes O35: its last clause gives the state after a region table has been read as the one before with the table
noted. Where the first engine reads its table, the model also moves the table's 65,536 bytes through the home front end,
which counts them (R371, R397, R453). -/
theorem not_remoteRequestsAreCarriedOut : ¬ Obligations.RemoteRequestsAreCarriedOut := by
  intro hall
  obtain ⟨-, -, -, hlast⟩ := hall
  obtain ⟨hload, hnext, hmirq, hfault, -⟩ := hwRegionLoad_reads
  have hclaim := (hlast { State.reset with hw := hwRegionLoad } ⟨hmirq, hfault⟩).2 24 (by decide) (by decide)
    (by rw [hload]; decide) hnext
  refine hwRegionLoad_step rfl ?_ ?_ ?_ hclaim
  · split
    · exact hmirq
    · exact hmirq
  · split
    · exact hfault
    · exact hfault
  · split <;> rfl

end Sys2Proof.Machine
end

section
/-! SUPPORT. Stitch units (R298 to R323): reads of reduction memory, the commands of a unit, and its instructions. -/

namespace Sys2Proof.Machine

/-! Reads of reduction memory (R323). -/

/-- A read passes and only counts, or fails on a failing word. -/
theorem Hw.rdmRead_cases (h : Hw) (d u lo n : Nat) : (∃ regs, h.rdmRead d u lo n = (true, { h with regs := regs })) ∨
    ((h.rdmRead d u lo n).1 = false ∧ h.badSites ≠ []) := by
  unfold Hw.rdmRead
  extract_lets mine g
  by_cases hbad : g.badSites.any mine = true
  · refine .inr ⟨?_, ?_⟩
    · rw [if_neg (by simp [hbad])]
    · intro hnone
      have hnone' : g.badSites = [] := hnone
      rw [hnone'] at hbad
      cases hbad
  · exact .inl ⟨_, if_pos (by simpa using hbad)⟩

theorem rdmReads_false (d u : Nat) (h : Hw) (l : List (Nat × Nat)) :
    l.foldl (fun (a : Bool × Hw) (p : Nat × Nat) => if a.1 then a.2.rdmRead d u p.1 p.2 else a) (false, h) = (false, h) := by
  induction l with
  | nil => rfl
  | cons p l ih => exact ih

/-- Reads that pass only count; they pass where no word fails. -/
theorem Hw.rdmReads_cases (d u : Nat) (l : List (Nat × Nat)) : ∀ h : Hw,
    (∃ regs, h.rdmReads d u l = (true, { h with regs := regs })) ∨ ((h.rdmReads d u l).1 = false ∧ h.badSites ≠ []) := by
  unfold Hw.rdmReads
  induction l with
  | nil => exact fun h => .inl ⟨h.regs, rfl⟩
  | cons p l ih =>
    intro h
    rw [List.foldl_cons, if_pos rfl]
    rcases h.rdmRead_cases d u p.1 p.2 with ⟨regs, hread⟩ | ⟨hfail, hsites⟩
    · rw [hread]
      exact ih { h with regs := regs }
    · refine .inr ⟨?_, hsites⟩
      rcases hx : h.rdmRead d u p.1 p.2 with ⟨b, g⟩
      rw [hx] at hfail
      subst hfail
      rw [rdmReads_false]

theorem Hw.rdmReads_pass {h : Hw} (hsites : h.badSites = []) (d u : Nat) (l : List (Nat × Nat)) :
    (h.rdmReads d u l).1 = true := by
  rcases h.rdmReads_cases d u l with ⟨_, hread⟩ | ⟨-, hne⟩
  · rw [hread]
  · exact absurd hsites hne

/-- Reads that pass leave the units as they were. -/
theorem Hw.rdmReads_stu {h : Hw} {d u : Nat} {l : List (Nat × Nat)} (hpass : (h.rdmReads d u l).1 = true) (d' u' : Nat) :
    (h.rdmReads d u l).2.stu d' u' = h.stu d' u' := by
  rcases h.rdmReads_cases d u l with ⟨_, hread⟩ | ⟨hfail, -⟩
  · rw [hread]
    rfl
  · rw [hfail] at hpass
    cases hpass

/-! Commands and inputs. -/

/-- A command joins its unit's queue while that holds fewer than 64 (R303). -/
theorem Hw.stuCommand_of_unit (h : Hw) {d u c : Nat} (op : Nat) (hlo : 24 ≤ d) (hhi : d < 28) (hu : u < 8) (hc : c < 64) :
    h.stuCommand d u op c = if 64 ≤ (h.stuCmds.filter (fun x => x.1 = d && x.2.1 = u)).length then h.regFault 4 (stuB d u)
      else { h with stuCmds := h.stuCmds ++ [(d, u, op, c)] } :=
  if_neg (by simp only [Bool.or_eq_true, decide_eq_true_eq]; omega)

section
variable {f : Frame} {e : Env} {h g : Hw} (htyp : Frame.typ f = 9) (hdst : onFdie (Frame.dst f) = true)
  (hu : cUnit (Frame.dst f) < 8)
  (harr : h.arrive f (fun h => h.stuJudge (cDie (Frame.dst f)) (cUnit (Frame.dst f)) f ≠ .wait) = (true, g))
include htyp hdst hu harr

/-- An input frame that a unit's context does not take is counted by its reason, or dropped (R299). -/
theorem stitchInput_dropped {v : StuTake} {f' : FieldRef} (hjudge : g.stuJudge (cDie (Frame.dst f)) (cUnit (Frame.dst f)) f = v)
    (hv : (v = .badCtx ∧ f' = Reg.stuDropBadCtx) ∨ (v = .stale ∧ f' = Reg.stuDropStaleChunk) ∨
      (v = .dup ∧ f' = Reg.stuDropDupInput)) :
    stitchInput f e h = g.incSat f' (stuB (cDie (Frame.dst f)) (cUnit (Frame.dst f))) 0 1 := by
  unfold stitchInput
  dsimp only
  rw [if_neg (by simp [htyp, hdst, hu]), harr]
  dsimp only
  rw [hjudge]
  rcases hv with ⟨rfl, rfl⟩ | ⟨rfl, rfl⟩ | ⟨rfl, rfl⟩ <;> rfl

theorem stitchInput_same (hjudge : g.stuJudge (cDie (Frame.dst f)) (cUnit (Frame.dst f)) f = .same) :
    stitchInput f e h = g := by
  unfold stitchInput
  dsimp only
  rw [if_neg (by simp [htyp, hdst, hu]), harr]
  dsimp only
  rw [hjudge]

/-- An input frame that a unit's context takes is input `k` of its chunk set, in its words (R299, R302). -/
theorem stitchInput_taken {i k : Nat} {x : StuCtx}
    (hjudge : g.stuJudge (cDie (Frame.dst f)) (cUnit (Frame.dst f)) f = .take i k)
    (hx : SMap.find? (g.stu (cDie (Frame.dst f)) (cUnit (Frame.dst f))).ctxs (Frame.ctx f) = some x) :
    let d := cDie (Frame.dst f)
    let u := cUnit (Frame.dst f)
    stitchInput f e h = (g.setStu d u { g.stu d u with
      ctxs := SMap.put (g.stu d u).ctxs (Frame.ctx f) { x with
        sets := listSet x.sets i { x.sets.getD i {} with
          chunk := some (Frame.chunk f), ins := SMap.put (x.sets.getD i {}).ins k f } } }).rdmWrite d
            (x.first * 4096 + (i * (StuEnt.of x.entry).setGranules + 64 * k) * 8) (8 * Frame.len f) := by
  unfold stitchInput
  dsimp only
  rw [if_neg (by simp [htyp, hdst, hu]), harr]
  dsimp only
  rw [hjudge]
  dsimp only
  rw [hx]

end

/-! Chunks. -/

/-- The bytes of input `k` have the size that its context gives (R321). -/
def StuEnt.inputSize (t : StuEnt) (p : Frame × Nat) : Bool :=
  if t.elems = 0 then 2 ≤ Frame.len p.1 else Frame.len p.1 = 1 + ceilDiv (t.elems * (t.fmtOf p.2).bytes) 64

section
variable {d u c : Nat} {x : StuCtx} {e : Env} {h : Hw} (hrun : (h.stu d u).run = none) (hctxs : (h.stu d u).ctxs = [(c, x)])
  (hready : (h.chunkReady d u c x).isSome = true)
include hrun hctxs hready

/-- A chunk whose inputs are there reads their preambles; it starts where they agree (R321, R322). -/
theorem chunkRun_started :
    let chunk := h.stuNext d u c
    let pres := (x.inputs chunk).map (fun f => Pre.of f.payload)
    let g := (h.inc Reg.stuCntChunks (stuB d u) 0 1).rdmReads d u
      ((upto (StuEnt.of x.entry).nin).map (fun k => (x.setBase chunk + 512 * k, 8)))
    (g.1 = true → checkInputs pres ((x.inputs chunk).zipIdx.map (StuEnt.of x.entry).inputSize) (StuEnt.of x.entry).srcs = none →
      chunkRun d u e h = g.2.setStu d u { h.stu d u with run := some { ctx := c, gen := x.gen, chunk := chunk } }) ∧
    (g.1 = false → chunkRun d u e h = g.2.failRead d u c x.gen chunk (StuEnt.of x.entry) pres) := by
  intro chunk pres g
  have hfind : List.find? (fun (c : Nat × StuCtx) => (h.chunkReady d u c.1 c.2).isSome) (h.stu d u).ctxs = some (c, x) := by
    rw [hctxs]
    exact List.find?_cons_of_pos hready
  rcases hg : g with ⟨b, k⟩
  have hg' : (h.inc Reg.stuCntChunks (stuB d u) 0 1).rdmReads d u
      ((upto (StuEnt.of x.entry).nin).map (fun k => (x.setBase chunk + 512 * k, 8))) = (b, k) := hg
  have hstu : b = true → k.stu d u = h.stu d u := by
    rintro rfl
    have hkeep := Hw.rdmReads_stu (show g.1 = true by rw [hg]) d u
    rw [hg'] at hkeep
    exact hkeep
  refine ⟨?_, ?_⟩
  · rintro rfl hagree
    unfold chunkRun
    dsimp only
    rw [if_neg (by rw [hrun]; decide), hfind]
    dsimp only
    rw [hg']
    dsimp only
    have hagree' : checkInputs ((x.inputs (h.stuNext d u c)).map (fun f => Pre.of f.payload))
        ((x.inputs (h.stuNext d u c)).zipIdx.map (fun p => if (StuEnt.of x.entry).elems = 0 then 2 ≤ Frame.len p.1
          else Frame.len p.1 = 1 + ceilDiv ((StuEnt.of x.entry).elems * ((StuEnt.of x.entry).fmtOf p.2).bytes) 64))
        (StuEnt.of x.entry).srcs = none := hagree
    rw [hagree', hstu rfl]
  · rintro rfl
    unfold chunkRun
    dsimp only
    rw [if_neg (by rw [hrun]; decide), hfind]
    dsimp only
    rw [hg']

end

/-- Settles O29: commands by the room of the queue, inputs by their judgement, chunks by what their reads found. -/
theorem stitchUnitsClaimAndTakeInputs : Obligations.StitchUnitsClaimAndTakeInputs := by
  refine ⟨fun s d u c hs hlo hhi hu hc => ?_, fun s hs => ⟨fun f h => ?_, fun d u c x hrun hctxs hready => ?_,
    fun d u r c x hr => ?_⟩⟩
  · intro waiting queues
    have hqueues : ∀ (x : Instr) (op : Nat), exec x s = onHw (fun _ h => h.stuCommand d u op c) s → queues x op := by
      intro x op hexec
      have hmean := s.hw.stuCommand_of_unit op hlo hhi hu hc
      exact ⟨fun h => hexec.trans (onHw_keeps hs (hmean.trans (if_neg (Nat.not_le.2 h))) rfl rfl),
        fun h => hexec.trans (onHw_to (hmean.trans (if_pos h)))⟩
    refine ⟨hqueues _ 1 rfl, hqueues _ 2 rfl, fun x hx hclear => onHw_to ?_⟩
    unfold claimClearEnd
    dsimp only
    rw [hx]
    exact if_neg (by rw [hclear]; decide)
  · intro d u b htyp hdst hu harr
    exact ⟨fun hj => onHw_to (stitchInput_dropped htyp hdst hu harr hj (.inl ⟨rfl, rfl⟩)),
      fun hj => onHw_to (stitchInput_dropped htyp hdst hu harr hj (.inr (.inl ⟨rfl, rfl⟩))),
      fun hj => onHw_to (stitchInput_dropped htyp hdst hu harr hj (.inr (.inr ⟨rfl, rfl⟩))),
      fun hj => onHw_to (stitchInput_same htyp hdst hu harr hj),
      fun i k x hj hx => onHw_to (stitchInput_taken htyp hdst hu harr hj hx)⟩
  · intro t chunk ins size pres g
    obtain ⟨hstart, hfail⟩ := chunkRun_started (e := s.env) hrun hctxs hready
    exact ⟨fun hsites => Hw.rdmReads_pass (h := s.hw.inc Reg.stuCntChunks (stuB d u) 0 1) hsites _ _ _,
      fun hpass hagree => onHw_to (hstart hpass hagree), fun hno => onHw_to (hfail hno)⟩
  · intro a
    have hrun : (s.hw.stu d u).run.isSome = true := by
      unfold Hw.stuRun? at hr
      dsimp only at hr
      split at hr
      · cases hr
      · next heq => rw [heq]; rfl
    have hmean : chunkRun d u s.env s.hw = if s.hw.stuBad d u r c then
        (s.hw.error 1 4 Status.eccUncorrected.code 0 (s.hw.globalAddr a) none (s.hw.coord d u)).failCx d u r c else s.hw := by
      refine (if_pos hrun).trans ?_
      unfold Hw.stuReadRun
      rw [hr]
    exact ⟨fun hbad => onHw_to (hmean.trans (if_pos hbad)),
      fun hgood => onHw_same hs (hmean.trans (if_neg (fun h => by rw [Hw.stuBad, hgood] at h; cases h)))⟩

/-! Instructions of a stitch program. -/

section
variable {d u : Nat} {r : StuRun} {c : StuCx} {i : StuIns} {prog : List StuIns} {e : Env} {h : Hw}
  (hat : h.stuAt d u = some (r, c, i, prog))
include hat

/-- An instruction of the lanes: once its words have been read, its result and the group or instruction after it (R308). -/
theorem stuStep_of_at {ops : List Nat} {f : StuRun → StuCx → StuIns → StuRun} (hop : ops.contains i.opc = true) :
    let g := h.rdmReads d u (c.reads r i)
    let k := if i.opc = 0x09 then g.2.rdmWrite d (c.outWords r.group).1 (c.outWords r.group).2 else g.2
    (g.1 = true → stuStep d u ops f e h = k.setStu d u { h.stu d u with
      run := some ((f r c i).advance c.ent (lanesOf c.lane)) }) ∧
    (g.1 = false → stuStep d u ops f e h = g.2.failCx d u r c) := by
  intro g k
  rcases hg : h.rdmReads d u (c.reads r i) with ⟨b, g'⟩
  refine ⟨fun hb => ?_, fun hb => ?_⟩
  · have hpass : (h.rdmReads d u (c.reads r i)).1 = true := hb
    have hkeep := Hw.rdmReads_stu hpass d u
    rw [hg] at hpass hkeep
    have hb' : b = true := hpass
    subst hb'
    have hk : k = if i.opc = 0x09 then g'.rdmWrite d (c.outWords r.group).1 (c.outWords r.group).2 else g' := by
      unfold k g
      rw [hg]
    have hstu : k.stu d u = h.stu d u := by
      rw [hk]
      split <;> exact hkeep
    unfold stuStep
    rw [hat]
    dsimp only
    rw [if_pos hop, hg]
    dsimp only
    rw [← hk, hstu]
  · have hfail : (h.rdmReads d u (c.reads r i)).1 = false := hb
    rw [hg] at hfail
    have hb' : b = false := hfail
    subst hb'
    have hk : g.2 = g' := by
      unfold g
      rw [hg]
    unfold stuStep
    rw [hat]
    dsimp only
    rw [if_pos hop, hg, hk]

/-- A record operation whose inputs can be read puts its records in the output area (R317, R318). -/
theorem stuRecord_of_at {bs : List Byte} {olen n : Nat} (hrec : recordOp c r i = some (bs, olen, n)) :
    let g := h.rdmReads d u (c.reads r i)
    (g.1 = true → stuRecord d u i.opc e h = ((g.2.rdmWrite d (c.base + 512 * c.ent.nin) (8 * olen)).incSat
      Reg.stuDropUnsorted (stuB d u) 0 n).setStu d u { h.stu d u with
        run := some { r with pc := r.pc + 1, out := Mem.write [] 0 bs, olen := some olen } }) ∧
    (g.1 = false → stuRecord d u i.opc e h = g.2.failCx d u r c) := by
  intro g
  rcases hg : h.rdmReads d u (c.reads r i) with ⟨b, g'⟩
  have hk : g = (b, g') := hg
  rw [hk]
  refine ⟨fun hb => ?_, fun hb => ?_⟩
  · have hkeep := Hw.rdmReads_stu (show (h.rdmReads d u (c.reads r i)).1 = true by rw [hg]; exact hb) d u
    rw [hg] at hkeep
    have hkeep' : g'.stu d u = h.stu d u := hkeep
    have hb' : b = true := hb
    subst hb'
    unfold stuRecord
    rw [hat]
    dsimp only
    rw [if_neg (not_not.2 rfl), hg]
    dsimp only
    rw [hrec, ← hkeep']
    rfl
  · have hb' : b = false := hb
    subst hb'
    unfold stuRecord
    rw [hat]
    dsimp only
    rw [if_neg (not_not.2 rfl), hg]

/-- EMIT sends the output area once each word of it has been read (R319, R320). -/
theorem stuEmit_of_at (hop : i.opc = 0x28) :
    let parts := r.frames c prog
    let g := h.rdmReads d u (parts.map (fun q => q.2))
    let p := g.2.nodePre d u r.ctx (outPre (c.ins.map (fun f => Pre.of f.payload)) r.counts c.ent.top)
    let h1 := g.2.stuSend d u c.ent r.ctx r.gen r.chunk p parts
    let h2 := (h1.incSat Reg.stuConvSaturations (stuB d u) 0 r.counts.saturations).incSat Reg.stuConvNonfinite (stuB d u) 0
      r.counts.nonfinite
    (g.1 = true → stuEmit d u e h = h2.setStu d u { h2.stu d u with run := some { r with pc := r.pc + 1, emitted := true } }) ∧
    (g.1 = false → stuEmit d u e h = g.2.failCx d u r c) := by
  intro parts g
  rcases hg : h.rdmReads d u ((r.frames c prog).map (fun q => q.2)) with ⟨b, g'⟩
  have hk : g = (b, g') := hg
  rw [hk]
  refine ⟨fun hb => ?_, fun hb => ?_⟩
  · have hb' : b = true := hb
    subst hb'
    unfold stuEmit
    rw [hat]
    dsimp only
    rw [if_neg (not_not.2 hop), hg]
  · have hb' : b = false := hb
    subst hb'
    unfold stuEmit
    rw [hat]
    dsimp only
    rw [if_neg (not_not.2 hop), hg]

end

theorem stuBin_eq (op : Fmt → Nat → Nat → Nat) (r : StuRun) (c : StuCx) (i : StuIns) :
    stuBin op r c i = r.setReg i.vd (List.zipWith (op c.lane) (r.reg c i.va) (r.reg c i.vb)) := by
  rw [stuBin, List.zip, List.map_zipWith]

/-- Settles O30: each instruction by its operation code, by the words it reads, and by what they hold. -/
theorem stitchProgramsRunTheirInstructions : Obligations.StitchProgramsRunTheirInstructions := by
  refine ⟨fun s d u r c i x hs hat => ?_, fun s d u r c i x hs hat => ?_⟩
  · intro g h go writes pair
    have hgo : ∀ (y : Instr) (opc : Nat) (f : StuRun → StuCx → StuIns → StuRun) (r' : StuRun),
        exec y s = onHw (stuStep d u [opc] f) s → i.opc = opc → f r c i = r' → go y r' := by
      rintro y opc f r' hexec rfl rfl
      obtain ⟨hpass, hfail⟩ := stuStep_of_at (f := f) (e := s.env) hat (ops := [i.opc]) (by simp)
      exact ⟨fun h => hexec.trans (onHw_to (hpass h)), fun h => hexec.trans (onHw_to (hfail h))⟩
    refine ⟨fun hsites => Hw.rdmReads_pass hsites _ _ _, fun ho => hgo _ _ _ _ rfl ho rfl, fun ho => hgo _ _ _ _ rfl ho rfl,
      fun ho hl => hgo _ _ _ _ rfl ho ?_, fun ho hl => hgo _ _ _ _ rfl ho ?_, fun ho => hgo _ _ _ _ rfl ho rfl,
      fun ho => hgo _ _ _ _ rfl ho rfl, fun ho => hgo _ _ _ _ rfl ho rfl, fun ho => hgo _ _ _ _ rfl ho rfl,
      fun ho => hgo _ _ _ _ rfl ho rfl, fun ho => hgo _ _ _ _ rfl ho (stuBin_eq _ r c i),
      fun ho => hgo _ _ _ _ rfl ho (stuBin_eq _ r c i), fun ho => hgo _ _ _ _ rfl ho (stuBin_eq _ r c i),
      fun ho => hgo _ _ _ _ rfl ho (stuBin_eq _ r c i), fun ho hsub => hgo _ _ _ _ rfl ho ?_,
      fun zf ho hsub hfl hzf => ?_⟩
    · rw [stuLdc, if_neg hl]
      rfl
    · rw [stuLdc, if_pos hl]
      rfl
    · unfold stuStg
      by_cases h1 : i.sub = 1
      · exact if_pos h1
      · exact (if_neg h1).trans (if_pos (by rw [hsub.resolve_left h1]; rfl))
    · intro conv
      refine hgo _ _ _ _ rfl ho ?_
      unfold stuStg
      rw [hzf]
      exact (if_neg hsub).trans (if_neg (by rw [hfl]; decide))
  · intro b h
    refine ⟨fun ho => onHw_to ?_, fun ho => onHw_keeps hs ?_ rfl rfl, fun bs olen n hrec => ?_, fun ho => ?_⟩
    · unfold stuEnd
      rw [hat]
      exact if_pos ho
    · unfold stuGloop
      rw [hat]
      exact if_pos ho
    · intro g puts
      have hputs : ∀ (y : Instr) (opc : Nat), exec y s = onHw (stuRecord d u opc) s → i.opc = opc → puts y := by
        rintro y opc hexec rfl
        obtain ⟨hpass, hfail⟩ := stuRecord_of_at (e := s.env) hat hrec
        exact ⟨fun h => hexec.trans (onHw_to (hpass h)), fun h => hexec.trans (onHw_to (hfail h))⟩
      exact ⟨fun hsites => Hw.rdmReads_pass hsites _ _ _, hputs _ _ rfl, hputs _ _ rfl, hputs _ _ rfl, hputs _ _ rfl⟩
    · intro parts g p h1 h2
      obtain ⟨hpass, hfail⟩ := stuEmit_of_at (e := s.env) hat ho
      exact ⟨fun hsites => Hw.rdmReads_pass hsites _ _ _, fun h => onHw_to (hpass h), fun h => onHw_to (hfail h)⟩

end Sys2Proof.Machine
end

section
/-! SUPPORT. Ports and links (R239 to R245, R530 to R532, R542 to R548): what each command of a port's way to service
answers, by its conditions. -/

namespace Sys2Proof.Machine

@[simp] theorem Hw.port_setPort (h : Hw) (p : Nat) (x : Port) : (h.setPort p x).port p = x := SMap.get_put_self _ _ _ _

theorem orElse_one (v : Nat) : orElse v 1 = max v 1 := by
  unfold orElse
  split <;> omega

/-! Training. -/

theorem laneSignal_trains {h : Hw} {e : Env} {p : Nat} (hon : h.portOn e p = true) (hdown : h.pf Reg.xptPortState p = pDown)
    (huntil : (h.port p).until_ = none) (hloop : (h.port p).loop.any (fun d => d ≤ 4) = false) :
    laneSignal p e h = (h.setPf Reg.xptPortState p pTraining).setPort p
      { h.port p with since := h.now, lastCtl := h.now, blk := none, ctlRun := 0 } := by
  unfold laneSignal
  exact if_pos (by rw [hon, huntil, hloop, decide_eq_true hdown]; rfl)

theorem backoffExpiry_ends {h : Hw} {e : Env} {p t : Nat} (huntil : (h.port p).until_ = some t) :
    backoffExpiry p e h = (h.reach t).setPort p { h.port p with until_ := none } := by
  unfold backoffExpiry
  rw [huntil]

theorem controlBlockTimeout_falls {h : Hw} {e : Env} {p : Nat} (hp : p < 48) (hup : h.pf Reg.xptPortState p ≠ pDown) :
    controlBlockTimeout p e h = (h.reach ((h.port p).lastCtl + 971)).portDown e p 1 3 := by
  unfold controlBlockTimeout
  exact if_neg (by rw [decide_eq_false hup, decide_eq_false (Nat.not_le.mpr hp)]; decide)

/-! The LOOPBACK state (R531, R545). -/

/-- Result `r` of a loop of this end, by the number of codewords it may correct, fails the port. -/
def Hw.loopFails (h : Hw) (p : Nat) (r : LoopResult) : Prop :=
  h.loopsFirst p ≠ (h.port p).second ∧ (r.uncorrectable ≠ 0 ∨ h.xf Reg.xptRaLbCorrMax p < r.corrected)

theorem Hw.loopsFirst_eq (h : Hw) (p : Nat) : h.loopsFirst p =
    Decidable.decide (h.node < (h.farNode p).getD 0 ∨
      (h.node = (h.farNode p).getD 0 ∧ p < h.pf Reg.xptPortNbPort p)) := by
  rw [Bool.decide_or, Bool.decide_and]
  rfl

/-- The three ways on, after the result of the loop in hand. -/
theorem loopbackEnd_ways {h : Hw} {e : Env} {p : Nat} {r : LoopResult} (hp : p < 48)
    (hstate : h.pf Reg.xptPortState p = pLoopback) (hloop : (h.port p).loop ≠ some 5) :
    (h.loopFails p r → loopbackEnd p r e h = h.portFail e p 4) ∧
    (¬ h.loopFails p r → (h.port p).second = false → loopbackEnd p r e h = h.setPort p { h.port p with second := true }) ∧
    (¬ h.loopFails p r → (h.port p).second = true →
      loopbackEnd p r e h = (h.setPf Reg.xptPortState p pProbing).setPort p { h.port p with
        since := h.now, convRun := 0, probing := false, probesOut := [], probesOk := false, probesFar := 0, rx := []
        second := false }) := by
  have hfails : h.loopFails p r ↔ ((h.loopsFirst p != (h.port p).second) &&
      !(decide (r.uncorrectable = 0) && decide (r.corrected ≤ h.xf Reg.xptRaLbCorrMax p))) = true := by
    unfold Hw.loopFails
    rw [Bool.and_eq_true, bne_iff_ne, Bool.not_eq_true', Bool.and_eq_false_iff, decide_eq_false_iff_not,
      decide_eq_false_iff_not, Nat.not_le]
  have hway : loopbackEnd p r e h =
      if ((h.loopsFirst p != (h.port p).second) &&
        !(decide (r.uncorrectable = 0) && decide (r.corrected ≤ h.xf Reg.xptRaLbCorrMax p))) = true then h.portFail e p 4
      else if (!(h.port p).second) = true then h.setPort p { h.port p with second := true }
      else (h.setPf Reg.xptPortState p pProbing).setPort p { h.port p with
        since := h.now, convRun := 0, probing := false, probesOut := [], probesOk := false, probesFar := 0, rx := []
        second := false } := by
    unfold loopbackEnd
    refine (if_neg (Nat.not_le.mpr hp)).trans ((if_pos hstate).trans ?_)
    have hnone : ∀ g : Hw, (if ((h.loopsFirst p != (h.port p).second) && decide ((h.port p).loop = some 5)) = true
        then g else h) = h := fun g => if_neg (by rw [decide_eq_false hloop, Bool.and_false]; decide)
    simp only [hnone]
  rw [hway]
  refine ⟨fun hbad => if_pos (hfails.mp hbad), fun hgood hfirst => ?_, fun hgood hsecond => ?_⟩
  · exact (if_neg (mt hfails.mpr hgood)).trans (if_pos (by rw [hfirst]; rfl))
  · exact (if_neg (mt hfails.mpr hgood)).trans (if_neg (by rw [hsecond]; decide))

/-! Probes and burnish. -/

/-- A PROBE frame that waits at the port and passes E2E: a reply ends its wait, a probe is answered. -/
theorem probe_taken {h : Hw} {e : Env} {p : Nat} {f : Frame} (hp : p < 48) (hin : (h.port p).probes.contains f = true)
    (he2e : f.e2e.toNat = Frame.e2eOf f) :
    let g := h.setPort p { h.port p with probes := (h.port p).probes.erase f }
    probe p f e h = if bit (Frame.arg f) 8 then g.probeBack p (Frame.seq f)
      else g.setPort p { g.port p with
        probesFar := (g.port p).probesFar + 1
        wire := (g.port p).wire ++ [g.probeFrame p (Frame.seq f) (some (pay f.payload 0 8))] } := by
  unfold probe
  exact (if_neg (by rw [hin, decide_eq_false (Nat.not_le.mpr hp)]; decide)).trans (if_neg (not_not.mpr he2e))

theorem probeTimeout_fails {h : Hw} {e : Env} {p : Nat} (hp : p < 48) (hprobing : (h.port p).probing = true)
    (hout : (h.port p).probesOut ≠ []) (hstate : h.pf Reg.xptPortState p = pProbing) :
    probeTimeout p e h =
      (h.reach ((h.port p).probedAt + 1000 * max (h.xf Reg.xptRaProbeTimeout p) 1)).portFail e p 6 := by
  unfold probeTimeout
  rw [orElse_one]
  exact (if_neg (by rw [hprobing, decide_eq_false (Nat.not_le.mpr hp), List.isEmpty_eq_false_iff.mpr hout]; decide)).trans
    (if_pos hstate)

theorem burnTimeout_fails {h : Hw} {e : Env} {p : Nat} (hp : p < 48) (hstate : h.pf Reg.xptPortState p = pProbing)
    (hconv : h.pf Reg.xptBurnConverged p ≠ 1) :
    burnTimeout p e h =
      (h.reach ((h.port p).since + 1000 * max (h.xf Reg.xptBurnCfgBurnTimeout p) 1)).portFail e p 5 := by
  unfold burnTimeout
  rw [orElse_one]
  exact if_neg (by rw [hstate, decide_eq_false hconv, decide_eq_false (Nat.not_le.mpr hp)]; decide)

/-- Settles O23: each command, under the conditions that the statement names, takes the branch of its meaning that they
choose; the turn of a looped end is what `loopbackEnd_ways` says. -/
theorem portsTrainAndProveThemselves : Obligations.PortsTrainAndProveThemselves := by
  unfold Obligations.PortsTrainAndProveThemselves
  refine ⟨fun s p hs => ⟨fun hon hdown huntil hloop => ?_, fun t huntil => ?_, fun hp hup => ?_⟩, fun s p hs hp => ?_⟩
  · exact onHw_keeps hs (laneSignal_trains hon hdown huntil hloop) rfl rfl
  · exact onHw_keeps hs (backoffExpiry_ends huntil) rfl rfl
  · exact onHw_to (controlBlockTimeout_falls hp hup)
  · refine ⟨fun r hstate hloop => ?_, fun f hin he2e => ?_, fun hprobing hout hstate => ?_, fun hstate hconv => ?_⟩
    · obtain ⟨hbad, hfirst, hsecond⟩ := loopbackEnd_ways (e := s.env) (r := r) hp hstate hloop
      unfold Hw.loopFails at hbad hfirst hsecond
      rw [Hw.loopsFirst_eq] at hbad hfirst hsecond
      exact ⟨fun h => onHw_to (hbad h), fun h h1 => onHw_keeps hs (hfirst h h1) rfl rfl,
        fun h h2 => onHw_keeps hs (hsecond h h2) rfl rfl⟩
    · have htaken := probe_taken (e := s.env) hp hin he2e
      refine ⟨fun hreply => onHw_to (htaken.trans (if_pos hreply)), fun hprobe => onHw_to (htaken.trans ?_)⟩
      rw [if_neg (by rw [hprobe]; decide), Hw.port_setPort]
    · exact onHw_to (probeTimeout_fails hp hprobing hout hstate)
    · exact onHw_to (burnTimeout_fails hp hstate hconv)

/-! Link blocks (R239 to R244). -/

/-- A block taken by an UP port adds to its stream. -/
theorem dataBlock_of_up {h h1 : Hw} {e : Env} {p : Nat} {b : LinkBlock} (hon : h.portOn e p = true)
    (hlive : h.pf Reg.xptPortState p ≠ pDown) (hin : h.blockIn e p b = (true, h1)) (hup : h1.pf Reg.xptPortState p = pUp) :
    let stream := (h1.port p).rx ++ LinkBlock.bytes b
    let taken := h1.takeStream p stream.length stream
    dataBlock p b e h = taken.1.setPort p { taken.1.port p with rx := taken.2 } := by
  unfold dataBlock
  refine (if_neg (by rw [hon, decide_eq_false hlive]; decide)).trans ?_
  rw [hin]
  exact if_pos (by rw [decide_eq_true hup]; rfl)

/-- What a control block that comes whole tells: the neighbour's identity, burnish and time. -/
def Hw.controlTold (h : Hw) (p : Nat) (b : LinkBlock) : Hw :=
  let h := h.setPort p { h.port p with lastCtl := h.now, ctlRun := (h.port p).ctlRun + 1 }
  let h := (h.setPf Reg.xptPortNbNode p (bits (LinkBlock.num b 0 2) 14 0)).setPf Reg.xptPortNbValid p
    (bits (LinkBlock.num b 0 2) 15 15)
  ((h.setPf Reg.xptPortNbPort p (LinkBlock.num b 2 1)).burnish p b).timeIn p b

/-- What the port does once it has been told. -/
def Hw.controlNext (h : Hw) (e : Env) (p : Nat) : Hw :=
  if h.pf Reg.xptPortState p ≠ pTraining then
    if h.miscabled p then (h.holdTraining e p).portRecord p 3 0 else h
  else if (h.port p).ctlRun < 64 then h
  else if h.miscabled p then (if (h.port p).ctlRun = 64 then h.portRecord p 3 0 else h)
  else if p = 43 && h.spareNamed.isNone then h
  else (h.setPf Reg.xptPortState p pLoopback).setPort p { h.port p with since := h.now, second := false }

theorem controlBlock_of_whole {h h1 : Hw} {e : Env} {p : Nat} {b : LinkBlock} (hon : h.portOn e p = true)
    (hlive : h.pf Reg.xptPortState p ≠ pDown) (hin : h.blockIn e p b = (true, h1)) (hwhole : b.badA = false) :
    controlBlock p b e h = (h1.controlTold p b).controlNext e p := by
  unfold controlBlock
  refine (if_neg (by rw [hon, decide_eq_false hlive]; decide)).trans ?_
  rw [hin]
  exact if_neg (by rw [hwhole]; decide)

section
variable {h : Hw} {e : Env} {p : Nat}

theorem Hw.controlNext_serving (hstate : h.pf Reg.xptPortState p ≠ pTraining) (hcable : h.miscabled p = false) :
    h.controlNext e p = h := by
  unfold Hw.controlNext
  exact (if_pos hstate).trans (if_neg (by rw [hcable]; decide))

theorem Hw.controlNext_held (hstate : h.pf Reg.xptPortState p ≠ pTraining) (hcable : h.miscabled p = true) :
    h.controlNext e p = (h.holdTraining e p).portRecord p 3 0 := by
  unfold Hw.controlNext
  exact (if_pos hstate).trans (if_pos hcable)

theorem Hw.controlNext_early (hstate : h.pf Reg.xptPortState p = pTraining) (hrun : (h.port p).ctlRun < 64) :
    h.controlNext e p = h := by
  unfold Hw.controlNext
  exact (if_neg (not_not.mpr hstate)).trans (if_pos hrun)

theorem Hw.controlNext_trained (hstate : h.pf Reg.xptPortState p = pTraining) (hrun : 64 ≤ (h.port p).ctlRun)
    (hcable : h.miscabled p = false) (hspare : p ≠ 43 ∨ h.spareNamed.isSome = true) :
    h.controlNext e p =
      (h.setPf Reg.xptPortState p pLoopback).setPort p { h.port p with since := h.now, second := false } := by
  have hgo : ¬ (Decidable.decide (p = 43) && h.spareNamed.isNone) = true := by
    rcases hspare with hp | hnamed
    · rw [decide_eq_false hp]; exact Bool.false_ne_true
    · rw [← Option.not_isSome, hnamed, Bool.and_eq_true]; exact fun hx => Bool.false_ne_true hx.2
  unfold Hw.controlNext
  exact (if_neg (not_not.mpr hstate)).trans
    ((if_neg (Nat.not_lt.mpr hrun)).trans ((if_neg (by rw [hcable]; decide)).trans (if_neg hgo)))

theorem Hw.controlNext_miscabled (hstate : h.pf Reg.xptPortState p = pTraining) (hrun : (h.port p).ctlRun = 64)
    (hcable : h.miscabled p = true) : h.controlNext e p = h.portRecord p 3 0 := by
  unfold Hw.controlNext
  exact (if_neg (not_not.mpr hstate)).trans
    ((if_neg (Nat.not_lt.mpr (Nat.le_of_eq hrun.symm))).trans ((if_pos hcable).trans (if_pos hrun)))

end

/-! Loop-backs that a register starts (R542 to R545). -/

theorem xptLbStart_served {h : Hw} {e : Env} {p depth : Nat} (hserved : h.served = true) (hp : p < 48) :
    xptLbStart p depth e h = h.startLoop e p depth := by
  unfold xptLbStart
  exact if_pos (by rw [hserved, decide_eq_true hp]; rfl)

theorem Hw.startLoop_runs {h : Hw} {e : Env} {p depth : Nat} (hfree : (h.port p).loop = none)
    (hdown : (h.setPf Reg.xptLbDepth p depth).pf Reg.xptPortState p = pDown) (h1 : 1 ≤ depth) (h5 : depth ≤ 5) :
    h.startLoop e p depth = ((h.setPf Reg.xptLbDepth p depth).setPf Reg.xptLbResult p 1).setPort p
      { h.port p with loop := some depth } := by
  unfold Hw.startLoop
  refine (if_neg (by rw [show ((h.setPf Reg.xptLbDepth p depth).port p).loop = none from hfree]; decide)).trans ?_
  rw [hdown]
  refine (if_neg ?_).trans ((if_neg (by omega)).trans ?_)
  · rw [decide_eq_false (by omega : ¬ depth = 0), decide_eq_false (by omega : ¬ 6 < depth), decide_eq_false (by omega : ¬ depth = 6)]
    decide
  · rw [if_neg (by decide)]
    rfl

theorem Hw.startLoop_refused {h : Hw} {e : Env} {p depth : Nat} (hfree : (h.port p).loop = none)
    (hnone : depth = 0 ∨ 6 < depth) :
    h.startLoop e p depth = (h.setPf Reg.xptLbDepth p depth).setPf Reg.xptLbResult p 4 := by
  unfold Hw.startLoop
  refine (if_neg (by rw [show ((h.setPf Reg.xptLbDepth p depth).port p).loop = none from hfree]; decide)).trans (if_pos ?_)
  rcases hnone with rfl | h6
  · rfl
  · rw [decide_eq_true h6]
    simp

/-- The registers of a channel's loop-back. -/
def Hw.ddrLoop (h : Hw) (die unit depth result errors : Nat) : Hw :=
  ((h.wf Reg.ddrLbDepth (rkey die unit 0) 0 depth).wf Reg.ddrLbResult (rkey die unit 0) 0 result).wf Reg.ddrLbErrors
    (rkey die unit 0) 0 errors

theorem memLbStart_served {h : Hw} {e : Env} {die unit depth : Nat} (hserved : h.served = true) (h28 : 28 ≤ die)
    (h32 : die < 32) (h4 : 4 ≤ unit) (h8 : unit < 8) : memLbStart die unit depth e h = h.startMemLoop die unit depth := by
  unfold memLbStart
  refine if_pos ?_
  rw [hserved, decide_eq_true h28, decide_eq_true h32, decide_eq_true (by omega : 2 ≤ unit), decide_eq_true h8]
  rfl

theorem Hw.startMemLoop_refused {h : Hw} {die unit depth : Nat} (h4 : 4 ≤ unit)
    (huse : h.rf Reg.ddrStatusInUse (rkey die unit 0) ≠ 0) :
    h.startMemLoop die unit depth = h.ddrLoop die unit depth 4 (h.rf Reg.ddrLbErrors (rkey die unit 0)) := by
  have hddr : ¬ unit < 4 := by omega
  unfold Hw.startMemLoop Hw.ddrLoop
  simp only [hddr, if_false, decide_eq_false huse, Bool.and_false, Bool.false_eq_true, if_false, Bool.not_false, if_true]

theorem Hw.startMemLoop_runs {h : Hw} {die unit depth : Nat} (h4 : 4 ≤ unit)
    (hfree : h.rf Reg.ddrStatusInUse (rkey die unit 0) = 0) (hdepth : depth = 1 ∨ depth = 2) :
    h.startMemLoop die unit depth = ({ h with freeCount := h.freeCount + 1 } : Hw).ddrLoop die unit depth
      (if (Config.freeWord h.freeCount).toNat % 2 ^ 32 = 0 then 2 else 3) ((Config.freeWord h.freeCount).toNat % 2 ^ 32) := by
  have hddr : ¬ unit < 4 := by omega
  have hok : (Decidable.decide (depth = 1) || Decidable.decide (depth = 2)) = true := by simpa using hdepth
  unfold Hw.startMemLoop Hw.ddrLoop Hw.drawFree
  simp only [hddr, hok, decide_eq_true hfree, Bool.and_self, Bool.false_eq_true, if_false, Bool.not_true, bits_eq, pow_zero,
    Nat.div_one, Nat.sub_zero, Nat.reduceAdd]

/-- Settles O24: each block and each loop-back, under the conditions that the statement names, takes the branch of its
meaning that they choose. -/
theorem linkBlocksAndLoopBacks : Obligations.LinkBlocksAndLoopBacks := by
  unfold Obligations.LinkBlocksAndLoopBacks
  refine ⟨fun s p b h1 hs hon hlive hin => ?_, fun s p depth die unit hs hserved hp h28 h32 h4 h8 => ?_⟩
  · have hcontrol : ∀ {g : Hw}, b.badA = false → (h1.controlTold p b).controlNext s.env p = g →
        exec (.controlBlock p b) s = .next (s.hwTo g) := fun hwhole hg =>
      onHw_to ((controlBlock_of_whole hon hlive hin hwhole).trans hg)
    refine ⟨fun hup => onHw_to (dataBlock_of_up hon hlive hin hup), ?_, ?_, ?_, ?_, ?_⟩
    · exact fun hwhole hstate hcable => hcontrol hwhole (Hw.controlNext_serving hstate hcable)
    · exact fun hwhole hstate hcable => hcontrol hwhole (Hw.controlNext_held hstate hcable)
    · exact fun hwhole hstate hrun => hcontrol hwhole (Hw.controlNext_early hstate hrun)
    · exact fun hwhole hstate hrun hcable hspare => hcontrol hwhole (Hw.controlNext_trained hstate hrun hcable hspare)
    · exact fun hwhole hstate hrun hcable => hcontrol hwhole (Hw.controlNext_miscabled hstate hrun hcable)
  · have hport {g : Hw} (hg : s.hw.startLoop s.env p depth = g) :=
      (xptLbStart_served (e := s.env) (depth := depth) hserved hp).trans hg
    have hmem {g : Hw} (hg : s.hw.startMemLoop die unit depth = g) :=
      (memLbStart_served (e := s.env) (depth := depth) hserved h28 h32 h4 h8).trans hg
    refine ⟨fun hfree hdown h1 h5 => ?_, fun hfree hnone => ?_, fun huse => ?_, fun hfree hdepth => ?_⟩
    · exact onHw_keeps hs (hport (Hw.startLoop_runs hfree hdown h1 h5)) rfl rfl
    · exact onHw_keeps hs (hport (Hw.startLoop_refused hfree hnone)) rfl rfl
    · exact onHw_keeps hs (hmem (Hw.startMemLoop_refused h4 huse)) rfl rfl
    · exact onHw_keeps hs (hmem (Hw.startMemLoop_runs h4 hfree hdepth)) rfl rfl

end Sys2Proof.Machine
end

section
/-! SUPPORT. Transport and switch cores (R250 to R264, R276 to R292): what source owners, acknowledgements, forwarding,
arbitration, the level sample and multicast answer, by their conditions. -/

namespace Sys2Proof.Machine

/-- A command whose meaning ends with what operations of the fabric hear of it. -/
theorem onHw_fabric {f : Env → Hw → Hw} {s : State} {g : Hw} (h : f s.env s.hw = g) :
    onHw (fun e h => (f e h).settleFabric e) s = .next (s.hwTo (g.settleFabric s.env)) :=
  onHw_to (f := fun e h => (f e h).settleFabric e) (congrArg (Hw.settleFabric · s.env) h)

/-! Source owners (R250 to R262). -/

theorem fdie_guard {f : Nat} (h24 : 24 ≤ f) (h28 : f < 28) : ¬ (f < 24 || 28 ≤ f) = true := by
  rw [decide_eq_false (Nat.not_lt.mpr h24), decide_eq_false (Nat.not_le.mpr h28)]
  decide

/-- The hardware once frame `i` of a source owner's queue has been taken. -/
def Hw.txTaken (h : Hw) (f i : Nat) : Hw := { h with txq := SMap.put h.txq f ((SMap.get h.txq [] f).eraseIdx i) }

section
variable {h h1 h2 : Hw} {e : Env} {f i : Nat} {t : TxFrame} {v : TxVerdict}

theorem frameTransmit_sends (h24 : 24 ≤ f) (h28 : f < 28) (hchoose : h.txChoose f = (some (i, t, v), h1)) (hv : v ≠ .fail)
    (hsent : (h1.txTaken f i).transmit e.tl.det f t = some h2) : frameTransmit f e h = h2 := by
  unfold frameTransmit
  refine (if_neg (fdie_guard h24 h28)).trans ?_
  rw [hchoose]
  refine (if_neg hv).trans ?_
  unfold Hw.txTaken at hsent
  rw [hsent]

theorem frameTransmit_fails (h24 : 24 ≤ f) (h28 : f < 28) (hchoose : h.txChoose f = (some (i, t, v), h1)) (hv : v = .fail) :
    frameTransmit f e h = (h1.txTaken f i).ownerFail t.owner .destUnreachable := by
  unfold frameTransmit
  refine (if_neg (fdie_guard h24 h28)).trans ?_
  rw [hchoose]
  exact if_pos hv

end

theorem ackFrame_arrived {h h1 : Hw} {e : Env} {f : Frame} (htyp : Frame.typ f = 5)
    (harr : h.arrive f (fun _ => true) = (true, h1)) :
    ackFrame f e h = (ackPayload f.payload).foldl (fun h r =>
      h.ackRecord e.tl.det (ownerFdie r.1) (flowKey r.1 (cNode (Frame.src f))) r.2.1 r.2.2.1 r.2.2.2) h1 := by
  unfold ackFrame
  refine (if_neg (not_not.mpr htyp)).trans ?_
  rw [harr]

theorem resendTimeout_retries {h : Hw} {e : Env} {f key seq t : Nat} (h24 : 24 ≤ f) (h28 : f < 28)
    (hold : h.oldestRec f = some (key, seq, t)) :
    resendTimeout f e h = (h.reach (t + h.resendAfter f)).retry e.tl.det f key seq := by
  unfold resendTimeout
  refine (if_neg (fdie_guard h24 h28)).trans ?_
  rw [hold]

theorem ownerFdie_fdie (die : Nat) : 24 ≤ ownerFdie die ∧ ownerFdie die < 28 := by
  unfold ownerFdie
  omega

/-- The ACK record of a flow that waits, and the hardware it leaves from. -/
def ackFrameOf (h : Hw) (key : Nat) (x : RxFlow) : TxFrame :=
  { typ := 5, cls := 0, src := h.coord (ownerFdie (key / 65536)) 8
    dst := coordOf (key % 65536) (ownerFdie (key / 65536)) 8
    payload := granules (toBytes 1 (key / 65536) ++ toBytes 1 x.inc ++ toBytes 2 0 ++ toBytes 4 x.edge ++ toBytes 16 x.map) }

def Hw.ackOwned (h : Hw) (key : Nat) (x : RxFlow) : Hw :=
  (if 32 ≤ x.waiting then h
    else h.reach (x.since + orElse (h.rf Reg.xptCtrlAckDelay (xptB (ownerFdie (key / 65536)))) 1 * 128)).setRxFlow key
      { x with waiting := 0 }

theorem Hw.ackOwned_eq (h : Hw) (key : Nat) (x : RxFlow) : h.ackOwned key x = (if 32 ≤ x.waiting then h
    else h.reach (x.since + 128 * max (h.rf Reg.xptCtrlAckDelay (xptB (ownerFdie (key / 65536)))) 1)).setRxFlow key
      { x with waiting := 0 } := by
  rw [Hw.ackOwned, orElse_one, Nat.mul_comm]

theorem ackRecordSend_sends {h : Hw} {e : Env} {key : Nat} {x : RxFlow} {p : Path} (hflows : h.rxFlows = [(key, x)])
    (hwait : 0 < x.waiting)
    (hpath : (h.ackOwned key x).path e.tl.det (ownerFdie (key / 65536)) (ackFrameOf (h.ackOwned key x) key x).src
      (ackFrameOf (h.ackOwned key x) key x).dst 0 0 = some p) :
    ackRecordSend (ownerFdie (key / 65536)) e h =
      (h.ackOwned key x).emit (ownerFdie (key / 65536)) (ackFrameOf (h.ackOwned key x) key x) 0 0 0 false p := by
  have hfound : ∀ d : Option (Nat × RxFlow), d = some (key, x) →
      (([(key, x)] : List (Nat × RxFlow)).find? (fun x => 32 ≤ x.2.waiting)).orElse (fun _ => d) = some (key, x) := by
    rintro d rfl
    rw [List.find?_singleton]
    split <;> rfl
  obtain ⟨h24, h28⟩ := ownerFdie_fdie (key / 65536)
  unfold ackRecordSend
  refine (if_neg (fdie_guard h24 h28)).trans ?_
  rw [hflows, List.filter_singleton, decide_eq_true (rfl : ownerFdie (key / 65536) = _), decide_eq_true hwait]
  rw [Bool.and_self, cond_true]
  extract_lets mine longest
  rw [show (mine.find? (fun x => 32 ≤ x.2.waiting)).orElse (fun _ => longest) = some (key, x) from hfound _ rfl]
  dsimp only
  split
  next q hq => exact congrArg _ (Option.some.inj (hq.symm.trans hpath))
  next hq => exact absurd (hq.symm.trans hpath) nofun

/-- Settles O25: frames leave by the verdict on them, an ACK gives its records to their flows, and the only flow that
waits has its record sent. -/
theorem framesLeaveAndAreAcknowledged : Obligations.FramesLeaveAndAreAcknowledged := by
  unfold Obligations.FramesLeaveAndAreAcknowledged
  refine ⟨fun s f i t v h1 h2 hs h24 h28 hchoose => ⟨fun hv hsent => ?_, fun hv => ?_⟩, fun s hs => ⟨?_, ?_, ?_⟩⟩
  · exact onHw_fabric (f := frameTransmit f) (frameTransmit_sends (e := s.env) h24 h28 hchoose hv hsent)
  · exact onHw_fabric (f := frameTransmit f) (frameTransmit_fails (e := s.env) h24 h28 hchoose hv)
  · exact fun f h htyp harr => onHw_fabric (f := ackFrame f) (ackFrame_arrived (e := s.env) htyp harr)
  · exact fun f key seq t h24 h28 hold =>
      onHw_fabric (f := resendTimeout f) (resendTimeout_retries (e := s.env) h24 h28 hold)
  · intro key x p hkey hflows hwait f delay h t hpath
    have hown : h = s.hw.ackOwned key x := (Hw.ackOwned_eq s.hw key x).symm
    have hsend : t = ackFrameOf (s.hw.ackOwned key x) key x := congrArg (ackFrameOf · key x) hown
    rw [hsend, hown] at hpath
    rw [hsend, hown]
    exact onHw_to (ackRecordSend_sends (e := s.env) hflows hwait hpath)

/-! Switch cores (R258, R264, R278 to R283). -/

section
variable {h : Hw} {e : Env} {die point : Nat} {f : Frame}

/-- The first frame at an ingress point that leaves it: it has somewhere to go, or is not to go on. -/
def Hw.leaves (h : Hw) (die point : Nat) : Option Frame :=
  (SMap.get (SMap.get h.switches {} die).inq [] point).find?
    (fun f => h.egressOf die f ≠ .nowhere || h.aged die f || !Frame.wellFormed f)

/-- The hardware once a frame has left its ingress point. -/
def Hw.inqErased (h : Hw) (die point : Nat) (f : Frame) : Hw :=
  let sw : Switch := SMap.get h.switches {} die
  { h with
    switches := SMap.put h.switches die { sw with inq := SMap.put sw.inq point ((SMap.get sw.inq [] point).erase f) } }

theorem switchForward_of_leaves (h24 : 24 ≤ die) (h28 : die < 28) (hpoint : point < 13)
    (hfound : h.leaves die point = some f) :
    switchForward die point e h =
      if (Frame.wellFormed f && !(h.aged die f) && !(h.chargeShared die point f) && !(h.guardRoom die point f)) = true then h
      else (h.inqErased die point f).forward die point f (h.egressOf die f) := by
  unfold Hw.leaves at hfound
  unfold switchForward
  refine (if_neg ?_).trans ?_
  · rw [decide_eq_false (Nat.not_lt.mpr h24), decide_eq_false (Nat.not_le.mpr h28), decide_eq_false (Nat.not_le.mpr hpoint)]
    decide
  · dsimp only
    rw [hfound]
    rfl

theorem switchForward_forwards (h24 : 24 ≤ die) (h28 : die < 28) (hpoint : point < 13)
    (hfound : h.leaves die point = some f)
    (hgoes : Frame.wellFormed f = false ∨ h.aged die f = true ∨ h.chargeShared die point f = true ∨
      h.guardRoom die point f = true) :
    switchForward die point e h = (h.inqErased die point f).forward die point f (h.egressOf die f) := by
  refine (switchForward_of_leaves h24 h28 hpoint hfound).trans (if_neg ?_)
  rcases hgoes with hx | hx | hx | hx <;> simp [hx]

theorem switchForward_waits (h24 : 24 ≤ die) (h28 : die < 28) (hpoint : point < 13)
    (hfound : h.leaves die point = some f) (hwf : Frame.wellFormed f = true) (hyoung : h.aged die f = false)
    (hshared : h.chargeShared die point f = false) (hguard : h.guardRoom die point f = false) :
    switchForward die point e h = h := by
  refine (switchForward_of_leaves h24 h28 hpoint hfound).trans (if_pos ?_)
  rw [hwf, hyoung, hshared, hguard]
  decide

end

/-- The queues of an egress point once aged frames at their heads are gone. -/
def Hw.agedOut (h : Hw) (port : Nat) : Hw :=
  let h := (upto 4).foldl (fun h c => h.dropAgedHead port c (SMap.get h.egress [] (egressKey port c)).length) h
  if port < 48 then h.noteStall port else h

/-- The round robin over the three classes after control. -/
def Hw.egressTurn (h : Hw) (port : Nat) : Option Nat × Drr :=
  drr 3 (fun q => h.sendable port (q + 1)) (fun q => h.quantum (portDie port) q) (h.port port).arb

section
variable {h : Hw} {e : Env} {port : Nat}

theorem egressArbitration_guard (hport : port < 52) (hup : port < 48 → h.pf Reg.xptPortState port = pUp) :
    ¬ (52 ≤ port || (port < 48 && h.pf Reg.xptPortState port ≠ pUp)) = true := by
  rw [decide_eq_false (Nat.not_le.mpr hport), Bool.false_or, Bool.and_eq_true, decide_eq_true_eq, decide_eq_true_eq]
  exact fun hx => hx.2 (hup hx.1)

theorem egressArbitration_control (hport : port < 52) (hup : port < 48 → h.pf Reg.xptPortState port = pUp)
    (hsend : ((h.agedOut port).sendable port 0).isSome = true) :
    egressArbitration port e h = (h.agedOut port).leaveHead port 0 := by
  unfold egressArbitration
  exact (if_neg (egressArbitration_guard hport hup)).trans (if_pos hsend)

theorem egressArbitration_class {q : Nat} (hport : port < 52) (hup : port < 48 → h.pf Reg.xptPortState port = pUp)
    (hnone : ((h.agedOut port).sendable port 0).isSome = false) (hturn : ((h.agedOut port).egressTurn port).1 = some q) :
    egressArbitration port e h = ((h.agedOut port).setPort port { (h.agedOut port).port port with
      arb := ((h.agedOut port).egressTurn port).2 }).leaveHead port (q + 1) := by
  unfold Hw.egressTurn at hturn
  unfold egressArbitration
  refine (if_neg (egressArbitration_guard hport hup)).trans ((if_neg (by unfold Hw.agedOut at hnone; rw [hnone]; decide)).trans ?_)
  unfold Hw.agedOut at hturn ⊢
  dsimp only
  rw [hturn]
  rfl

end

theorem ageOut_egress {h : Hw} {e : Env} {port cls : Nat} {b : Buf} {rest : List Buf}
    (hq : SMap.get h.egress [] (egressKey port cls) = b :: rest) (hold : h.aged (portDie port) b.frame = true) :
    let g := (Hw.releaseBuf { h with egress := SMap.put h.egress (egressKey port cls) rest } b).incSat
      Reg.xptDropAged (xptB (portDie port)) 0 1
    ageOut (.egress port cls) e h = if port < 48 then g.noteStall port else g := by
  unfold ageOut
  dsimp only
  rw [hq]
  exact if_pos hold

theorem ageOut_arriving {h : Hw} {e : Env} {die : Nat} {b : Buf}
    (hb : h.arrived.find? (fun b => b.die = die && h.aged die b.frame) = some b) :
    ageOut (.arriving die) e h = (Hw.releaseBuf { h with arrived := h.arrived.erase b } b).incSat
      Reg.xptDropAged (xptB die) 0 1 := by
  unfold ageOut
  dsimp only
  rw [hb]

/-! The level sample (R256). -/

/-- Advancing counters changes registers only. -/
theorem Hw.foldl_inc_eq (f g : FieldRef) (base : Nat → Nat) (m n : Nat) (l : List Nat) : ∀ h : Hw, ∃ regs,
    l.foldl (fun h i => (h.inc f (base i) 0 m).inc g (base i) 0 n) h = { h with regs := regs } := by
  induction l with
  | nil => exact fun h => ⟨h.regs, rfl⟩
  | cons i l ih => exact fun h => ⟨_, (ih _).choose_spec⟩

theorem SMap.find?_map_snd {α β : Type} (f : α → β) (m : SMap α) (k : Nat) :
    SMap.find? (m.map (fun x => (x.1, f x.2))) k = (SMap.find? m k).map f := by
  induction m with
  | nil => rfl
  | cons x m ih =>
    rcases x with ⟨j, v⟩
    simp only [List.map_cons, SMap.find?, ih]
    split <;> rfl

/-- A port's stalled time starts anew at `now`. -/
def Port.restarted (now : Nat) (x : Port) : Port :=
  { x with stalled := 0, stallSince := x.stallSince.map (fun _ => now) }

theorem Port.stallTime_restarted (now : Nat) (x : Port) : (x.restarted now).stallTime now = 0 := by
  rcases hx : x.stallSince with _ | t <;> simp [Port.stallTime, Port.restarted, hx]

theorem Hw.stallTime_of_restarted {h : Hw} {m : SMap Port}
    (hm : h.ports = m.map (fun x => (x.1, x.2.restarted h.now))) (p : Nat) : (h.port p).stallTime h.now = 0 := by
  rw [Hw.port, SMap.get, hm, SMap.find?_map_snd]
  rcases SMap.find? m p with _ | x
  · rfl
  · exact Port.stallTime_restarted h.now x

/-- Whether enough ports of a level were stalled for more than half of the interval that ends. -/
def Hw.levelFound (h : Hw) (f : FieldRef) (far : Bool) : Bool :=
  h.rf f (xptB 24) ≠ 0 && h.rf f (xptB 24) ≤ ((upto 48).filter (fun p =>
    h.now - h.sampleAt < 2 * (h.port p).stallTime h.now && h.portLevel p = some far)).length

/-- The sample keeps all but what it judges, the ports' stalled times and two counters. -/
theorem levelSample_eq (h : Hw) (e : Env) : ∃ regs, levelSample e h =
    { h.reach (h.sampleAt + 1000) with
      regs := regs
      satLocal := (h.reach (h.sampleAt + 1000)).levelFound Reg.xptNmLocalSatPorts false
      satGlobal := (h.reach (h.sampleAt + 1000)).levelFound Reg.xptNmGlobalSatPorts true
      sampleAt := (h.reach (h.sampleAt + 1000)).now
      ports := h.ports.map (fun x => (x.1, x.2.restarted (h.reach (h.sampleAt + 1000)).now)) } :=
  Hw.foldl_inc_eq _ _ (fun i => xptB (24 + i)) _ _ _ _

theorem Hw.levelFound_eq (h : Hw) (f : FieldRef) (far : Bool) : h.levelFound f far =
    (h.rf f (xptB 24) ≠ 0 && h.rf f (xptB 24) ≤ ((List.range 48).filter (fun p =>
      Decidable.decide (h.now - h.sampleAt < 2 * (h.port p).stallTime h.now) && h.portLevel p == some far)).length) := by
  unfold Hw.levelFound upto
  congr 5
  funext p
  rw [beq_eq_decide]

/-! Multicast (R287 to R291). -/

/-- A COLL frame for the switch core of F-die `die`. -/
theorem multicastFrame_guard {f : Frame} (htyp : Frame.typ f = 9) (hunit : cUnit (Frame.dst f) = 9)
    (h24 : 24 ≤ cDie (Frame.dst f)) (h28 : cDie (Frame.dst f) < 28) :
    ¬ (Frame.typ f ≠ 9 || cUnit (Frame.dst f) ≠ 9 || cDie (Frame.dst f) < 24 || 28 ≤ cDie (Frame.dst f)) = true := by
  rw [htyp, hunit, decide_eq_false (Nat.not_lt.mpr h24), decide_eq_false (Nat.not_le.mpr h28)]
  decide

/-- The multicast entry that a frame names. -/
def Hw.mcEntryOf (h : Hw) (f : Frame) : Option (Nat × List Nat) :=
  h.mcEntry (cDie (Frame.dst f)) (bits (Frame.arg f) 9 0) (bits (Frame.arg f) 25 10)

/-- A frame may be taken: its entry makes no copies, or there is room for its original. -/
def Hw.mcMay (h : Hw) (f : Frame) : Bool :=
  !(match h.mcEntry (cDie (Frame.dst f)) (bits (Frame.arg f) 9 0) (bits (Frame.arg f) 25 10) with
    | some (_, targets) => !targets.isEmpty
    | none => false) || h.mcRoom f (cDie (Frame.dst f))

section
variable {h g : Hw} {e : Env} {f : Frame} {b : Buf}

theorem multicastFrame_missed (htyp : Frame.typ f = 9) (hunit : cUnit (Frame.dst f) = 9)
    (h24 : 24 ≤ cDie (Frame.dst f)) (h28 : cDie (Frame.dst f) < 28) (harr : h.arrive f (fun h => h.mcMay f) = (true, g))
    (hentry : g.mcEntryOf f = none) : multicastFrame f e h = g.inc Reg.swMcMissed (swB (cDie (Frame.dst f))) 0 1 := by
  unfold Hw.mcEntryOf at hentry
  unfold multicastFrame
  refine (if_neg (multicastFrame_guard htyp hunit h24 h28)).trans ?_
  dsimp only
  split
  next g' hg => exact absurd (hg.symm.trans harr) (by simp)
  next g' hg =>
    obtain rfl : g' = g := congrArg (fun r => r.2) (hg.symm.trans harr)
    rw [hentry]

theorem multicastFrame_held {tag : Nat} {targets : List Nat} (htyp : Frame.typ f = 9) (hunit : cUnit (Frame.dst f) = 9)
    (h24 : 24 ≤ cDie (Frame.dst f)) (h28 : cDie (Frame.dst f) < 28) (hb : h.arrived.find? (fun b => b.frame = f) = some b)
    (harr : h.arrive f (fun h => h.mcMay f) = (true, g)) (hentry : g.mcEntryOf f = some (tag, targets)) (hne : targets ≠ []) :
    multicastFrame f e h = { g with
      originals := g.originals ++ [{ id := g.nextOrig, die := cDie (Frame.dst f), inDie := b.die, point := b.point, frame := f
                                     tag := tag, copies := targets.zipIdx.map (fun x => (x.2, x.1, false)) }]
      nextOrig := g.nextOrig + 1 } := by
  unfold Hw.mcEntryOf at hentry
  unfold multicastFrame
  refine (if_neg (multicastFrame_guard htyp hunit h24 h28)).trans ?_
  rw [hb]
  dsimp only
  split
  next g' hg => exact absurd (hg.symm.trans harr) (by simp)
  next g' hg =>
    obtain rfl : g' = g := congrArg (fun r => r.2) (hg.symm.trans harr)
    rw [hentry]
    exact if_neg (by rw [List.isEmpty_eq_false_iff.mpr hne]; decide)

end

/-- The hardware once the only copy of the only original has been handed over. -/
def Hw.copySent (h : Hw) (die : Nat) (o : McOrig) (t c : Nat) : Hw :=
  { (h.inc Reg.swMcCopies (swB die) 0 1) with originals := [{ o with copies := [(t, c, true)] }] }

theorem multicastCopy_sends {h g : Hw} {e : Env} {die t c : Nat} {o : McOrig} {x : TxFrame} (h24 : 24 ≤ die) (h28 : die < 28)
    (horig : h.originals = [o]) (hdie : o.die = die) (hheld : h.copyHeld die o = false) (hcopies : o.copies = [(t, c, false)])
    (hx : x = o.copyFor (h.coord die 9) t c) (hready : h.copyReady e.tl.det die x = true)
    (hgo : (h.copySent die o t c).judgeTx die false x ≠ TxVerdict.fail)
    (hsent : (h.copySent die o t c).transmit e.tl.det die x = some g) : multicastCopy die e h = g := by
  have hlist : ((h.originals.filter (fun o => o.die = die && !h.copyHeld die o)).flatMap (fun o =>
      (o.copies.filter (fun c => !c.2.2)).map (fun c => (o, c.1, o.copyFor (h.coord die 9) c.1 c.2.1)))) = [(o, t, x)] := by
    rw [horig, List.filter_cons_of_pos (by rw [decide_eq_true hdie, hheld]; rfl), List.filter_nil, List.flatMap_singleton,
      hcopies, hx]
    rfl
  have hmark : h.originals.map (fun q => if q.id = o.id then
      { q with copies := q.copies.map (fun c => if c.1 = t then (c.1, c.2.1, true) else c) } else q) =
        [{ o with copies := [(t, c, true)] }] := by
    rw [horig, List.map_singleton, if_pos rfl, hcopies, List.map_singleton, if_pos rfl]
  unfold multicastCopy
  refine (if_neg (fdie_guard h24 h28)).trans ?_
  extract_lets l
  have hfind : l.find? (fun x => h.copyReady e.tl.det die x.2.2) = some (o, t, x) :=
    (congrArg _ hlist).trans (List.find?_cons_of_pos hready)
  split
  next hnone => exact absurd (hnone.symm.trans hfind) nofun
  next o' t' x' hsome =>
    obtain ⟨rfl, rfl, rfl⟩ : o' = o ∧ t' = t ∧ x' = x := by simpa using hsome.symm.trans hfind
    extract_lets sent g'
    have hg' : g' = h.copySent die o' t' c :=
      congrArg (fun l => { (h.inc Reg.swMcCopies (swB die) 0 1) with originals := l }) hmark
    rw [hg', if_neg hgo, hsent]

/-- Settles O26: each switch command, under the conditions that the statement names, takes the branch of its meaning that
they choose; the level sample touches what it judges, the stalled times and two counters only. -/
theorem switchesForwardAndCopy : Obligations.SwitchesForwardAndCopy := by
  unfold Obligations.SwitchesForwardAndCopy
  refine ⟨fun s hs => ⟨?_, ?_, ?_, ?_⟩, fun s hs => ?_, fun s hs => ⟨?_, ?_⟩⟩
  · intro die point f h24 h28 hpoint sw q hfound
    exact ⟨fun hgoes => onHw_to (switchForward_forwards (e := s.env) h24 h28 hpoint hfound hgoes),
      fun hwf hyoung hshared hguard => onHw_same hs (switchForward_waits h24 h28 hpoint hfound hwf hyoung hshared hguard)⟩
  · intro port hport hup
    exact ⟨fun hsend => onHw_to (egressArbitration_control (e := s.env) hport hup hsend),
      fun q hnone hturn => onHw_to (egressArbitration_class (e := s.env) hport hup hnone hturn)⟩
  · exact fun port cls b rest hq hold => onHw_to (ageOut_egress (e := s.env) hq hold)
  · exact fun die b hb => onHw_to (ageOut_arriving (e := s.env) hb)
  · obtain ⟨regs, heq⟩ := levelSample_eq s.hw s.env
    exact ⟨_, onHw_keeps hs heq rfl rfl, Hw.levelFound_eq _ _ _, Hw.levelFound_eq _ _ _, rfl,
      Hw.stallTime_of_restarted rfl, rfl, rfl, rfl⟩
  · intro f h b die entry htyp hunit h24 h28 makes hb harr
    exact ⟨fun hentry => onHw_to (multicastFrame_missed (e := s.env) htyp hunit h24 h28 harr hentry),
      fun tag targets hentry hne => onHw_to (multicastFrame_held (e := s.env) htyp hunit h24 h28 hb harr hentry hne)⟩
  · intro die o t c x h' h24 h28 horig hdie hheld hcopies hx hready h hgo hsent
    exact onHw_to (multicastCopy_sends (e := s.env) h24 h28 horig hdie hheld hcopies hx hready hgo hsent)

end Sys2Proof.Machine
end

section
/-! SUPPORT. Exchanges (R266 to R274, R568): what the commands of a transport engine's descriptors and the frames of an
exchange answer, by their conditions. -/

namespace Sys2Proof.Machine

theorem Hw.counted.txq {h g : Hw} (hg : h.counted g) : g.txq = h.txq := by
  obtain ⟨_, _, _, rfl⟩ := hg
  rfl

/-! XCH_SEND (R266, R568). -/

section
variable {h h1 h2 : Hw} {e : Env} {f : Nat} {j : Job} {pre lists : List Byte}

theorem xchSend_of_job (h24 : 24 ≤ f) (h28 : f < 28)
    (hcodes : (h.queue f 8).find? (fun j => !j.started && (j.body.fld 0 7 0 < 0x11 || 0x14 < j.body.fld 0 7 0)) = none)
    (hj : h.xchJob f 0x11 = some j) : xchSend f e h = (h.runSend e f j).settleExchange e := by
  unfold xchSend
  refine (if_neg (fdie_guard h24 h28)).trans ?_
  rw [hcodes, hj]

theorem Hw.runSend_of_reads (hok : h.sendOk e j.body = true) (hreach : h.sendReach e j.body = true)
    (hown : h.kpostForeign j.origin (j.body.fld 0 16 14) = false) (hloaded : h.loaded (j.body.fld 0 16 14) = true)
    (hpre : runOp (readExt e (j.body.fld 8 63 0) 32) h = (.ok pre, h1)) (hmagic : pay pre 0 4 = 0x20)
    (hlists : runOp (readExt e (j.body.fld 8 63 0 + 0x20) (32 * pay pre 4 4)) h1 = (.ok lists, h2)) :
    h.runSend e f j = h2.sendOut e f j pre lists := by
  unfold Hw.runSend
  refine (if_neg (by rw [hown]; decide)).trans ((if_neg (by rw [hok]; decide)).trans
    ((if_neg (by rw [hreach]; decide)).trans ((if_neg (by rw [hloaded]; decide)).trans ?_)))
  dsimp only
  rw [hpre]
  refine (if_neg (not_not.mpr hmagic)).trans ?_
  rw [hlists]

end

/-! XCH_OPEN and XCH_CLOSE (R269, R274). -/

/-- The descriptor's own fields and the free exchange tag let an XCH_OPEN go on. -/
structure Hw.OpenOk (h : Hw) (j : Job) : Prop where
  high : j.body.fld 0 31 11 = 0
  rest : j.body.fld 0x18 319 0 = 0
  nsrc : 1 ≤ j.body.fld 4 31 0 ∧ j.body.fld 4 31 0 ≤ 65535
  count : 1 ≤ j.body.fld 0x0C 31 0 ∧ j.body.fld 0x0C 31 0 ≤ 4096
  free : SMap.find? h.opens (j.body.fld 8 31 0) = none
  own : h.kpostForeign j.origin (j.body.fld 0 10 8) = false
  loaded : h.loaded (j.body.fld 0 10 8) = true

/-- The landing entries of a table that has been read. -/
def openRaws (n : Nat) (bs : List Byte) : List Desc :=
  (upto n).map (fun i => (BitVec.ofNat 1024 (ofBytes ((bs.drop (64 * i)).take 64)) : Desc))

/-- An exchange opened with the entries of its table. -/
def Hw.openedX (h : Hw) (e : Env) (d : Desc) (raws : List Desc) : Hw :=
  { h with
    opens := SMap.put h.opens (d.fld 8 31 0)
      { part := d.fld 0 10 8, nsrc := d.fld 4 31 0
        table := (match h.localMem e (d.fld 0x10 63 0) (64 * d.fld 0x0C 31 0) with | .ok a => a | .error _ => 0)
        ents := raws.map (fun r => { h.entryOf e r with waiting := (h.entryOf e r).waiting && h.entryOk e r }) }
    closedX := h.closedX.filter (fun x => x ≠ d.fld 8 31 0) }

/-- The opened exchange's bad entries end, and its landings are asked of Keeper. -/
def Hw.landings (h : Hw) (e : Env) (d : Desc) (raws : List Desc) : Hw :=
  raws.zipIdx.foldl (fun (h : Hw) (x : Desc × Nat) =>
    if !h.entryOk e x.1 then h.endEntry (d.fld 8 31 0) x.2 .badDescriptor
    else if x.1.fld 2 3 3 = 1 then h.landAlloc (d.fld 0 10 8) x.1 (d.fld 8 31 0) x.2
    else h) h

section
variable {h g : Hw} {e : Env} {f : Nat} {j : Job}

theorem Hw.runOpen_of_read {bs : List Byte} (hok : h.OpenOk j)
    (hread : runOp (readExt e (j.body.fld 0x10 63 0) (64 * j.body.fld 0x0C 31 0)) h = (.ok bs, g)) :
    h.runOpen e f j = ((g.openedX e j.body (openRaws (j.body.fld 0x0C 31 0) bs)).landings e j.body
      (openRaws (j.body.fld 0x0C 31 0) bs)).finishJob f 8 j ⟨.ok, 0, 0⟩ := by
  obtain ⟨hhigh, hrest, hnsrc, hcount, hfree, hown, hloaded⟩ := hok
  unfold Hw.runOpen
  refine (if_neg (by rw [hown]; decide)).trans ((if_neg ?_).trans ((if_neg (by rw [hloaded]; decide)).trans ?_))
  · rw [hhigh, hrest, hfree, decide_eq_false (by omega : ¬ j.body.fld 4 31 0 = 0),
      decide_eq_false (by omega : ¬ 65535 < j.body.fld 4 31 0),
      decide_eq_false (by omega : ¬ j.body.fld 0x0C 31 0 = 0),
      decide_eq_false (by omega : ¬ 4096 < j.body.fld 0x0C 31 0)]
    decide
  · rw [hread]
    rfl

theorem xchOpen_of_job (h24 : 24 ≤ f) (h28 : f < 28) (hj : h.xchJob f 0x12 = some j) :
    xchOpen f e h = h.runOpen e f j := by
  unfold xchOpen
  refine (if_neg (fdie_guard h24 h28)).trans ?_
  rw [hj]

theorem xchClose_of_job (h24 : 24 ≤ f) (h28 : f < 28) (hj : h.xchJob f 0x14 = some j) :
    xchClose f e h = h.runClose f j := by
  unfold xchClose
  refine (if_neg (fdie_guard h24 h28)).trans ?_
  rw [hj]

/-- No reserved bit of an XCH_CLOSE is set. -/
def closeFieldsOk (d : Desc) : Prop := d.fld 0 31 8 = 0 ∧ d.fld 4 31 0 = 0 ∧ d.fld 0x0C 415 0 = 0

theorem closeFields_guard {d : Desc} (hd : closeFieldsOk d) :
    ¬ (d.fld 0 31 8 ≠ 0 || d.fld 4 31 0 ≠ 0 || d.fld 0x0C 415 0 ≠ 0) = true := by
  obtain ⟨h1, h2, h3⟩ := hd
  rw [h1, h2, h3]
  decide

theorem Hw.runClose_free (hd : closeFieldsOk j.body) (hnone : SMap.find? h.settleLandings.opens (j.body.fld 8 31 0) = none) :
    h.runClose f j = h.settleLandings.finishJob f 8 j ⟨.ok, 0, 0⟩ := by
  unfold Hw.runClose
  dsimp only
  rw [hnone]
  exact (if_neg Bool.false_ne_true).trans (if_neg (closeFields_guard hd))

/-- Landing stops and the returns that wait abort. -/
def Hw.closeStopped (h : Hw) (xtag n : Nat) : Hw :=
  (upto 4).foldl (fun h k => (h.queue (24 + k) 8).foldl (fun h q =>
    if q.body.fld 0 7 0 = 0x13 && !q.started && q.sent = 0 && q.body.fld 4 31 0 = xtag then h.xchDone (24 + k) q .aborted
    else h) h) ((upto n).foldl (fun h i => h.endEntry xtag i .aborted) h)

theorem Hw.runClose_open {o : XOpen} (hd : closeFieldsOk j.body)
    (hopen : SMap.find? h.settleLandings.opens (j.body.fld 8 31 0) = some o)
    (hown : h.settleLandings.kpostForeign j.origin o.part = false) :
    let g := h.settleLandings.closeStopped (j.body.fld 8 31 0) o.ents.length
    h.runClose f j = ((match SMap.find? g.opens (j.body.fld 8 31 0) with
      | some o => { g with opens := SMap.put g.opens (j.body.fld 8 31 0) { o with closing := true } }
      | none => g).putJob f 8 { j with started := true }).tryClose (j.body.fld 8 31 0) := by
  unfold Hw.runClose
  dsimp only
  rw [hopen]
  exact (if_neg (by rw [Option.any_some, hown]; decide)).trans (if_neg (closeFields_guard hd))

end

/-- Settles O27: the reads of a descriptor answer what memory holds, and the rest is the branch that its fields choose. -/
theorem exchangesSendOpenAndClose : Obligations.ExchangesSendOpenAndClose := by
  unfold Obligations.ExchangesSendOpenAndClose
  refine ⟨fun s f j hs h24 h28 => ?_, fun s f j hs h24 h28 => ⟨?_, ?_⟩⟩
  · intro d a sent hcodes hj hok hreach hown hloaded
    have hsent : ∀ pre lists h1 h2, runOp (readExt s.env a 32) s.hw = (.ok pre, h1) → pay pre 0 4 = 0x20 →
        runOp (readExt s.env (a + 0x20) (32 * pay pre 4 4)) h1 = (.ok lists, h2) → sent pre lists h2 := by
      intro pre lists h1 h2 hpre hmagic hlists
      have hrun := Hw.runSend_of_reads (f := f) hok hreach hown hloaded hpre hmagic hlists
      exact onHw_to ((xchSend_of_job (e := s.env) h24 h28 hcodes hj).trans (congrArg (Hw.settleExchange · s.env) hrun))
    refine ⟨hsent, ?_⟩
    intro p q hsound hp pre hmagic hq
    obtain ⟨h1, hpre, hh1⟩ := (Reads.readExt hsound hp).run
    obtain ⟨h2, hlists, hh2⟩ := Reads.readExt hsound hq h1 hh1
    exact ⟨h2, hh2.counted.mem, hh2.counted.txq, hsent _ _ h1 h2 hpre hmagic hlists⟩
  · intro hj hhigh hrest hn1 hn2 hc1 hc2 hfree hown hloaded
    have hopened : ∀ bs h, runOp (readExt s.env (j.body.fld 0x10 63 0) (64 * j.body.fld 0x0C 31 0)) s.hw = (.ok bs, h) →
        xchOpen f s.env s.hw = ((h.openedX s.env j.body (openRaws (j.body.fld 0x0C 31 0) bs)).landings s.env j.body
          (openRaws (j.body.fld 0x0C 31 0) bs)).finishJob f 8 j ⟨.ok, 0, 0⟩ := fun bs h hread =>
      (xchOpen_of_job h24 h28 hj).trans
        (Hw.runOpen_of_read ⟨hhigh, hrest, ⟨hn1, hn2⟩, ⟨hc1, hc2⟩, hfree, hown, hloaded⟩ hread)
    refine ⟨fun bs h hread => onHw_to (hopened bs h hread), fun p hsound hp => ?_⟩
    obtain ⟨h, hread, hh⟩ := (Reads.readExt hsound hp).run
    exact ⟨h, hh.counted.mem, onHw_to (hopened _ h hread)⟩
  · intro hj hf1 hf2 hf3
    have hrun := xchClose_of_job (e := s.env) h24 h28 hj
    exact ⟨fun hnone => onHw_to (hrun.trans (Hw.runClose_free ⟨hf1, hf2, hf3⟩ hnone)),
      fun o hopen hown => onHw_to (hrun.trans (Hw.runClose_open ⟨hf1, hf2, hf3⟩ hopen hown))⟩

/-! XCH_RETURN (R272, R274). -/

/-- The frames of one position of an XCH_RETURN: its tag record says where its row goes. -/
def returnRead (e : Env) (x : XOpen) (ent : XEnt) (d : Desc) (src : Nat) (o : Owner) (pos : Nat) : Op (List TxFrame) := do
  let rec_ ← match ent.tags with
  | none => failSt .destUnreachable
  | some a => loadB (a + 16 * pos) 16
  let n := ((x.srcs.find? (fun s => s.coord = pay rec_ 8 4)).map (fun s => s.retBytes)).getD 0
  let bs ← if n = 0 then pure [] else readExt e (d.fld 0x10 63 0 + pos * d.fld 0x0C 31 0) n
  return retFrames src x.part o (pay rec_ 0 8) (pay rec_ 8 4) bs

/-- One position's frames join those before it, until a read fails. -/
def readOn (rd : Nat → Op (List TxFrame)) (a : List TxFrame × Option Fail × Hw) (pos : Nat) :
    List TxFrame × Option Fail × Hw :=
  match a.2.1 with
  | some _ => a
  | none => match runOp (rd pos) a.2.2 with
    | (.ok l, h) => (a.1 ++ l, none, h)
    | (.error f, h) => (a.1, some f, h)

theorem returnFrames_eq (e : Env) (x : XOpen) (ent : XEnt) (d : Desc) (src : Nat) (o : Owner) (h : Hw) :
    returnFrames e x ent d src o h = (upto ent.count).foldl (readOn (returnRead e x ent d src o)) ([], none, h) := rfl

theorem readOn_of_reads {rd : Nat → Op (List TxFrame)} {h g : Hw} {pos : Nat} {l : List TxFrame} (acc : List TxFrame)
    (hrun : runOp (rd pos) g = (.ok l, h)) : readOn rd (acc, none, g) pos = (acc ++ l, none, h) := by
  unfold readOn
  rw [hrun]

theorem foldl_readOn {rd : Nat → Op (List TxFrame)} {h : Hw} (l : List Nat) (hrd : ∀ pos ∈ l, ∃ fs, Reads (rd pos) h fs) :
    ∀ (acc : List TxFrame) (g : Hw), h.tallied g →
      ∃ frames g', l.foldl (readOn rd) (acc, none, g) = (frames, none, g') ∧ h.tallied g' := by
  induction l with
  | nil => exact fun acc g hg => ⟨acc, g, rfl, hg⟩
  | cons pos l ih =>
    intro acc g hg
    obtain ⟨fs, hfs⟩ := hrd pos List.mem_cons_self
    obtain ⟨k, hrun, hk⟩ := hfs g hg
    rw [List.foldl_cons, readOn_of_reads acc hrun]
    exact ih (fun q hq => hrd q (List.mem_cons_of_mem _ hq)) _ k hk

/-- Bytes that a row returned to the source at coordinate `dst` has. -/
def XOpen.retBytesTo (x : XOpen) (dst : Nat) : Nat := ((x.srcs.find? (fun q => q.coord = dst)).map (fun q => q.retBytes)).getD 0

theorem Reads.bind_exists {α β : Type} {op : Op α} {f : α → Op β} {h : Hw} {a : α} (ha : Reads op h a)
    (hb : ∃ b, Reads (f a) h b) : ∃ b, Reads (op >>= f) h b := hb.imp fun _ => ha.bind

theorem Reads.returnRead {h : Hw} (hs : h.sound) {e : Env} {x : XOpen} {ent : XEnt} {d : Desc} {src : Nat} {o : Owner}
    {a pos : Nat} (htags : ent.tags = some a)
    (hrow : x.retBytesTo (Mem.num h.mem (a + 16 * pos + 8) 4) ≠ 0 → ∃ p, h.localMem e (d.fld 0x10 63 0 + pos * d.fld 0x0C 31 0)
      (x.retBytesTo (Mem.num h.mem (a + 16 * pos + 8) 4)) = .ok p) :
    ∃ fs, Reads (Machine.returnRead e x ent d src o pos) h fs := by
  have hdst : pay (Mem.read h.mem (a + 16 * pos) 16) 8 4 = Mem.num h.mem (a + 16 * pos + 8) 4 :=
    Mem.pay_read _ _ _ _ _ (by decide)
  unfold Machine.returnRead XOpen.retBytesTo at *
  rw [htags]
  rw [← hdst] at hrow
  refine Reads.bind_exists (.loadB hs _ 16) ?_
  dsimp only
  by_cases hn : ((x.srcs.find? (fun s => s.coord = pay (Mem.read h.mem (a + 16 * pos) 16) 8 4)).map
      (fun s => s.retBytes)).getD 0 = 0
  · rw [if_pos hn]
    exact ⟨_, (Reads.pure h []).bind (.pure h _)⟩
  · obtain ⟨p, hp⟩ := hrow hn
    rw [if_neg hn]
    exact ⟨_, (Reads.readExt hs hp).bind (.pure h _)⟩

theorem returnFrames_sound {h : Hw} (hs : h.sound) {e : Env} {x : XOpen} {ent : XEnt} {d : Desc} {src : Nat} {o : Owner}
    {a : Nat} (htags : ent.tags = some a)
    (hrows : ∀ pos < ent.count, x.retBytesTo (Mem.num h.mem (a + 16 * pos + 8) 4) ≠ 0 →
      ∃ p, h.localMem e (d.fld 0x10 63 0 + pos * d.fld 0x0C 31 0) (x.retBytesTo (Mem.num h.mem (a + 16 * pos + 8) 4)) = .ok p) :
    ∃ frames g, returnFrames e x ent d src o h = (frames, none, g) ∧ h.tallied g := by
  rw [returnFrames_eq]
  exact foldl_readOn _ (fun pos hpos => Reads.returnRead hs htags (hrows pos (List.mem_range.mp hpos))) [] h (.refl h)

/-- The fields of an XCH_RETURN are as they have to be. -/
structure Hw.ReturnOk (h : Hw) (e : Env) (d : Desc) : Prop where
  high : d.fld 0 31 9 = 0
  rest : d.fld 0x24 223 0 = 0
  flag : h.flagFieldOk e (d.fld 0 8 8) (d.fld 0x18 63 0) (d.fld 0x20 31 0) = true
  rows : h.addrOk e (d.fld 0x10 63 0) = true

section
variable {h g : Hw} {e : Env} {f : Nat} {j : Job} {x : XOpen} {ent : XEnt} {frames : List TxFrame}

theorem Hw.ReturnOk.guard (hd : h.ReturnOk e j.body) :
    ¬ (j.body.fld 0 31 9 ≠ 0 || j.body.fld 0x24 223 0 ≠ 0
      || !h.flagFieldOk e (j.body.fld 0 8 8) (j.body.fld 0x18 63 0) (j.body.fld 0x20 31 0)
      || !h.addrOk e (j.body.fld 0x10 63 0)) = true := by
  obtain ⟨hhigh, hrest, hflag, hrows⟩ := hd
  rw [hhigh, hrest, hflag, hrows]
  decide

theorem Hw.runReturn_done (hd : h.ReturnOk e j.body) (hopen : SMap.find? h.opens (j.body.fld 4 31 0) = some x)
    (hown : h.kpostForeign j.origin x.part = false) (hent : x.ents[j.body.fld 8 31 0]? = some ent)
    (hclosing : x.closing = false) (hdone : ent.done = true) (hsent : j.sent = 0)
    (hbuilt : returnFrames e x ent j.body (h.coord f 8) (.job f 8 j.tag) h = (frames, none, g)) :
    h.runReturn e f j = (frames.foldl (fun (h : Hw) (t : TxFrame) => h.send t) g).putJob f 8
      { j with started := true, result := some (.ok, ent.count) } := by
  unfold Hw.runReturn
  dsimp only
  rw [hopen]
  refine (if_neg (by rw [Option.any_some, hown]; decide)).trans ((if_neg hd.guard).trans ?_)
  dsimp only
  rw [hent]
  refine (if_neg (by rw [hclosing]; exact Bool.false_ne_true)).trans ((if_neg (by rw [hdone]; decide)).trans ?_)
  rw [hbuilt, hsent]
  rfl

theorem Hw.runReturn_closed (hd : h.ReturnOk e j.body) (hnone : SMap.find? h.opens (j.body.fld 4 31 0) = none)
    (hclosed : h.closedX.contains (j.body.fld 4 31 0) = true) :
    h.runReturn e f j = h.finishJob f 8 j ⟨.aborted, 0, 0⟩ := by
  unfold Hw.runReturn
  dsimp only
  rw [hnone]
  refine (if_neg Bool.false_ne_true).trans ((if_neg hd.guard).trans ?_)
  dsimp only
  rw [hclosed]
  rfl

/-- The entry of the only descriptor can be judged now: it is done, or its exchange is not open. -/
theorem xchReturn_of_head (h24 : 24 ≤ f) (h28 : f < 28) (hq : h.queue f 8 = [j]) (hnew : j.started = false)
    (hop : j.body.fld 0 7 0 = 0x13)
    (hready : SMap.find? h.opens (j.body.fld 4 31 0) = none ∨ ∃ x ent, SMap.find? h.opens (j.body.fld 4 31 0) = some x ∧
      x.ents[j.body.fld 8 31 0]? = some ent ∧ ent.done = true) :
    xchReturn f e h = (h.runReturn e f j).settleExchange e := by
  unfold xchReturn
  refine (if_neg (fdie_guard h24 h28)).trans ?_
  dsimp only
  rw [hq, List.find?_cons_of_pos]
  rw [hop, hnew]
  rcases hready with hnone | ⟨x, ent, hopen, hent, hdone⟩
  · rw [hnone]
    rfl
  · rw [hopen]
    dsimp only
    rw [hent]
    dsimp only
    rw [hdone]
    rfl

end

/-! Frames of an exchange (R267, R268, R272). -/

section
variable {h g h1 : Hw} {e : Env} {f : Frame}

theorem exchHdr_arrived (htyp : Frame.typ f = 2) (harr : h.arrive f (fun h => h.xtagKnown (pay f.payload 0 4)) = (true, g)) :
    let key := flowKey (cDie (Frame.src f)) (cNode (Frame.src f))
    exchHdr f e h = (g.setRxFlow key { g.rxFlow key with
      xtags := ((Frame.xidx f, pay f.payload 0 4) ::
        (g.rxFlow key).xtags.filter (fun q => q.1 ≠ Frame.xidx f)).take 4 }).landHeaders e.tl.det (pay f.payload 0 4) f := by
  unfold exchHdr
  refine (if_neg (not_not.mpr htyp)).trans ?_
  dsimp only
  rw [harr]

theorem exchRow_arrived {tag : Nat} (htyp : Frame.typ f = 3) (harr : h.arrive f (fun h => h.rowReady f) = (true, g))
    (htag : g.xtagOf f = some tag) : exchRow f e h = g.landRows tag f := by
  unfold exchRow
  refine (if_neg (not_not.mpr htyp)).trans ?_
  rw [harr]
  dsimp only
  rw [htag]

/-- Bytes of a returned row's frame that lie in the row. -/
def XRet.part (x : XRet) (f : Frame) : Nat :=
  min f.payload.length (x.bytes - (Frame.arg f - x.lo) % orElse x.stride 1)

/-- A frame of a returned row whose bytes have been written: the count goes on, or the row's owner hears of its end. -/
theorem exchRet_written {x : XRet} {off : Nat} (htyp : Frame.typ f = 4)
    (harr : h.arrive f (fun h => !h.clearing (Frame.arg f) f.payload.length) = (true, g)) (hrets : g.xrets = [x])
    (hsrc : x.src = Frame.dst f) (hlo : x.lo ≤ Frame.arg f) (hhi : Frame.arg f < x.lo + x.pairs * x.stride)
    (hoff : g.localMem e (Frame.arg f) (x.part f) = .ok off)
    (hstore : runOp (storeB off (f.payload.take (x.part f))) g = (.ok (), h1)) :
    exchRet f e h = if x.pairs * x.bytes ≤ x.got + x.part f then
      Hw.flag { h1 with xrets := h1.xrets.filter (fun z => z.job ≠ x.job) } x.flag x.tag x.pairs
      else { h1 with xrets := h1.xrets.map (fun z => if z.job = x.job then { x with got := x.got + x.part f } else z) } := by
  have hfind : g.xrets.find? (fun x => x.src = Frame.dst f && x.lo ≤ Frame.arg f
      && Frame.arg f < x.lo + x.pairs * x.stride) = some x := by
    rw [hrets]
    exact List.find?_cons_of_pos (by rw [hsrc, decide_eq_true hlo, decide_eq_true hhi, decide_eq_true rfl]; rfl)
  unfold XRet.part at hoff hstore ⊢
  unfold exchRet
  refine (if_neg (not_not.mpr htyp)).trans ?_
  rw [harr]
  dsimp only
  rw [hfind]
  dsimp only
  rw [show g.localMem e (Frame.arg f) (Nat.min _ _) = _ from hoff]
  dsimp only
  rw [show runOp (storeB off (f.payload.take (Nat.min _ _))) g = _ from hstore]

end

/-- Settles O28: returned rows are read from memory as it stands, and each frame lands by the branch that its exchange
chooses. -/
theorem exchangesReturnAndLand : Obligations.ExchangesReturnAndLand := by
  unfold Obligations.ExchangesReturnAndLand
  refine ⟨fun s f j x ent hs h24 h28 => ?_, fun s f h hs => ⟨?_, ?_, ?_⟩⟩
  · intro d xtag hq hnew hsent hop hhigh hrest hflag haddr
    have hok : s.hw.ReturnOk s.env j.body := ⟨hhigh, hrest, hflag, haddr⟩
    refine ⟨fun hopen hown hent hclosing hdone => ?_, fun hnone hclosed => ?_⟩
    · intro built returned
      have hreturned : ∀ frames h, built = (frames, none, h) → returned frames h := fun frames h hbuilt =>
        onHw_to ((xchReturn_of_head (e := s.env) h24 h28 hq hnew hop (.inr ⟨x, ent, hopen, hent, hdone⟩)).trans
          (congrArg (Hw.settleExchange · s.env) (Hw.runReturn_done hok hopen hown hent hclosing hdone hsent hbuilt)))
      refine ⟨hreturned, fun a hsound htags hrows => ?_⟩
      obtain ⟨frames, g, hbuilt, hg⟩ := returnFrames_sound (src := s.hw.coord f 8) (o := .job f 8 j.tag) hsound htags hrows
      exact ⟨frames, g, hbuilt, hg.counted.mem, hreturned frames g hbuilt⟩
    · exact onHw_to ((xchReturn_of_head (e := s.env) h24 h28 hq hnew hop (.inl hnone)).trans
        (congrArg (Hw.settleExchange · s.env) (Hw.runReturn_closed hok hnone hclosed)))
  · exact fun htyp harr => onHw_to (exchHdr_arrived (e := s.env) htyp harr)
  · exact fun tag htyp harr htag => onHw_to (exchRow_arrived (e := s.env) htyp harr htag)
  · intro x off htyp harr hrets hsrc hlo hhi n written hoff
    have hwritten : ∀ h1, runOp (storeB off (f.payload.take n)) h = (.ok (), h1) → written h1 := by
      intro h1 hstore
      have hret := exchRet_written (e := s.env) htyp harr hrets hsrc hlo hhi hoff hstore
      exact ⟨fun hmore => onHw_to (hret.trans (if_neg (Nat.not_le.mpr hmore))),
        fun hlast => onHw_to (hret.trans (if_pos hlast))⟩
    refine ⟨hwritten, fun hsound => ?_⟩
    obtain ⟨u, h1, hstore, -⟩ := Completes.storeB off (f.payload.take n) h hsound
    exact ⟨h1, hstore, hwritten h1 hstore⟩

end Sys2Proof.Machine
end

section
/-! SUPPORT. Collectives (R346 to R357): what the decoding of a descriptor reads and answers, how a collective begins or goes
on, and what a chunk that reaches its agent does. -/

namespace Sys2Proof.Machine

/-! Reads of an operation with alternatives. -/

theorem Hw.counted.now {h g : Hw} (hg : h.counted g) : g.now = h.now := by
  obtain ⟨_, _, _, rfl⟩ := hg
  rfl

/-- Two ways to one answer, and what follows it. -/
theorem Reads.ite_bind {α β : Type} {c : Prop} [Decidable c] {op1 op2 : Op α} {f : α → Op β} {h : Hw} {a : α} {b : β}
    (h1 : c → Reads op1 h a) (h2 : ¬ c → Reads op2 h a) (hf : Reads (f a) h b) :
    Reads (if c then op1 >>= f else op2 >>= f) h b := by
  split
  next hc => exact (h1 hc).bind hf
  next hc => exact (h2 hc).bind hf

theorem Reads.pure_eq {α : Type} {h : Hw} {a b : α} (hab : b = a) : Reads (Pure.pure a : Op α) h b := hab ▸ Reads.pure h a

theorem Reads.mapM_upto {α : Type} {h : Hw} {f : Nat → Op α} {r : Nat → α} {n : Nat} (hf : ∀ i < n, Reads (f i) h (r i)) :
    Reads ((upto n).mapM f) h ((upto n).map r) := by
  have hlist : ∀ l : List Nat, (∀ i ∈ l, Reads (f i) h (r i)) → Reads (l.mapM f) h (l.map r) := by
    intro l hl
    rw [← List.mapM'_eq_mapM]
    induction l with
    | nil => exact .pure h _
    | cons i l ih =>
      rw [List.mapM'_cons, List.map_cons]
      exact (hl i List.mem_cons_self).bind
        ((ih fun k hk => hl k (List.mem_cons_of_mem _ hk)).bind (.pure h _))
  exact hlist _ fun i hi => hf i (List.mem_range.mp hi)

/-! Extents that a descriptor names (R38, R40, R347). -/

theorem Hw.sameMap.collLoc {h g : Hw} (hm : h.sameMap g) (e : Env) (a n : Nat) : g.collLoc e a n = h.collLoc e a n := by
  rw [Hw.collLoc, Hw.collLoc, Hw.addrOk, Hw.addrOk, hm.resolve, hm.resolveMem]

theorem Reads.collExt {h : Hw} {e : Env} {a n off : Nat} (hl : h.collLoc e a n = .ok off) :
    Reads (Machine.collExt e a n) h off := by
  refine Reads.get_bind fun g hg => ?_
  rw [hg.sameMap.collLoc, hl]
  exact Reads.pure h off

/-! Decoding (R347, R353 to R355). -/

/-- The operation answers a run of the same descriptor and sequence as `r`. -/
def ReadsRun (op : Op CollRun) (h : Hw) (r : CollRun) : Prop :=
  ∃ q : CollRun, Reads op h q ∧ q.tag = r.tag ∧ q.opseq = r.opseq

theorem ReadsRun.pure {h : Hw} {q r : CollRun} (htag : q.tag = r.tag) (hseq : q.opseq = r.opseq) :
    ReadsRun (Pure.pure q) h r := ⟨q, Reads.pure h q, htag, hseq⟩

theorem ReadsRun.bind {α : Type} {op : Op α} {f : α → Op CollRun} {h : Hw} {a : α} {r : CollRun} (ha : Reads op h a)
    (hf : ReadsRun (f a) h r) : ReadsRun (op >>= f) h r := by
  obtain ⟨q, hq, hsame⟩ := hf
  exact ⟨q, ha.bind hq, hsame⟩

theorem ReadsRun.ite_bind {α : Type} {k : Prop} [Decidable k] {op1 op2 : Op α} {f : α → Op CollRun} {h : Hw} {a : α}
    {r : CollRun} (h1 : k → Reads op1 h a) (h2 : ¬ k → Reads op2 h a) (hf : ReadsRun (f a) h r) :
    ReadsRun (if k then op1 >>= f else op2 >>= f) h r := by
  obtain ⟨q, hq, hsame⟩ := hf
  exact ⟨q, .ite_bind h1 h2 hq, hsame⟩

/-- What follows a look at the hardware, where it does not depend on counts. -/
theorem ReadsRun.get_bind {f : Hw → Op CollRun} {h : Hw} {r : CollRun} (hsame : ∀ k, h.tallied k → f k = f h)
    (hf : ReadsRun (f h) h r) : ReadsRun (get >>= f) h r := by
  obtain ⟨q, hq, hr⟩ := hf
  exact ⟨q, .get_bind fun k hk => (hsame k hk).symm ▸ hq, hr⟩

section
variable {h : Hw} {e : Env} {g : Group} {c : CollD} {f : CollFmt} {own : Nat} {r : CollRun} {src dst : Nat}

theorem readsRun_reduce (hroot : c.op = 0x10 ∨ (c.op = 0x11 ∧ g.ends.contains c.root = true))
    (hsrc : c.zero = false → h.collLoc e c.src (c.count * f.inF.bytes) = .ok src)
    (hdst : (c.op = 0x10 ∨ c.root = own) → h.collLoc e c.dst (c.count * f.outF.bytes) = .ok dst)
    (hnone : (c.op = 0x10 ∨ c.root = own) ∨ c.dst = 0)
    (happart : c.zero = true ∨ ¬ (c.op = 0x10 ∨ c.root = own) ∨
      extOverlap src (c.count * f.inF.bytes) dst (c.count * f.outF.bytes) = false ∨
      (c.op = 0x10 ∧ src = dst ∧ f.inF.bytes = f.outF.bytes)) : ReadsRun (decodeReduce e g c f own r) h r := by
  have hhere : (decide (c.op = 0x10) || decide (c.root = own)) = decide (c.op = 0x10 ∨ c.root = own) :=
    (Bool.decide_or _ _).symm
  unfold decodeReduce
  dsimp only
  rw [hhere]
  refine .bind (.need h _ ?_) (.bind (.need h _ ?_) ?_)
  · rcases hroot with hx | ⟨-, hx⟩
    · rw [decide_eq_true hx]; rfl
    · rw [hx, Bool.or_true]
  · rcases hnone with hx | hx
    · rw [decide_eq_true hx]; rfl
    · rw [decide_eq_true hx, Bool.or_true]
  refine ReadsRun.ite_bind (a := if c.zero = true then 0 else src) (fun hz => .pure_eq (if_pos hz)) (fun hz => ?_) ?_
  · rw [if_neg hz]
    exact .collExt (hsrc (Bool.eq_false_iff.mpr hz))
  refine ReadsRun.ite_bind (a := if (c.op = 0x10 ∨ c.root = own) then dst else 0) (fun hh => ?_) (fun hh => ?_) ?_
  · rw [if_pos (of_decide_eq_true hh)]
    exact .collExt (hdst (of_decide_eq_true hh))
  · exact .pure_eq (if_neg fun hx => hh (decide_eq_true hx))
  refine .bind (.need h _ ?_) (.pure rfl rfl)
  rcases happart with hx | hx | hx | ⟨h10, heq, hb⟩
  · rw [hx]; rfl
  · rw [decide_eq_false hx]; simp
  · by_cases hz : c.zero = true
    · rw [hz]; rfl
    by_cases hh : c.op = 0x10 ∨ c.root = own
    · rw [if_neg hz, if_pos hh, hx]; simp
    · rw [decide_eq_false hh]; simp
  · by_cases hz : c.zero = true
    · rw [hz]; rfl
    · rw [if_neg hz, if_pos (.inl h10), h10, heq, hb]; simp

theorem readsRun_gather
    (hstride : g.ends.length * c.rowBytes ≤ c.dstStride) (hband : c.band = 0 ∨ c.rowBytes % c.band = 0)
    (hflags : c.pieces = true →
      c.pflags + 8 * (g.ends.length * (if c.band = 0 then 1 else c.rowBytes / c.band)) ≤ 0x10000000)
    (hsrc : h.collLoc e c.src (if c.count = 0 ∨ c.rowBytes = 0 then 0 else (c.count - 1) * c.srcStride + c.rowBytes) = .ok src)
    (hdst : h.collLoc e c.dst (if c.count = 0 ∨ c.rowBytes = 0 then 0
      else (c.count - 1) * c.dstStride + g.ends.length * c.rowBytes) = .ok dst)
    (hapart : extOverlap src (if c.count = 0 ∨ c.rowBytes = 0 then 0 else (c.count - 1) * c.srcStride + c.rowBytes) dst
      (if c.count = 0 ∨ c.rowBytes = 0 then 0 else (c.count - 1) * c.dstStride + g.ends.length * c.rowBytes) = false) :
    ReadsRun (decodeGather e g c r) h r := by
  have hempty : (decide (c.count = 0) || decide (c.rowBytes = 0)) = decide (c.count = 0 ∨ c.rowBytes = 0) :=
    (Bool.decide_or _ _).symm
  unfold decodeGather
  dsimp only
  rw [hempty]
  simp only [decide_eq_true_eq]
  refine .bind (.need h _ ?_) (.bind (.need h _ ?_) ?_)
  · rw [decide_eq_true hstride, ← Bool.decide_or, decide_eq_true hband]; rfl
  · rcases hp : c.pieces with _ | _
    · rfl
    · exact decide_eq_true (hflags hp)
  · refine .bind (.collExt hsrc) (.bind (.collExt hdst) (.bind (.need h _ ?_) (.pure rfl rfl)))
    rw [hapart]
    rfl

theorem readsRun_broadcast (hroot : g.ends.contains c.root = true) (hsrc : h.collLoc e c.src c.count = .ok src)
    (hdst : h.collLoc e c.dst c.count = .ok dst) (hapart : extOverlap src c.count dst c.count = false) :
    ReadsRun (decodeBroadcast e g c own r) h r := by
  unfold decodeBroadcast
  refine .bind (.need h _ hroot) (.get_bind (fun k hk => by rw [hk.sameMap.collLoc]) ?_)
  rw [hsrc]
  refine .bind (.need h _ rfl) ?_
  refine ReadsRun.ite_bind (a := if own = c.root then src else 0) (fun ho => ?_) (fun ho => .pure_eq (if_neg ho)) ?_
  · rw [if_pos ho]
    exact .collExt hsrc
  refine .bind (.collExt hdst) (.bind (.need h _ ?_) (.pure rfl rfl))
  by_cases ho : own = c.root
  · rw [if_pos ho, hapart]; simp
  · rw [decide_eq_true ho]; rfl

end

/-! Bundles (R355). -/

theorem disjointExt_iff (l : List (Nat × Nat)) :
    disjointExt l = true ↔ l.Pairwise (fun x y => extOverlap x.1 x.2 y.1 y.2 = false) := by
  induction l with
  | nil => simp [disjointExt]
  | cons x l ih => simp [disjointExt, ih]

theorem extOverlap_zero_right (a n b : Nat) : extOverlap a n b 0 = false := by simp [extOverlap]

/-- Entry `i` of a bundle's table at `p`: its ECOUNT, and whether it brings no input. -/
def bundleSize (m : Mem) (p i : Nat) : Nat := Mem.num m (p + 32 * i + 16) 4
def bundleZero (m : Mem) (p i : Nat) : Prop := Mem.num m (p + 32 * i + 20) 4 = 1

/-- An entry of a bundle is as R355 asks, its input at `src` and its output at `dst`. -/
structure BundleEnt (h : Hw) (e : Env) (f : CollFmt) (p i src dst : Nat) : Prop where
  flags : Mem.num h.mem (p + 32 * i + 20) 4 < 2
  rest : Mem.num h.mem (p + 32 * i + 24) 8 = 0
  none : bundleZero h.mem p i → Mem.num h.mem (p + 32 * i) 8 = 0 ∧ src = 0
  input : ¬ bundleZero h.mem p i →
    h.collLoc e (Mem.num h.mem (p + 32 * i) 8) (bundleSize h.mem p i * f.inF.bytes) = .ok src
  output : h.collLoc e (Mem.num h.mem (p + 32 * i + 8) 8) (bundleSize h.mem p i * f.outF.bytes) = .ok dst

/-- What the reading of the table answers for entry `i`. -/
def bundleRead (m : Mem) (p : Nat) (src dst : Nat → Nat) (i : Nat) : CollEnt × Nat × Nat :=
  ({ elems := bundleSize m p i, src := if bit (Mem.num m (p + 32 * i + 20) 4) 0 then none else some (src i), dst := some (dst i) },
    src i, dst i)

theorem bundle_bit {m : Mem} {p i : Nat} (hw : Mem.num m (p + 32 * i + 20) 4 < 2) :
    bit (Mem.num m (p + 32 * i + 20) 4) 0 = true ↔ bundleZero m p i := by
  unfold bundleZero
  rw [bit_eq, decide_eq_true_eq, pow_zero, Nat.div_one]
  omega

section
variable {h : Hw} {e : Env} {f : CollFmt} {c : CollD} {p : Nat} {src dst : Nat → Nat}

theorem Reads.readBundle (hs : h.sound) (hp : h.collLoc e c.src (32 * c.count) = .ok p)
    (hent : ∀ i < c.count, BundleEnt h e f p i (src i) (dst i)) :
    Reads (Machine.readBundle e f c) h ((upto c.count).map (bundleRead h.mem p src dst)) := by
  unfold Machine.readBundle
  refine (Reads.collExt hp).bind (Reads.ite_bind (a := Mem.read h.mem p (32 * c.count)) (fun hc => .pure_eq ?_)
    (fun _ => .loadB hs p _) (Reads.mapM_upto fun i hi => ?_))
  · rw [hc]
    rfl
  obtain ⟨hflags, hrest, hnone, hinput, houtput⟩ := hent i hi
  have hbytes : ((Mem.read h.mem p (32 * c.count)).drop (32 * i)).take 32 = Mem.read h.mem (p + 32 * i) 32 :=
    Mem.read_slice _ _ _ _ _ (by omega)
  dsimp only
  rw [hbytes]
  have hpay : ∀ k j, k + j ≤ 32 → pay (Mem.read h.mem (p + 32 * i) 32) k j = Mem.num h.mem (p + 32 * i + k) j :=
    fun k j hkj => Mem.pay_read _ _ _ _ _ hkj
  rw [hpay 16 4 (by decide), hpay 20 4 (by decide), hpay 24 8 (by decide), hpay 0 8 (by decide), hpay 8 8 (by decide)]
  refine (Reads.need h _ ?_).bind (Reads.ite_bind (a := src i) (fun hz => .pure_eq ?_) (fun hz => ?_)
    ((Reads.collExt houtput).bind (Reads.pure h _)))
  · have hhigh : bits (Mem.num h.mem (p + 32 * i + 20) 4) 31 1 = 0 := by rw [bits_eq]; omega
    rw [decide_eq_true hhigh, decide_eq_true hrest]
    by_cases hz : bundleZero h.mem p i
    · rw [decide_eq_true (show Mem.num h.mem (p + 32 * i + 0) 8 = 0 from (hnone hz).1)]; simp
    · rw [Bool.eq_false_iff.mpr (mt (bundle_bit hflags).mp hz)]; rfl
  · exact (hnone ((bundle_bit hflags).mp hz)).2
  · exact .collExt (hinput (mt (bundle_bit hflags).mpr hz))

theorem readsRun_bundle {g : Group} {r : CollRun} (hs : h.sound) (hp : h.collLoc e c.src (32 * c.count) = .ok p)
    (hent : ∀ i < c.count, BundleEnt h e f p i (src i) (dst i))
    (htotal : ((upto c.count).map (bundleSize h.mem p)).sum ≤ 2 * f.elems)
    (hapart : ∀ i < c.count, ∀ k < c.count,
      (i ≠ k → extOverlap (dst i) (bundleSize h.mem p i * f.outF.bytes) (dst k) (bundleSize h.mem p k * f.outF.bytes) = false) ∧
      (¬ bundleZero h.mem p k →
        extOverlap (dst i) (bundleSize h.mem p i * f.outF.bytes) (src k) (bundleSize h.mem p k * f.inF.bytes) = false)) :
    ReadsRun (decodeBundle e g c f r) h r := by
  unfold decodeBundle
  refine .bind (.readBundle hs hp hent) (.bind (.need h _ ?_) (.bind (.need h _ ?_) (.pure rfl rfl)))
  · rw [List.map_map]
    exact decide_eq_true htotal
  · rw [List.map_map, List.map_map, Bool.and_eq_true, disjointExt_iff, List.pairwise_map]
    refine ⟨(List.pairwise_lt_range.imp_of_mem ?_), ?_⟩
    · intro i k hi hk hik
      exact (hapart i (List.mem_range.mp hi) k (List.mem_range.mp hk)).1 (Nat.ne_of_lt hik)
    · rw [List.all_map, List.all_eq_true]
      intro i hi
      rw [Function.comp_apply, List.all_map, List.all_eq_true]
      intro k hk
      have hk' := List.mem_range.mp hk
      obtain ⟨hflags, -, -, -, -⟩ := hent k hk'
      have hik := (hapart i (List.mem_range.mp hi) k hk').2
      by_cases hz : bundleZero h.mem p k
      · simp [bundleRead, (bundle_bit hflags).mpr hz, extOverlap_zero_right]
      · simp [bundleRead, Bool.eq_false_iff.mpr (mt (bundle_bit hflags).mp hz), hik hz]

end

/-! The descriptor at the head of the queue. -/

/-- The run of a descriptor before its fields are decoded. -/
def collFirst (h : Hw) (g : Group) (c : CollD) (die : Nat) (a : GMember) (tag : Nat) : CollRun :=
  { die := die, gkey := c.gkey, opseq := a.opseq, tag := some tag, chunks := 0, since := h.now
    sig := g.sig c.gkey a.opseq c.op c.count (if c.op = 0x12 then c.rowBytes else c.root) (if c.op = 0x12 then c.band else 0) }

section
variable {h : Hw} {e : Env} {g : Group} {c : CollD} {own : Nat}

/-- Whatever its operation is, the descriptor decodes. -/
def Hw.Decodes (h : Hw) (e : Env) (g : Group) (c : CollD) (own : Nat) : Prop :=
  ∀ r, ReadsRun (if c.op = 0x12 then decodeGather e g c r else if c.op = 0x13 then decodeBroadcast e g c own r
    else if c.op = 0x14 then decodeBundle e g c (g.fmts 1) r else decodeReduce e g c (g.fmts 1) own r) h r

theorem Hw.Decodes.gather (h12 : c.op = 0x12) (hr : ∀ r, ReadsRun (decodeGather e g c r) h r) : h.Decodes e g c own :=
  fun r => by rw [if_pos h12]; exact hr r

theorem Hw.Decodes.broadcast (h13 : c.op = 0x13) (hr : ∀ r, ReadsRun (decodeBroadcast e g c own r) h r) :
    h.Decodes e g c own :=
  fun r => by rw [if_neg (by omega), if_pos h13]; exact hr r

theorem Hw.Decodes.bundle (h14 : c.op = 0x14) (hr : ∀ r, ReadsRun (decodeBundle e g c (g.fmts 1) r) h r) :
    h.Decodes e g c own :=
  fun r => by rw [if_neg (by omega), if_neg (by omega), if_pos h14]; exact hr r

theorem Hw.Decodes.reduce (hop : c.op = 0x10 ∨ c.op = 0x11) (hr : ∀ r, ReadsRun (decodeReduce e g c (g.fmts 1) own r) h r) :
    h.Decodes e g c own :=
  fun r => by rw [if_neg (by omega), if_neg (by omega), if_neg (by omega)]; exact hr r

theorem readsRun_decodeColl {die : Nat} {a : GMember} {tag : Nat} (hok : c.ok = true)
    (hmove : g.move = (c.op = 0x12 || c.op = 0x13)) (hd : h.Decodes e g c own) :
    ReadsRun (decodeColl e g c die own a tag) h (collFirst h g c die a tag) := by
  have hneed : (c.ok && (if (decide (c.op = 0x12) || decide (c.op = 0x13)) = true then g.move else !g.move)) = true := by
    rw [hok, hmove]
    by_cases hx : (decide (c.op = 0x12) || decide (c.op = 0x13)) = true
    · rw [if_pos hx, hx]; rfl
    · rw [if_neg hx, Bool.eq_false_iff.mpr hx]; rfl
  unfold decodeColl
  refine .bind (.need h _ hneed) (.get_bind (fun k hk => ?_) (hd (collFirst h g c die a tag)))
  rw [hk.counted.now]

end

/-! Begin and progress (R349). -/

section
variable {h k : Hw} {e : Env} {d : Nat} {j : Job} {rest : List Job}

theorem collOp_goes {r : CollRun} (hon : h.dieOn e d = true) (hq : h.queue d 4 = j :: rest)
    (hrun : h.colls.find? (fun r => r.die = d && r.tag = some j.tag) = some r) :
    collOp (CollD.of j.body).op d e h = h.collGo e r := by
  unfold collOp
  rw [hq]
  refine (if_neg (by rw [hon]; simp)).trans ?_
  rw [hrun]

theorem collOp_begins {g : Group} {a : GMember} {r : CollRun} (hon : h.dieOn e d = true) (hq : h.queue d 4 = j :: rest)
    (hrun : h.colls.find? (fun r => r.die = d && r.tag = some j.tag) = none)
    (hgroup : h.group (CollD.of j.body).gkey = some g) (hagent : g.agents.find? (fun a => a.die = d) = some a)
    (hform : g.form.isSome = true) (hgood : a.failed = false)
    (hdec : runOp (decodeColl e g (CollD.of j.body) d (h.coord d 4) a j.tag) h = (.ok r, k)) :
    collOp (CollD.of j.body).op d e h = (k.awaitJob d 4 j).collBegin e g r := by
  unfold collOp
  rw [hq]
  refine (if_neg (by rw [hon]; simp)).trans ?_
  rw [hrun]
  dsimp only
  rw [hgroup]
  dsimp only
  rw [hagent]
  refine (if_neg (by rw [← Option.not_isSome, hform]; exact Bool.false_ne_true)).trans ?_
  rw [hdec]
  exact if_neg (by rw [hgood]; exact Bool.false_ne_true)

end

/-! Chunks that reach an agent (R350 to R353). -/

/-- The agent that a chunk is for can take it, or drops it. -/
def Hw.takes (can : Group → CollRun → Frame → Bool) (f : Frame) (h : Hw) : Bool :=
  match h.chunkFor f with | .wait => false | .drop => true | .run g r => can g r f

section
variable {h k : Hw} {e : Env} {f : Frame} {g : Group} {r r0 : CollRun}

theorem takeChunk_taken {role : Nat} {can : Group → CollRun → Frame → Bool} {act : Env → Group → CollRun → Frame → Hw → Hw}
    (hchunk : isChunk f role = true) (harr : h.arrive f (Hw.takes can f) = (true, k)) (hfor : k.chunkFor f = .run g r0) :
    takeChunk role can act f e h = act e g { r0 with since := k.now } f k := by
  unfold takeChunk
  refine (if_neg (by rw [hchunk]; decide)).trans ?_
  dsimp only
  split
  next k' hk => exact absurd (congrArg (fun x => x.1) (hk.symm.trans harr)) Bool.false_ne_true
  next k' hk =>
    obtain rfl : k' = k := congrArg (fun x => x.2) (hk.symm.trans harr)
    rw [hfor]

theorem contribAct_staged
    (hkid : (g.hostAt r.die ((Pre.of f.payload).idx % 2)).any (fun x => x.kids.any (fun k => k.1 = Frame.src f)) = true)
    (hidx : (Pre.of f.payload).idx < r.chunks)
    (hnew : r.staged.any (fun s => s.1 = (Pre.of f.payload).idx && s.2.1 = Frame.src f) = false) :
    contribAct e g r f h = (Hw.poke { h with freeCount := h.freeCount + 1 } (spWin r.die + g.stage +
      4096 * ((Config.freeWord h.freeCount).toNat % orElse (g.stageSize / 4096) 1)) f.payload).collGo e
        { r with staged := r.staged ++ [((Pre.of f.payload).idx, Frame.src f, f)] } := by
  unfold contribAct
  exact if_neg (by rw [hkid, hnew, decide_eq_false (Nat.not_le.mpr hidx)]; decide)

theorem resultAct_written (hidx : (Pre.of f.payload).idx < r.chunks) (hnew : r.got.contains (Pre.of f.payload).idx = false)
    (hst : (Pre.of f.payload).status = 0) (hsat : (Pre.of f.payload).sat = 0) (hnon : (Pre.of f.payload).nonfin = 0) :
    resultAct e g r f h = (h.collForward g r f ((Pre.of f.payload).idx % 2)).writeResults e g
      { r with got := r.got ++ [(Pre.of f.payload).idx], held := r.held ++ [f] } := by
  unfold resultAct
  dsimp only
  rw [hst, hsat, hnon, hnew, decide_eq_false (Nat.not_le.mpr hidx)]
  rfl

theorem signatureAct_up (hup : (Pre.of f.payload).down = false) :
    signatureAct e g r f h = (h.putRun r).turnDown g r f 0 := by
  unfold signatureAct
  exact if_pos (by rw [hup]; rfl)

theorem signatureAct_down (hdown : (Pre.of f.payload).down = true) (hrank : (Pre.of f.payload).rank < g.ends.length) :
    signatureAct e g r f h = (h.collForward g r f 0).moveOn e g
      { r with sigs := SMap.put r.sigs (Pre.of f.payload).rank (Pre.of f.payload).sig } := by
  unfold signatureAct
  exact (if_neg (by rw [hdown]; decide)).trans (if_neg (Nat.not_le.mpr hrank))

/-- A run whose chunk has been written at its destination bytes. -/
def CollRun.landedAt (r : CollRun) (p : Pre) : CollRun :=
  { r with landed := SMap.upd r.landed [] p.rank (fun l => l ++ [p.idx]), written := r.written + 1 }

/-- The piece flags after a chunk that has been written is counted. -/
def Hw.pieced (h : Hw) (g : Group) (r : CollRun) (p : Pre) : CollRun × Hw :=
  (h.inc Reg.deCollCntWritten (rkey r.die 4 0) 0 1).pieceFlags (r.landedAt p) g.ends.length p.rank

theorem Hw.placeData_written (hnew : (SMap.get r.landed [] (Pre.of f.payload).rank).contains (Pre.of f.payload).idx = false)
    (hwrite : runOp (r.writeMove g.ends.length (Pre.of f.payload).rank (Pre.of f.payload).idx (f.payload.drop 64)) h =
      (.ok (), k)) :
    h.placeData g r f = ((k.pieced g r (Pre.of f.payload)).1, (k.pieced g r (Pre.of f.payload)).2, none) := by
  unfold Hw.placeData
  refine (if_neg (by rw [hnew]; exact Bool.false_ne_true)).trans ?_
  rw [hwrite]
  rfl

theorem dataAct_placed (hdown : (Pre.of f.payload).down = true) (hst : (Pre.of f.payload).status = 0)
    (hidx : (Pre.of f.payload).idx < r.chunks) (hsender : (r.senders g.ends.length).contains (Pre.of f.payload).rank = true)
    (hnew : (SMap.get r.landed [] (Pre.of f.payload).rank).contains (Pre.of f.payload).idx = false)
    (hheld : r.held.contains f = false)
    (hwrite : runOp (r.writeMove g.ends.length (Pre.of f.payload).rank (Pre.of f.payload).idx (f.payload.drop 64))
      (h.collForward g r f ((Pre.of f.payload).idx % 2)) = (.ok (), k)) :
    dataAct e g r f h = (k.pieced g r (Pre.of f.payload)).2.moveOn e g (k.pieced g r (Pre.of f.payload)).1 := by
  unfold dataAct
  dsimp only
  rw [if_pos hdown, hst, hdown, hsender, hnew, hheld, decide_eq_false (Nat.not_le.mpr hidx)]
  refine (if_neg (not_not.mpr rfl)).trans ((if_neg (by decide)).trans ((if_neg (by decide)).trans ((if_neg (by decide)).trans ?_)))
  rw [Hw.placeData_written hnew hwrite]

end

/-- Settles O31: a descriptor decodes by reads that only count, its run begins or goes on, and each chunk does what its
role has it do. -/
theorem collectivesBeginAndTakeChunks : Obligations.CollectivesBeginAndTakeChunks := by
  unfold Obligations.CollectivesBeginAndTakeChunks
  refine ⟨fun s d j rest hs hon hq => ?_, fun s f h g r0 hs hfor => ?_⟩
  · intro c each
    have heach : ∀ h, collOp c.op d s.env s.hw = h → each h := fun h hx =>
      ⟨fun hop => onHw_to (hop ▸ hx), fun hop => onHw_to (hop ▸ hx), fun hop => onHw_to (hop ▸ hx),
        fun hop => onHw_to (hop ▸ hx), fun hop => onHw_to (hop ▸ hx)⟩
    refine ⟨fun g a hnew hgroup hagent hform hgood => ?_, fun r hrun => heach _ (collOp_goes hon hq hrun)⟩
    intro own run begins f inB outB n lies word
    have hrunEach : ∀ r h, run = (.ok r, h) → each ((h.awaitJob d 4 j).collBegin s.env g r) := fun r h hdec =>
      heach _ (collOp_begins hon hq hnew hgroup hagent hform hgood hdec)
    refine ⟨hrunEach, fun hok hmove => ?_⟩
    have hbegins : s.hw.Decodes s.env g c own → begins := by
      intro hd
      obtain ⟨r, hr, htag, hseq⟩ := readsRun_decodeColl (die := d) (a := a) (tag := j.tag) hok hmove hd
      obtain ⟨h, hdec, hh⟩ := hr.run
      exact ⟨r, h, hdec, htag, hseq, hh.counted.mem, hrunEach r h hdec⟩
    refine ⟨?_, ?_, ?_, ?_⟩
    · intro src dst hop here hsrc hdst hnone hapart
      exact hbegins (.reduce (hop.imp_right And.left) fun r => readsRun_reduce hop hsrc hdst hnone hapart)
    · intro src dst h12 hstride hband parts span hflags hsrc hdst hapart
      exact hbegins (.gather h12 fun r => readsRun_gather hstride hband hflags hsrc hdst hapart)
    · intro src dst h13 hroot hsrc hdst hapart
      exact hbegins (.broadcast h13 fun r => readsRun_broadcast hroot hsrc hdst hapart)
    · intro p src dst h14 hsound hp size zero hent htotal hapart
      refine hbegins (.bundle h14 fun r => readsRun_bundle hsound hp (fun i hi => ?_) htotal hapart)
      obtain ⟨hflags, hrest, hnone, hinput, houtput⟩ := hent i hi
      exact ⟨hflags, hrest, hnone, hinput, houtput⟩
  · intro p r ok comes
    have htaken : ∀ {role can act k}, comes role can → act s.env g r f h = k → takeChunk role can act f s.env s.hw = k :=
      fun hcomes hact => (takeChunk_taken hcomes.1 hcomes.2 hfor).trans hact
    refine ⟨?_, ?_, ?_, ?_⟩
    · intro hcomes hkid hidx hstaged place
      exact onHw_to (htaken hcomes (contribAct_staged hkid hidx hstaged))
    · intro hcomes hidx hgot hst hsat hnon
      exact onHw_to (htaken hcomes (resultAct_written hidx hgot hst hsat hnon))
    · intro hcomes
      exact ⟨fun hup => onHw_to (htaken hcomes (signatureAct_up hup)),
        fun hdown hrank => onHw_to (htaken hcomes (signatureAct_down hdown hrank))⟩
    · intro h1 hcomes hdown hst hidx hsender hlanded hheld hwrite r1 b
      exact onHw_to (htaken hcomes (dataAct_placed hdown hst hidx hsender hlanded hheld hwrite))

end Sys2Proof.Machine
end

section
/-! SUPPORT. Operations on sound stores whose places are those of the hardware they began from, and operations that only read
and whose answer is known by what holds of it (R37 to R41, R128). -/

namespace Sys2Proof.Machine

/-! Reads whose answer is known by what holds of it. -/

/-- From the hardware `h`, or with counts of reads added to it, the operation only counts, and `Q` holds of its answer. -/
def ReadsTo {α : Type} (op : Op α) (h : Hw) (Q : α → Prop) : Prop := ∃ a, Reads op h a ∧ Q a

section
variable {α β : Type} {op : Op α} {h : Hw} {Q : β → Prop} {P : α → Prop}

theorem ReadsTo.pure {b : β} (hb : Q b) : ReadsTo (Pure.pure b) h Q := ⟨b, Reads.pure h b, hb⟩

theorem ReadsTo.bind {f : α → Op β} (hop : ReadsTo op h P) (hf : ∀ a, P a → ReadsTo (f a) h Q) : ReadsTo (op >>= f) h Q := by
  obtain ⟨a, ha, hP⟩ := hop
  obtain ⟨b, hb, hQ⟩ := hf a hP
  exact ⟨b, ha.bind hb, hQ⟩

/-- After a read whose answer is known. -/
theorem Reads.bind_to {f : α → Op β} {a : α} (ha : Reads op h a) (hf : ReadsTo (f a) h Q) : ReadsTo (op >>= f) h Q :=
  ReadsTo.bind ⟨a, ha, rfl⟩ fun _ hx => hx ▸ hf

/-- What follows a look at the hardware, where it does not depend on counts. -/
theorem ReadsTo.get_bind {f : Hw → Op β} (hsame : ∀ k, h.tallied k → f k = f h) (hf : ReadsTo (f h) h Q) :
    ReadsTo (get >>= f) h Q := by
  obtain ⟨b, hb, hQ⟩ := hf
  exact ⟨b, .get_bind fun k hk => (hsame k hk).symm ▸ hb, hQ⟩

theorem ReadsTo.mono {R : α → Prop} (hop : ReadsTo op h P) (hPR : ∀ a, P a → R a) : ReadsTo op h R :=
  hop.imp fun _ ha => ⟨ha.1, hPR _ ha.2⟩

theorem ReadsTo.foldlM_upto {f : β → Nat → Op β} {b : β} {n : Nat} (P : Nat → β → Prop) (hb : P 0 b)
    (hf : ∀ i < n, ∀ b, P i b → ReadsTo (f b i) h (P (i + 1))) : ReadsTo ((upto n).foldlM f b) h (P n) := by
  induction n with
  | zero => exact .pure hb
  | succ n ih =>
    rw [upto, List.range_succ, List.foldlM_append]
    refine .bind (ih fun i hi => hf i (by omega)) fun c hc => ?_
    exact .bind (hf n (by omega) c hc) fun _ hd => .pure hd

theorem ReadsTo.filterM {l : List α} {f : α → Op Bool} (hf : ∀ x ∈ l, ReadsTo (f x) h fun _ => True) :
    ReadsTo (l.filterM f) h (fun r => r.Sublist l) := by
  have hgo : ∀ (l acc : List α), (∀ x ∈ l, ReadsTo (f x) h fun _ => True) →
      ReadsTo (List.filterAuxM f l acc) h (fun r => ∃ q : List α, r = q.reverse ++ acc ∧ q.Sublist l) := by
    intro l
    induction l with
    | nil => exact fun acc _ => .pure ⟨[], rfl, .slnil⟩
    | cons x l ih =>
      intro acc hl
      refine .bind (hl x List.mem_cons_self) fun b _ => ?_
      refine (ih _ fun y hy => hl y (List.mem_cons_of_mem _ hy)).mono ?_
      rintro r ⟨q, rfl, hq⟩
      cases b
      · exact ⟨q, rfl, hq.cons x⟩
      · exact ⟨x :: q, by simp, hq.cons_cons x⟩
  refine .bind (hgo l [] hf) ?_
  rintro r ⟨q, rfl, hq⟩
  exact .pure (by simpa using hq)

end

/-! Operations that read and write. -/

/-- On sound stores, in hardware that accesses have led to from `h0`, the operation succeeds with an answer that `Q` holds
of, the stores stay sound, and nothing but what an access may change does. -/
def Finishes {α : Type} (h0 : Hw) (op : Op α) (Q : α → Prop := fun _ => True) : Prop :=
  ∀ h : Hw, h.sound → h0.accessed h → ∃ a g, runOp op h = (.ok a, g) ∧ g.sound ∧ h0.accessed g ∧ Q a

section
variable {α β : Type} {h0 : Hw} {op : Op α} {P : α → Prop} {Q : β → Prop}

theorem Completes.finishes (hop : Completes op P) (h0 : Hw) : Finishes h0 op P := by
  intro h hs hh
  obtain ⟨a, g, hrun, hg, hacc, ha⟩ := hop h hs
  exact ⟨a, g, hrun, hg, hh.trans hacc, ha⟩

theorem Finishes.pure {b : β} (hb : Q b) : Finishes h0 (Pure.pure b) Q := fun h hs hh => ⟨b, h, rfl, hs, hh, hb⟩

theorem Finishes.bind {f : α → Op β} (hop : Finishes h0 op P) (hf : ∀ a, P a → Finishes h0 (f a) Q) :
    Finishes h0 (op >>= f) Q := by
  intro h hs hh
  obtain ⟨a, g, hrun, hg, hacc, ha⟩ := hop h hs hh
  obtain ⟨b, k, hrun', hk, hacc', hb⟩ := hf a ha g hg hacc
  exact ⟨b, k, runOp_bind _ _ _ _ _ hrun _ _ hrun', hk, hacc', hb⟩

theorem Finishes.mono {R : α → Prop} (hop : Finishes h0 op P) (hPR : ∀ a, P a → R a) : Finishes h0 op R := by
  intro h hs hh
  obtain ⟨a, g, hrun, hg, hacc, ha⟩ := hop h hs hh
  exact ⟨a, g, hrun, hg, hacc, hPR a ha⟩

theorem Finishes.get_bind {f : Hw → Op β} (hf : ∀ g, g.sound → h0.accessed g → Finishes h0 (f g) Q) :
    Finishes h0 (get >>= f) Q := by
  intro h hs hh
  obtain ⟨b, k, hrun, hk⟩ := hf h hs hh h hs hh
  exact ⟨b, k, runOp_bind _ _ _ _ _ (show runOp get h = (.ok h, h) from rfl) _ _ hrun, hk⟩

theorem Finishes.need {c : Bool} (s : Status) (hc : c = true) : Finishes h0 (Machine.need c s) :=
  (Completes.need s hc).finishes h0

theorem Finishes.ite {c : Prop} [Decidable c] {op op' : Op α} (h1 : c → Finishes h0 op P) (h2 : ¬ c → Finishes h0 op' P) :
    Finishes h0 (if c then op else op') P := by
  split
  · exact h1 (by assumption)
  · exact h2 (by assumption)

theorem Finishes.foldlM {f : β → α → Op β} (hf : ∀ (b : β) (x : α), Q b → P x → Finishes h0 (f b x) Q) (l : List α) :
    (∀ x ∈ l, P x) → ∀ b, Q b → Finishes h0 (l.foldlM f b) Q := by
  induction l with
  | nil => exact fun _ b hb => .pure hb
  | cons x l ih =>
    intro hl b hb
    rw [List.foldlM_cons]
    exact .bind (hf b x hb (hl x List.mem_cons_self)) (ih fun y hy => hl y (List.mem_cons_of_mem _ hy))

/-- A pass over the numbers below `n` for its effects. -/
theorem Finishes.forIn_upto {f : Nat → PUnit → Op (ForInStep PUnit)} {n : Nat}
    (hf : ∀ i < n, Finishes h0 (f i PUnit.unit) (fun r => r = ForInStep.yield PUnit.unit)) :
    Finishes h0 (forIn (upto n) PUnit.unit f) := by
  have hlist : ∀ l : List Nat, (∀ i ∈ l, i < n) → Finishes h0 (forIn l PUnit.unit f) := by
    intro l
    induction l with
    | nil => exact fun _ => .pure trivial
    | cons i l ih =>
      intro hl
      rw [List.forIn_cons]
      refine .bind (hf i (hl i List.mem_cons_self)) ?_
      rintro r rfl
      exact ih fun k hk => hl k (List.mem_cons_of_mem _ hk)
  exact hlist _ fun i hi => List.mem_range.mp hi

/-- An operation that only reads, then one that may write. -/
theorem ReadsTo.finishes {h h' : Hw} {f : α → Op β} (hop : ReadsTo op h P) (hs : h.sound) (hh : h.tallied h')
    (hf : ∀ a, P a → Finishes h (f a) Q) : ∃ b g, runOp (op >>= f) h' = (.ok b, g) ∧ g.sound ∧ h.accessed g ∧ Q b := by
  obtain ⟨a, ha, hP⟩ := hop
  obtain ⟨g, hrun, hg⟩ := ha h' hh
  obtain ⟨b, k, hrun', hk⟩ := hf a hP g (hg.counted.sound hs) hg.accessed
  exact ⟨b, k, runOp_bind _ _ _ _ _ hrun _ _ hrun', hk⟩

end

/-! Places. -/

theorem Finishes.winPlace {h0 : Hw} {e : Env} {a n o : Nat} (ho : h0.localMem e a n = .ok o) :
    Finishes h0 (Machine.winPlace e a n) (fun x => x = o) := by
  refine .get_bind fun g _ hg => ?_
  rw [hg.sameMap.localMem, ho]
  exact .pure rfl

theorem Reads.winPlace {h : Hw} {e : Env} {a n o : Nat} (ho : h.localMem e a n = .ok o) :
    Reads (Machine.winPlace e a n) h o := by
  refine .get_bind fun g hg => ?_
  rw [hg.sameMap.localMem, ho]
  exact .pure h o

theorem Finishes.readExt {h0 : Hw} {e : Env} {a n o : Nat} (ho : h0.localMem e a n = .ok o) :
    Finishes h0 (Machine.readExt e a n) (fun bs => bs.length = n) := by
  refine .get_bind fun g _ hg => ?_
  rw [hg.sameMap.localMem, ho]
  exact (Completes.loadB o n).finishes h0

/-- A shorter extent at the same address has the same place (R39 to R41). -/
theorem Hw.localMem_shorter {h : Hw} {e : Env} {a n k o : Nat} (ho : h.localMem e a n = .ok o) (hk : k ≤ n) :
    h.localMem e a k = .ok o := by
  have hloc : ∀ s off, h.localLoc e s off n = .ok (.here o) → h.localLoc e s off k = .ok (.here o) := by
    intro s off hl
    unfold Hw.localLoc at hl ⊢
    split at hl
    · cases hl
    next hrow =>
      rw [if_neg (by omega)]
      split at hl
      · cases hl
      next hres =>
        rw [if_neg hres]
        split at hl
        next hdev =>
          rw [if_pos hdev]
          split at hl
          next htop =>
            rw [if_pos (by simp only [Bool.and_eq_true, decide_eq_true_eq] at htop ⊢; omega)]
            exact hl
          · cases hl
        next hdev =>
          rw [if_neg hdev]
          exact hl
  have hres : h.resolve e true a n = .ok (.here o) := by
    unfold Hw.localMem Hw.resolveMem at ho
    split at ho
    next off hx =>
      split at hx
      · cases hx
      · cases ho
        exact hx
    · cases ho
    · cases ho
  have hshort : h.resolve e true a k = .ok (.here o) := by
    unfold Hw.resolve at hres ⊢
    dsimp only at hres ⊢
    split at hres
    · cases hres
    next hrow =>
      rw [if_neg (by omega)]
      split at hres
      next hbit =>
        rw [if_pos hbit]
        split at hres
        · cases hres
        next own hown =>
          split at hres
          next hnode =>
            rw [if_pos hnode]
            exact hloc _ _ hres
          · split at hres <;> cases hres
      next hbit =>
        rw [if_neg hbit]
        split at hres
        · cases hres
        next hnode =>
          rw [if_neg hnode]
          exact hloc _ _ hres
  rw [Hw.localMem, Hw.resolveMem, hshort]

end Sys2Proof.Machine
end

section
/-! SUPPORT. Window programs (R373 to R383): how one starts and stops, and what each of its steps does. -/

namespace Sys2Proof.Machine

/-! Access of a program. -/

theorem Hw.winRunOp_ok {α : Type} {h g : Hw} {part : Nat} {m : Op α} {x : α}
    (hrun : runOp m { h with moved := 0 } = (.ok x, g)) : h.winRunOp part m = (some x, g.chargeMem (some part)) := by
  unfold Hw.winRunOp
  rw [hrun]

theorem Hw.accessed_moved (h : Hw) (n : Nat) : h.accessed { h with moved := n } :=
  Hw.tallied.accessed ⟨h.regs, h.pages, n, rfl, fun _ _ => rfl⟩

theorem Hw.tallied_moved (h : Hw) (n : Nat) : h.tallied { h with moved := n } := ⟨h.regs, h.pages, n, rfl, fun _ _ => rfl⟩

/-- What completes on sound stores lets the program go on. -/
theorem Hw.winRunOp_finishes {α : Type} {h : Hw} {part : Nat} {m : Op α} {Q : α → Prop} (hs : h.sound)
    (hm : Finishes h m Q) : ∃ x g, h.winRunOp part m = (some x, g) ∧ Q x := by
  obtain ⟨x, g, hrun, -, -, hx⟩ := hm { h with moved := 0 } hs (h.accessed_moved 0)
  exact ⟨x, _, Hw.winRunOp_ok hrun, hx⟩

theorem Reads.loadFlag {h : Hw} (hs : h.sound) (a tag : Nat) : ∃ x, Reads (Machine.loadFlag a tag) h x :=
  ⟨_, (Reads.loadN hs a 8).bind (.pure h _)⟩

/-- A read of a flag of sound stores only counts. -/
theorem Hw.winReadFlag_tallied {h g : Hw} (hs : h.sound) {part a tag : Nat} {b : Option Bool}
    (hflag : h.winReadFlag part a tag = (b, g)) : h.tallied g := by
  obtain ⟨x, hx⟩ := Reads.loadFlag hs a tag
  obtain ⟨k, hrun, hk⟩ := hx.run
  unfold Hw.winReadFlag at hflag
  rw [hrun] at hflag
  cases hflag
  exact hk

theorem Hw.winFree_tallied {h g : Hw} (hs : h.sound) {part : Nat} {r : WinRun} {slot n : Nat} {b : Option Bool}
    (hfree : h.winFree part r slot n = (b, g)) : h.tallied g := by
  unfold Hw.winFree at hfree
  split at hfree
  · cases hfree
    exact .refl h
  · exact Hw.winReadFlag_tallied hs hfree

/-! Start and stop (R373, R374, R377, R383). -/

/-- A WIN_RUN whose fields, partition and address let its program be read, which lies at `off`. -/
structure Hw.WinOk (h : Hw) (e : Env) (j : Job) (p off : Nat) : Prop where
  part : j.body.fld 0 10 8 = p
  fresh : j.started = false
  free : SMap.find? h.wins p = none
  high : j.body.fld 0 31 11 = 0
  mid : j.body.fld 4 31 16 = 0
  rest : j.body.fld 0x10 383 0 = 0
  aligned : j.body.fld 8 63 0 % 64 = 0
  own : h.kpostForeign j.origin p = false
  loaded : h.loaded p = true
  place : h.resolve e true (j.body.fld 8 63 0) 64 = .ok (.here off)
  device : isDev off = true

theorem winRun_starts {h g : Hw} {e : Env} {j : Job} {p off : Nat} {bs : List Byte} {r : WinRun}
    (hq : h.queue 28 1 = [j]) (hop : j.body.fld 0 7 0 = 0x10) (hok : h.WinOk e j p off)
    (hread : runOp (loadB off 64) { h with moved := 0 } = (.ok bs, g))
    (hhdr : (g.chargeMem (some p)).winHeader e p j.tag (j.body.fld 4 15 0) (j.body.fld 8 63 0) bs = some r) :
    winRun e h = ((g.chargeMem (some p)).putJob 28 1 { j with started := true }).putWin p r := by
  obtain ⟨rfl, hfresh, hfree, hhigh, hmid, hrest, hal, hown, hloaded, hplace, hdev⟩ := hok
  have hfind : (h.queue 28 1).find? (fun j =>
      j.body.fld 0 7 0 = 0x10 && !j.started && (SMap.find? h.wins (j.body.fld 0 10 8)).isNone) = some j := by
    rw [hq, List.find?_cons_of_pos]
    rw [hop, hfresh, hfree]
    rfl
  unfold winRun
  rw [hfind]
  dsimp only
  unfold Hw.winStart
  refine (if_neg (by rw [hown]; exact Bool.false_ne_true)).trans ((if_neg ?_).trans ((if_neg (by rw [hloaded]; decide)).trans ?_))
  · rw [hhigh, hmid, hrest, hal]
    decide
  · rw [hplace]
    refine (if_neg (by rw [hdev]; decide)).trans ?_
    rw [hread]
    dsimp only
    rw [hhdr]

/-- The only descriptor of a queue, changed. -/
theorem Hw.queue_putJob_self {h g : Hw} {die unit : Nat} {j k : Job} (hk : k.tag = j.tag) (hq : h.queue die unit = [j])
    (hsame : g.jobs = h.jobs) : (g.putJob die unit k).queue die unit = [k] := by
  rw [Hw.queue, ← hsame] at hq
  rw [Hw.putJob, Hw.setQueue, Hw.queue, Hw.queue, SMap.get_put_self, hq, List.map_singleton, if_pos hk.symm]

/-- A table of eight in the package's registers, in the first registers of its unit. -/
theorem Hw.sameMap.rf_table {h g : Hw} (hm : h.sameMap g) {f : FieldRef} (hoff : ∀ p < 8, f.row.off + f.row.stride * p < 0x100000)
    {p : Nat} (hp : p < 8) : g.rf f pkgB p = h.rf f pkgB p := by
  refine hm.1.rf _ _ _ ?_
  rw [show pkgB + f.row.off + f.row.stride * p = rkey 28 8 (f.row.off + f.row.stride * p) by unfold pkgB rkey; omega]
  exact not_countKey (hoff p hp) (by decide) (by decide) (by decide) (by decide)

theorem Hw.sameMap.partOf {h g : Hw} (hm : h.sameMap g) (d : Nat) : g.partOf d = h.partOf d := by
  have hoff : ∀ p < 8, Reg.partDies.row.off + Reg.partDies.row.stride * p < 0x100000 := by decide
  unfold Hw.partOf
  exact List.find?_congr fun p hp => by rw [hm.rf_table hoff (List.mem_range.mp hp)]

/-- What the header of a program depends on. -/
theorem Hw.winHeader_same {h g : Hw} (hm : h.sameMap g) (e : Env) (part tag runid prog : Nat) (bs : List Byte) :
    g.winHeader e part tag runid prog bs = h.winHeader e part tag runid prog bs := by
  have hflags : ∀ a n, g.winFlags e part a n = h.winFlags e part a n := by
    intro a n
    simp only [Hw.winFlags, Hw.winFlag, hm.resolveMem, hm.partOf]
  have hwindow : ∀ a n, g.windowOk e a n = h.windowOk e a n := fun a n => by rw [Hw.windowOk, Hw.windowOk, hm.resolve]
  unfold Hw.winHeader
  simp only [hwindow, hflags]

/-- A program that ends, its descriptor alone in the queue. -/
theorem Hw.winStop_of_wins {h : Hw} {j : Job} {p : Nat} {r : WinRun} (hq : h.queue 28 1 = [j])
    (hwin : SMap.find? h.wins p = some r) (htag : r.tag = j.tag) (st : Status) (v : Nat) :
    h.winStop p st v = Hw.finishJob { h with wins := SMap.del h.wins p } 28 1 j ⟨st, v, r.index⟩ := by
  have hfind : (Hw.queue { h with wins := SMap.del h.wins p } 28 1).find? (fun j => j.tag = r.tag) = some j := by
    rw [show Hw.queue { h with wins := SMap.del h.wins p } 28 1 = [j] from hq, List.find?_cons_of_pos]
    exact decide_eq_true htag.symm
  unfold Hw.winStop
  rw [hwin]
  dsimp only
  rw [hfind]
  rfl

theorem migFlagTimeout_stops {h : Hw} {e : Env} {p since : Nat} {r : WinRun} (hwin : SMap.find? h.wins p = some r)
    (hsince : r.since = some since) (hlim : h.rf Reg.migWinFlagTimeout (migB 28) ≠ 0) :
    migFlagTimeout p e h =
      (h.reach (since + h.rf Reg.migWinFlagTimeout (migB 28) * 1000)).winStop p .timeout 0 := by
  unfold migFlagTimeout
  rw [hwin]
  dsimp only
  rw [hsince]
  exact if_neg hlim

theorem migCtrlAbort_stops {h : Hw} {e : Env} {p : Nat} {r : WinRun} (hwins : h.wins = [(p, r)])
    (hempty : (h.winStop p .aborted 0).queue 28 1 = []) : migCtrlAbort e h = h.winStop p .aborted 0 := by
  unfold migCtrlAbort
  rw [hwins, List.foldl_cons, List.foldl_nil]
  dsimp only
  rw [hempty]
  rfl

/-! Steps (R376 to R381). -/

/-- A program stands at a step that has been read. -/
structure Hw.StandsAt (h : Hw) (p : Nat) (r : WinRun) (sv : BitVec 512) : Prop where
  win : SMap.find? h.wins p = some r
  step : r.step = some sv
  index : r.index < r.nsteps

theorem Hw.winStep_of_stands {h : Hw} {e : Env} {p : Nat} {r : WinRun} {sv : BitVec 512} (hat : h.StandsAt p r sv)
    {ops : List Nat} (act : Hw → WinRun → StepD → Hw) (hop : ops.contains (StepD.of sv).op = true) :
    h.winStep e p ops act = act h r (StepD.of sv) := by
  obtain ⟨hwin, hstep, hindex⟩ := hat
  unfold Hw.winStep
  rw [hwin]
  refine (if_neg (Nat.not_le.mpr hindex)).trans ?_
  rw [hstep]
  exact if_pos hop

section
variable {h g k : Hw} {e : Env} {p : Nat} {r r' : WinRun} {d : StepD}

theorem winFetch_waits (hn : SMap.get r.uses 0 d.slot + 1 ≠ 65536)
    (hfree : h.winFree p r d.slot (SMap.get r.uses 0 d.slot + 1) = (some false, g)) : winFetch p e h r d = g.winWait p r := by
  unfold winFetch
  refine (if_neg hn).trans ?_
  rw [hfree]

theorem winFetch_goes (hn : SMap.get r.uses 0 d.slot + 1 ≠ 65536)
    (hfree : h.winFree p r d.slot (SMap.get r.uses 0 d.slot + 1) = (some true, g))
    (huse : g.winUse e p r d d.slot (SMap.get r.uses 0 d.slot + 1) d.src = (some r', k)) :
    winFetch p e h r d = k.winGo p r' (r'.index + 1) := by
  unfold winFetch
  refine (if_neg hn).trans ?_
  rw [hfree]
  dsimp only
  rw [huse]

/-- A slot whose use has been written. -/
theorem Hw.winUse_written {slot n src count : Nat} (hrun : h.winRunOp p (winWrite e r d slot src) = (some count, k)) :
    h.winUse e p r d slot n src = (some { r with uses := SMap.put r.uses slot n, since := none },
      (k.flag (r.arrive + 8 * slot) (r.tagOf n) count).putWin p { r with uses := SMap.put r.uses slot n, since := none }) := by
  unfold Hw.winUse
  rw [hrun]
  rfl

theorem winExperts_goesOn {l : List (Nat × Nat × Nat)} (htodo : r.todo = some l) :
    winExperts p e h r d = winDrain p e d (l.length + 1) r h := by
  unfold winExperts
  rw [htodo]

/-- What an EXPERTS step does with its bank's replicas before it fetches them. -/
def winRecorded (e : Env) (r : WinRun) (d : StepD) (base : Nat) : Op (List Byte × List (Nat × Nat × Nat)) := do
  let x ← winRecords e r d base
  winPutRecords e d x.1
  pure x

theorem winExperts_begins {off : Nat} {recs : List Byte} {todo : List (Nat × Nat × Nat)} (htodo : r.todo = none)
    (hoff : h.winFlag e d.tflag 8 = .ok off) (hflag : h.winReadFlag p off d.ttag = (some true, g))
    (hforce : g.rf Reg.plcStatusInForce pkgB p ≠ 0) (hgen : g.rf Reg.plcStatusGen pkgB p = d.gen)
    (hrec : g.winRunOp p (winRecorded e r d (g.plcBank p (g.rf Reg.plcStatusInForceBank pkgB p))) = (some (recs, todo), k)) :
    let r' := { r with experts := r.experts + 1, todo := some todo, since := none }
    winExperts p e h r d = winDrain p e d (todo.length + 1) r'
      ((k.flag (r'.arrive + 8 * r'.nslots) (r'.tagOf r'.experts) (recs.length / 16)).putWin p r') := by
  unfold winRecorded at hrec
  unfold winExperts
  rw [htodo]
  dsimp only
  rw [hoff]
  dsimp only
  rw [hflag]
  refine (if_neg (by rw [decide_eq_false hforce, hgen]; simp)).trans ?_
  rw [hrec]

theorem winWaitStep_goes {off : Nat} (hoff : h.winFlag e d.src 8 = .ok off) :
    (h.winReadFlag p off d.a = (some true, g) → winWaitStep p e h r d = g.winGo p r (r.index + 1)) ∧
    (h.winReadFlag p off d.a = (some false, g) → winWaitStep p e h r d = g.winWait p r) := by
  unfold winWaitStep
  rw [hoff]
  dsimp only
  exact ⟨fun hflag => by rw [hflag], fun hflag => by rw [hflag]⟩

end

/-! On sound stores a FETCH of rows and the records of an EXPERTS step run to their end (R378, R380). -/

section
variable {h : Hw} {e : Env} {r : WinRun} {d : StepD}

/-- The rows of a FETCH have their places. -/
def Hw.rowsLie (h : Hw) (e : Env) (d : StepD) (src dst : Nat) : Prop :=
  ∀ i < d.a, (∃ o, h.localMem e (src + i * d.c) d.b = .ok o) ∧ ∃ o, h.localMem e (dst + i * d.d) d.b = .ok o

theorem Finishes.winRows {src dst : Nat} (hx : d.xform = 0) (hrows : h.rowsLie e d src dst) :
    Finishes h (Machine.winRows e d src dst) := by
  unfold Machine.winRows
  refine .bind (.forIn_upto fun i hi => ?_) fun _ _ => .pure trivial
  obtain ⟨⟨o, ho⟩, t, ht⟩ := hrows i hi
  dsimp only
  rw [if_pos hx]
  refine .bind (.winPlace ho) fun _ _ => .bind ((Completes.loadB _ _).finishes h) fun _ _ => ?_
  exact .bind (.winPlace ht) fun _ _ => .bind ((Completes.storeB _ _).finishes h) fun _ _ => .pure rfl

theorem Finishes.winWrite {slot src : Nat} (hx : d.xform = 0) (hrows : h.rowsLie e d src (r.window + slot * r.slotBytes)) :
    Finishes h (Machine.winWrite e r d slot src) := by
  unfold Machine.winWrite
  dsimp only
  refine .ite (fun _ => .pure trivial) fun _ => ?_
  rw [if_neg (by omega)]
  exact .bind (.winRows hx hrows) fun _ _ => .pure trivial

end

theorem insertBy_perm {α : Type} (lt : α → α → Bool) (x : α) (l : List α) : (insertBy lt x l).Perm (x :: l) := by
  induction l with
  | nil => exact .refl _
  | cons y l ih =>
    unfold insertBy
    split
    · exact .refl _
    · exact (ih.cons y).trans (.swap x y l)

theorem sortBy_perm {α : Type} (lt : α → α → Bool) (l : List α) : (sortBy lt l).Perm l := by
  have hfold : ∀ (l acc : List α), (l.foldl (fun acc x => insertBy lt x acc) acc).Perm (acc ++ l) := by
    intro l
    induction l with
    | nil => exact fun acc => by simp
    | cons x l ih =>
      exact fun acc => (ih _).trans (((insertBy_perm lt x acc).append_right l).trans List.perm_middle.symm)
  exact hfold l []

section
variable {h : Hw} {e : Env} {r : WinRun} {d : StepD} {base bank entries : Nat}

/-- A replica of a bank of `n` entries: its total lies among those of the bank. -/
def replicaOf (n : Nat) (x : Nat × Nat × Nat × Nat) : Prop := 8 * x.2.1 + x.2.2.1 < 8 * n

/-- The replicas listed in one entry. -/
theorem entryReplicas {n i : Nat} (hi : i < n) (bs : List Byte) :
    let l := (upto 8).filterMap (fun q =>
      if bit (pay bs (16 * q + 4) 4) 31 then some (pay bs (16 * q) 4, i, q, pay bs (16 * q + 8) 8) else none)
    l.length ≤ 8 ∧ ∀ x ∈ l, replicaOf n x := by
  refine ⟨List.length_filterMap_le _ _, fun x hx => ?_⟩
  obtain ⟨q, hq, hx⟩ := List.mem_filterMap.mp hx
  have hq8 : q < 8 := List.mem_range.mp hq
  split at hx
  · cases hx
    show 8 * i + q < 8 * n
    omega
  · cases hx

theorem ReadsTo.winReplicas (hs : h.sound) (hbank : h.localMem e base 128 = .ok bank)
    (hents : ∀ i < Mem.num h.mem (bank + 4) 4, ∃ o, h.localMem e (base + 0x80 + 0x80 * i) 128 = .ok o) (node : Nat) :
    ReadsTo (Machine.winReplicas e base node) h
      (fun l => l.length ≤ 8 * Mem.num h.mem (bank + 4) 4 ∧ ∀ x ∈ l, replicaOf (Mem.num h.mem (bank + 4) 4) x) := by
  unfold Machine.winReplicas
  refine (Reads.winPlace hbank).bind_to ((Reads.loadB hs bank 128).bind_to ?_)
  dsimp only
  rw [Mem.pay_read h.mem bank 128 4 4 (by decide)]
  refine .bind (.foldlM_upto (fun i l => l.length ≤ 8 * i ∧ ∀ x ∈ l, replicaOf (Mem.num h.mem (bank + 4) 4) x)
    ⟨Nat.le_refl _, by simp⟩ fun i hi l hl => ?_) ?_
  · obtain ⟨o, ho⟩ := hents i hi
    refine (Reads.winPlace ho).bind_to ((Reads.loadB hs o 128).bind_to (.pure ?_))
    obtain ⟨hlen, hmem⟩ := entryReplicas hi (Mem.read h.mem o 128)
    refine ⟨by rw [List.length_append]; omega, fun x hx => ?_⟩
    exact (List.mem_append.mp hx).elim (hl.2 x) (hmem x)
  · rintro l ⟨hlen, hmem⟩
    have hperm := sortBy_perm (fun (a b : Nat × Nat × Nat × Nat) => a.1 < b.1) l
    refine .pure ⟨?_, fun x hx => hmem x (hperm.mem_iff.mp (List.mem_of_mem_filter hx))⟩
    exact (List.length_filter_le _ _).trans (hperm.length_eq.trans_le hlen)

theorem ReadsTo.winRecords (hs : h.sound) (hbank : h.localMem e base 128 = .ok bank)
    (hents : ∀ i < Mem.num h.mem (bank + 4) 4, ∃ o, h.localMem e (base + 0x80 + 0x80 * i) 128 = .ok o)
    (htotals : ∀ i < 8 * Mem.num h.mem (bank + 4) 4, ∃ o, h.localMem e (d.totals + 4 * i) 4 = .ok o)
    (huses : ∀ slot, SMap.get r.uses 0 slot + 8 * Mem.num h.mem (bank + 4) 4 + 1 < 65536) :
    ReadsTo (Machine.winRecords e r d base) h (fun x => x.1.length ≤ 128 * Mem.num h.mem (bank + 4) 4) := by
  unfold Machine.winRecords
  refine .get_bind (fun k hk => by rw [hk.sameMap.node]) (.bind (.winReplicas hs hbank hents _) ?_)
  rintro l ⟨hlen, hmem⟩
  refine .bind (.filterM fun x hx => ?_) fun live hlive => ?_
  · obtain ⟨o, ho⟩ := htotals _ (hmem x hx)
    exact (Reads.winPlace ho).bind_to ((Reads.loadN hs o 4).bind_to (.pure trivial))
  have hcount := hlive.length_le
  refine (Reads.need h _ ?_).bind_to (.pure ?_)
  · rw [List.all_map, List.all_eq_true]
    intro x hx
    have hx2 := List.snd_lt_of_mem_zipIdx hx
    have hdiv := Nat.div_le_self x.2 d.nslot
    have hslot := huses (d.slot + x.2 % d.nslot)
    simp only [Function.comp_apply, decide_eq_true_eq]
    omega
  · simp only [List.length_flatMap, List.length_append, toBytes_length, rep, List.length_replicate, Function.comp_def,
      List.map_const', List.sum_replicate, List.length_zip, List.length_map, List.length_zipIdx]
    simp only [smul_eq_mul]
    omega

theorem winRecorded_finishes (hs : h.sound) (hbank : h.localMem e base 128 = .ok bank)
    (hents : ∀ i < Mem.num h.mem (bank + 4) 4, ∃ o, h.localMem e (base + 0x80 + 0x80 * i) 128 = .ok o)
    (htotals : ∀ i < 8 * Mem.num h.mem (bank + 4) 4, ∃ o, h.localMem e (d.totals + 4 * i) 4 = .ok o)
    (hrecs : ∃ o, h.localMem e d.records (16 + 128 * Mem.num h.mem (bank + 4) 4) = .ok o)
    (huses : ∀ slot, SMap.get r.uses 0 slot + 8 * Mem.num h.mem (bank + 4) 4 + 1 < 65536) :
    ∃ x g, runOp (winRecorded e r d base) { h with moved := 0 } = (.ok x, g) := by
  obtain ⟨o, ho⟩ := hrecs
  obtain ⟨x, g, hrun, -⟩ := (ReadsTo.winRecords hs hbank hents htotals huses).finishes hs (h.tallied_moved 0)
    (f := fun x => do winPutRecords e d x.1; Pure.pure x) (Q := fun _ => True) fun x hx => by
      refine .bind (P := fun _ => True) ?_ fun _ _ => .pure trivial
      unfold winPutRecords
      exact .bind (.winPlace (Hw.localMem_shorter ho (by omega))) fun _ _ =>
        .bind ((Completes.storeB _ _).finishes h) fun _ _ => (Completes.storeB _ _).finishes h
  exact ⟨x, g, hrun⟩

end

/-- Settles O34: how a program starts and stops follows from its descriptor; each step takes the branch that its flag, its
count or the boundary chooses, and its accesses of sound stores run to their end. -/
theorem windowProgramsRun : Obligations.WindowProgramsRun := by
  unfold Obligations.WindowProgramsRun
  refine ⟨fun s j p hs hq hop => ⟨?_, ?_, ?_⟩, fun s p r sv hs hwin hstep hindex => ?_⟩
  · intro off bs h r hpart hfresh hfree hhigh hmid hrest hal hown hloaded hplace hdev hread hhdr
    exact onHw_to (winRun_starts (e := s.env) hq hop
      ⟨hpart, hfresh, hfree, hhigh, hmid, hrest, hal, hown, hloaded, hplace, hdev⟩ hread hhdr)
  · intro off r hpart hfresh hfree hhigh hmid hrest hal hown hloaded hplace hdev hsound hhdr
    obtain ⟨h, hread, hh⟩ := Reads.loadB hsound off 64 _ (s.hw.tallied_moved 0)
    have hsame : s.hw.sameMap (h.chargeMem (some p)) := hh.sameMap
    have hstart := winRun_starts (e := s.env) hq hop
      ⟨hpart, hfresh, hfree, hhigh, hmid, hrest, hal, hown, hloaded, hplace, hdev⟩ hread
      ((Hw.winHeader_same hsame _ _ _ _ _ _).trans hhdr)
    obtain ⟨regs, pages, moved, rfl⟩ := hh.counted
    refine ⟨_, onHw_keeps hs hstart rfl rfl, rfl, rfl, ?_⟩
    exact Hw.queue_putJob_self (j := j) (k := { j with started := true }) rfl hq rfl
  · intro r hwin htag ends
    have hstop : ∀ st, s.hw.winStop p st 0 = ends s.hw st := fun st => Hw.winStop_of_wins hq hwin htag st 0
    refine ⟨fun sv hstep hend hindex => ?_, fun since hsince hlim => ?_, fun hwins hempty => ?_⟩
    · refine onHw_to (f := fun e h => h.winStep e p [6] (fun h _ _ => h.winStop p .ok 0)) ?_
      exact (Hw.winStep_of_stands ⟨hwin, hstep, hindex⟩ _ (by rw [hend]; decide)).trans (hstop .ok)
    · exact onHw_to ((migFlagTimeout_stops hwin hsince hlim).trans
        (Hw.winStop_of_wins (h := s.hw.reach _) hq hwin htag .timeout 0))
    · rw [← hstop .aborted] at hempty ⊢
      exact onHw_to (migCtrlAbort_stops (e := s.env) hwins hempty)
  · intro d n loops goes waits
    have hat : s.hw.StandsAt p r sv := ⟨hwin, hstep, hindex⟩
    have hdo : ∀ {x : Instr} {ops : List Nat} {act : Env → Hw → WinRun → StepD → Hw} {k : Hw},
        exec x s = onHw (fun e h => h.winStep e p ops (act e)) s → ops.contains d.op = true → act s.env s.hw r d = k →
        exec x s = .next (s.hwTo k) := fun hx hin hact =>
      hx.trans (onHw_to (f := fun e h => h.winStep e p _ (_)) ((Hw.winStep_of_stands hat _ hin).trans hact))
    have hfetch : ∀ {k}, d.op = 1 → winFetch p s.env s.hw r d = k → exec (.fetch p) s = .next (s.hwTo k) :=
      fun hop hact => hdo (act := winFetch p) rfl (by rw [hop]; decide) hact
    have hexperts : ∀ {k}, d.op = 2 → winExperts p s.env s.hw r d = k → exec (.experts p) s = .next (s.hwTo k) :=
      fun hop hact => hdo (act := winExperts p) rfl (by rw [hop]; decide) hact
    have hwait : ∀ {k}, d.op = 3 → winWaitStep p s.env s.hw r d = k → exec (.wait p) s = .next (s.hwTo k) :=
      fun hop hact => hdo (act := winWaitStep p) rfl (by rw [hop]; decide) hact
    have hloop : ∀ {k}, d.op = 4 → winLoop p s.hw r d = k → exec (.loop p) s = .next (s.hwTo k) :=
      fun hop hact => hdo (act := fun _ => winLoop p) rfl (by rw [hop]; decide) hact
    have hbeat : ∀ {k}, d.op = 5 → winBeatStep p s.env s.hw r = k → exec (.winBeat p) s = .next (s.hwTo k) :=
      fun hop hact => hdo (act := fun e h r _ => winBeatStep p e h r) rfl (by rw [hop]; decide) hact
    refine ⟨?_, ?_, ?_, ?_, ?_, ?_, ?_, ?_, ?_, ?_, ?_⟩
    · exact fun g hop hn hfree => hfetch hop (winFetch_waits hn hfree)
    · exact fun r' g h hop hn hfree huse => hfetch hop (winFetch_goes hn hfree huse)
    · intro g hop hn hfree hsound hx hrows
      have hg := (Hw.winFree_tallied hsound hfree).counted.sound hsound
      obtain ⟨count, h, hrun, -⟩ := Hw.winRunOp_finishes (part := p) hg (Finishes.winWrite (r := r) (slot := d.slot) hx hrows)
      exact ⟨_, hfetch hop (winFetch_goes hn hfree (Hw.winUse_written hrun))⟩
    · exact fun l hop htodo => hexperts hop (winExperts_goesOn htodo)
    · intro off recs todo g h hop htodo hoff hflag hforce hgen hrec r'
      exact hexperts hop (winExperts_begins htodo hoff hflag hforce hgen hrec)
    · intro off bank g hop htodo hoff hflag hforce hgen hsound base entries hbank hents htotals hrecs huses
      have hg := (Hw.winReadFlag_tallied hsound hflag).counted.sound hsound
      obtain ⟨⟨recs, todo⟩, h, hrun⟩ := winRecorded_finishes hg hbank hents htotals hrecs huses
      exact ⟨todo, _, hexperts hop (winExperts_begins htodo hoff hflag hforce hgen (Hw.winRunOp_ok hrun))⟩
    · intro off g hop hoff
      exact ⟨fun hflag => hwait hop ((winWaitStep_goes hoff).1 hflag), fun hflag => hwait hop ((winWaitStep_goes hoff).2 hflag)⟩
    · exact fun hop hmore => hloop hop (if_pos hmore)
    · exact fun hop hlast => hloop hop (if_neg (Nat.not_lt.mpr hlast))
    · exact fun hop hnext => hbeat hop (if_pos hnext)
    · exact fun hop hsame => (hbeat hop (if_neg (not_not.mpr hsame))).trans (congrArg _ (State.hwTo_of_sealed hs rfl rfl))

end Sys2Proof.Machine
end

section
/-! SUPPORT. ROUTE (R171 to R184, R193): what a descriptor's run answers, that it runs to its end on sound stores with a
replica for every expert, and the waits of a dispatch engine. -/

namespace Sys2Proof.Machine

/-! Operations over lists. -/

theorem Completes.mapM_all {α β : Type} {f : α → Op β} {Q : β → Prop} (l : List α) (hf : ∀ x ∈ l, Completes (f x) Q) :
    Completes (l.mapM f) (fun r => ∀ y ∈ r, Q y) := by
  rw [← List.mapM'_eq_mapM]
  induction l with
  | nil => exact .pure (by simp)
  | cons x l ih =>
    rw [List.mapM'_cons]
    refine (hf x List.mem_cons_self).bind fun y hy => (ih fun z hz => hf z (List.mem_cons_of_mem _ hz)).bind fun r hr => .pure ?_
    exact List.forall_mem_cons.2 ⟨hy, hr⟩

/-- A pass over a list for its effects. -/
theorem Completes.forIn {α : Type} {f : α → PUnit → Op (ForInStep PUnit)} (l : List α)
    (hf : ∀ x, Completes (f x PUnit.unit) (fun r => r = ForInStep.yield PUnit.unit)) :
    Completes (ForIn.forIn l PUnit.unit f) := by
  induction l with
  | nil => exact .pure trivial
  | cons x l ih =>
    rw [List.forIn_cons]
    refine (hf x).bind ?_
    rintro r rfl
    exact ih

/-- What follows a choice of operations. -/
theorem Completes.ite_bind {α β : Type} {c : Prop} [Decidable c] {op1 op2 : Op α} {f : α → Op β} {P : α → Prop} {Q : β → Prop}
    (hop : Completes (if c then op1 else op2) P) (hf : ∀ a, P a → Completes (f a) Q) :
    Completes (if c then op1 >>= f else op2 >>= f) Q := by
  split at hop
  next h => exact if_pos h ▸ hop.bind hf
  next h => exact if_neg h ▸ hop.bind hf

/-- With its own stores sound the engine goes on (R168, R520). -/
theorem engineSound_of_sound {h : Hw} (hs : h.sound) (die : Nat) : runOp (engineSound die) h = (.ok (), h) := by
  have hno : h.badSites.contains (.engine die) = false := by rw [hs.2.2.1]; rfl
  unfold engineSound
  refine runOp_bind _ _ _ _ _ (show runOp get h = (.ok h, h) from rfl) _ _ ?_
  rw [hno]
  rfl

theorem Completes.engineSound (die : Nat) : Completes (Machine.engineSound die) :=
  fun h hs => ⟨(), h, engineSound_of_sound hs die, hs, .refl h, trivial⟩

/-! Selection (R176 to R181). -/

theorem decodeRow_length (f : Fmt) (n : Nat) (bs : List Byte) : (decodeRow f n bs).length = n := by
  cases f <;> simp [decodeRow, upto]

theorem softmaxRow_length (xs : List FVal) : (softmaxRow xs).length = xs.length := by
  unfold softmaxRow
  dsimp only
  split <;> simp

theorem bestOf_mem : ∀ (l : List (FVal × Nat)) (x : FVal × Nat), bestOf l = some x → x ∈ l
  | [], x, h => by cases h
  | y :: l, x, h => by
    unfold bestOf at h
    split at h
    next z hz =>
      cases h
      split
      · exact List.mem_cons_self
      · exact List.mem_cons_of_mem _ (bestOf_mem l z hz)
    · cases h
      exact List.mem_cons_self

theorem topN_subset (n : Nat) : ∀ l : List (FVal × Nat), ∀ x ∈ topN n l, x ∈ l := by
  induction n with
  | zero => exact fun l x hx => absurd hx (by simp [topN])
  | succ n ih =>
    intro l x hx
    unfold topN at hx
    split at hx
    next b hb =>
      rcases List.mem_cons.1 hx with rfl | hx
      · exact bestOf_mem l _ hb
      · exact List.mem_of_mem_filter (ih _ x hx)
    · cases hx

/-- R178, R179: only experts that have a key are selected. -/
theorem RouteD.select_lt (r : RouteD) (keys : List FVal) : ∀ i ∈ r.select keys, i < keys.length := by
  intro i hi
  obtain ⟨x, hx, rfl⟩ := List.mem_map.1 hi
  have hmem := topN_subset _ _ x hx
  have hall : x ∈ keys.zipIdx := by
    split at hmem
    · exact List.mem_of_mem_filter hmem
    · exact hmem
  have hlt := (List.mem_zipIdx hall).2.1
  omega

theorem RouteD.token_lt (r : RouteD) (bias x : List FVal) : ∀ y ∈ r.token bias x, y.1 < x.length := by
  intro y hy
  have hlt := r.select_lt _ _ (List.of_mem_zip hy).1
  have hs : (if r.score = 0 then softmaxRow x else if r.score = 1 then x.map sigmoidf else x).length = x.length := by
    split
    · exact softmaxRow_length x
    · split <;> simp
  refine lt_of_lt_of_le hlt ?_
  split
  · rw [List.length_map, List.length_zip, hs]
    exact Nat.min_le_left _ _
  · exact hs.le

/-- Every pair finds its place where its expert has a replica (R181, R211, R212). -/
theorem placePairs_some {set : SMap (List Nat)} {hash : Bool} {base : Nat} {l : List (Nat × Nat × Nat × FVal)}
    (hl : ∀ x ∈ l, SMap.get set [] x.2.2.1 ≠ []) : ∃ p, placePairs set hash base l = some p := by
  unfold placePairs
  generalize ([], []) = a
  induction l generalizing a with
  | nil => exact ⟨a, rfl⟩
  | cons x l ih =>
    rw [List.foldlM_cons, if_neg fun h0 => hl x List.mem_cons_self (List.eq_nil_of_length_eq_zero h0)]
    exact ih (fun y hy => hl y (List.mem_cons_of_mem _ hy)) _

/-! The run of a ROUTE. -/

theorem Completes.routeCompute {r : RouteD} {w t : Nat} {mask : List Bool} {c : RouteCopy} {hash : Bool}
    (hset : ∀ x < r.e, SMap.get c.set [] x ≠ []) : Completes (r.compute w t mask c hash) := by
  have hrows : ∀ live : List Nat, Completes
      (if r.k = 0 then Pure.pure [] else live.mapM (fun m => do
        let x ← Machine.readRow .fp32 r.e (w + r.logits + m * r.stride)
        return (r.token c.bias x).zipIdx.map (fun y => (m, y.2, y.1.1, y.1.2))))
      (fun rows => ∀ l ∈ rows, ∀ x ∈ l, x.2.2.1 < r.e) := by
    refine fun live => .ite (fun _ => .pure (by simp)) fun _ => .mapM_all _ fun m _ => ?_
    refine Completes.bind (P := fun x => x.length = r.e) ?_ fun x hx => .pure ?_
    · exact (Completes.loadB _ _).bind fun bs _ => .pure (decodeRow_length _ _ bs)
    · intro y hy
      obtain ⟨z, hz, rfl⟩ := List.mem_map.1 hy
      exact hx ▸ r.token_lt c.bias x _ (List.fst_mem_of_mem_zipIdx hz)
  unfold RouteD.compute
  refine Completes.ite_bind (.ite (fun _ => Completes.readMask _ _ _) fun _ => .pure trivial) fun mask _ => ?_
  refine Completes.ite_bind (hrows _) fun rows hrows => ?_
  obtain ⟨p, hp⟩ := placePairs_some (set := c.set) (hash := hash) (base := r.tokenBase) (l := rows.flatten) fun x hx => by
    obtain ⟨l, hl, hxl⟩ := List.mem_flatten.1 hx
    exact hset _ (hrows l hl x hxl)
  dsimp only
  rw [hp]
  exact .pure trivial

theorem Completes.routeWrite (r : RouteD) (w t src : Nat) (c : RouteCopy) (o : RouteOut) : Completes (r.write w t src c o) := by
  have hpair : ∀ (a : Nat) (bs : List Byte), Completes (do
      Machine.storeB a bs
      return ForInStep.yield PUnit.unit) (fun r => r = ForInStep.yield PUnit.unit) :=
    fun a bs => (Completes.storeB a bs).bind fun _ _ => .pure rfl
  unfold RouteD.write
  refine (Completes.storeB _ _).bind fun _ _ => (Completes.storeB _ _).bind fun _ _ => ?_
  refine (Completes.forIn _ fun p => hpair _ _).bind fun _ _ => ?_
  refine (Completes.forIn _ fun m => .ite (fun _ => hpair _ _) fun _ => .pure rfl).bind fun _ _ => ?_
  exact (Completes.forIn _ fun p => hpair _ _).bind fun _ _ => .storeB _ _

/-! The beginning of a ROUTE. -/

/-- What follows an operation that succeeds. -/
theorem runOp_bind_ok {α β : Type} {m : Op α} {f : α → Op β} {h k : Hw} {b : β} (hrun : runOp (m >>= f) h = (.ok b, k)) :
    ∃ a g, runOp m h = (.ok a, g) ∧ runOp (f a) g = (.ok b, k) := by
  cases hm : m h with
  | ok a g =>
    refine ⟨a, g, by rw [runOp, EStateM.run, hm], ?_⟩
    simp only [runOp, EStateM.run, bind, EStateM.bind, hm] at hrun ⊢
    cases hf : f a g with
    | ok c l => rw [hf] at hrun; exact hrun
    | error e l => rw [hf] at hrun; cases e <;> cases hrun
  | error e g =>
    simp only [runOp, EStateM.run, bind, EStateM.bind, hm] at hrun
    cases e <;> cases hrun

theorem Hw.foldl_fed {α : Type} (f : Hw → α → Hw) (hf : ∀ h x, (f h x).fed = h.fed) (l : List α) :
    ∀ h : Hw, (l.foldl f h).fed = h.fed := by
  induction l with
  | nil => exact fun _ => rfl
  | cons x l ih => exact fun h => (ih _).trans (hf h x)

theorem Hw.touch_fed (h : Hw) (a n : Nat) : (h.touch a n).fed = h.fed := by
  have hlook : (h.lookUp a n).fed = h.fed := by
    unfold Hw.lookUp
    split <;> rfl
  unfold Hw.touch
  split
  · rfl
  · dsimp only
    rw [Hw.foldl_fed, hlook]
    exact fun _ _ => rfl

theorem Hw.countCorrected_fed (h : Hw) (a : Nat) : (h.countCorrected a).fed = h.fed := by
  unfold Hw.countCorrected
  split <;> rfl

/-- A load leaves what products fed. -/
theorem loadB_fed {h g : Hw} {a n : Nat} {bs : List Byte} (hrun : runOp (loadB a n) h = (.ok bs, g)) : g.fed = h.fed := by
  rw [runOp_loadB] at hrun
  split at hrun
  · cases hrun
  · dsimp only at hrun
    split at hrun
    · cases hrun
    · split at hrun
      · cases hrun
      · cases hrun
        exact (Hw.foldl_fed _ Hw.countCorrected_fed _ _).trans (Hw.touch_fed _ _ _)

theorem beginRoute_fed {h g : Hw} {d : Nat} {r : RouteD} {b : RouteCopy} (hrun : runOp (beginRoute d r) h = (.ok b, g)) :
    g.fed = h.fed := by
  have hget : ∀ {bias : List FVal} {k : Hw}, runOp (do
      let h ← get
      match h.partOf d with
      | some p =>
        let x := h.plcOf p
        return (⟨p, if h.rf Reg.plcStatusInForce pkgB p = 1 then x.active else [], h.popHalf p, x.switches, bias⟩ : RouteCopy)
      | none => return ⟨8, [], 0, 0, bias⟩) k = (.ok b, g) → g = k := by
    intro bias k hk
    obtain ⟨l, k', hl, hk⟩ := runOp_bind_ok hk
    cases hl
    split at hk <;> cases hk <;> rfl
  unfold beginRoute at hrun
  split at hrun
  · obtain ⟨bias, k, hrow, hk⟩ := runOp_bind_ok hrun
    obtain ⟨bs, k', hload, hk'⟩ := runOp_bind_ok hrow
    cases hk'
    rw [hget hk, loadB_fed hload]
  · obtain ⟨bias, k, hrow, hk⟩ := runOp_bind_ok hrun
    cases hrow
    rw [hget hk]

/-- R176, R181, R203: a ROUTE begins with the placement in force of its partition. -/
theorem Finishes.beginRoute {h : Hw} {d p : Nat} (r : RouteD) (hp : h.partOf d = some p)
    (hforce : h.rf Reg.plcStatusInForce pkgB p = 1) :
    Finishes h (Machine.beginRoute d r) (fun b => b.set = (h.plcOf p).active) := by
  have hp8 : p < 8 := List.mem_range.mp (List.mem_of_find?_eq_some hp)
  have hoff : ∀ p < 8, Reg.plcStatusInForce.row.off + Reg.plcStatusInForce.row.stride * p < 0x100000 := by decide
  have hget : ∀ bias : List FVal, Finishes h (do
      let h ← get
      match h.partOf d with
      | some p =>
        let x := h.plcOf p
        return (⟨p, if h.rf Reg.plcStatusInForce pkgB p = 1 then x.active else [], h.popHalf p, x.switches, bias⟩ : RouteCopy)
      | none => return ⟨8, [], 0, 0, bias⟩) (fun b => b.set = (h.plcOf p).active) := by
    refine fun bias => .get_bind fun g _ hg => ?_
    have hplc : g.plcOf p = h.plcOf p := by
      obtain ⟨_, _, _, _, _, _, _, _, _, rfl, -, -⟩ := hg
      rfl
    rw [hg.sameMap.partOf, hp]
    dsimp only
    rw [hg.sameMap.rf_table hoff hp8, if_pos hforce, hplc]
    exact .pure rfl
  unfold Machine.beginRoute
  split
  · exact ((Completes.readRow _ _ _).finishes h).bind fun bias _ => hget bias
  · exact Finishes.bind (P := fun _ => True) (.pure trivial) fun bias _ => hget bias

/-! What a ROUTE answers. -/

/-- What the dispatch engine kept for the descriptor in hand is dropped, and it completes with OK and `v`. -/
def Hw.dispatched (h : Hw) (e : Env) (d : Nat) (j : Job) (v : Nat) : Hw :=
  let g := { h with routes := SMap.del h.routes d, fed := SMap.del h.fed d }
  g.finishJob d 4 j ⟨g.unitStatus e d j.part j.beat .ok, v, 0⟩

/-- The operations of a ROUTE that has begun, its T and mask known. -/
def RouteD.work (r : RouteD) (e : Env) (d : Nat) (b : RouteCopy) (h : Hw) (t : Nat) (mask : List Bool) : Op RouteOut := do
  engineSound d
  let o ← r.compute (spWin d) t mask b (h.hashRule e b.part)
  r.write (spWin d) t (h.coord d 4) b o
  return o

/-- A ROUTE whose operations succeeded counts, sets its flag and ends. -/
def Hw.routed (h : Hw) (e : Env) (d : Nat) (j : Job) (r : RouteD) (b : RouteCopy) (o : RouteOut) : Hw :=
  let n := o.pairs.length
  let h3 := (h.noteConv d j.origin r.tensor o.conv).inc Reg.deTokensRouted (rkey d 4 0) 0 o.live.length
  let h4 := (h3.inc Reg.dePairsPairs (rkey d 4 0) 0 n).incSat Reg.deEventsNonfinite (rkey d 4 0) 0 o.conv.nonfinite
  let h5 := if b.part < 8 then h4.popAdd b.part b.half o.counts else h4
  (h5.deFlag d r.flag r.flagAddr r.tag n).dispatched e d j (if r.flag then n else 0)

theorem Hw.runRoute_of_work {h g : Hw} {e : Env} {d : Nat} {j : Job} {r : RouteD} {b : RouteCopy} {t : Nat} {mask : List Bool}
    {o : RouteOut} (hwork : runOp (r.work e d b h t mask) h = (.ok o, g)) :
    h.runRoute e d j r b t mask = g.routed e d j r b o := by
  unfold RouteD.work at hwork
  unfold Hw.runRoute
  dsimp only
  rw [hwork]
  rfl

/-- A ROUTE has begun: it kept its placement copy when it began to wait, or it takes it now. -/
def Hw.begun (h : Hw) (d : Nat) (r : RouteD) (b : RouteCopy) (g : Hw) : Prop :=
  (SMap.find? h.routes d = some b ∧ g = h) ∨ (SMap.find? h.routes d = none ∧ runOp (beginRoute d r) h = (.ok b, g))

theorem route_of_begun {h g : Hw} {e : Env} {d : Nat} {j : Job} {rest : List Job} {r : RouteD} {b : RouteCopy} {t : Nat}
    {mask : List Bool} (hq : h.queue d 4 = j :: rest) (hon : h.dieOn e d = true) (hr : RouteD.of j.body = r)
    (hop : r.op = 1) (hok : r.ok = true) (he : r.e ≠ 0) (hbegun : h.begun d r b g)
    (hfeed : (r.feed = false ∧ t = r.t ∧ mask = []) ∨ (r.feed = true ∧ ∃ f, SMap.find? h.fed d = some f ∧ f.core = r.core ∧
      f.ended = true ∧ f.status.good = true ∧ t = f.m ∧ mask = f.mask)) :
    route d e h = g.runRoute e d j r b t mask := by
  have hfed : g.fed = h.fed := by
    rcases hbegun with ⟨-, rfl⟩ | ⟨-, hbegin⟩
    · rfl
    · exact beginRoute_fed hbegin
  unfold route
  rw [hq]
  dsimp only
  rw [hr]
  refine (if_neg (by simp [hon, hop])).trans ((if_neg (by simp [hok])).trans ((if_neg he).trans ?_))
  have hcopy : ∀ k : Except Fail RouteCopy × Hw, k = (.ok b, g) → (match k with
      | (.error f, h) => h.endDispatch e d j (.error f)
      | (.ok c, h) =>
        if !r.feed then h.runRoute e d j r c r.t []
        else match SMap.find? h.fed d with
        | some f =>
          if f.core ≠ r.core || !f.ended then h
          else if f.status.good then h.runRoute e d j r c f.m f.mask
          else { h with routes := SMap.del h.routes d, fed := SMap.del h.fed d }.finishJob d 4 j
            ⟨f.status, if f.status.ownValue then f.value else h.deCount d j, 0⟩
        | none => { h with routes := SMap.put h.routes d c }.awaitJob d 4 j) = g.runRoute e d j r b t mask := by
    rintro _ rfl
    dsimp only
    rcases hfeed with ⟨hfeed, rfl, rfl⟩ | ⟨hfeed, f, hf, hcore, hended, hgood, rfl, rfl⟩
    · exact if_pos (by simp [hfeed])
    · refine (if_neg (by simp [hfeed])).trans ?_
      rw [hfed, hf]
      exact (if_neg (by simp [hcore, hended])).trans (if_pos hgood)
  refine hcopy _ ?_
  rcases hbegun with ⟨hb, rfl⟩ | ⟨hb, hbegin⟩
  · rw [hb]
  · rw [hb]
    exact hbegin

end Sys2Proof.Machine
end

section
/-! SUPPORT. COMBINE (R188 to R193): it runs to its end on sound stores with valid route records, and what the dispatch
engine's descriptors leave. -/

namespace Sys2Proof.Machine

/-! Operations that keep an extent of memory. -/

theorem SMap.get_putD_ne {α : Type} [DecidableEq α] (d : α) (m : SMap α) (k q : Nat) (v : α) (hq : q ≠ k) :
    SMap.get (SMap.putD d m k v) d q = SMap.get m d q := by
  have hfind : SMap.find? (SMap.putD d m k v) q = SMap.find? m q := by
    induction m with
    | nil =>
      unfold SMap.putD
      split
      · rfl
      · exact if_neg (Ne.symm hq)
    | cons p m ih =>
      obtain ⟨j, w⟩ := p
      unfold SMap.putD
      split
      · split
        · rfl
        · exact if_neg (Ne.symm hq)
      · split
        next hk =>
          subst hk
          split
          · exact (if_neg (Ne.symm hq)).symm
          · exact (if_neg (Ne.symm hq)).trans (if_neg (Ne.symm hq)).symm
        · unfold SMap.find?
          rw [ih]
  rw [SMap.get, SMap.get, hfind]

/-- The stores are sound, and the `n` bytes from `a` are those of `m`. -/
def Hw.holds (h : Hw) (m : Mem) (a n : Nat) : Prop := h.sound ∧ ∀ x, a ≤ x → x < a + n → Mem.get h.mem x = Mem.get m x

/-- On sound stores with the bytes of an extent as given the operation succeeds with an answer that `Q` holds of, and leaves
them so. -/
def Within (m : Mem) (a n : Nat) {α : Type} (op : Op α) (Q : α → Prop := fun _ => True) : Prop :=
  ∀ h : Hw, h.holds m a n → ∃ x g, runOp op h = (.ok x, g) ∧ g.holds m a n ∧ Q x

section
variable {m : Mem} {a n : Nat} {α β : Type} {op : Op α} {P : α → Prop} {Q : β → Prop}

theorem Within.pure {b : β} (hb : Q b) : Within m a n (Pure.pure b) Q := fun h hh => ⟨b, h, rfl, hh, hb⟩

theorem Within.bind {f : α → Op β} (hop : Within m a n op P) (hf : ∀ x, P x → Within m a n (f x) Q) :
    Within m a n (op >>= f) Q := by
  intro h hh
  obtain ⟨x, g, hrun, hg, hx⟩ := hop h hh
  obtain ⟨y, k, hrun', hk⟩ := hf x hx g hg
  exact ⟨y, k, runOp_bind _ _ _ _ _ hrun _ _ hrun', hk⟩

theorem Within.need {c : Bool} (s : Status) (hc : c = true) : Within m a n (Machine.need c s) := by
  rw [hc]
  exact .pure trivial

theorem Within.ite_bind {c : Prop} [Decidable c] {op1 op2 : Op α} {f : α → Op β}
    (hop : Within m a n (if c then op1 else op2) P) (hf : ∀ x, P x → Within m a n (f x) Q) :
    Within m a n (if c then op1 >>= f else op2 >>= f) Q := by
  split at hop
  next h => exact if_pos h ▸ hop.bind hf
  next h => exact if_neg h ▸ hop.bind hf

theorem Within.loadB (b k : Nat) : Within m a n (Machine.loadB b k)
    (fun bs => bs.length = k ∧ (a ≤ b → b + k ≤ a + n → bs = Mem.read m b k)) := by
  intro h hh
  obtain ⟨g, hrun, hg, hmem⟩ := loadB_sound h hh.1 b k
  refine ⟨_, g, hrun, ⟨hg, fun x h1 h2 => hmem ▸ hh.2 x h1 h2⟩, Mem.read_length _ _ _, fun h1 h2 => ?_⟩
  refine List.map_congr_left fun i hi => hh.2 _ (by omega) ?_
  have := List.mem_range.mp hi
  omega

theorem Within.readRow (f : Fmt) (k b : Nat) : Within m a n (Machine.readRow f k b) (fun r => r.length = k) :=
  (Within.loadB _ _).bind fun bs _ => .pure (decodeRow_length f k bs)

/-- A store beside the extent. -/
theorem Within.storeB {b : Nat} {bs : List Byte} (hb : ∀ i < bs.length, b + i < a ∨ a + n ≤ b + i) :
    Within m a n (Machine.storeB b bs) := by
  intro h hh
  obtain ⟨g, hrun, hg, hmem⟩ := storeB_sound h hh.1 b bs
  have hkeep : ∀ (l : List (Nat × Byte)) (k : Mem) (x : Nat), (∀ p ∈ l, x ≠ p.1) →
      Mem.get (l.foldl (fun (m : Mem) (p : Nat × Byte) => Mem.set m p.1 p.2) k) x = Mem.get k x := by
    intro l
    induction l with
    | nil => exact fun _ _ _ => rfl
    | cons p l ih =>
      intro k x hx
      rw [List.foldl_cons, ih _ _ fun q hq => hx q (List.mem_cons_of_mem _ hq)]
      exact SMap.get_putD_ne 0 k _ _ _ (hx p List.mem_cons_self)
  refine ⟨(), g, hrun, ⟨hg, fun x h1 h2 => ?_⟩, trivial⟩
  rw [hmem, hkeep, hh.2 x h1 h2]
  rintro _ hp rfl
  obtain ⟨⟨y, i⟩, hy, rfl⟩ := List.mem_map.1 hp
  have hi := (List.mem_zipIdx hy).2.1
  have := hb i (by omega)
  dsimp only at h1 h2
  omega

theorem Within.engineSound (die : Nat) : Within m a n (Machine.engineSound die) :=
  fun h hh => ⟨(), h, engineSound_of_sound hh.1 die, hh, trivial⟩

theorem Within.modify {f : Hw → Hw} (hf : ∀ h, (f h).mem = h.mem ∧ (h.sound → (f h).sound)) :
    Within m a n (modify f : Op PUnit) := by
  intro h hh
  refine ⟨_, f h, rfl, ⟨(hf h).2 hh.1, fun x h1 h2 => ?_⟩, trivial⟩
  rw [(hf h).1, hh.2 x h1 h2]

theorem Within.mapM_all {f : α → Op β} (l : List α) (hf : ∀ x ∈ l, Within m a n (f x) Q) :
    Within m a n (l.mapM f) (fun r => ∀ y ∈ r, Q y) := by
  rw [← List.mapM'_eq_mapM]
  induction l with
  | nil => exact .pure (by simp)
  | cons x l ih =>
    rw [List.mapM'_cons]
    refine (hf x List.mem_cons_self).bind fun y hy => (ih fun z hz => hf z (List.mem_cons_of_mem _ hz)).bind fun r hr => .pure ?_
    exact List.forall_mem_cons.2 ⟨hy, hr⟩

theorem Within.foldlM_upto {f : β → Nat → Op β} {b : β} {k : Nat} (P : Nat → β → Prop) (hb : P 0 b)
    (hf : ∀ i < k, ∀ b, P i b → Within m a n (f b i) (P (i + 1))) : Within m a n ((upto k).foldlM f b) (P k) := by
  induction k with
  | zero => exact .pure hb
  | succ k ih =>
    rw [upto, List.range_succ, List.foldlM_append]
    refine .bind (ih fun i hi => hf i (by omega)) fun c hc => ?_
    exact .bind (hf k (by omega) c hc) fun _ hd => .pure hd

end

/-! Rows (R46, R47, R73). -/

theorem convKb4_length (rn : Nat → Rnd) (vs : List FVal) : (convKb4 rn vs).1.length = 9 := by
  unfold convKb4
  split <;> simp [kb4Bytes, upto]

theorem convRow_length (f : Fmt) (rn : Nat → Rnd) (vs : List FVal) : (convRow f rn vs).1.length = f.rowBytes vs.length := by
  have hflat : ∀ (k : Nat) (l : List (Nat × Counts)), (l.flatMap (fun r => toBytes k r.1)).length = l.length * k := by
    intro k l
    induction l with
    | nil => simp
    | cons x l ih => simp [ih, toBytes_length, Nat.add_mul, Nat.add_comm]
  have hkb4 : ∀ (l : List Nat) (acc : List Byte × Counts), (l.foldl (fun acc j =>
      let (b, c) := convKb4 (fun i => rn (16 * j + i)) ((vs.drop (16 * j)).take 16)
      (acc.1 ++ b, acc.2.add c)) acc).1.length = acc.1.length + l.length * 9 := by
    intro l
    induction l with
    | nil => simp
    | cons j l ih =>
      intro acc
      rw [List.foldl_cons, ih]
      dsimp only
      rw [List.length_append, convKb4_length, List.length_cons]
      omega
  cases f with
  | kb4 => exact (hkb4 _ _).trans (by simp [Fmt.rowBytes, upto])
  | _ => exact (hflat _ _).trans (by simp [Fmt.rowBytes])

theorem Fmt.rowBytes_mono (f : Fmt) {k n : Nat} (hk : k ≤ n) : f.rowBytes k ≤ f.rowBytes n := by
  cases f with
  | kb4 => exact Nat.mul_le_mul_right _ (Nat.div_le_div_right (by omega))
  | _ => exact Nat.mul_le_mul_right _ hk

/-- A format of at most four bytes stays one along the replay chain. -/
theorem Fmt.chain_rowBytes_le (n step : Nat) : ∀ f : Fmt, f = .fp32 ∨ f = .bf16 ∨ f = .e4m3 ∨ f = .e5m2 →
    (Fmt.chain step f).rowBytes n ≤ 4 * n := by
  induction step with
  | zero => rintro _ (rfl | rfl | rfl | rfl) <;> simp [Fmt.chain, Fmt.rowBytes, Fmt.bytes] <;> omega
  | succ step ih => rintro _ (rfl | rfl | rfl | rfl) <;> exact ih _ (by simp [Fmt.chainNext])

theorem stepped_rowBytes_le {on : Bool} {step code n : Nat} {f : Fmt} (hcode : code ≤ 3) (hf : stepped on step code = some f) :
    f.rowBytes n ≤ 4 * n := by
  have hfour : ∃ g, Fmt.ofCode code = some g ∧ (g = .fp32 ∨ g = .bf16 ∨ g = .e4m3 ∨ g = .e5m2) := by
    interval_cases code <;> simp [Fmt.ofCode]
  obtain ⟨g, hg, hg4⟩ := hfour
  rw [stepped, hg] at hf
  cases hf
  split
  · exact Fmt.chain_rowBytes_le n step g hg4
  · exact Fmt.chain_rowBytes_le n 0 g hg4

/-! Rows of a COMBINE. -/

/-- The words of a route record (R180). -/
def recordAt (m : Mem) (a : Nat) : Nat × Nat × Nat × Nat :=
  (Mem.num m a 4, Mem.num m (a + 4) 4, Mem.num m (a + 8) 4, Mem.num m (a + 12) 4)

/-- A row's records are those of a masked token, or all live, their returned rows within the window (R180, R191). -/
def CombineD.recordsOk (c : CombineD) (m : Mem) (w r : Nat) : Prop :=
  (∀ k < c.k, (recordAt m (w + c.routeIn + 16 * (c.k * r + k))).2.1 < 2 ^ 31) ∨
  (∀ k < c.k, (recordAt m (w + c.routeIn + 16 * (c.k * r + k))).2.1 / 2 ^ 19 = 2 ^ 12 ∧
    (recordAt m (w + c.routeIn + 16 * (c.k * r + k))).2.2.2 = 0 ∧
    c.ret + (recordAt m (w + c.routeIn + 16 * (c.k * r + k))).2.2.1 * c.retStride + 4 * c.d ≤ 0x10000000)

theorem Within.readRecords {m : Mem} {w routeIn k t r : Nat} (hr : r < t) :
    Within m (w + routeIn) (16 * k * t) (Machine.readRecords w routeIn k r)
      (fun recs => recs = (upto k).map (fun j => recordAt m (w + routeIn + 16 * (k * r + j)))) := by
  refine (Within.loadB _ _).bind fun bs hbs => .pure ?_
  have hle : 16 * k * r + 16 * k ≤ 16 * k * t := by
    calc 16 * k * r + 16 * k = 16 * k * (r + 1) := by ring
      _ ≤ 16 * k * t := Nat.mul_le_mul_left _ hr
  rw [hbs.2 (by omega) (by omega)]
  refine List.map_congr_left fun j hj => ?_
  have hj := List.mem_range.mp hj
  have haddr : w + routeIn + 16 * (k * r + j) = w + routeIn + 16 * k * r + 16 * j := by ring
  simp only [recordAt, haddr, Nat.add_assoc]
  simp only [← Nat.add_assoc]
  rw [Mem.pay_read _ _ _ _ _ (by omega), Mem.pay_read _ _ _ _ _ (by omega), Mem.pay_read _ _ _ _ _ (by omega),
    Mem.pay_read _ _ _ _ _ (by omega)]
  simp only [← Nat.add_assoc]

theorem live_bits {v : Nat} (hv : v / 2 ^ 19 = 2 ^ 12) : (bit v 31 && decide (bits v 30 19 = 0)) = true := by
  rw [bit_eq, bits_eq]
  simp only [Bool.and_eq_true, decide_eq_true_eq]
  omega

theorem masked_bit {v : Nat} (hv : v < 2 ^ 31) : bit v 31 = false := by
  rw [bit_eq]
  exact decide_eq_false (by omega)

/-- R191: a row with valid records is combined, and the route records stay. -/
theorem Within.combineRow {m : Mem} {c : CombineD} {w r : Nat} {i o b : Fmt} (hr : r < c.t) (hrec : c.recordsOk m w r)
    (hi : i.rowBytes c.d ≤ 4 * c.d)
    (hout : ∀ x < o.rowBytes c.d, w + c.out + r * c.outStride + x < w + c.routeIn ∨
      w + c.routeIn + 16 * c.k * c.t ≤ w + c.out + r * c.outStride + x) :
    Within m (w + c.routeIn) (16 * c.k * c.t) (c.row w i o b r) := by
  unfold CombineD.row
  refine (Within.readRecords hr).bind ?_
  rintro recs rfl
  split
  · exact .pure trivial
  next hlive =>
    have hall : ∀ x ∈ (upto c.k).map (fun j => recordAt m (w + c.routeIn + 16 * (c.k * r + j))),
        x.2.1 / 2 ^ 19 = 2 ^ 12 ∧ x.2.2.2 = 0 ∧ c.ret + x.2.2.1 * c.retStride + 4 * c.d ≤ 0x10000000 := by
      rcases hrec with hmasked | hrec
      · refine absurd (List.all_eq_true.2 fun x hx => ?_) hlive
        obtain ⟨k, hk, rfl⟩ := List.mem_map.1 hx
        rw [masked_bit (hmasked k (List.mem_range.mp hk))]
        rfl
      · intro x hx
        obtain ⟨k, hk, rfl⟩ := List.mem_map.1 hx
        exact hrec k (List.mem_range.mp hk)
    refine (Within.need _ (List.all_eq_true.2 fun x hx => ?_)).bind fun _ _ => ?_
    · obtain ⟨h4, h12, -⟩ := hall x hx
      rw [live_bits h4, h12]
      rfl
    refine Within.ite_bind (P := fun base => base.length = c.d) ?_ fun base hbase => ?_
    · split
      · exact .readRow _ _ _
      · exact .pure (by simp [rep])
    refine (Within.mapM_all (Q := fun _ => True) _ fun x hx => ?_).bind fun rows _ => ?_
    · obtain ⟨-, -, hfit⟩ := hall x hx
      exact (Within.need _ (decide_eq_true (by omega))).bind fun _ _ => (Within.readRow _ _ _).bind fun _ _ => .pure trivial
    · have hacc : ∀ (rows : List (FVal × List FVal)) (acc : List FVal), (rows.foldl (fun (acc : List FVal) x =>
          (acc.zip x.2).map (fun p => add32 p.1 (mul32 x.1 (asFp32 p.2)))) acc).length ≤ acc.length := by
        intro rows
        induction rows with
        | nil => exact fun _ => le_rfl
        | cons x rows ih =>
          intro acc
          refine (ih _).trans ?_
          rw [List.length_map, List.length_zip]
          exact Nat.min_le_left _ _
      have hrow := hacc rows (base.map asFp32)
      rw [List.length_map, hbase] at hrow
      generalize rows.foldl _ (base.map asFp32) = acc at hrow ⊢
      dsimp only
      have hlen := (convRow_length o (fun y => rndOf c.round c.seed c.tensor (r * c.d + y)) acc).trans_le (o.rowBytes_mono hrow)
      generalize convRow o _ acc = cv at hlen ⊢
      obtain ⟨bs, n⟩ := cv
      refine (Within.storeB fun x hx => hout x (lt_of_lt_of_le hx hlen)).bind fun _ _ => ?_
      exact .pure trivial

/-- What the checks of a COMBINE say of its formats and of the place of its output (R189). -/
theorem CombineD.ok_formats {c : CombineD} {step : Nat} (hok : c.ok step = true) : ∃ i f b,
    stepped c.inStep step c.inF = some i ∧ stepped c.outStep step c.outF = some f ∧
    stepped c.baseStep step c.baseF = some b ∧ c.inF ≤ 3 ∧
    extOverlap c.out (if c.d = 0 then 0 else extent c.t c.outStride (f.rowBytes c.d)) c.routeIn (16 * c.k * c.t) = false := by
  unfold CombineD.ok at hok
  rw [Bool.and_eq_true] at hok
  obtain ⟨hhead, hfmts⟩ := hok
  have hin : c.inF ≤ 3 := by
    simp only [Bool.and_eq_true, decide_eq_true_eq] at hhead
    tauto
  split at hfmts
  next i o b hi ho hb =>
    refine ⟨_, _, _, by rw [stepped, hi]; rfl, by rw [stepped, ho]; rfl, by rw [stepped, hb]; rfl, hin, ?_⟩
    simp only [Bool.and_eq_true, Bool.not_eq_true'] at hfmts
    tauto
  · cases hfmts

theorem extOverlap_beside {a n b k : Nat} (hn : n ≠ 0) (hk : k ≠ 0) (h : extOverlap a n b k = false) :
    a + n ≤ b ∨ b + k ≤ a := by
  by_contra hno
  rw [extOverlap, decide_eq_true hn, decide_eq_true hk, decide_eq_true (show a < b + k by omega),
    decide_eq_true (show b < a + n by omega)] at h
  cases h

/-- A row of an extent lies in it (R189). -/
theorem extent_row {t stride row r x : Nat} (hr : r < t) (hx : x < row) : r * stride + x < extent t stride row := by
  have hle : r * stride ≤ (t - 1) * stride := Nat.mul_le_mul_right _ (by omega)
  rw [extent, if_neg (by simp; omega)]
  omega

theorem Hw.noteConv_mem (h : Hw) (d : Nat) (o : Origin) (tensor : Nat) (cv : Counts) :
    (h.noteConv d o tensor cv).mem = h.mem ∧ (h.sound → (h.noteConv d o tensor cv).sound) := by
  unfold Hw.noteConv
  split
  · exact ⟨rfl, id⟩
  · dsimp only
    split <;> split <;> exact ⟨rfl, id⟩

/-- R191: with valid records a COMBINE runs through its rows and answers how many it wrote. -/
theorem Within.combineRun {m : Mem} {c : CombineD} {d step : Nat} (o : Origin) (hok : c.ok step = true) (hd : c.d ≠ 0)
    (hk : c.k ≠ 0) (hrec : ∀ r < c.t, c.recordsOk m (spWin d) r) :
    Within m (spWin d + c.routeIn) (16 * c.k * c.t) (c.run d o step) (fun n => n ≤ c.t) := by
  obtain ⟨i, f, b, hi, hf, hb, hin, hapart⟩ := CombineD.ok_formats hok
  unfold CombineD.run
  rw [hi, hf, hb]
  refine Within.foldlM_upto (fun r n => n ≤ r) (Nat.zero_le 0) fun r hr n hn => ?_
  have hout : ∀ x < f.rowBytes c.d, spWin d + c.out + r * c.outStride + x < spWin d + c.routeIn ∨
      spWin d + c.routeIn + 16 * c.k * c.t ≤ spWin d + c.out + r * c.outStride + x := by
    intro x hx
    have hin := extent_row (stride := c.outStride) hr hx
    rw [if_neg hd] at hapart
    have hrecs : 16 * c.k * c.t ≠ 0 := Nat.mul_ne_zero (Nat.mul_ne_zero (by decide) hk) (by omega)
    have := extOverlap_beside (by omega) hrecs hapart
    omega
  refine (Within.combineRow hr (hrec r hr) (stepped_rowBytes_le hin hi) hout).bind fun cv _ => ?_
  cases cv with
  | none => exact .pure (by omega)
  | some cv =>
    refine (Within.modify fun h => ?_).bind fun _ _ => .pure (by omega)
    obtain ⟨hmem, hsound⟩ := h.noteConv_mem d o c.tensor cv
    exact ⟨hmem, fun hs => hsound hs⟩

/-- A COMBINE whose RET_FLAG is set, by what its rows answer (R191). -/
theorem combine_of_run {h g k : Hw} {e : Env} {d n x : Nat} {j : Job} {rest : List Job} {c : CombineD}
    (hq : h.queue d 4 = j :: rest) (hon : h.dieOn e d = true) (hc : CombineD.of j.body = c) (hop : c.op = 2)
    (hok : c.ok (h.stepOf j.origin) = true) (ht : c.t ≠ 0) (hd : c.d ≠ 0) (hk : c.k ≠ 0)
    (hflag : runOp (loadFlag (spWin d + c.retFlag) c.retTag) h = (.ok (some x), g))
    (hrun : runOp (do engineSound d; c.run d j.origin (h.stepOf j.origin)) g = (.ok n, k)) :
    combine d e h = (k.deFlag d c.flag c.flagAddr c.tag n).dispatched e d j (if c.flag then n else 0) := by
  have hrows : runOp (do
      engineSound d
      return some (← c.run d j.origin (h.stepOf j.origin))) g = (.ok (some n), k) := by
    obtain ⟨_, g', hsound, hrun⟩ := runOp_bind_ok hrun
    exact runOp_bind _ _ _ _ _ hsound _ _ (runOp_bind _ _ _ _ _ hrun _ _ rfl)
  have hm := runOp_bind _ (fun f => match f with
    | none => (return none : Op (Option Nat))
    | some _ => do
      engineSound d
      return some (← c.run d j.origin (h.stepOf j.origin))) _ _ _ hflag _ _ hrows
  unfold combine
  rw [hq]
  dsimp only
  rw [hc]
  refine (if_neg (by simp [hon, hop])).trans ((if_neg (by simp [hok])).trans ((if_neg (by simp [ht, hd, hk])).trans ?_))
  generalize hr : runOp (α := Option Nat) _ h = r
  obtain rfl : r = (.ok (some n), k) := hr.symm.trans hm
  rfl

/-! Timeouts and aborts (R172, R193). -/

theorem Hw.endDispatch_status {h : Hw} {e : Env} {d : Nat} {j : Job} {st : Status} (hst : st.ownValue = false) :
    h.endDispatch e d j (.error (.st st)) =
      Hw.finishJob { h with routes := SMap.del h.routes d, fed := SMap.del h.fed d } d 4 j ⟨st, h.deCount d j, 0⟩ := by
  unfold Hw.endDispatch
  dsimp only
  rw [hst]
  rfl

theorem Hw.deCount_reach (h : Hw) (t d : Nat) (j : Job) : (h.reach t).deCount d j = h.deCount d j := by
  unfold Hw.deCount
  rfl

theorem deFlagTimeout_of_waits {h : Hw} {e : Env} {d : Nat} {j : Job} {rest : List Job} (hq : h.queue d 4 = j :: rest)
    (hon : h.dieOn e d = true) (ht : h.rf Reg.deCtrlFlagTimeout (rkey d 4 0) ≠ 0) (hw : h.deWaits d j = true) :
    deFlagTimeout d e h =
      (h.reach (j.since + 1000 * h.rf Reg.deCtrlFlagTimeout (rkey d 4 0))).endDispatch e d j (.error (.st .timeout)) := by
  unfold deFlagTimeout
  rw [hq, Nat.mul_comm]
  exact if_pos (by simp [hon, ht, hw])

theorem deCtrlAbort_of_one {h : Hw} {e : Env} {d : Nat} {j : Job} (hd : d < 24) (hq : h.queue d 4 = [j])
    (hcolls : h.colls = []) (hop : j.body.fld 0 7 0 < 0x10 ∨ 0x14 < j.body.fld 0 7 0)
    (hempty : (h.endDispatch e d j (.error (.st .aborted))).queue d 4 = []) :
    deCtrlAbort d e h = h.endDispatch e d j (.error (.st .aborted)) := by
  have hno : (j.started && decide (0x10 ≤ j.body.fld 0 7 0) && decide (j.body.fld 0 7 0 ≤ 0x14)) = false := by
    simp only [Bool.and_eq_false_iff, decide_eq_false_iff_not]
    omega
  have hrest : ([j].filter (fun (k : Job) =>
      ((h.endDispatch e d j (.error (.st .aborted))).queue d 4).any (fun q => q.tag = k.tag))).foldl
      (fun h j => h.finishJob d 4 j ⟨.aborted, h.deCount d j, 0⟩) (h.endDispatch e d j (.error (.st .aborted))) =
      h.endDispatch e d j (.error (.st .aborted)) := by
    rw [hempty]
    rfl
  unfold deCtrlAbort
  refine (if_neg (by omega)).trans ?_
  dsimp only
  rw [hq, hcolls]
  dsimp only [List.find?_nil]
  rw [hno]
  cases h.group (j.body.fld 4 15 0) <;> exact hrest

/-- Settles O20: a ROUTE and a COMBINE by what their operations answer, that these complete on sound stores, and the end of a
descriptor that waits or is aborted. -/
theorem dispatchEngineRoutesCombinesAndStops : Obligations.DispatchEngineRoutesCombinesAndStops := by
  refine ⟨fun s d j rest hs hon hq => ?_, fun s d j hs hon hd hq => ?_⟩
  · intro r c w step ends routed begun work combined
    refine ⟨fun t mask hop hok he hfeed => ?_, fun hop hok ht hd hk => ?_⟩
    · have hroute : ∀ b h o g, begun b h → runOp (work b h t mask) h = (.ok o, g) → routed b o g :=
        fun b h o g hbegun hwork => onHw_to (f := route d)
          ((route_of_begun (e := s.env) hq hon rfl hop hok he hbegun hfeed).trans (Hw.runRoute_of_work hwork))
      refine ⟨hroute, fun hsound hkept hnew => ?_⟩
      have hgo : ∀ b h, begun b h → h.sound → (∀ x < r.e, SMap.get b.set [] x ≠ []) →
          ∃ b h o g, begun b h ∧ runOp (work b h t mask) h = (.ok o, g) ∧ routed b o g := by
        intro b h hbegun hsound hset
        have hwork : Completes (work b h t mask) := (Completes.engineSound d).bind fun _ _ =>
          (Completes.routeCompute hset).bind fun o _ => (Completes.routeWrite _ _ _ _ _ _).bind fun _ _ => .pure trivial
        obtain ⟨o, g, hrun, -⟩ := hwork h hsound
        exact ⟨b, h, o, g, hbegun, hrun, hroute b h o g hbegun hrun⟩
      cases hb : SMap.find? s.hw.routes d with
      | some b => exact hgo b s.hw (.inl ⟨hb, rfl⟩) hsound (hkept b hb)
      | none =>
        obtain ⟨p, hp, hforce, hset⟩ := hnew hb
        obtain ⟨b, h, hbegin, hh, -, hbset⟩ := Finishes.beginRoute r hp hforce s.hw hsound (.refl _)
        exact hgo b h (.inr ⟨hb, hbegin⟩) hh (by rw [hbset]; exact hset)
    · have hcombine : ∀ x n g h, runOp (loadFlag (w + c.retFlag) c.retTag) s.hw = (.ok (some x), g) →
          runOp (do engineSound d; c.run d j.origin step) g = (.ok n, h) → combined h n :=
        fun x n g h hflag hrun => onHw_to (f := combine d)
          (combine_of_run (e := s.env) hq hon rfl hop hok ht hd hk hflag hrun)
      refine ⟨hcombine, fun hsound hset hrec => ?_⟩
      obtain ⟨x, hx⟩ := Option.isSome_iff_exists.1 hset
      have hread : Reads (loadFlag (w + c.retFlag) c.retTag) s.hw (s.hw.flagAt (w + c.retFlag) c.retTag) :=
        (Reads.loadN hsound (w + c.retFlag) 8).bind (.pure s.hw _)
      obtain ⟨g, hflag, hg⟩ := hread.run
      have hrun : Within s.hw.mem (w + c.routeIn) (16 * c.k * c.t) (do engineSound d; c.run d j.origin step) (fun n => n ≤ c.t) :=
        (Within.engineSound d).bind fun _ _ => .combineRun j.origin hok hd hk hrec
      obtain ⟨n, h, hrun, -, hn⟩ := hrun g ⟨hg.counted.sound hsound, fun _ _ _ => by rw [hg.counted.mem]⟩
      exact ⟨h, n, hn, hcombine x n g h (by rw [← hx]; exact hflag) hrun⟩
  · intro t ends
    refine ⟨fun ht hw => ?_, fun hcolls hop hempty => ?_⟩
    · have hend : ∀ x, (s.hw.reach x).endDispatch s.env d j (.error (.st .timeout)) = ends (s.hw.reach x) .timeout := by
        intro x
        rw [Hw.endDispatch_status rfl, Hw.deCount_reach]
      exact onHw_to (f := deFlagTimeout d) ((deFlagTimeout_of_waits hq hon ht hw).trans (hend _))
    · have hend : s.hw.endDispatch s.env d j (.error (.st .aborted)) = ends s.hw .aborted := by
        rw [Hw.endDispatch_status rfl]
      exact onHw_to (f := deCtrlAbort d)
        ((deCtrlAbort_of_one hd hq hcolls hop (by rw [hend]; exact hempty)).trans hend)

end Sys2Proof.Machine
end

section
/-! SUPPORT. Copy engines (R134 to R149): a descriptor whose places are all on this package runs to its end on sound stores,
completes once its requests are answered, and is aborted. -/

namespace Sys2Proof.Machine

/-! Operations that complete. -/

theorem Completes.get_bind {β : Type} {f : Hw → Op β} {Q : β → Prop} (hf : ∀ h, h.sound → Completes (f h) Q) :
    Completes (get >>= f) Q := by
  intro h hs
  obtain ⟨b, g, hrun, hg⟩ := hf h hs h hs
  exact ⟨b, g, runOp_bind _ _ _ _ _ (show runOp get h = (.ok h, h) from rfl) _ _ hrun, hg⟩

theorem Completes.foldlM {α β : Type} {f : β → α → Op β} (hf : ∀ b x, Completes (f b x)) (l : List α) :
    ∀ b, Completes (l.foldlM f b) := by
  induction l with
  | nil => exact fun b => .pure trivial
  | cons x l ih =>
    intro b
    rw [List.foldlM_cons]
    exact (hf b x).bind fun c _ => ih c

/-- What follows an operation that is made only under a condition. -/
theorem Completes.when_bind {β : Type} {c : Prop} [Decidable c] {op : Op PUnit} {f : PUnit → Op β} {Q : β → Prop}
    (hop : Completes op) (hf : Completes (f PUnit.unit) Q) : Completes (if c then op >>= f else f PUnit.unit) Q :=
  .ite (fun _ => hop.bind fun _ _ => hf) fun _ => hf

/-- A count advances. -/
theorem Completes.inc {f : FieldRef} {b i n : Nat} (hk : CountKey (b + f.row.off + f.row.stride * i)) :
    Completes (modify (fun h => h.inc f b i n) : Op PUnit) :=
  fun h hs => ⟨_, h.inc f b i n, rfl, hs, ⟨_, _, _, _, _, _, _, _, _, rfl,
    fun x hx => by rw [SMap.find?_put, if_neg (show ¬ x = _ from fun he => hx (he ▸ hk))], fun _ => rfl⟩, trivial⟩

theorem ceCount_countKey {d u : Nat} (hu : u = 5 ∨ u = 6) :
    CountKey (rkey d u 0 + Reg.ceCount.off + Reg.ceCount.stride * 0) :=
  .inr (.inr ⟨d, u, hu, by unfold rkey; omega⟩)

/-! A copy's accesses, its places on this package. -/

section
variable {w : Asker} (hu : w.unit = 5 ∨ w.unit = 6)

include hu in
theorem Completes.dropElems (n : Nat) : Completes (Machine.dropElems w n) := by
  by_cases hn : n = 0
  · subst hn
    exact fun h hs => ⟨PUnit.unit, h, rfl, hs, .refl h, trivial⟩
  · have hmod : Machine.dropElems w n = (modify (fun h => h.inc Reg.ceCountDrops (rkey w.die w.unit 0) 0 n) : Op PUnit) := by
      unfold Machine.dropElems
      congr 1
      funext h
      exact if_neg hn
    rw [hmod]
    exact .inc (ceCount_countKey hu)

theorem Completes.loadAt {l : Loc} (hl : ∃ x, l = .here x) (o : Owner) (i n wo wn : Nat) :
    Completes (Machine.loadAt o l i n wo wn) := by
  obtain ⟨x, rfl⟩ := hl
  exact (Completes.loadB _ _).mono fun _ _ => trivial

theorem Completes.storeAt {l : Loc} (hl : ∃ x, l = .here x) (o : Owner) (src : Nat) (part : Option Nat) (i : Nat) (bs : List Byte) :
    Completes (Machine.storeAt o src part l i bs) := by
  obtain ⟨x, rfl⟩ := hl
  exact Completes.storeB _ _

variable {c : CopyD} {p : CopyP} (hs : ∃ x, p.s = .here x) (hd : ∃ x, p.d = .here x) (hi : ∃ x, p.i = .here x)

include hs in
theorem Completes.readElem (o row : Nat) : Completes (c.readElem p w o row) := by
  unfold CopyD.readElem
  exact .ite (fun _ => .pure trivial) fun _ => .loadAt hs _ _ _ _ _

include hu hd in
theorem Completes.writeElem (o : Nat) (bs : List Byte) : Completes (c.writeElem p w o bs) := by
  unfold CopyD.writeElem
  exact .ite (fun _ => .dropElems hu _) fun _ => .storeAt hd _ _ _ _ _

theorem Completes.readHere (a e : Nat) (is : List Nat) : Completes (Machine.readHere a e is) (fun r => r.2 = none) := by
  unfold Machine.readHere
  refine .get_bind fun h hs => ?_
  have hgood : is.findIdx? (fun i => h.elemBad (a + e * i) e) = none := by
    refine List.findIdx?_eq_none_iff.2 fun i _ => ?_
    simp [Hw.elemBad, Hw.lineBad, hs.1, hs.2.1]
  rw [hgood]
  refine .ite_bind (P := fun _ => True) (.ite (fun _ => .pure trivial) fun _ => (Completes.loadB _ _).mono fun _ _ => trivial)
    fun bs _ => ?_
  simp only [Option.getD_none, List.getElem?_length]
  exact .pure rfl

include hs in
theorem Completes.readRun (o e : Nat) (is : List Nat) (wo wn : Nat) (ow : Owner) :
    Completes (Machine.readRun ow p.s o e is wo wn) (fun r => r.2 = none) := by
  obtain ⟨x, hx⟩ := hs
  unfold Machine.readRun
  rw [hx]
  exact .ite (fun _ => .pure rfl) fun _ => .readHere _ _ _

include hd in
theorem Completes.putRun (o : Nat) (els : List (Nat × List Byte)) : Completes (c.putRun p w o els) := by
  unfold CopyD.putRun
  dsimp only
  split
  · exact .pure trivial
  · exact .storeAt hd _ _ _ _ _

include hs hd in
theorem Completes.slot (so o : Nat) (is : List Nat) : Completes (c.slot p w so o is) := by
  unfold CopyD.slot
  refine (Completes.readRun hs _ _ _ _ _ _).bind ?_
  rintro ⟨els, f⟩ hf
  obtain rfl : f = none := hf
  exact (Completes.putRun hd _ _).bind fun _ _ => .pure trivial

include hu hs hd in
theorem Completes.copyRow (so o : Nat) : Completes (c.row p w so o) := by
  unfold CopyD.row
  refine .when_bind (.dropElems hu _) ?_
  refine (Completes.foldlM (fun acc ch => (Completes.slot hs hd _ _ _).bind fun _ _ => .pure trivial) _ _).bind fun done _ => ?_
  exact .when_bind (.dropElems hu _) (.pure trivial)

include hu hd in
theorem Completes.give (o : Nat) (els : List (Nat × List Byte)) : Completes (c.give p w o els) := by
  unfold CopyD.give
  refine (Completes.forIn _ fun ch => ?_).bind fun _ _ => .dropElems hu _
  exact (Completes.putRun hd _ _).bind fun _ _ => .pure rfl

include hi in
theorem Completes.copyIndex (j : Nat) : Completes (c.index p w j) := by
  unfold CopyD.index
  exact (Completes.loadAt hi _ _ _ _ _).bind fun _ _ => .pure trivial

/-! The runs. -/

include hu hs hd in
/-- R136, R140: COPY, TRANSPOSE and PERMUTE. -/
theorem Completes.move : Completes (c.move p w) := by
  unfold CopyD.move
  refine .ite (fun _ => ?_) fun _ => ?_
  · refine (Completes.forIn _ fun x => ?_).bind fun _ _ => .pure trivial
    exact (Completes.copyRow hu hs hd _ _).bind fun _ _ => .pure rfl
  · refine (Completes.forIn _ fun x => ?_).bind fun _ _ => .pure trivial
    refine .ite (fun _ => ?_) fun _ => ?_
    · exact (Completes.dropElems hu _).bind fun _ _ => .pure rfl
    · exact (Completes.readElem hs _ _).bind fun bs _ => (Completes.writeElem hu hd _ _).bind fun _ _ => .pure rfl

include hu hs hd hi in
/-- R145, R146. -/
theorem Completes.gather : Completes (c.gather p w) := by
  unfold CopyD.gather
  refine (Completes.foldlM (fun held j => (Completes.copyIndex hi j).bind fun x _ => ?_) _ _).bind fun _ _ => .pure trivial
  refine .ite (fun _ => (Completes.give hu hd _ _).bind fun _ _ => .pure trivial) fun _ => ?_
  dsimp only
  split
  · exact (Completes.inc (ceCount_countKey hu)).bind fun _ _ => (Completes.give hu hd _ _).bind fun _ _ => .pure trivial
  · exact (Completes.copyRow hu hs hd _ _).bind fun _ _ => .pure trivial

include hu hs hd hi in
/-- R145, R147. -/
theorem Completes.scatter : Completes (c.scatter p w) := by
  unfold CopyD.scatter
  refine Completes.foldlM (fun kept j => (Completes.copyIndex hi j).bind fun x _ => ?_) _ _
  refine .ite (fun _ => (Completes.dropElems hu _).bind fun _ _ => .pure trivial) fun _ => ?_
  refine .ite (fun _ => (Completes.copyRow hu hs hd _ _).bind fun _ _ => .pure trivial) fun _ => ?_
  obtain ⟨off, hoff⟩ := id hd
  rw [hoff]
  refine (Completes.forIn _ fun i => .ite (fun _ => ?_) fun _ => ?_).bind fun _ _ => .pure trivial
  · exact (Completes.dropElems hu _).bind fun _ _ => .pure rfl
  · exact (Completes.readElem hs _ _).bind fun bs _ => (Completes.loadAt ⟨off, rfl⟩ _ _ _ _ _).bind fun old _ =>
      (Completes.writeElem hu hd _ _).bind fun _ _ => .pure rfl

end

/-! The decode (R137 to R140). -/

/-- An operation that does not look at the hardware. -/
def Still {α : Type} (op : Op α) : Prop := ∀ (h k g : Hw) (a : α), runOp op h = (.ok a, k) → runOp op g = (.ok a, g)

theorem Still.pure {α : Type} (a : α) : Still (Pure.pure a) := by
  intro h k g b hrun
  cases hrun
  rfl

theorem Still.failSt {α : Type} (s : Status) : Still (Machine.failSt s : Op α) := fun h k g a hrun => by cases hrun

theorem Still.need (c : Bool) (s : Status) : Still (Machine.need c s) := by
  cases c
  · exact fun h k g a hrun => by cases hrun
  · exact .pure _

theorem Still.bind {α β : Type} {op : Op α} {f : α → Op β} (hop : Still op) (hf : ∀ a, Still (f a)) : Still (op >>= f) := by
  intro h k g b hrun
  obtain ⟨a, h', hop', hf'⟩ := runOp_bind_ok hrun
  exact runOp_bind _ _ _ _ _ (hop h h' g a hop') _ _ (hf a h' k g b hf')

/-- The checks of a copy descriptor, the places of its flag and of its extents found (R137 to R140). -/
theorem CopyD.decode_still (c : CopyD) (e : Env) : ∃ f : Hw → Op (Option CopyP), c.decode e = get >>= f ∧
    ∀ h, Still (f h) ∧ ∀ g, h.sameMap g → f g = f h := by
  refine ⟨_, rfl, fun h => ⟨?_, fun g hg => ?_⟩⟩
  · dsimp only
    refine .bind (.need _ _) fun _ => ?_
    split
    · exact .failSt _
    · split
      · split
        · exact .failSt _
        · exact .pure _
      · refine .bind (.need _ _) fun _ => .bind (.need _ _) fun _ => .bind (.need _ _) fun _ => .bind (.need _ _) fun _ =>
          .bind (.need _ _) fun _ => ?_
        split
        · exact .failSt _
        · exact .pure _
  · simp only [Hw.extent, Hw.pointOf, Hw.flagPlace, hg.node?, hg.resolveMem]


theorem CopyD.decode_again {c : CopyD} {e : Env} {h k g : Hw} {p : Option CopyP} (hrun : runOp (c.decode e) h = (.ok p, k))
    (hg : h.sameMap g) : runOp (c.decode e) g = (.ok p, g) := by
  obtain ⟨f, hf, hstill⟩ := c.decode_still e
  rw [hf] at hrun ⊢
  obtain ⟨h', _, hget, hrun⟩ := runOp_bind_ok hrun
  cases hget
  obtain ⟨hsame, hmap⟩ := hstill h
  exact runOp_bind _ _ _ _ _ (show runOp get g = (.ok g, g) from rfl) _ _ (hmap g hg ▸ hsame h k g p hrun)

/-! The descriptor at the head of an engine's queue. -/

/-- R141: with its places on this package a decoded descriptor runs to its end. -/
theorem copyRun_completes {h : Hw} {e : Env} {d u : Nat} {j : Job} {p : CopyP} (hu : u = 5 ∨ u = 6) (hsound : h.sound)
    (hdec : runOp ((CopyD.of j.body).decode e) h = (.ok (some p), h))
    (hs : ∃ x, p.s = .here x) (hd : ∃ x, p.d = .here x) (hi : ∃ x, p.i = .here x) :
    ∃ n g, runOp (copyRun e d u j) { h with moved := 0 } = (.ok (.ok, n), g) ∧ g.sound ∧ h.accessed g := by
  let w : Asker := ⟨.job d u j.tag, Hw.coord { h with moved := 0 } d u, Hw.partOf { h with moved := 0 } d, d, u⟩
  have hrest : Completes (do
      let n ← if (CopyD.of j.body).op = 4 then do (CopyD.of j.body).gather p w; Pure.pure (CopyD.of j.body).d1
        else if (CopyD.of j.body).indexed then (CopyD.of j.body).scatter p w
        else do (CopyD.of j.body).move p w; Pure.pure ((CopyD.of j.body).d1 * (CopyD.of j.body).d2 * (CopyD.of j.body).d3)
      return (Status.ok, if (CopyD.of j.body).flag then n else 0)) (fun r => r.1 = .ok) := by
    have hlast : ∀ (n : Nat), Completes (Pure.pure (Status.ok, if (CopyD.of j.body).flag then n else 0) : Op (Status × Nat))
        (fun r => r.1 = .ok) := fun n => .pure rfl
    refine .ite (fun _ => ?_) fun _ => .ite (fun _ => ?_) fun _ => ?_
    · exact (Completes.gather hu hs hd hi).bind fun _ _ => hlast _
    · exact (Completes.scatter hu hs hd hi).bind fun n _ => hlast n
    · exact (Completes.move hu hs hd).bind fun _ _ => hlast _
  obtain ⟨⟨st, n⟩, g, hrun, hg, hacc, hst⟩ := hrest { h with moved := 0 } hsound
  obtain rfl : st = .ok := hst
  refine ⟨n, g, ?_, hg, (h.accessed_moved 0).trans hacc⟩
  unfold copyRun
  refine runOp_bind _ _ _ _ _ (show runOp get _ = (.ok _, _) from rfl) _ _ ?_
  exact runOp_bind _ _ _ _ _ (CopyD.decode_again hdec (h.accessed_moved 0).sameMap) _ _ hrun

/-- The descriptor completes with its result. -/
def Hw.copyEnds (h : Hw) (e : Env) (d u : Nat) (j j' : Job) : Hw :=
  h.finishJob d u j' ⟨h.unitStatus e d j.part j.beat ((j'.result.map (fun r => r.1)).getD .ok),
    (j'.result.map (fun r => r.2)).getD 0, 0⟩

theorem Hw.chargeMem_eq (h : Hw) (part : Option Nat) : ∃ acct, h.chargeMem part = { h with acct := acct, moved := 0 } := by
  cases part <;> exact ⟨_, rfl⟩

theorem copyOp_settles {h g : Hw} {e : Env} {d u : Nat} {j : Job} {rest : List Job} {st : Status} {n : Nat} {ops : List Nat}
    (hon : h.dieOn e d = true) (hu : u = 5 ∨ u = 6) (hq : h.queue d u = j :: rest) (hnew : j.result = none)
    (hops : ops.contains (j.body.fld 0 7 0) = true)
    (hrun : runOp (copyRun e d u j) { h with moved := 0 } = (.ok (st, n), g)) (hmirq : g.mirq = []) : copyOp ops d u e h =
    ((g.chargeMem j.part).putJob d u { j with started := true, result := some (st, n) }).settleJob e d u
      { j with started := true, result := some (st, n) }
      (copyFlag e d u (g.chargeMem j.part) { j with started := true, result := some (st, n) }) := by
  have hcharge : (g.chargeMem j.part).mirq = [] := by
    obtain ⟨acct, hg⟩ := g.chargeMem_eq j.part
    rw [hg]
    exact hmirq
  unfold copyOp
  refine (if_pos (by simp only [hon, Bool.true_and, Bool.or_eq_true, decide_eq_true_eq]; exact hu)).trans ?_
  unfold Hw.runRemote
  rw [hq]
  dsimp only
  rw [hops, hnew]
  dsimp only
  rw [hrun]
  unfold Hw.endRemote
  dsimp only
  rw [hcharge]
  rfl

theorem copyFlag_off {h : Hw} {e : Env} {d u : Nat} {j : Job} (hflag : (CopyD.of j.body).flag = false) :
    copyFlag e d u h j = none := by
  unfold copyFlag
  dsimp only
  rw [hflag]

theorem copyFlag_ok {h : Hw} {e : Env} {d u n : Nat} {j : Job} {l : Loc} (hflag : (CopyD.of j.body).flag = true)
    (hres : j.result = some (.ok, n)) (hl : h.flagPlace e (CopyD.of j.body).flagAddr = .ok l) :
    copyFlag e d u h j = some (l, (CopyD.of j.body).tag, n) := by
  unfold copyFlag
  dsimp only
  rw [hflag, hres, hl]

/-- A descriptor whose run succeeded and whose requests are answered completes, its flag written first (R149, R391). -/
theorem Hw.settleJob_good {h : Hw} {e : Env} {d u : Nat} {j : Job} {st : Status} {n : Nat} (hres : j.result = some (st, n))
    (hgood : st.good = true) (hans : h.answered (.job d u j.tag) = true)
    (hbad : firstFail (h.reqsOf (.job d u j.tag)) = none) :
    h.settleJob e d u j none =
      Hw.copyEnds { h with reqs := h.reqs.filter (fun r => r.owner ≠ Owner.job d u j.tag) } e d u j j ∧
    ∀ off tag count, h.clearing off 8 = false → h.settleJob e d u j (some (.here off, tag, count)) =
      Hw.copyEnds (Hw.flag { h with reqs := h.reqs.filter (fun r => r.owner ≠ Owner.job d u j.tag) } off tag count) e d u j j := by
  unfold Hw.copyEnds
  rw [hres]
  refine ⟨?_, fun off tag count hclear => ?_⟩
  · unfold Hw.settleJob
    rw [hres]
    refine (if_neg (by rw [hans]; decide)).trans ((if_pos hgood).trans ?_)
    rw [hbad]
    rfl
  · unfold Hw.settleJob
    rw [hres]
    refine (if_neg (by rw [hans]; decide)).trans ((if_pos hgood).trans ?_)
    rw [hbad]
    exact if_neg (show ¬ h.clearing off 8 = true by rw [hclear]; decide)

/-- The commands of a copy engine that name the operation of the descriptor at the head (R135). -/
theorem copy_commands {s : State} {d u op : Nat} {g : Hw}
    (hg : ∀ ops : List Nat, ops.contains op = true → copyOp ops d u s.env s.hw = g) :
    (op = 1 → exec (.copy d u) s = .next (s.hwTo g)) ∧ (op = 2 → exec (.transpose d u) s = .next (s.hwTo g)) ∧
    (op = 3 → exec (.permute d u) s = .next (s.hwTo g)) ∧ (op = 4 → exec (.gather d u) s = .next (s.hwTo g)) ∧
    (op = 5 → exec (.scatterStore d u) s = .next (s.hwTo g)) ∧ (op = 6 → exec (.scatterAdd d u) s = .next (s.hwTo g)) := by
  have hone : copyOrReserved.contains 1 = true := by decide
  refine ⟨?_, ?_, ?_, ?_, ?_, ?_⟩
  · rintro rfl
    exact onHw_to (f := copyOp copyOrReserved d u) (hg _ hone)
  all_goals
    rintro rfl
    exact onHw_to (f := copyOp [_] d u) (hg _ rfl)

theorem ceAbort_of_queue {h : Hw} {e : Env} {d u : Nat} (hon : h.dieOn e d = true) (hu : u = 5 ∨ u = 6) :
    ceAbort d u e h = h.abortQueue d u (copyFlag e d u) :=
  if_pos (by simp only [hon, Bool.true_and, Bool.or_eq_true, decide_eq_true_eq]; exact hu)

/-- Settles O18: a descriptor whose run succeeds completes, its flag written first; one with its places on this package runs to
its end on sound stores; and an abort of the descriptor in the queue. -/
theorem copyEnginesCompleteOrAbort : Obligations.CopyEnginesCompleteOrAbort := by
  refine ⟨fun s d u j rest hs hon hu hq hnew => ?_, fun s d u j hs hon hu => ⟨fun hq => ?_, fun hq => ?_⟩⟩
  · intro c run each spent
    have hends : ∀ st n h, run = (.ok (st, n), h) → h.mirq = [] → st.good = true → h.answered (.job d u j.tag) = true →
        firstFail (h.reqsOf (.job d u j.tag)) = none →
        let j' := { j with started := true, result := some (st, n) }
        let flag := copyFlag s.env d u (h.chargeMem j.part) j'
        (flag = none → each j' (spent j' h)) ∧
        (∀ off tag count, flag = some (.here off, tag, count) → h.clearing off 8 = false →
          each j' ((spent j' h).flag off tag count)) := by
      intro st n h hrun hmirq hgood hans hbad j' flag
      have hsame : ((h.chargeMem j.part).putJob d u j').reqs = h.reqs ∧
          ((h.chargeMem j.part).putJob d u j').clears = h.clears := by
        obtain ⟨acct, hg⟩ := h.chargeMem_eq j.part
        rw [hg]
        exact ⟨rfl, rfl⟩
      obtain ⟨hr, hcl⟩ := hsame
      obtain ⟨hnone, hhere⟩ := Hw.settleJob_good (h := (h.chargeMem j.part).putJob d u j') (e := s.env) (d := d) (u := u) (j := j')
        rfl hgood (by rw [Hw.answered, Hw.reqsOf, hr]; exact hans) (by rw [Hw.reqsOf, hr]; exact hbad)
      refine ⟨fun hflag => ?_, fun off tag count hflag hclear => ?_⟩
      · refine copy_commands fun ops hops => (copyOp_settles hon hu hq hnew hops hrun hmirq).trans ?_
        rw [show copyFlag _ _ _ _ _ = none from hflag]
        exact hnone
      · refine copy_commands fun ops hops => (copyOp_settles hon hu hq hnew hops hrun hmirq).trans ?_
        rw [show copyFlag _ _ _ _ _ = some (.here off, tag, count) from hflag]
        exact hhere off tag count (by rw [Hw.clearing, hcl]; exact hclear)
    refine ⟨hends, fun p hdec hsound hmir hreqs hps hpd hpi => ?_⟩
    obtain ⟨n, g, hrun, hg, hacc⟩ := copyRun_completes (d := d) hu hsound hdec hps hpd hpi
    obtain ⟨hmirq, hgreqs⟩ : g.mirq = [] ∧ g.reqsOf (.job d u j.tag) = [] := by
      obtain ⟨_, _, _, _, _, _, _, _, _, rfl, -, hmirq⟩ := hacc
      exact ⟨(hmirq hmir).trans hs.1, hreqs⟩
    have hplace : (g.chargeMem j.part).flagPlace s.env c.flagAddr = s.hw.flagPlace s.env c.flagAddr := by
      obtain ⟨acct, hc⟩ := g.chargeMem_eq j.part
      have hmap : s.hw.sameMap (g.chargeMem j.part) := by
        rw [hc]
        exact hacc.sameMap
      rw [Hw.flagPlace, Hw.flagPlace, hmap.resolveMem]
    obtain ⟨hnone, hhere⟩ := hends .ok n g hrun hmirq rfl (by rw [Hw.answered, hgreqs]; rfl) (by rw [hgreqs]; rfl)
    refine ⟨n, g, hrun, fun hflag => hnone (copyFlag_off hflag), fun off hflag hoff => hhere off c.tag n ?_ ?_⟩
    · exact copyFlag_ok hflag rfl (hplace.trans hoff)
    · rw [Hw.clearing, hg.2.2.2]
      rfl
  · exact onHw_same (f := ceAbort d u) hs (by rw [ceAbort_of_queue hon hu, Hw.abortQueue, hq]; rfl)
  · refine onHw_to (f := ceAbort d u) ?_
    rw [ceAbort_of_queue hon hu, Hw.abortQueue, hq]
    rfl

end Sys2Proof.Machine
end

section
/-! SUPPORT. The reads of a matrix product (R92, R93, R103, R105, R108): on sound stores they answer, or find that an image
breaks the sparse form. -/

namespace Sys2Proof.Machine

/-! Reads that may end with a status. -/

/-- From the hardware `h`, or with counts of reads added to it, the operation only counts; it ends with a status of `bad`, or
answers what `Q` holds of. -/
def Judged {α : Type} (h : Hw) (bad : Status → Prop) (op : Op α) (Q : α → Prop := fun _ => True) : Prop :=
  ∀ h', h.tallied h' → ∃ g, h.tallied g ∧
    ((∃ a, runOp op h' = (.ok a, g) ∧ Q a) ∨ ∃ s, bad s ∧ runOp op h' = (.error (.st s), g))

/-- No status. -/
def noStatus : Status → Prop := fun _ => False

theorem runOp_bind_st {α β : Type} {m : Op α} {f : α → Op β} {h g : Hw} {s : Status} (hm : runOp m h = (.error (.st s), g)) :
    runOp (m >>= f) h = (.error (.st s), g) := by
  unfold runOp EStateM.run at hm
  cases hx : m h with
  | ok a k => rw [hx] at hm; cases hm
  | error e k =>
    simp only [runOp, EStateM.run, bind, EStateM.bind, hx]
    rw [hx] at hm
    cases e <;> cases hm
    rfl

theorem runOp_bind_ok_st {α β : Type} {m : Op α} {f : α → Op β} {h g k : Hw} {a : α} {s : Status}
    (hm : runOp m h = (.ok a, g)) (hf : runOp (f a) g = (.error (.st s), k)) :
    runOp (m >>= f) h = (.error (.st s), k) := by
  unfold runOp EStateM.run at hm hf
  cases hx : m h with
  | ok b l =>
    rw [hx] at hm
    cases hm
    simp only [runOp, EStateM.run, bind, EStateM.bind, hx]
    cases hy : f a g with
    | ok c l => rw [hy] at hf; cases hf
    | error e l => rw [hy] at hf; cases e <;> cases hf; rfl
  | error e l => rw [hx] at hm; cases e <;> cases hm

theorem runOp_tryOp_ok {α : Type} {m : Op α} {h g : Hw} {a : α} (hm : runOp m h = (.ok a, g)) :
    runOp (tryOp m) h = (.ok (.ok a), g) := by
  unfold runOp EStateM.run at hm ⊢
  unfold tryOp
  cases hx : m h with
  | ok a k => rw [hx] at hm; cases hm; rfl
  | error e k => rw [hx] at hm; cases e <;> cases hm

theorem runOp_tryOp_st {α : Type} {m : Op α} {h g : Hw} {s : Status} (hm : runOp m h = (.error (.st s), g)) :
    runOp (tryOp m) h = (.ok (.error (.st s)), g) := by
  unfold runOp EStateM.run at hm ⊢
  unfold tryOp
  cases hx : m h with
  | ok a k => rw [hx] at hm; cases hm
  | error e k => rw [hx] at hm; cases e <;> cases hm; rfl

section
variable {α β : Type} {h : Hw} {bad : Status → Prop} {op : Op α} {P : α → Prop} {Q : β → Prop}

theorem Reads.judged {a : α} (ha : Reads op h a) (hP : P a) : Judged h bad op P := by
  intro h' hh
  obtain ⟨g, hrun, hg⟩ := ha h' hh
  exact ⟨g, hg, .inl ⟨a, hrun, hP⟩⟩

theorem Judged.pure {b : β} (hb : Q b) : Judged h bad (Pure.pure b) Q := (Reads.pure h b).judged hb

theorem Judged.failSt {s : Status} (hs : bad s) : Judged h bad (Machine.failSt s : Op β) Q :=
  fun h' hh => ⟨h', hh, .inr ⟨s, hs, rfl⟩⟩

theorem Judged.need (c : Bool) {s : Status} (hs : bad s) : Judged h bad (Machine.need c s) (fun _ => c = true) := by
  cases c
  · exact fun h' hh => ⟨h', hh, .inr ⟨s, hs, rfl⟩⟩
  · exact .pure rfl

/-- A need of the sparse form (R159). -/
theorem Judged.needForm (c : Bool) : Judged h (· = .sparseFormat) (Machine.need c .sparseFormat) (fun _ => c = true) :=
  .need c rfl

theorem Judged.bind {f : α → Op β} (hop : Judged h bad op P) (hf : ∀ a, P a → Judged h bad (f a) Q) :
    Judged h bad (op >>= f) Q := by
  intro h' hh
  obtain ⟨g, hg, ⟨a, hrun, ha⟩ | ⟨s, hs, hrun⟩⟩ := hop h' hh
  · obtain ⟨k, hk, ⟨b, hrun', hb⟩ | ⟨s, hs, hrun'⟩⟩ := hf a ha g hg
    · exact ⟨k, hk, .inl ⟨b, runOp_bind _ _ _ _ _ hrun _ _ hrun', hb⟩⟩
    · exact ⟨k, hk, .inr ⟨s, hs, runOp_bind_ok_st hrun hrun'⟩⟩
  · exact ⟨g, hg, .inr ⟨s, hs, runOp_bind_st hrun⟩⟩

theorem Judged.mono {R : α → Prop} (hop : Judged h bad op P) (hPR : ∀ a, P a → R a) : Judged h bad op R := by
  intro h' hh
  obtain ⟨g, hg, ⟨a, hrun, ha⟩ | hst⟩ := hop h' hh
  · exact ⟨g, hg, .inl ⟨a, hrun, hPR a ha⟩⟩
  · exact ⟨g, hg, .inr hst⟩

theorem Judged.get_bind {f : Hw → Op β} (hf : ∀ g, h.tallied g → Judged h bad (f g) Q) : Judged h bad (get >>= f) Q := by
  intro h' hh
  obtain ⟨g, hg, ⟨b, hrun, hb⟩ | ⟨s, hs, hrun⟩⟩ := hf h' hh h' hh
  · exact ⟨g, hg, .inl ⟨b, hrun, hb⟩⟩
  · exact ⟨g, hg, .inr ⟨s, hs, hrun⟩⟩

theorem Judged.ite {c : Prop} [Decidable c] {op' : Op α} (h1 : c → Judged h bad op P) (h2 : ¬ c → Judged h bad op' P) :
    Judged h bad (if c then op else op') P := by
  split
  · exact h1 (by assumption)
  · exact h2 (by assumption)

theorem Judged.ite_bind {c : Prop} [Decidable c] {op' : Op α} {f : α → Op β} (hop : Judged h bad (if c then op else op') P)
    (hf : ∀ a, P a → Judged h bad (f a) Q) : Judged h bad (if c then op >>= f else op' >>= f) Q := by
  split at hop
  next hc => exact if_pos hc ▸ hop.bind hf
  next hc => exact if_neg hc ▸ hop.bind hf

theorem Judged.mapM {f : α → Op β} (hf : ∀ x, Judged h bad (f x)) (l : List α) : Judged h bad (l.mapM f) := by
  rw [← List.mapM'_eq_mapM]
  induction l with
  | nil => exact .pure trivial
  | cons x l ih =>
    rw [List.mapM'_cons]
    exact (hf x).bind fun _ _ => ih.bind fun _ _ => .pure trivial

/-- What is looked at answers whatever it ends with. -/
theorem Judged.tryOp {bad' : Status → Prop} (hop : Judged h bad op P) :
    Judged h bad' (Machine.tryOp op) (fun r => (∃ a, r = .ok a ∧ P a) ∨ ∃ s, bad s ∧ r = .error (.st s)) := by
  intro h' hh
  obtain ⟨g, hg, ⟨a, hrun, ha⟩ | ⟨s, hs, hrun⟩⟩ := hop h' hh
  · exact ⟨g, hg, .inl ⟨_, runOp_tryOp_ok hrun, .inl ⟨a, rfl, ha⟩⟩⟩
  · exact ⟨g, hg, .inl ⟨_, runOp_tryOp_st hrun, .inr ⟨s, hs, rfl⟩⟩⟩

/-- An operation that no status ends runs to its end. -/
theorem Judged.run (hop : Judged h noStatus op P) : ∃ a g, runOp op h = (.ok a, g) ∧ h.tallied g ∧ P a := by
  obtain ⟨g, hg, ⟨a, hrun, ha⟩ | ⟨s, hs, -⟩⟩ := hop h (.refl h)
  · exact ⟨a, g, hrun, hg, ha⟩
  · exact hs.elim

theorem Judged.completes (hop : ∀ h : Hw, h.sound → Judged h noStatus op P) : Completes op P := by
  intro h hs
  obtain ⟨a, g, hrun, hg, ha⟩ := (hop h hs).run
  exact ⟨a, g, hrun, hg.counted.sound hs, hg.accessed, ha⟩

end

section
variable {h : Hw} (hs : h.sound) {bad : Status → Prop}
include hs

theorem Judged.loadB (a n : Nat) : Judged h bad (Machine.loadB a n) (fun bs => bs = Mem.read h.mem a n) :=
  (Reads.loadB hs a n).judged rfl

theorem Judged.readRow (f : Fmt) (n a : Nat) : Judged h bad (Machine.readRow f n a) :=
  (Judged.loadB hs _ _).bind fun _ _ => .pure trivial

/-! A product's tiles. -/

variable (p : Prod)

/-- R103, R158: the weights of a row of an image, or the form is broken. -/
theorem Judged.slotRow (n k0 kn : Nat) : Judged h (· = .sparseFormat) (p.slotRow n k0 kn) := by
  unfold Prod.slotRow
  refine (Judged.mapM (fun g => ?_) _).bind fun _ _ => .pure trivial
  refine Judged.bind (P := fun _ => True) ((Judged.loadB hs _ _).bind fun _ _ => .pure trivial) fun off _ => ?_
  refine (Judged.needForm _).bind fun _ _ => (Judged.loadB hs _ _).bind fun hd _ => ?_
  split
  · exact .failSt rfl
  · refine (Judged.needForm _).bind fun _ _ => (Judged.loadB hs _ _).bind fun bs _ => ?_
    split
    · exact .failSt rfl
    · exact .pure trivial

/-- R92, R99: the loader fills a tile; only one of a sparse image can be damaged. -/
theorem Judged.load (i n0 nn k0 kn : Nat) : Judged h noStatus (p.load i n0 nn k0 kn)
    (fun t => t.issue = p.issue ∧ t.tile = i ∧ (p.d.sparse = false → t.fault = none)) := by
  unfold Prod.load
  cases hsparse : p.d.sparse with
  | true =>
    have hw : Judged h (· = .sparseFormat) (p.weights n0 nn k0 kn) := by
      unfold Prod.weights
      simp only [hsparse, if_true]
      exact .mapM (fun i => .slotRow hs p _ _ _) _
    refine hw.tryOp.bind fun r _ => ?_
    cases r <;> exact .pure ⟨rfl, rfl, fun hf => absurd hf (by decide)⟩
  | false =>
    have hw : Judged h noStatus (p.weights n0 nn k0 kn) := by
      unfold Prod.weights
      simp only [hsparse, Bool.false_eq_true, if_false]
      exact .mapM (fun i => (Judged.readRow hs _ _ _).bind fun _ _ => .pure trivial) _
    refine hw.tryOp.bind ?_
    rintro r (⟨ws, rfl, -⟩ | ⟨s, hbad, -⟩)
    · exact .pure ⟨rfl, rfl, fun _ => rfl⟩
    · exact hbad.elim

/-- R108: whether the flag that guards a k is set. -/
theorem Judged.flagSet (k : Nat) : Judged h noStatus (p.flagSet k) (fun b => b =
    (p.flags.find? (fun x => x.2.2.1 ≤ k && k < x.2.2.1 + x.2.2.2)).all (fun q => (h.flagAt (p.w + q.1) q.2.1).isSome)) := by
  unfold Prod.flagSet
  split
  next q hq =>
    have hread : Reads (loadFlag (p.w + q.1) q.2.1) h (h.flagAt (p.w + q.1) q.2.1) :=
      (Reads.loadN hs _ 8).bind (.pure h _)
    rw [hq]
    exact (hread.judged (P := fun b => b = h.flagAt (p.w + q.1) q.2.1) rfl).bind fun b hb =>
      .pure (by rw [hb, Option.all_some])
  next hq =>
    rw [hq]
    exact .pure rfl

/-- R93: the first tile of the product that waits behind. -/
theorem Judged.tileBehind (g : Hw) (d k : Nat) : Judged h noStatus (g.tileBehind d k) := by
  unfold Hw.tileBehind
  split
  · split
    · exact .pure trivial
    next p _ =>
      refine .ite (fun _ => .pure trivial) fun _ => (Judged.flagSet hs p 0).tryOp.bind fun go _ => ?_
      split
      · exact (Judged.load hs p _ _ _ _ _).bind fun _ _ => .pure trivial
      · exact .pure trivial
  · exact .pure trivial

/-- R93: what the loader begins during a pass. -/
theorem Judged.ahead {after : Op (Option Tile)} (hafter : Judged h noStatus after) (l : List Pass) (s : Feed) :
    Judged h noStatus (p.ahead l after s) (fun f => f.active = s.active ∧ f.swapped = s.swapped ∧
      ∀ y l', l = y :: l' → y.kn ≠ 0 → p.streams y = false → ∃ u, f.shadow = some u ∧ u.issue = p.issue ∧ u.tile = y.i ∧
        (p.d.sparse = false → u.fault = none)) := by
  unfold Prod.ahead
  cases l with
  | nil =>
    refine hafter.bind fun t _ => ?_
    cases t <;> exact .pure ⟨rfl, rfl, fun y l' hl => absurd hl (by simp)⟩
  | cons y l =>
    refine .ite (fun h0 => .pure ⟨rfl, rfl, fun z l' hl hkn => ?_⟩) fun hkn => ?_
    · cases hl
      exact absurd h0 hkn
    · refine Judged.ite_bind (P := fun go => p.streams y = false → go = .ok true) (.ite (fun hst => ?_) fun _ => .pure fun _ => rfl)
        fun go hgo => ?_
      · exact (Judged.flagSet hs p _).tryOp.mono fun _ _ hno => by rw [hno] at hst; cases hst
      · dsimp only
        split
        · refine (Judged.load hs p _ _ _ _ _).bind fun u hu => .pure ⟨rfl, rfl, fun z l' hl _ _ => ?_⟩
          cases hl
          exact ⟨u, rfl, hu⟩
        next hno =>
          refine .pure ⟨rfl, rfl, fun z l' hl _ hst => ?_⟩
          cases hl
          exact absurd (hgo hst) hno

end

end Sys2Proof.Machine
end

section
/-! SUPPORT. The array queue (R93, R97 to R99, R105, R108, R172): the swap before a pass, the run of a dense product on sound
stores, and the scan of an image. -/

namespace Sys2Proof.Machine

/-! The swap before a pass (R93). -/

section
variable {h : Hw} (hs : h.sound) {p : Prod} {x : Pass} {s : Feed} (hsw : s.swapped = false) (hkn : x.kn ≠ 0)
include hs hsw hkn

/-- R108: with the pass's flag unset it waits. -/
theorem Judged.swapIn_waits {q : Nat × Nat × Nat × Nat} (hst : p.streams x = true)
    (hq : p.flags.find? (fun y => y.2.2.1 ≤ x.k0 && x.k0 < y.2.2.1 + y.2.2.2) = some q)
    (hunset : ¬ (h.flagAt (p.w + q.1) q.2.1).isSome = true) : Judged h noStatus (p.swapIn x s) (fun r => r = none) := by
  unfold Prod.swapIn
  rw [if_neg (by simp [hsw, hkn]), if_pos hst]
  refine (Judged.flagSet hs p _).bind fun go hgo => ?_
  rw [hq, Option.all_some, Bool.eq_false_iff.2 hunset] at hgo
  rw [hgo]
  exact .pure rfl

/-- R93: with the pass's flag set and no damaged tile the whole tile of the pass becomes active. -/
theorem Judged.swapIn_goes (hset : p.streams x = true → ∀ q ∈ p.flags, (h.flagAt (p.w + q.1) q.2.1).isSome = true)
    (hgood : ∀ t, s.shadow = some t → t.fault = none)
    (hdense : p.d.sparse = false ∨ ∃ t, s.shadow = some t ∧ t.issue = p.issue ∧ t.tile = x.i) :
    Judged h noStatus (p.swapIn x s) (fun r => ∃ t, r = some { s with active := some t, shadow := s.active, swapped := true } ∧
      t.issue = p.issue ∧ t.tile = x.i ∧ t.fault = none) := by
  have hload : p.d.sparse = false → Judged h noStatus (p.load x.i x.n0 x.nn x.k0 x.kn)
      (fun t => t.issue = p.issue ∧ t.tile = x.i ∧ t.fault = none) := fun hd =>
    (Judged.load hs p _ _ _ _ _).mono fun t ht => ⟨ht.1, ht.2.1, ht.2.2 hd⟩
  have hswap : ∀ op : Op Tile, Judged h noStatus op (fun t => t.issue = p.issue ∧ t.tile = x.i ∧ t.fault = none) →
      Judged h noStatus (op >>= fun t => match t.fault with
        | some f => throw (faultFail f)
        | none => Pure.pure (some { s with active := some t, shadow := s.active, swapped := true }))
        (fun r => ∃ t, r = some { s with active := some t, shadow := s.active, swapped := true } ∧
          t.issue = p.issue ∧ t.tile = x.i ∧ t.fault = none) := by
    refine fun op hop => hop.bind fun t ht => ?_
    rw [ht.2.2]
    exact .pure ⟨t, rfl, ht⟩
  unfold Prod.swapIn
  rw [if_neg (by simp [hsw, hkn])]
  refine Judged.ite_bind (P := fun go => go = true) (.ite (fun hst => ?_) fun _ => .pure rfl) ?_
  · refine (Judged.flagSet hs p _).mono fun go hgo => ?_
    rw [hgo]
    cases hq : p.flags.find? (fun y => y.2.2.1 ≤ x.k0 && x.k0 < y.2.2.1 + y.2.2.2) with
    | none => exact Option.all_none
    | some q => exact Option.all_some.trans <| hset hst q (List.mem_of_find?_eq_some hq)
  rintro go rfl
  refine Judged.ite (fun hgo => absurd hgo (by decide)) fun _ => ?_
  cases hsh : s.shadow with
  | none =>
    refine hswap _ (hload (hdense.resolve_right ?_))
    rintro ⟨t, ht, -⟩
    rw [hsh] at ht
    cases ht
  | some t =>
    refine .ite (fun hfit => hswap _ (.pure ?_)) fun hno => hswap _ (hload (hdense.resolve_right ?_))
    · rw [Bool.and_eq_true, decide_eq_true_eq, decide_eq_true_eq] at hfit
      exact ⟨hfit.1, hfit.2, hgood t hsh⟩
    · rintro ⟨u, hu, hi, htile⟩
      rw [hsh] at hu
      cases hu
      exact hno (by simp [hi, htile])

end

/-! The run of a dense product (R97, R98). -/

theorem MmaD.passes_kn {d : MmaD} {cols : Nat} {exact : Bool} {live : List Nat} (hk : d.k ≠ 0) :
    ∀ x ∈ d.passes cols exact live, x.kn ≠ 0 := by
  intro x hx
  obtain ⟨y, hy, rfl⟩ := List.mem_map.1 hx
  obtain ⟨b, -, hb⟩ := List.mem_flatMap.1 (List.fst_mem_of_mem_zipIdx hy)
  obtain ⟨j, -, hj⟩ := List.mem_flatMap.1 hb
  obtain ⟨c, hc, he⟩ := List.mem_map.1 hj
  have hc := List.mem_range.mp hc
  rw [← he]
  have htile : d.tileK = 512 ∨ d.tileK = 256 := by
    unfold MmaD.tileK
    split <;> simp
  have hbefore : d.tileK * c < d.k := by
    have hc : c < max 1 ((d.k + d.tileK - 1) / d.tileK) := hc
    rcases htile with ht | ht <;> rw [ht] at hc ⊢ <;> omega
  show min d.tileK (d.k - d.tileK * c) ≠ 0
  omega

theorem Completes.writeSeg (d : MmaD) (f : Fmt) (w row n0 cursor : Nat) (vs : List FVal) (st : OutStat) :
    Completes (Machine.writeSeg d f w row n0 cursor vs st) := by
  unfold Machine.writeSeg
  generalize convRow f _ vs = cv
  obtain ⟨bs, c⟩ := cv
  refine .ite (fun _ => (Completes.storeB _ _).bind fun _ _ => .pure trivial) fun _ => ?_
  exact Completes.foldlM (fun a q => (Completes.storeB _ _).bind fun _ _ => .pure trivial) _ _

theorem Completes.finish (p : Prod) (x : Pass) (r : Nat) (acc : List FVal) : Completes (p.finish x r acc) := by
  unfold Prod.finish
  exact .ite (fun _ => (Completes.readRow _ _ _).bind fun _ _ => .pure trivial) fun _ => .pure trivial

section
variable {p : Prod} {out : RowOut} (hout : ∀ r n vs c st, Completes (out r n vs c st))
include hout

theorem Completes.writeRows (x : Pass) (l : List Nat) : ∀ s : Feed, Completes (p.writeRows x out l s)
    (fun r => r.2 = none ∧ r.1.shadow = s.shadow ∧ r.1.swapped = s.swapped) := by
  induction l with
  | nil => exact fun s => .pure ⟨rfl, rfl, rfl⟩
  | cons r l ih =>
    intro s
    unfold Prod.writeRows
    refine (Completes.bind (Completes.finish p x r _) fun _ _ => hout _ _ _ _ _).tryOp.bind ?_
    rintro _ ⟨⟨st, c⟩, rfl, -⟩
    exact ih _

variable {after : Op (Option Tile)} (hafter : ∀ h : Hw, h.sound → Judged h noStatus after) (hdense : p.d.sparse = false)
  (hstream : p.d.stream = false)
include hafter hdense hstream

/-- A pass of a dense product feeds its rows, and the next pass's tile is loaded whole (R93, R97). -/
theorem Completes.feed {x : Pass} {l : List Pass} (hl : ∀ y ∈ l, y.kn ≠ 0) (s : Feed) : Completes (p.feed x l after s)
    (fun f => f.swapped = false ∧ (l ≠ [] → ∀ t, f.shadow = some t → t.fault = none)) := by
  have hrows : ∀ ws acc rows, Completes (p.feedRows x ws acc rows) := by
    intro ws acc rows
    refine (Completes.mapM_all (Q := fun _ => True) _ fun r _ => ?_).mono fun _ _ => trivial
    refine Completes.ite_bind (P := fun _ => True) (.ite (fun _ => .pure trivial) fun _ => ?_) fun _ _ => .pure trivial
    exact Completes.readRow _ _ _
  unfold Prod.feed
  refine (hrows _ _ _).bind fun a _ => (hrows _ _ _).bind fun b _ => ?_
  refine (Judged.completes fun h hs => Judged.ahead hs p (hafter h hs) l _).bind fun f hf => ?_
  obtain ⟨-, hsw, hnext⟩ := hf
  have hgood : l ≠ [] → ∀ t, f.shadow = some t → t.fault = none := by
    intro hne t ht
    cases l with
    | nil => exact absurd rfl hne
    | cons y l =>
      obtain ⟨u, hu, -, -, hfault⟩ := hnext y l rfl (hl y List.mem_cons_self) (by simp [Prod.streams, hstream])
      rw [hu] at ht
      cases ht
      exact hfault hdense
  have hnone : (f.shadow.bind (fun t => if t.issue = p.issue && !l.isEmpty then t.fault else none)) = none := by
    cases l with
    | nil => cases f.shadow <;> simp
    | cons y l =>
      cases hf : f.shadow with
      | none => rfl
      | some t => simp [hgood (by simp) t hf]
  rw [hnone]
  exact .pure ⟨hsw, hgood⟩

/-- R97 to R99: a dense product that waits for no flag runs through its passes. -/
theorem Completes.prodRun (l : List Pass) : (∀ x ∈ l, x.kn ≠ 0) → ∀ s : Feed, s.swapped = false →
    (l ≠ [] → ∀ t, s.shadow = some t → t.fault = none) →
    Completes (p.run out after l s) (fun r => r.1 = 0 ∧ r.2.2 = .finished) := by
  induction l with
  | nil => exact fun _ s _ _ => .pure ⟨rfl, rfl⟩
  | cons x l ih =>
    intro hl s hsw hgood
    have hswap : Completes (p.swapIn x s) (fun r => ∃ t, r = some { s with active := some t, shadow := s.active, swapped := true } ∧
        t.issue = p.issue ∧ t.tile = x.i ∧ t.fault = none) :=
      Judged.completes fun h hs => Judged.swapIn_goes hs hsw (hl x List.mem_cons_self) (by simp [Prod.streams, hstream])
        (hgood (by simp)) (.inl hdense)
    unfold Prod.run
    refine hswap.tryOp.bind ?_
    rintro _ ⟨_, rfl, t, rfl, -⟩
    refine (Completes.feed hout hafter hdense hstream (fun y hy => hl y (List.mem_cons_of_mem _ hy)) _).tryOp.bind ?_
    rintro _ ⟨f, rfl, hfsw, hfgood⟩
    refine Completes.bind (P := fun (r : Feed × Option Fail) => r.2 = none ∧ r.1.shadow = f.shadow ∧ r.1.swapped = f.swapped)
      (.ite (fun _ => Completes.writeRows hout x _ f) fun _ => .pure ⟨rfl, rfl, rfl⟩) ?_
    rintro ⟨f', q⟩ ⟨hq, hshadow, hsw'⟩
    obtain rfl : q = none := hq
    refine ih (fun y hy => hl y (List.mem_cons_of_mem _ hy)) f' (hsw'.trans hfsw) fun hne t ht => ?_
    exact hfgood hne t (hshadow.symm.trans ht)

end

end Sys2Proof.Machine
end

section
/-! SUPPORT. The commands of the array queue (R97, R105, R172): what each does with the product it finds. -/

namespace Sys2Proof.Machine

/-! What a product is made of. -/

theorem CoreOp.prod_eq {o : CoreOp} {d : Nat} {exact : Bool} {r : MmaRun} {p : Prod} (hp : o.prod d exact r = some p) :
    p.d = MmaD.of o.desc o.rows ∧ p.exact = exact ∧ p.flags = o.flags ∧ p.w = spWin d ∧ p.issue = o.issue := by
  unfold CoreOp.prod at hp
  dsimp only at hp
  split at hp
  · cases hp
    exact ⟨rfl, rfl, rfl, rfl, rfl⟩
  · cases hp

theorem MmaD.ne_zero_of_empty {d : MmaD} (he : d.empty = false) : d.m ≠ 0 ∧ d.k ≠ 0 := by
  simp only [MmaD.empty, Bool.or_eq_false_iff, decide_eq_false_iff_not] at he
  exact ⟨he.1.1, he.2⟩

theorem Hw.accessed.core {h g : Hw} (hg : h.accessed g) (d k : Nat) : g.core d k = h.core d k := by
  obtain ⟨_, _, _, _, _, _, _, _, _, rfl, -, -⟩ := hg
  rfl

/-- CORE_CTRL reads as before (R102). -/
theorem Hw.accessed.cycleExact {h g : Hw} (hg : h.accessed g) (e : Env) (d k : Nat) :
    g.cycleExact e d k = h.cycleExact e d k := by
  have hkey : ¬ CountKey (rkey d k 0 + Reg.coreCtrlCycleExact.row.off + Reg.coreCtrlCycleExact.row.stride * 0) := by
    have h0 : Reg.coreCtrlCycleExact.row.off = 0 := rfl
    have hce : Reg.ceCount.off = 16 := rfl
    unfold CountKey rkey
    rw [h0, hce]
    rintro (⟨x, hx, hk⟩ | ⟨m, v, -, -, -, -, hk⟩ | ⟨x, v, -, hk⟩) <;> omega
  rw [Hw.cycleExact, Hw.cycleExact, hg.sameMap.1.rf _ _ _ hkey]

/-! MMA_PRODUCT. -/

section
variable {h : Hw} {e : Env} {d k : Nat} {o : CoreOp} {rest : List CoreOp} (hq : (h.core d k).arrayQ = o :: rest)
  (hon : h.dieOn e d = true)

theorem Hw.handOver_done (hd : (MmaD.of o.desc o.rows).toDispatch = false ∨ o.handed.isSome = true) :
    h.handOver e d k o = .ok (o, h) := by
  unfold Hw.handOver
  refine if_pos ?_
  rcases hd with hd | hd <;> simp [hd]

theorem Hw.handOver_waits (hd : (MmaD.of o.desc o.rows).toDispatch = true) (hh : o.handed = none) (hr : h.feedRoute d k = none) :
    h.handOver e d k o = .error (h.setCore d k ((h.core d k).waitHead h.now)) := by
  unfold Hw.handOver
  refine (if_neg (by simp [hd, hh])).trans ?_
  rw [hr]

include hq hon

theorem mmaProduct_waits {g : Hw} (hover : h.handOver e d k o = .error g) : mmaProduct d k e h = g := by
  unfold mmaProduct
  rw [hq]
  refine (if_neg (by simp [hon])).trans ?_
  rw [hover]

theorem mmaProduct_gate {g : Hw} (hover : h.handOver e d k o = .ok (o, h)) (hm : (MmaD.of o.desc o.rows).m ≠ 0)
    (hgate : h.scanGate e d k o = some g) : mmaProduct d k e h = g := by
  unfold mmaProduct
  rw [hq]
  refine (if_neg (by simp [hon])).trans ?_
  rw [hover]
  refine (if_neg hm).trans ?_
  rw [hgate]

theorem mmaProduct_runs (hover : h.handOver e d k o = .ok (o, h)) (hm : (MmaD.of o.desc o.rows).m ≠ 0)
    (hgate : h.scanGate e d k o = none) : mmaProduct d k e h = h.runProduct e d k o := by
  unfold mmaProduct
  rw [hq]
  refine (if_neg (by simp [hon])).trans ?_
  rw [hover]
  refine (if_neg hm).trans ?_
  rw [hgate]

end

theorem Hw.beginProduct_begun {h : Hw} {e : Env} {d k : Nat} {o : CoreOp} {r : MmaRun} (hr : o.run = some r) :
    h.beginProduct e d k o = .ok (o, r, h) := by
  unfold Hw.beginProduct
  rw [hr]

theorem Hw.beginProduct_new {h g : Hw} {e : Env} {d k : Nat} {o : CoreOp} {r : MmaRun} (hr : o.run = none) (hh : o.handed = none)
    (hprep : runOp (mmaPrepare (MmaD.of o.desc o.rows) (spWin d)) h = (.ok r, g)) :
    h.beginProduct e d k o =
      .ok ({ o with run := some r }, r, g.setCore d k ((g.core d k).putOp { o with run := some r })) := by
  unfold Hw.beginProduct
  rw [hr]
  dsimp only
  rw [hprep]
  dsimp only
  rw [hh]

/-- What a run of a product leaves: it is parked, has finished, or has failed (R97, R108, R119). -/
def Hw.afterRun (h : Hw) (e : Env) (d k : Nat) (o : CoreOp) (r : MmaRun) (p : Prod) (left : Nat) (f : Feed) : RunEnd → Hw
  | .waits => h.parkProduct d k o r (p.passes.length - left) f
  | .finished => (h.setCore d k ((h.core d k).setFeed f)).popArray e d k o f.st none (p.d.feed p.aF p.bF p.exact p.live)
  | .failed x => (h.setCore d k ((h.core d k).setFeed f)).failArray e d k o f.st x

theorem Hw.runProduct_of_run {h g g' : Hw} {e : Env} {d k left : Nat} {o o' : CoreOp} {r : MmaRun} {p : Prod} {f : Feed}
    {how : RunEnd} (hbegin : h.beginProduct e d k o = .ok (o', r, g)) (hp : o'.prod d (g.cycleExact e d k) r = some p)
    (hrow : o'.handed = none ∨ ∃ x, SMap.find? g.fed d = some x ∧ x.core = k ∧ x.ended = false)
    (hrun : runOp (p.run (p.out o'.handed) (g.tileBehind d k) (p.passes.drop r.passes) ((g.core d k).feed r)) g =
      (.ok (left, f, how), g')) :
    h.runProduct e d k o = g'.afterRun e d k o' r p left f how := by
  have hgone : (o'.handed.isSome && !((SMap.find? g.fed d).any (fun f => f.core = k && !f.ended))) = false := by
    rcases hrow with hh | ⟨x, hx, hk, hended⟩
    · rw [hh]
      rfl
    · rw [hx, Option.any_some, hended, decide_eq_true hk]
      exact Bool.and_false _
  unfold Hw.runProduct
  rw [hbegin]
  dsimp only
  rw [hp]
  dsimp only
  rw [hgone, if_neg Bool.false_ne_true, hrun]
  cases how <;> rfl

theorem Completes.mmaPrepare (d : MmaD) (w : Nat) :
    Completes (Machine.mmaPrepare d w) (fun r => r.passes = 0 ∧ r.swapped = false) := by
  unfold Machine.mmaPrepare
  refine (Completes.readMask _ _ _).bind fun mask _ => ?_
  refine Completes.ite_bind (P := fun _ => True) (.ite (fun _ => .pure trivial) fun _ => ?_) fun bias _ => .pure ⟨rfl, rfl⟩
  unfold readBias
  exact .ite (fun _ => Completes.readRow _ _ _) fun _ => .pure trivial

/-! SPARSE_SCAN. -/

/-- R105, R159: a scan of sound stores finds the image good or its form broken. -/
theorem Judged.scanReads {h : Hw} (hs : h.sound) (d : MmaD) (f : Fmt) (w : Nat) :
    Judged h (· = .sparseFormat) (Machine.scanReads d f w) (fun _ =>
      (readImage f d.n d.k (Mem.read h.mem (w + d.bAddr) (Mem.num h.mem (w + d.bAddr + 12) 4))).isSome = true) := by
  unfold Machine.scanReads
  refine (Judged.loadB hs _ _).bind fun hdr hhdr => ?_
  have hsize : pay hdr 12 4 = Mem.num h.mem (w + d.bAddr + 12) 4 := by
    rw [hhdr, Mem.pay_read _ _ _ _ _ (by omega)]
  refine (Judged.needForm _).bind fun _ _ => (Judged.loadB hs _ _).bind fun idx _ => ?_
  refine (Judged.mapM (fun i => ?_) _).bind fun _ _ => ?_
  · refine (Judged.needForm _).bind fun _ _ => (Judged.loadB hs _ _).bind fun hd _ => ?_
    split
    · exact .failSt rfl
    · exact (Judged.needForm _).bind fun _ _ => (Judged.loadB hs _ _).bind fun _ _ => .pure trivial
  · refine .get_bind fun g hg => ?_
    rw [hsize, hg.counted.mem]
    exact .needForm _

section
variable {h g : Hw} {e : Env} {d k : Nat} {o : CoreOp} {bF : Fmt} (hon : h.dieOn e d = true)
  (hq : (h.core d k).arrayQ.find? (fun q => (MmaD.of q.desc q.rows).sparse && !q.scanned) = some o)
  (hb : Fmt.ofCode (MmaD.of o.desc o.rows).bF = some bF)
include hon hq hb

theorem sparseScan_good (hscan : runOp (if (MmaD.of o.desc o.rows).empty then pure ()
      else scanReads (MmaD.of o.desc o.rows) bF (spWin d)) h = (.ok (), g)) :
    sparseScan d k e h = g.setCore d k ((g.core d k).putOp { o with scanned := true }) := by
  unfold sparseScan
  rw [hq]
  refine (if_neg (by simp [hon])).trans ?_
  dsimp only
  rw [hb]
  dsimp only
  rw [hscan]

theorem sparseScan_bad {f : Fail} (hf : f ≠ .held) (hscan : runOp (if (MmaD.of o.desc o.rows).empty then pure ()
      else scanReads (MmaD.of o.desc o.rows) bF (spWin d)) h = (.error f, g)) :
    sparseScan d k e h = g.setCore d k ((g.core d k).putOp { o with scanned := true, scanFault := some f.fault }) := by
  unfold sparseScan
  rw [hq]
  refine (if_neg (by simp [hon])).trans ?_
  dsimp only
  rw [hb]
  dsimp only
  rw [hscan]
  cases f with
  | held => exact absurd rfl hf
  | _ => rfl

end

/-! ARRAY_SWAP. -/

/-- The swap before a pass, and what the loader then begins (R93). -/
def Prod.swapAhead (p : Prod) (x : Pass) (l : List Pass) (after : Op (Option Tile)) (s : Feed) : Op (Option Feed) := do
  match ← p.swapIn x s with
  | none => return none
  | some s => return some (← p.ahead l after s)

/-- What the swap leaves: the product waits for its flag, or the pass's tile is active (R93, R108). -/
def Hw.afterSwap (h : Hw) (d k : Nat) (o : CoreOp) (r : MmaRun) : Option Feed → Hw
  | none => h.parkProduct d k o r r.passes ((h.core d k).feed r)
  | some s => h.setCore d k (((h.core d k).setFeed s).putOp { o with run := some { r with swapped := true }, since := 0 })

theorem arraySwap_of_swap {h g : Hw} {e : Env} {d k : Nat} {o : CoreOp} {rest : List CoreOp} {r : MmaRun} {p : Prod} {x : Pass}
    {l : List Pass} {f : Option Feed} (hq : (h.core d k).arrayQ = o :: rest) (hon : h.dieOn e d = true)
    (hempty : (MmaD.of o.desc o.rows).empty = false)
    (hd : (MmaD.of o.desc o.rows).toDispatch = false ∨ o.handed.isSome = true) (hgate : h.scanGate e d k o = none)
    (hr : o.run = some r) (hsw : r.swapped = false) (hp : o.prod d (h.cycleExact e d k) r = some p)
    (hpass : p.passes.drop r.passes = x :: l)
    (hrun : runOp (p.swapAhead x l (h.tileBehind d k) ((h.core d k).feed r)) h = (.ok f, g)) :
    arraySwap d k e h = g.afterSwap d k o r f := by
  unfold arraySwap
  rw [hq]
  dsimp only
  refine (if_neg ?_).trans ?_
  · rcases hd with hd | hd
    · simp [hon, hempty, hd]
    · obtain ⟨y, hy⟩ := Option.isSome_iff_exists.1 hd
      simp [hon, hempty, hy]
  rw [hgate]
  dsimp only
  rw [Hw.beginProduct_begun hr]
  dsimp only
  rw [hp]
  dsimp only
  rw [hpass]
  refine (if_neg (by simp [hsw])).trans ?_
  generalize hm : runOp (α := Option Feed) _ h = m
  obtain rfl : m = (.ok f, g) := hm.symm.trans hrun
  cases f <;> rfl

/-- Settles O17: the product at the head by what its run answers, the run of a dense product on sound stores, the scan of an
image, and the swap before a pass. -/
theorem productsScanSwapAndRun : Obligations.ProductsScanSwapAndRun := by
  refine ⟨fun s d k o rest hs hq hon => ?_, fun s d k o bF hs hon hq => ?_,
    fun s d k o rest r p x l hs hsound hq hon => ?_⟩
  · intro c m w exact after
    refine ⟨fun hd hh hr => ?_, fun x hd hsp hem hsc hf => ?_, fun r p left f how h hd hm hgate hr hrow hp hrun => ?_,
      fun aF bF cF hsound hd hh hr hem hsp hst hgood ha hb hc => ?_⟩
    · exact onHw_to (f := mmaProduct d k) (mmaProduct_waits hq hon (Hw.handOver_waits hd hh hr))
    · refine onHw_to (f := mmaProduct d k) (mmaProduct_gate hq hon (Hw.handOver_done (.inl hd)) (MmaD.ne_zero_of_empty hem).1 ?_)
      unfold Hw.scanGate
      refine (if_neg (by simp [show (MmaD.of o.desc o.rows).sparse = true from hsp,
        show (MmaD.of o.desc o.rows).empty = false from hem])).trans ((if_neg (by simp [hsc])).trans ?_)
      rw [hf]
    · obtain ⟨hpd, hpe, -⟩ := CoreOp.prod_eq hp
      have hruns := mmaProduct_runs (e := s.env) hq hon (Hw.handOver_done hd) hm hgate
      have hends := hruns.trans (Hw.runProduct_of_run (e := s.env) (Hw.beginProduct_begun hr) hp hrow hrun)
      refine ⟨?_, ?_, ?_⟩
      · rintro rfl
        exact onHw_to (f := mmaProduct d k) hends
      · rintro rfl
        rw [Hw.afterRun, hpd, hpe] at hends
        exact onHw_to (f := mmaProduct d k) hends
      · rintro y rfl
        exact onHw_to (f := mmaProduct d k) hends
    · obtain ⟨r, g, hprep, hg, hacc, hp0, hsw⟩ := Completes.mmaPrepare m w s.hw hsound
      have hcore : g.core d k = c := hacc.core d k
      let o' := { o with run := some r }
      let p : Prod := ⟨m, aF, bF, cF, w, o.issue, exact, o.flags, r.mask, r.bias⟩
      let g' := g.setCore d k (c.putOp o')
      have hm := MmaD.ne_zero_of_empty hem
      have hcompletes : Completes (p.run (p.out none) (g'.tileBehind d k) p.passes (c.feed r))
          (fun r => r.1 = 0 ∧ r.2.2 = .finished) :=
        Completes.prodRun (fun _ _ _ _ _ => Completes.writeSeg _ _ _ _ _ _ _ _) (fun h hs => Judged.tileBehind hs g' d k) hsp hst
          p.passes (MmaD.passes_kn hm.2) (c.feed r) hsw fun _ => hgood
      obtain ⟨⟨left, f, how⟩, h, hrun, -, -, hleft, hhow⟩ := hcompletes g' hg
      obtain rfl : left = 0 := hleft
      obtain rfl : how = .finished := hhow
      refine ⟨r, f, g, h, hprep, hrun, onHw_to (f := mmaProduct d k) ?_⟩
      have hbegin : s.hw.beginProduct s.env d k o = .ok (o', r, g') := by
        rw [Hw.beginProduct_new hr hh hprep, hcore]
      have hp : o'.prod d (g'.cycleExact s.env d k) r = some p := by
        rw [show g'.cycleExact s.env d k = exact from hacc.cycleExact s.env d k]
        unfold CoreOp.prod
        dsimp only
        rw [show stepped (MmaD.of o'.desc o'.rows).aStep o'.step (MmaD.of o'.desc o'.rows).aF = some aF from ha,
          show Fmt.ofCode (MmaD.of o'.desc o'.rows).bF = some bF from hb,
          show stepped (MmaD.of o'.desc o'.rows).cStep o'.step (MmaD.of o'.desc o'.rows).cF = some cF from hc]
      have hgate : s.hw.scanGate s.env d k o = none :=
        if_pos (by simp [show (MmaD.of o.desc o.rows).sparse = false from hsp])
      have hrun' : runOp (p.run (p.out o'.handed) (g'.tileBehind d k) (p.passes.drop r.passes) ((g'.core d k).feed r)) g' =
          (.ok (0, f, .finished), h) := by
        rw [hp0, show o'.handed = none from hh, show g'.core d k = c.putOp o' from Hw.core_setCore _ _ _ _]
        exact hrun
      exact (mmaProduct_runs (e := s.env) hq hon (Hw.handOver_done (.inl hd)) hm.1 hgate).trans
        (Hw.runProduct_of_run (e := s.env) hbegin hp (.inl hh) hrun')
  · intro m w scan found hb hf
    have hgood : ∀ h, runOp scan s.hw = (.ok (), h) → found h none := by
      intro h hscan
      have ho : ({ o with scanned := true, scanFault := none } : CoreOp) = { o with scanned := true } := by rw [← hf]
      refine onHw_to (f := sparseScan d k) ?_
      rw [ho]
      exact sparseScan_good hon hq hb hscan
    have hbad : ∀ f h, f ≠ .held → runOp scan s.hw = (.error f, h) → found h (some f.fault) := fun f h hheld hscan =>
      onHw_to (f := sparseScan d k) (sparseScan_bad hon hq hb hheld hscan)
    refine ⟨hgood, hbad, fun hsound => ?_⟩
    have hjudged : Judged s.hw (· = .sparseFormat) scan (fun _ => m.empty = true ∨ (readImage bF m.n m.k (Mem.read s.hw.mem
        (w + m.bAddr) (Mem.num s.hw.mem (w + m.bAddr + 12) 4))).isSome = true) :=
      .ite (fun he => .pure (.inl he)) fun _ => (Judged.scanReads hsound m bF w).mono fun _ => .inr
    obtain ⟨g, hg, ⟨_, hrun, himage⟩ | ⟨st, rfl, hrun⟩⟩ := hjudged s.hw (.refl _)
    · exact ⟨none, g, .inl rfl, hg.counted.mem, hg.counted.cores, fun _ => himage, hgood g hrun⟩
    · exact ⟨some (.sparseFormat, 0), g, .inr rfl, hg.counted.mem, hg.counted.cores, (fun h => by cases h),
        hbad (.st .sparseFormat) g (by simp) hrun⟩
  · intro c m set hem hd hgate hr hsw hp hpass
    obtain ⟨hpd, -, hflags, hw, hissue⟩ := CoreOp.prod_eq hp
    have hkn : ∀ y ∈ x :: l, y.kn ≠ 0 := fun y hy =>
      MmaD.passes_kn (by rw [hpd]; exact (MmaD.ne_zero_of_empty hem).2) y (List.mem_of_mem_drop (hpass ▸ hy))
    have hswap : ∀ {f g}, runOp (p.swapAhead x l (s.hw.tileBehind d k) (c.feed r)) s.hw = (.ok f, g) →
        exec (.arraySwap d k) s = .next (s.hwTo (g.afterSwap d k o r f)) := fun hrun =>
      onHw_to (f := arraySwap d k) (arraySwap_of_swap (e := s.env) hq hon hem hd hgate hr hsw hp hpass hrun)
    refine ⟨fun q hst hflag hunset => ?_, fun hset hgood hsp => ?_⟩
    · have hwaits : Judged s.hw noStatus (p.swapAhead x l (s.hw.tileBehind d k) (c.feed r)) (fun f => f = none) := by
        refine (Judged.swapIn_waits hsound (s := c.feed r) hsw (hkn x List.mem_cons_self) hst (hflags ▸ hflag)
          (by rw [hw]; exact hunset)).bind ?_
        rintro _ rfl
        exact .pure rfl
      obtain ⟨_, g, hrun, hg, rfl⟩ := hwaits.run
      have hexec := hswap hrun
      rw [Hw.afterSwap, hg.counted.core] at hexec
      exact ⟨g, hg.counted.mem, hg.counted.cores, hexec⟩
    · have hgoes : Judged s.hw noStatus (p.swapAhead x l (s.hw.tileBehind d k) (c.feed r)) (fun r => ∃ t f, r = some f ∧
          f.active = some t ∧ t.issue = o.issue ∧ t.tile = x.i ∧ t.fault = none ∧ ∀ y l', l = y :: l' → p.streams y = false →
            ∃ u, f.shadow = some u ∧ u.issue = o.issue ∧ u.tile = y.i) := by
        refine (Judged.swapIn_goes hsound (s := c.feed r) hsw (hkn x List.mem_cons_self) ?_ hgood ?_).bind ?_
        · rw [hflags, hw]
          exact hset
        · rw [hpd, hissue]
          exact hsp
        · rintro _ ⟨t, rfl, hti, htile, htf⟩
          refine (Judged.ahead hsound p (Judged.tileBehind hsound s.hw d k) l _).bind ?_
          rintro f ⟨hactive, -, hnext⟩
          refine .pure ⟨t, f, rfl, hactive, hti.trans hissue, htile, htf, ?_⟩
          rintro y l' rfl hst
          obtain ⟨u, hu, hui, hut, -⟩ := hnext y l' rfl (hkn y (by simp)) hst
          exact ⟨u, hu, hui.trans hissue, hut⟩
      obtain ⟨_, g, hrun, hg, t, f, rfl, hactive, hti, htile, htf, hnext⟩ := hgoes.run
      have hexec := hswap hrun
      rw [Hw.afterSwap, hg.counted.core] at hexec
      exact ⟨t, f, g, hactive, hti, htile, htf, hnext, hexec⟩

end Sys2Proof.Machine
end
